-- ==== Sys2Proof/Word.lean ====
section
/-! DEFINITION. The word types of the XN-1 and their plainest arithmetic (R25, R65). -/

namespace Sys2Proof

/-- The smallest addressable unit of memory and of the lattice (R24). -/
abbrev Byte := BitVec 8
/-- One lane's 32 bits of a vector register (R10); also one instruction word (R90). -/
abbrev Word := BitVec 32
/-- A scalar register, a 64-bit virtual address or a literal (R10, R54). -/
abbrev DWord := BitVec 64
/-- One bit per lane of a group: predicates and execute masks (R10, R26). -/
abbrev LaneMask := BitVec 128
/-- One vector register of a group: 128 lanes of 32 bits (R6, R26). -/
abbrev VReg := Vector Word 128

/-- The mask with every lane set (R40). -/
abbrev LaneMask.full : LaneMask := BitVec.allOnes 128

/-- A sparse table: keys strictly rising, read with a default for a key that is absent. -/
abbrev AMap (α : Type) := List (Nat × α)

end Sys2Proof
end

