-- ==== Sys2Proof/Syntax.lean ====
section
/-! DEFINITION. The steps of the XN-1 as syntax: the instructions with their decoded fields (R94 to R106) and the
device's and the host's own steps (the rows of the table of operations that carry no encoding). -/

namespace Sys2Proof

/-- The seven event counters a WAIT may name (R18, R100). -/
inductive Ev where
  | bar | grant | mon | batch | join | queue | token
  deriving DecidableEq, Repr

/-- The type suffixes, in the order of their TY codes 0 to 15 (R102). -/
inductive Ty where
  | none | i8 | i16 | i32 | i64 | n8 | n16 | n32 | n64 | bf16 | f16 | f32 | f64 | q4 | q8 | fx
  deriving DecidableEq, Repr

/-- The rounding modes, in the order of their codes (R72). -/
inductive Rm where
  | rn | rz | ru | rd
  deriving DecidableEq, Repr

/-- The scope suffixes, in the order of their SC codes 0 to 6 (R17, R102). -/
inductive Sc where
  | none | grp | blk | cls | die | prt | sys
  deriving DecidableEq, Repr

/-- The cache policy suffixes, in the order of their CP codes (R102). -/
inductive Cp where
  | none | ev | l2 | kp
  deriving DecidableEq, Repr

/-- The forms of an instruction that XG, XB and base-with-literal share (R90): extended, extended with literal,
base word with literal. -/
inductive Form where
  | x | xl | bl
  deriving DecidableEq, Repr

/-- An operand of the extended form (R100, R101). An immediate carries the value that R101 gives it. -/
inductive Operand where
  | unused
  | v (n : Fin 512)
  | s (n : Fin 96)
  | p (n : Fin 16)
  | b (n : Fin 4)
  | xm
  | ev (e : Ev)
  | sy (n : Fin 256)
  | imm (x : DWord)
  deriving DecidableEq, Repr

/-- An instruction of layout XG or XB (R99, R103), or of the base word with literal (R95, R98). The branch offset T1
of XB stands in `c`, the second label of BRD in `b`. -/
structure XForm where
  form : Form := .x
  gn : Bool := false
  gp : Fin 16 := 0
  uni : Bool := false
  sup : Bool := false
  ty : Ty := .none
  rm : Rm := .rn
  sc : Sc := .none
  col : Bool := false
  cp : Cp := .none
  fn : BitVec 8 := 0
  d : Operand := .unused
  a : Operand := .unused
  b : Operand := .unused
  c : Operand := .unused
  deriving DecidableEq, Repr

/-- A base word (R94): guard p0 to p3, uniform bit, suppress bit, operand classes and the three register fields. -/
structure BForm where
  g : Fin 4 := 0
  u : Bool := false
  w : Bool := false
  cl : Fin 4 := 0
  d : Fin 64 := 0
  a : Fin 64 := 0
  b : Fin 64 := 0
  deriving DecidableEq, Repr

/-- An instruction of the matrix layout XM (R104): M = 16 (msz + 1), N = 16 (nsz + 1), K = 32 (ksz + 1). -/
structure MForm where
  gn : Bool := false
  gp : Fin 16 := 0
  uni : Bool := true
  ty : Ty := .none
  rm : Rm := .rn
  row : Fin 192 := 0
  msz : Fin 12 := 0
  nsz : Fin 24 := 0
  ksz : Fin 8 := 0
  acol : Bool := false
  bcol : Bool := false
  a : Option (Fin 96) := none
  b : Option (Fin 96) := none
  c : Option (Fin 96) := none
  aoff : BitVec 15 := 0
  boff : BitVec 15 := 0
  coff : BitVec 18 := 0
  toff : BitVec 16 := 0
  deriving DecidableEq, Repr

/-- A command queue or entry queue: the partition's serving function, the context, host or device, and the queue
number (R281, R316). -/
structure QRef where
  part : Nat
  ctx : Nat
  host : Bool
  q : Nat
  deriving DecidableEq, Repr

/-- A 32-byte command entry (R317). -/
structure CmdEntry where
  op : BitVec 8
  sub : BitVec 8
  rsv : BitVec 16
  tag : Word
  addr : DWord
  val : DWord
  cpl : DWord
  deriving DecidableEq, Repr

/-- What a request over the Mirrix fabric asks of its target (R326). -/
inductive FabOp where
  | load (n : Nat)
  | store (bytes : List Byte)
  | atom (fn : BitVec 8) (ty : Ty) (rm : Rm) (x : DWord)
  | atomf (fn : BitVec 8) (ty : Ty) (rm : Rm) (x : DWord)
  | atomx (y : DWord)
  | cas (ty : Ty) (old new : DWord)
  deriving DecidableEq, Repr

/-- A request arriving over the fabric: source module, function, die and life number, sequence number, target
address in the partition's physical space (R326, R382, R386). -/
structure FabReq where
  module : Nat
  fn : Nat
  die : Nat
  life : BitVec 16
  seq : BitVec 32
  addr : BitVec 40
  op : FabOp
  deriving DecidableEq, Repr

/-- Where an error is found (R362, R373, R374): the structure and its place. -/
inductive ErrSite where
  | regFile (g : Nat)
  | lattice (core square : Nat)
  | request (elem : Nat)
  | accum (core : Nat)
  | l1 (core line : Nat)
  | l2 (die line : Nat)
  | dark (die line word : Nat)
  | home (key : Nat)
  | hbm (key : Nat)
  | txnLog (g lane : Nat)
  | txnSlice (g lane : Nat)
  | sched (core : Nat)
  | poisonRead (g : Nat) (va : DWord)
  | logic (core : Nat)
  deriving DecidableEq, Repr

/-- Why a pre-empted block was not saved by its bound (R359, R380 kind 0x0005). -/
inductive LateReason where
  | lock | peer | tokenHolder | handler | deadline | regionFull
  deriving DecidableEq, Repr

/-- Who carries an SPDM request to the device (R331). -/
inductive SpdmPort where
  | safelight | attest
  deriving DecidableEq, Repr

/-- The causes of a clock step (R332, R380 kind 0x0010). -/
inductive ClockCause where
  | heat | power | withhold
  deriving DecidableEq, Repr

/-- Every step of the device, one constructor for each row of the table of operations. The constructors that end in
`Base` are base words (R94 to R98); the other instructions are extended (R105); the constructors whose arguments are
not instruction fields are the device's, the front end's, the host's and the management port's own steps. -/
inductive Instr where
  /-- NOP_BASE (R135): Base-word NOP: does nothing; the all-zero word. -/
  | nopBase (g : Fin 4)
  /-- ADD_BASE (R137): Base-word integer add at the destination's width, signed, wrapping. -/
  | addBase (f : BForm)
  /-- SUB_BASE (R137): Base-word integer subtract at the destination's width. -/
  | subBase (f : BForm)
  /-- MUL_BASE (R137): Base-word integer multiply, low bits kept. -/
  | mulBase (f : BForm)
  /-- MULH_BASE (R137): Base-word signed multiply, high half kept. -/
  | mulhBase (f : BForm)
  /-- MIN_BASE (R137): Base-word signed minimum. -/
  | minBase (f : BForm)
  /-- MAX_BASE (R137): Base-word signed maximum. -/
  | maxBase (f : BForm)
  /-- AND_BASE (R137): Base-word bitwise AND. -/
  | andBase (f : BForm)
  /-- OR_BASE (R137): Base-word bitwise OR. -/
  | orBase (f : BForm)
  /-- XOR_BASE (R137): Base-word bitwise XOR. -/
  | xorBase (f : BForm)
  /-- ANDN_BASE (R137): Base-word A AND NOT B. -/
  | andnBase (f : BForm)
  /-- SHL_BASE (R137): Base-word shift left. -/
  | shlBase (f : BForm)
  /-- SHR_BASE (R137): Base-word logical shift right. -/
  | shrBase (f : BForm)
  /-- SAR_BASE (R137): Base-word arithmetic shift right. -/
  | sarBase (f : BForm)
  /-- ROTL_BASE (R137): Base-word rotate left. -/
  | rotlBase (f : BForm)
  /-- MOV_BASE (R141): Base-word move of B; A field zero. -/
  | movBase (f : BForm)
  /-- FADD_BASE (R146): Base-word FP32 add rounded to nearest-even. -/
  | faddBase (f : BForm)
  /-- FSUB_BASE (R146): Base-word FP32 subtract. -/
  | fsubBase (f : BForm)
  /-- FMUL_BASE (R146): Base-word FP32 multiply. -/
  | fmulBase (f : BForm)
  /-- FMIN_BASE (R147): Base-word FP32 minimum. -/
  | fminBase (f : BForm)
  /-- FMAX_BASE (R147): Base-word FP32 maximum. -/
  | fmaxBase (f : BForm)
  /-- CMP_EQ_BASE (R140): Base-word signed equality compare into a predicate. -/
  | cmpEqBase (f : BForm)
  /-- CMP_NE_BASE (R140): Base-word signed not-equal compare into a predicate. -/
  | cmpNeBase (f : BForm)
  /-- CMP_LT_BASE (R140): Base-word signed less-than compare into a predicate. -/
  | cmpLtBase (f : BForm)
  /-- CMP_LE_BASE (R140): Base-word signed less-or-equal compare into a predicate. -/
  | cmpLeBase (f : BForm)
  /-- CMP_GT_BASE (R140): Base-word signed greater-than compare into a predicate. -/
  | cmpGtBase (f : BForm)
  /-- CMP_GE_BASE (R140): Base-word signed greater-or-equal compare into a predicate. -/
  | cmpGeBase (f : BForm)
  /-- BRA_BASE (R122): Base-word uniform branch by a signed 20-bit offset. -/
  | braBase (g : Fin 4) (off : BitVec 20)
  /-- JOIN_BASE (R125): Base-word JOIN: pops this address's divergence entries of the current frame. -/
  | joinBase
  /-- EXIT_BASE (R129): Base-word EXIT: removes the live guarded lanes from the group. -/
  | exitBase (g : Fin 4)
  /-- PAND_BASE (R153): Base-word predicate AND. -/
  | pandBase (f : BForm)
  /-- POR_BASE (R153): Base-word predicate OR. -/
  | porBase (f : BForm)
  /-- PXOR_BASE (R153): Base-word predicate XOR. -/
  | pxorBase (f : BForm)
  /-- BRA (R122): Extended uniform unconditional branch. -/
  | bra (f : XForm)
  /-- BRC (R122): Uniform conditional branch comparing scalars or testing against zero. -/
  | brc (f : XForm)
  /-- BRD (R124): Divergent branch pushing rejoin and pending entries and splitting the mask. -/
  | brd (f : XForm)
  /-- BRX (R122): Uniform branch to a scalar target. -/
  | brx (f : XForm)
  /-- CALL (R127): Pushes a call-return entry and branches to a label. -/
  | call (f : XForm)
  /-- CALLX (R127): Pushes a call-return entry and branches to a scalar target. -/
  | callx (f : XForm)
  /-- RET (R127): Pops the innermost call-return entry and returns to it. -/
  | ret (f : XForm)
  /-- JOIN (R125): Extended JOIN: reconverges by popping this address's entries. -/
  | join (f : XForm)
  /-- EXIT (R129): Extended EXIT: removes lanes, resumes from the stacks or ends the group. -/
  | exit (f : XForm)
  /-- ELECT (R130): Picks the lowest live lane into a predicate or scalar. -/
  | elect (f : XForm)
  /-- VOTE (R131): Reduces a predicate over live lanes to any, all or ballot scalars. -/
  | vote (f : XForm)
  /-- NOP (R135): Extended NOP. -/
  | nop (f : XForm)
  /-- WAIT (R132): Sleeps the group until an event counter or barrier phase reaches the phase. -/
  | wait (f : XForm)
  /-- YIELD (R135): Ranks the group below others of its sub-core for 64 clocks. -/
  | yield (f : XForm)
  /-- YIELD_END (R135): The 64-clock yield span expires and the group ranks normally again. -/
  | yieldEnd (g : Nat)
  /-- PRIO (R135): Sets the group's priority to min(value, 15). -/
  | prio (f : XForm)
  /-- MARK (R135): Sets the group's contact-sheet phase. -/
  | mark (f : XForm)
  /-- TRAP (R135): Takes the software trap with a code. -/
  | trap (f : XForm)
  /-- BKPT (R135): Takes the breakpoint trap at itself. -/
  | bkpt (f : XForm)
  /-- ADD (R137): Extended integer add (also base word with literal). -/
  | add (f : XForm)
  /-- SUB (R137): Extended integer subtract. -/
  | sub (f : XForm)
  /-- ADDC (R138): Add with carry in and out through a predicate. -/
  | addc (f : XForm)
  /-- SUBB (R138): Subtract with borrow in and out through a predicate. -/
  | subb (f : XForm)
  /-- MUL (R137): Extended integer multiply. -/
  | mul (f : XForm)
  /-- MULH (R137): Extended high-half multiply, signed or unsigned. -/
  | mulh (f : XForm)
  /-- MAD (R137): Integer multiply-add. -/
  | mad (f : XForm)
  /-- MIN (R137): Extended integer minimum. -/
  | min (f : XForm)
  /-- MAX (R137): Extended integer maximum. -/
  | max (f : XForm)
  /-- ABS (R137): Integer absolute value. -/
  | abs (f : XForm)
  /-- NEG (R137): Integer negate. -/
  | neg (f : XForm)
  /-- AND (R137): Extended bitwise AND. -/
  | and (f : XForm)
  /-- OR (R137): Extended bitwise OR. -/
  | or (f : XForm)
  /-- XOR (R137): Extended bitwise XOR. -/
  | xor (f : XForm)
  /-- ANDN (R137): Extended A AND NOT B. -/
  | andn (f : XForm)
  /-- NOT (R137): Bitwise NOT. -/
  | not (f : XForm)
  /-- SHL (R137): Extended shift left. -/
  | shl (f : XForm)
  /-- SHR (R137): Extended logical shift right. -/
  | shr (f : XForm)
  /-- SAR (R137): Extended arithmetic shift right. -/
  | sar (f : XForm)
  /-- ROTL (R137): Extended rotate left. -/
  | rotl (f : XForm)
  /-- BFX (R139): Bit-field extract. -/
  | bfx (f : XForm)
  /-- BFI (R139): Bit-field insert. -/
  | bfi (f : XForm)
  /-- CLZ (R137): Count leading zeros. -/
  | clz (f : XForm)
  /-- POPC (R137): Population count. -/
  | popc (f : XForm)
  /-- BREV (R137): Bit reverse. -/
  | brev (f : XForm)
  /-- CMP (R140): Extended integer compare into a predicate or scalar. -/
  | cmp (f : XForm)
  /-- SEL (R141): Selects b or c by a predicate. -/
  | sel (f : XForm)
  /-- MOV (R141): Extended move. -/
  | mov (f : XForm)
  /-- LI (R142): Writes base + lane × stride into each live lane. -/
  | li (f : XForm)
  /-- CVT (R143): Converts between formats with one rounding or a clamp. -/
  | cvt (f : XForm)
  /-- FADD (R146): Extended floating add. -/
  | fadd (f : XForm)
  /-- FSUB (R146): Extended floating subtract. -/
  | fsub (f : XForm)
  /-- FMUL (R146): Extended floating multiply. -/
  | fmul (f : XForm)
  /-- FFMA (R146): Fused multiply-add with one rounding. -/
  | ffma (f : XForm)
  /-- FDIV (R146): Correctly rounded floating divide. -/
  | fdiv (f : XForm)
  /-- FMIN (R147): Extended floating minimum. -/
  | fmin (f : XForm)
  /-- FMAX (R147): Extended floating maximum. -/
  | fmax (f : XForm)
  /-- FCMP (R148): Floating compare into a predicate or scalar. -/
  | fcmp (f : XForm)
  /-- FCLS (R149): Tests a floating value's class against a mask. -/
  | fcls (f : XForm)
  /-- FRND (R150): Rounds to an integral floating value. -/
  | frnd (f : XForm)
  /-- FRCP (R151): Approximate reciprocal. -/
  | frcp (f : XForm)
  /-- FRSQ (R151): Approximate reciprocal square root. -/
  | frsq (f : XForm)
  /-- FSQRT (R146): Correctly rounded square root. -/
  | fsqrt (f : XForm)
  /-- FEXP2 (R151): Approximate base-2 exponential. -/
  | fexp2 (f : XForm)
  /-- FLOG2 (R151): Approximate base-2 logarithm. -/
  | flog2 (f : XForm)
  /-- FSIN (R151): Approximate sine. -/
  | fsin (f : XForm)
  /-- FCOS (R151): Approximate cosine. -/
  | fcos (f : XForm)
  /-- PAND (R153): Extended predicate AND. -/
  | pand (f : XForm)
  /-- POR (R153): Extended predicate OR. -/
  | por (f : XForm)
  /-- PXOR (R153): Extended predicate XOR. -/
  | pxor (f : XForm)
  /-- PNOT (R153): Predicate NOT. -/
  | pnot (f : XForm)
  /-- PMOV (R153): Moves between predicates and vector registers. -/
  | pmov (f : XForm)
  /-- RED (R230): Reduces live lanes by the fixed tree into every live lane. -/
  | red (f : XForm)
  /-- SCAN (R230): Inclusive prefix over lanes built from tree nodes. -/
  | scan (f : XForm)
  /-- TOPKI (R231): Inserts a candidate into each lane's sorted top-k list. -/
  | topki (f : XForm)
  /-- SIEVE (R232): Arrives at the block-wide regrouping of threads by key and weight. -/
  | sieve (f : XForm)
  /-- SIEVE_EXCHANGE (R233): After the last group arrives, threads move to their slots and all groups continue. -/
  | sieveExchange (blk : Nat)
  /-- LD (R164): Per-lane global load. -/
  | ld (f : XForm)
  /-- ST (R164): Per-lane global store. -/
  | st (f : XForm)
  /-- LDS (R164): Uniform global load into a scalar. -/
  | lds (f : XForm)
  /-- STS (R164): Uniform global store from a scalar. -/
  | sts (f : XForm)
  /-- LDL (R164): Lattice load with orientation. -/
  | ldl (f : XForm)
  /-- STL (R164): Lattice store with orientation. -/
  | stl (f : XForm)
  /-- PREF (R165): Prefetches lines into L1 or L2; never faults. -/
  | pref (f : XForm)
  /-- PFA (R166): Queues an adapter prefetch hint for the copy engines. -/
  | pfa (f : XForm)
  /-- ATOM (R168): Atomic read-modify-write at the line's home. -/
  | atom (f : XForm)
  /-- ATOMF (R168): Floating atomic add, min or max at the home. -/
  | atomf (f : XForm)
  /-- ATOMX (R170): Converts to FX64 in the lane and adds exactly at the home. -/
  | atomx (f : XForm)
  /-- CAS (R171): Compare-and-swap by bits at the home. -/
  | cas (f : XForm)
  /-- TXB (R174): Opens or nests a per-lane transaction, possibly irrevocable. -/
  | txb (f : XForm)
  /-- TXE (R184): Ends a transaction level, committing at depth 1 and writing the cause. -/
  | txe (f : XForm)
  /-- TXA (R185): Dooms open speculative transactions with a code. -/
  | txa (f : XForm)
  /-- TXQ (R185): Writes each lane's transaction status. -/
  | txq (f : XForm)
  /-- FENCE (R188): Stalls until earlier stores are complete at the scope. -/
  | fence (f : XForm)
  /-- MON (R189): Arms the group's monitor on a line at its home. -/
  | mon (f : XForm)
  /-- RWB (R192): Writes dirty darkroom bytes of a range back to their stacks. -/
  | rwb (f : XForm)
  /-- RINV (R193): Discards the die's darkroom copies of a range. -/
  | rinv (f : XForm)
  /-- LOCQ (R194): Reports an address's translation and home without access. -/
  | locq (f : XForm)
  /-- CPY (R196): Deposits copy element records in the group's channel. -/
  | cpy (f : XForm)
  /-- SEAL (R199): Closes open copies into the group's next batch. -/
  | seal (f : XForm)
  /-- BARI (R202): Initialises a lattice barrier object. -/
  | bari (f : XForm)
  /-- BARA (R202): Arrives at a barrier as a block-scope release. -/
  | bara (f : XForm)
  /-- BARX (R202): Adds expected bytes to a barrier object. -/
  | barx (f : XForm)
  /-- BARQ (R202): Reads a barrier object's state. -/
  | barq (f : XForm)
  /-- FLAG (R204): Release store of a 64-bit flag after earlier stores complete. -/
  | flag (f : XForm)
  /-- MXM (R215): Matrix multiply-accumulate into the accumulator. -/
  | mxm (f : MForm)
  /-- MXG (R219): Matrix multiply with per-row-block low-rank adapter terms. -/
  | mxg (f : MForm)
  /-- MXZ (R221): Zeroes accumulator rows. -/
  | mxz (f : XForm)
  /-- MXLD (R222): Loads a lattice tile into accumulator rows. -/
  | mxld (f : MForm)
  /-- MXST (R222): Stores accumulator rows to the lattice with conversion. -/
  | mxst (f : MForm)
  /-- MXW (R223): Sets the block's accumulator window. -/
  | mxw (f : XForm)
  /-- MXTA (R226): Requests the engine token. -/
  | mxta (f : XForm)
  /-- MXTR (R226): Releases the engine token to the head of the queue. -/
  | mxtr (f : XForm)
  /-- MXP (R224): Packs 8-bit values into feuille bit planes. -/
  | mxp (f : XForm)
  /-- MXQ (R225): Reads the engine state seen by the block. -/
  | mxq (f : XForm)
  /-- MATRIX_RETIRE (R207): The engine retires a matrix instruction; counted ones decrement the lease. -/
  | matrixRetire (core : Nat)
  /-- ENGINE_LEASE_END (R227): Lease count reaches zero: renew, or spill rows and pass the token. -/
  | engineLeaseEnd (core : Nat)
  /-- CLAQ (R235): Submits a claim request to the Proofer. -/
  | claq (f : XForm)
  /-- CLRL (R236): Returns claimed amounts after draining their users. -/
  | clrl (f : XForm)
  /-- CLQ (R237): Reads holdings, maxima, pool, deferral or slot information. -/
  | clq (f : XForm)
  /-- SPAWN (R239): Copies a child grid record into the die's pending pool. -/
  | spawn (f : XForm)
  /-- AWAIT (R239): Waits on ev.join for all spawned children. -/
  | await (f : XForm)
  /-- QPOP (R240): Pops persistent queue entries into lanes. -/
  | qpop (f : XForm)
  /-- QPUSH (R240): Appends lane entries to a device queue. -/
  | qpush (f : XForm)
  /-- QWPUT (R242): Puts registers into the ring's queue window. -/
  | qwput (f : XForm)
  /-- QWGET (R242): Gets registers from the ring's queue window. -/
  | qwget (f : XForm)
  /-- WLAPP (R243): Appends items to a destination core's work list. -/
  | wlapp (f : XForm)
  /-- ITEM_IN_LIST (R243): An in-flight append reaches the list and advances the core's queue counter. -/
  | itemInList (part : Nat)
  /-- WLPOP (R243): Removes items from the issuing core's work list. -/
  | wlpop (f : XForm)
  /-- TERM (R243): Announces the group idle. -/
  | term (f : XForm)
  /-- MOVS (R247): Moves between system registers, xm and ordinary registers. -/
  | movs (f : XForm)
  /-- MOVW (R248): Reads or writes a parked group's system register. -/
  | movw (f : XForm)
  /-- SYSC (R249): Takes the system-call trap. -/
  | sysc (f : XForm)
  /-- RFT (R342): Returns from trap, optionally removing faulting lanes. -/
  | rft (f : XForm)
  /-- TLBI (R250): Invalidates a context's translations partition-wide. -/
  | tlbi (f : XForm)
  /-- ICINV (R250): Invalidates a range in every instruction cache. -/
  | icinv (f : XForm)
  /-- CSAVE (R251): Writes a parked group to memory and frees its slot. -/
  | csave (f : XForm)
  /-- CREST (R251): Loads a saved group record into a free slot. -/
  | crest (f : XForm)
  /-- GSTOP (R251): Requests a group be parked. -/
  | gstop (f : XForm)
  /-- GROUP_PARK (R294): A group reaches its next instruction boundary and is parked. -/
  | groupPark (g : Nat)
  /-- LOAD_AT_HOME (R254): Home serves a load from the visible image and grants a lease. -/
  | loadAtHome (id : Nat)
  /-- LOAD_RESULT (R162): Returned data is written to the load's destination and made usable. -/
  | loadResult (id : Nat)
  /-- STORE_PERFORMED (R255): Home applies a store and computes its completion time. -/
  | storePerformed (id : Nat)
  /-- ATOMIC_AT_HOME (R168): Home performs an atomic indivisibly. -/
  | atomicAtHome (id : Nat)
  /-- LEASE_EXPIRY (R254): A leased copy expires and no longer serves loads. -/
  | leaseExpiry (holder line : Nat)
  /-- MONITOR_EVICTION (R189): A monitor registration is evicted after 2^24 ticks, advancing the counter. -/
  | monitorEviction (g : Nat)
  /-- STALL_END (R187): A stalled release waits until earlier stores are complete at its scope, then proceeds. -/
  | stallEnd (g : Nat)
  /-- COMMIT (R179): Lock, validate, decide and apply a lane's commit at its home slices. -/
  | commit (g lane : Nat)
  /-- COMMIT_VISIBILITY (R180): At time T the next image of committed lines becomes visible. -/
  | commitVisibility (line : Nat)
  /-- TOKEN_RESERVATION_LAPSE (R182): Irrevocable token reservation lapses after 1,000,000 ticks. -/
  | tokenReservationLapse (part : Nat)
  /-- DARKROOM_MERGE (R308): Stack merge engine writes a write-back's masked bytes indivisibly. -/
  | darkroomMerge (id : Nat)
  /-- COPY_LANDING (R197): A piece of a copy element lands and counts down its barrier. -/
  | copyLanding (elem piece : Nat)
  /-- COPY_ELEMENT_FAULT (R349): Copy engine meets a fault; element stops and a record is written. -/
  | copyElementFault (elem : Nat)
  /-- TRAP_ENTRY (R339): After earlier loads finish, records and snapshot written and handler entered. -/
  | trapEntry (g : Nat)
  /-- BLOCK_PLACEMENT (R286): Front end places the next block on an eligible core. -/
  | blockPlacement (grid : Nat)
  /-- STARVATION_LIFT (R291): A ready group's starvation count reaches 4,096 and it ranks first. -/
  | starvationLift (g : Nat)
  /-- CONTACT_SHEET_UPDATE (R293): Every 2^20 clocks the device adds counts into the contact sheet. -/
  | contactSheetUpdate (part ctx : Nat)
  /-- TICK_BOUNDARY (R282): A tick-gated queue releases its entries at a boundary. -/
  | tickBoundary (q : QRef)
  /-- PROLOGUE_FAULT (R353): A prologue exceeds 16,384 instructions and its command ends. -/
  | prologueFault (g : Nat)
  /-- TILE_FLAG_RELEASE (R276): A consumer block starts when its tile flag becomes non-zero. -/
  | tileFlagRelease (grid : Nat)
  /-- GRID_COMPLETION (R275): A grid completes once its stores are complete; a release at .sys. -/
  | gridCompletion (grid : Nat)
  /-- CHILD_LAUNCH (R363): Front end launches a child grid from the pending pool. -/
  | childLaunch (die : Nat)
  /-- BLOCK_SAVE (R294): A parked block is written to its save-region extent and its holdings returned. -/
  | blockSave (blk : Nat)
  /-- HARD_SAVE (R297): Drain bound of 65,536 ticks expires; undrained rings are hard-saved. -/
  | hardSave (grid : Nat)
  /-- PREEMPTION_DEADLINE (R297): A pre-emption deadline ends; undrained rings hard-saved and logged. -/
  | preemptionDeadline (grid : Nat)
  /-- AWAIT_SAVE (R299): Front end saves a block sleeping in AWAIT when its pool has a deferred request. -/
  | awaitSave (blk : Nat)
  /-- BLOCK_RESTORE (R298): A saved block's restore request is granted and its state reloaded. -/
  | blockRestore (blk : Nat)
  /-- WAIT_SATISFIED (R281): A wait command completes when its signal word reaches VAL. -/
  | waitSatisfied (q : QRef)
  /-- LAUNCH (R277): Host command LAUNCH 0: launch the record at ADDR. -/
  | launch (q : QRef) (e : CmdEntry)
  /-- LAUNCH_PINNED (R400): LAUNCH 1: every block on one core with one carved pool. -/
  | launchPinned (q : QRef) (e : CmdEntry)
  /-- JOINT_LAUNCH (R300): LAUNCH 2-8: joint launch of several records. -/
  | jointLaunch (q : QRef) (e : CmdEntry)
  /-- PREEMPT (R294): LAUNCH 0x80: pre-empt a grid with a deadline. -/
  | preempt (q : QRef) (e : CmdEntry)
  /-- RESTORE (R298): LAUNCH 0x81: restore a saved grid. -/
  | restore (q : QRef) (e : CmdEntry)
  /-- SIGNAL (R281): Signal command: front end stores VAL to the signal word. -/
  | signal (q : QRef) (e : CmdEntry)
  /-- WAIT_COMMAND (R281): Wait command: waits for a signal word to reach VAL. -/
  | waitCommand (q : QRef) (e : CmdEntry)
  /-- COPY (R318): COPY command: copies LEN bytes per a descriptor. -/
  | copyCmd (q : QRef) (e : CmdEntry)
  /-- COPY_COMMAND_DONE (R318): A COPY command completes when every byte is complete at .sys. -/
  | copyCommandDone (q : QRef)
  /-- MAP_CONTEXT (R318): MAP 0: create a context with its root table. -/
  | mapContext (q : QRef) (e : CmdEntry)
  /-- MAP_QUEUE (R318): MAP 1: install a queue descriptor. -/
  | mapQueue (q : QRef) (e : CmdEntry)
  /-- MAP_CONTACT_SHEET (R293): MAP 2: set the context's contact sheet. -/
  | mapContactSheet (q : QRef) (e : CmdEntry)
  /-- MAP_APERTURE (R327): MAP 3: write an aperture entry. -/
  | mapAperture (q : QRef) (e : CmdEntry)
  /-- MAP_TRAP_DESCRIPTOR (R336): MAP 4: set the context's trap descriptor. -/
  | mapTrapDescriptor (q : QRef) (e : CmdEntry)
  /-- MAP_SAVE_REGION (R295): MAP 5: set the partition's save region. -/
  | mapSaveRegion (q : QRef) (e : CmdEntry)
  /-- UNMAP_RANGE (R318): UNMAP 0: remove translations of a range. -/
  | unmapRange (q : QRef) (e : CmdEntry)
  /-- UNMAP_CONTEXT (R318): UNMAP 1: destroy a context once its queues are closed. -/
  | unmapContext (q : QRef) (e : CmdEntry)
  /-- UNMAP_QUEUE (R318): UNMAP 2: close a queue, waking its waiters. -/
  | unmapQueue (q : QRef) (e : CmdEntry)
  /-- UNMAP_APERTURE (R318): UNMAP 3: clear an aperture entry. -/
  | unmapAperture (q : QRef) (e : CmdEntry)
  /-- PARTITION_MERGE (R322): PARTITION 1: handshake and merge two partitions. -/
  | partitionMerge (q : QRef) (e : CmdEntry)
  /-- PARTITION_SPLIT (R323): PARTITION 2: split a partition in two. -/
  | partitionSplit (q : QRef) (e : CmdEntry)
  /-- MERGE_HANDSHAKE_TIMEOUT (R393): Partner's PARTITION 1 does not arrive within 1 s; refused with reason 2. -/
  | mergeHandshakeTimeout (part : Nat)
  /-- ATTEST (R331): ATTEST: pass an SPDM request and write the response. -/
  | attest (q : QRef) (e : CmdEntry)
  /-- VERSION (R321): VERSION: negotiate interface versions. -/
  | versionCmd (q : QRef) (e : CmdEntry)
  /-- RESET_CONTEXT (R318): RESET 0: stop a context's grids, discard saved state, close queues. -/
  | resetContext (q : QRef) (e : CmdEntry)
  /-- RESET_PARTITION (R318): RESET 1: reset the partition, destroying every context. -/
  | resetPartition (q : QRef) (e : CmdEntry)
  /-- RESET_PATCH (R330): RESET 2: install a verified patch and restart firmware. -/
  | resetPatch (q : QRef) (e : CmdEntry)
  /-- LOG (R378): LOG: copy new event-log entries to memory. -/
  | logCmd (q : QRef) (e : CmdEntry)
  /-- DOORBELL (R316): Write of DBELL tail for a host command queue. -/
  | doorbell (fn ctx q : Nat) (tail : Word)
  /-- AQCTL (R313): Write of AQCTL enabling or configuring the admin queue. -/
  | aqctl (fn : Nat) (val : DWord)
  /-- REGISTER_WRITE (R313): Write to a BAR0 register with no behaviour of its own. -/
  | registerWrite (fn off : Nat) (val : DWord)
  /-- FUNCTION_LEVEL_RESET (R318): PCI Express function-level reset, acting as RESET 1. -/
  | functionLevelReset (fn : Nat)
  /-- PTM_DIALOGUE (R325): A PTM dialogue latches sy.gtc and master time in PTMT and PTMM. -/
  | ptmDialogue (fn : Nat) (master : DWord)
  /-- COLD_RESET (R329): Module cold reset: boot ROM, patch, partitions, reserved cores, ready. -/
  | coldReset
  /-- LEASE_HOLD (R370): Die's gtc copy differs or misses an update; lease hold begins. -/
  | leaseHold (die diff : Nat)
  /-- LEASE_HOLD_END (R370): Die resynchronised; lease hold ends. -/
  | leaseHoldEnd (die diff : Nat)
  /-- FABRIC_REQUEST (R382): Receiver applies a fabric request once, or answers a duplicate from its window. -/
  | fabricRequest (fn : Nat) (r : FabReq)
  /-- ACKNOWLEDGEMENT (R382): Sender receives an acknowledgement and drops the kept request. -/
  | acknowledgement (id : Nat) (data : DWord)
  /-- FABRIC_REPLAY (R382): No acknowledgement within 20 µs; request replayed over another path. -/
  | fabricReplay (id : Nat)
  /-- LINK_DOWN (R384): A link fails training three times and is down. -/
  | linkDown (link : Nat)
  /-- LINK_UP (R384): A down link trains and returns. -/
  | linkUp (link ver : Nat)
  /-- TARGET_UNREACHABLE (R385): No path for 10 ms; aperture entries invalid, outstanding accesses fail. -/
  | targetUnreachable (module : Nat)
  /-- TARGET_REACHABLE (R385): A path returns and entries count as valid again. -/
  | targetReachable (module : Nat)
  /-- STALE_RESPONSE (R388): A response with a stale life number is dropped and counted in LATE. -/
  | staleResponse (die : Nat) (life : BitVec 16)
  /-- DIE_RESET (R387): A die resets: blocks lost, commits settled, new life number. -/
  | dieReset (die : Nat)
  /-- DIE_FAILED (R387): A die not back within 50 ms has failed; its homes read as poisoned. -/
  | dieFailed (die : Nat)
  /-- TABLE_SWITCH (R391): Requests in flight drain and the shadow tables become active. -/
  | tableSwitch (part table : Nat)
  /-- FORCED_TABLE_SWITCH (R392): Drain not done within 100 µs; switch forced. -/
  | forcedTableSwitch (part table : Nat)
  /-- MISROUTED (R392): Origin receives a misrouted answer and re-issues under the new version. -/
  | misrouted (part : Nat)
  /-- WATCHDOG_EXPIRY (R397): Firmware watchdog unrestarted for 10 ms; firmware restarts, or die resets. -/
  | watchdogExpiry (die : Nat)
  /-- CORRECTABLE_ERROR (R373): Single-bit error corrected on read and counted. -/
  | correctableError (part str : Nat)
  /-- UNCORRECTABLE_ERROR (R374): Uncorrectable error handled by the structure where it is found. -/
  | uncorrectableError (site : ErrSite)
  /-- PATROL_SCRUB (R373): Scrubber reads and corrects every HBM4E line each 12 hours. -/
  | patrolScrub (part errors : Nat)
  /-- STACK_FAILURE (R395): A stack's base logic die stops answering; its words count as poisoned. -/
  | stackFailure (stack : Nat)
  /-- FATAL_STATE (R396): Hub switch error or unresynchronisable gtc puts the module in the fatal state. -/
  | fatalState
  /-- CLOCK_STEP (R332): Power or heat over bounds lowers the clock or withholds issue in 10 ms steps. -/
  | clockStep (cause : ClockCause) (down : Bool)
  /-- THERMAL_TRIP (R332): Junction at 110 °C or 1 s above 100 °C at m = 1 powers off the main domain. -/
  | thermalTrip
  /-- GET_VERSION (R328): Safelight GET_VERSION: protocol version. -/
  | getVersion
  /-- GET_HEALTH (R399): Safelight GET_HEALTH: 32-byte health report. -/
  | getHealth
  /-- GET_TELEMETRY (R328): Safelight GET_TELEMETRY: power, temperatures, clock. -/
  | getTelemetry
  /-- SET_POWER_LIMIT (R332): Safelight SET_POWER_LIMIT: module limit 600-2,200 W. -/
  | setPowerLimit (watts : Nat)
  /-- GET_POWER_LIMIT (R328): Safelight GET_POWER_LIMIT: current limit. -/
  | getPowerLimit
  /-- SAFELIGHT_RESET_MODULE (R328): Safelight RESET 0: module cold reset. -/
  | safelightResetModule
  /-- SAFELIGHT_RESET_FUNCTION (R328): Safelight RESET 1: reset one function as RESET 1. -/
  | safelightResetFunction (fn : Nat)
  /-- SAFELIGHT_RESET_MAIN (R399): Safelight RESET 2: restart the main domain, keeping gtc and the module log. -/
  | safelightResetMain
  /-- GET_LOG (R378): Safelight GET_LOG: read the module log from an offset. -/
  | getLog (off n : Nat)
  /-- SET_PARTITION_DEFAULT (R328): Safelight: set quarter masks for the next cold reset. -/
  | setPartitionDefault (masks : List (BitVec 4))
  /-- LOAD_PATCH (R330): Safelight: stage a patch image for the next cold reset. -/
  | loadPatch (image : List Byte)
  /-- SPDM_GET_VERSION (R331): SPDM GET_VERSION request. -/
  | spdmGetVersion (port : SpdmPort)
  /-- GET_CAPABILITIES (R331): SPDM GET_CAPABILITIES request. -/
  | getCapabilities (port : SpdmPort)
  /-- NEGOTIATE_ALGORITHMS (R331): SPDM NEGOTIATE_ALGORITHMS request. -/
  | negotiateAlgorithms (port : SpdmPort)
  /-- GET_DIGESTS (R331): SPDM GET_DIGESTS request. -/
  | getDigests (port : SpdmPort)
  /-- GET_CERTIFICATE (R331): SPDM GET_CERTIFICATE request. -/
  | getCertificate (port : SpdmPort) (slot off len : Nat)
  /-- CHALLENGE (R331): SPDM CHALLENGE request. -/
  | challenge (port : SpdmPort) (slot : Nat) (nonce : List Byte)
  /-- GET_MEASUREMENTS (R331): SPDM GET_MEASUREMENTS request. -/
  | getMeasurements (port : SpdmPort) (index : Nat)
  /-- LINK_RETRIED (R384): A Mirrix link fails a training attempt short of the third; the failure is counted and logged as a retry. -/
  | linkRetried (link : Nat)
  /-- DIE_RESTART (R387): A resetting die comes back within 50 ms with its new life number; held requests proceed, its queues resume and a delayed partition change completes. -/
  | dieRestart (die : Nat)
  /-- BLOCK_NOT_SAVED_BY_BOUND (R359): A pre-empted block's groups are not all parked within the R296 bound, and the event log records it with its reason. -/
  | blockNotSavedByBound (blk : Nat) (why : LateReason)
  /-- HOST_PORT_ERROR (R396): An error of the PCI Express host port is reported through Advanced Error Reporting. -/
  | hostPortError (fn code : Nat)
  deriving DecidableEq, Repr

end Sys2Proof
end

