-- ==== Sys2Proof/Machine/Forms.lean ====
section
/-! DEFINITION. Which forms each instruction allows (R12, R13, R95 to R107, R117, R120, R121, R136, R144, R153, R163 to
R205, R208, R214 to R245): operand classes, modifiers, immediates, and the first rule that an encoding breaks, as the
DETAIL code of the illegal-instruction trap (R334). -/

namespace Sys2Proof.Machine

/-- The classes of an operand (R100); `unused` is class 0 with index 0 where the entry uses no operand. -/
inductive OpClass where
  | unused | v | s | p | b | xm | ev | sy | imm
  deriving DecidableEq, Repr

/-- How an instruction executes (R13): once or per lane by its operands, always per lane, per lane unless `.uni` is
written, always once. -/
inductive Mode where
  | auto | lane | laneUni | once
  deriving DecidableEq, Repr

/-- What an entry allows of the layouts XG and XB. `lit`: the form with a literal is allowed; `floatImm`: an immediate
is floating (R145); `addr`: A is an address base and B its offset (R156); `pairD`: D is a pair whatever the type; `fixed`:
C carries the binary point of R143 in IMM; `srcD`: D is a source; `lone`: a scalar destination although lanes act (R117);
`extra`: the entry's own rules. -/
structure XSpec where
  xb : Bool := false
  lit : Bool := true
  floatImm : Bool := false
  d : List OpClass := [.unused]
  a : List OpClass := [.unused]
  b : List OpClass := [.unused]
  c : List OpClass := [.unused]
  ty : List Ty := [.none]
  rm : Bool := false
  sc : List Sc := [.none]
  ot : Bool := false
  cp : Bool := false
  fn : List Nat := [0]
  u : Bool := true
  w : Bool := false
  guarded : Bool := true
  addr : Bool := false
  pairD : Bool := false
  fixed : Bool := false
  srcD : Bool := false
  lone : Bool := false
  mode : Mode := .auto
  extra : XForm → Option Nat := fun _ => none

/-! ## Operands -/

/-- The class of an operand (R100). -/
def opClass : Operand → OpClass
  | .unused => .unused
  | .v _ => .v
  | .s _ => .s
  | .p _ => .p
  | .b _ => .b
  | .xm => .xm
  | .ev _ => .ev
  | .sy _ => .sy
  | .imm _ => .imm

/-- An operand of the vector file or a predicate: a per-lane operand (R13). -/
def perLane : Operand → Bool
  | .v _ => true
  | .p _ => true
  | _ => false

/-- An operand that is a latch (R41). -/
def isLatch : Operand → Bool
  | .b _ => true
  | _ => false

/-- An operand that is a scalar register. -/
def isScalar : Operand → Bool
  | .s _ => true
  | _ => false

/-- Whether an instruction executes once for the group (R13). A latch counts as a per-lane operand unless the
destination is a scalar register or the base word has the scalar class (log entry 21). -/
def uniform (m : Mode) (f : XForm) : Bool :=
  match m with
  | .once => true
  | .lane => false
  | .laneUni => f.uni
  | .auto =>
    f.uni ||
      (!perLane f.d && !perLane f.a && !perLane f.b && !perLane f.c
        && (isScalar f.d || (f.form = .bl && f.col) || !(isLatch f.a || isLatch f.b || isLatch f.c || isLatch f.d)))

/-- A type of 64 bits: a vector operand of it names a pair (R114). -/
def wide (t : Ty) : Bool := t = .i64 || t = .n64 || t = .f64 || t = .fx

/-- A vector operand that names a pair has an even index (R100, R114). -/
def pairOk (pair : Bool) : Operand → Bool
  | .v n => !pair || n.val % 2 = 0
  | _ => true

/-! ## Immediates (R101) -/

/-- The value of an immediate operand. -/
def immOf : Operand → Option DWord
  | .imm x => some x
  | _ => none

/-- The immediate operands in the order D, A, B, C; the binary point of R143 is none of them. -/
def imms (sp : XSpec) (f : XForm) : List DWord :=
  (immOf f.d).toList ++ (immOf f.a).toList ++ (immOf f.b).toList ++ (if sp.fixed then [] else (immOf f.c).toList)

/-- A value that is the sign extension of its low `n` bits. -/
def signFits (n : Nat) (x : DWord) : Bool := (x.setWidth n).signExtend 64 = x

/-- An immediate lies between two bounds; no immediate is within them. -/
def immFrom (o : Operand) (lo hi : Nat) : Option Nat :=
  match o with
  | .imm x => if lo ≤ x.toNat && x.toNat ≤ hi then none else some 3
  | _ => none

/-- An immediate is at most a bound. -/
def immIn (o : Operand) (hi : Nat) : Option Nat := immFrom o 0 hi

/-! ## Allowed sets -/

/-- A register destination: vector, pair or scalar (R136). -/
def reg : List OpClass := [.v, .s]
/-- A source: register, latch or immediate (R136). -/
def src : List OpClass := [.v, .s, .b, .imm]
/-- An address offset (R156). -/
def off : List OpClass := [.v, .b, .s, .imm]
/-- No type, or an integer type (R136). -/
def tyInts : List Ty := [.none, .i8, .i16, .i32, .i64, .n8, .n16, .n32, .n64]
/-- No type, or a 32-bit or 64-bit integer type (R136). -/
def tyWords : List Ty := [.none, .i32, .i64, .n32, .n64]
/-- No type, or a floating type (R144). -/
def tyFloats : List Ty := [.none, .bf16, .f16, .f32, .f64]
/-- The types of the approximations (R144). -/
def tyApprox : List Ty := [.none, .bf16, .f16, .f32]
/-- The types of loads and stores (R163). -/
def tyMem : List Ty := [.none, .i8, .i16, .i32, .i64, .n8, .n16, .n32, .n64, .bf16, .f16, .f32, .f64]
/-- The types of ATOM and CAS (R167). -/
def tyAtom : List Ty := [.i32, .n32, .i64, .n64, .f32, .f64]
/-- The types of CVT (R143). -/
def tyCvt : List Ty := [.i8, .i16, .i32, .i64, .n8, .n16, .n32, .n64, .bf16, .f16, .f32, .f64, .fx]
/-- The source codes of CVT (R143). -/
def fnCvt : List Nat := [1, 2, 3, 4, 5, 6, 7, 8, 9, 10, 11, 12, 15]
/-- The types of MXLD and MXST (R214). -/
def tyTile : List Ty := [.none, .i8, .i16, .i32, .n8, .n16, .n32, .bf16, .f16, .f32]
/-- Any scope or none (R167). -/
def scAny : List Sc := [.none, .grp, .blk, .cls, .die, .prt, .sys]

/-- A type by its TY code (R102). -/
def tyOfCode (n : Nat) : Ty :=
  match n with
  | 0 => .none | 1 => .i8 | 2 => .i16 | 3 => .i32 | 4 => .i64 | 5 => .n8 | 6 => .n16 | 7 => .n32 | 8 => .n64
  | 9 => .bf16 | 10 => .f16 | 11 => .f32 | 12 => .f64 | 13 => .q4 | 14 => .q8 | _ => .fx

/-! ## Rules of single entries -/

/-- BRC: B is unused exactly for `.z` and `.nz` (R120). -/
def brcExtra (f : XForm) : Option Nat := if (f.b = .unused) = (8 ≤ f.fn.toNat) then none else some 3

/-- VOTE.ballot writes a pair of scalars from an even number 2 to 94 (R131). -/
def voteExtra (f : XForm) : Option Nat :=
  match f.d with
  | .s n => if f.fn = 2 && (n.val % 2 = 1 || n.val = 0) then some 3 else none
  | _ => none

/-- WAIT names a barrier object exactly for `ev.bar` (R120, R133). -/
def waitExtra (f : XForm) : Option Nat := if (f.d = .ev .bar) = (f.b ≠ .unused) then none else some 3

/-- CVT: source and destination differ; between integers nothing is rounded, and RM is zero (R102); IMM carries the binary point 0 to 63 exactly with `.fx`; an immediate source
takes the literal (R143, R145). -/
def cvtExtra (f : XForm) : Option Nat :=
  if tyOfCode f.fn.toNat = f.ty then some 3
  else if tyInts.contains f.ty && tyInts.contains (tyOfCode f.fn.toNat) && f.rm ≠ .rn then some 4
  else
    let fx := f.ty = .fx || f.fn = 15
    match f.c with
    | .imm x => if fx && x.toNat < 64 then none else some 3
    | _ => if fx then some 3 else none

/-- PMOV moves between predicates, and between a predicate and a vector register (R153). -/
def pmovExtra (f : XForm) : Option Nat :=
  match f.a with
  | .v _ => if perLane f.d && opClass f.d ≠ .v then none else some 4
  | _ => none

/-- RED and SCAN: floating types take FN 0 to 2; RM only with FN 0 and a floating type (R229). -/
def redExtra (f : XForm) : Option Nat :=
  let flt := tyFloats.contains f.ty
  if flt && 2 < f.fn.toNat then some 4
  else if f.rm ≠ .rn && !(flt && f.fn = 0) then some 4
  else none

/-- SIEVE: an immediate packed word has bits [63:31] zero and takes the literal (R229, R232). -/
def sieveExtra (f : XForm) : Option Nat :=
  match f.c with
  | .imm x => if f.form ≠ .xl then some 5 else if x.toNat < 2 ^ 31 then none else some 3
  | _ => none

/-- ATOM: floating types take `.add` and `.exch` only; RM only with a floating `.add` (R167). -/
def atomExtra (f : XForm) : Option Nat :=
  let flt := f.ty = .f32 || f.ty = .f64
  if flt && f.fn ≠ 0 && f.fn ≠ 6 then some 4
  else if f.rm ≠ .rn && !(flt && f.fn = 0) then some 4
  else none

/-- CPY: the literal's fields, and the class of the lattice address (R195, R205). DESIGN CHOICE: R205's "NB = 0 with BAR set wrongly for
the form" is taken as no test beyond R195's, BAR zero under NB = 1, since R195 gives BAR no other wrong value (log entry 116). -/
def cpyExtra (f : XForm) : Option Nat :=
  match f.c with
  | .imm x =>
    let ln := x.toNat % 2 ^ 17
    if f.form ≠ .xl then some 5
    else if x.toNat / 2 ^ 37 ≠ 0 then some 2
    else if ln < 8 || 65536 < ln || ln % 8 ≠ 0 then some 3
    else if x.getLsbD 18 && x.toNat / 2 ^ 19 ≠ 0 then some 3
    else none
  | _ => none

/-- CLQ: an immediate selector is one of R237. -/
def selectorOk (x : DWord) : Bool := x.toNat ≤ 3 || (0x100 ≤ x.toNat && x.toNat < 0x180)
def clqExtra (f : XForm) : Option Nat :=
  match f.a with
  | .imm x => if selectorOk x then none else some 3
  | _ => none

/-- The access that R246 gives a system register: read only, program read-write, privileged read-write, or a privileged
write that changes nothing. -/
inductive SyAccess where
  | read | write | priv | mode | reserved
  deriving DecidableEq, Repr

/-- The access of a system register by its number (R246). -/
def syAccess (n : Nat) : SyAccess :=
  if n = 9 then .write
  else if n = 24 then .mode
  else if 25 ≤ n && n ≤ 29 then .priv
  else if n < 32 then .read
  else .reserved

/-- A system register that an instruction may name as a destination (R246, R252). -/
def syWritable : Operand → Bool
  | .sy n => syAccess n.val ≠ .read && syAccess n.val ≠ .reserved
  | _ => true

/-- A system register that exists (R246). -/
def syExists : Operand → Bool
  | .sy n => n.val < 32
  | _ => true

/-- MOVS: the forms that R247 reserves; `xm` needs an even pair of scalars, and a pair of scalars a last but one index at most: DESIGN
CHOICE, as R247 does not say what `movs s95, xm` does, whose s(D+1) does not exist (log entry 106). -/
def movsExtra (f : XForm) : Option Nat :=
  if !syExists f.d || !syExists f.a then some 3
  else if !syWritable f.d then some 4
  else
    match f.d, f.a with
    | .xm, .s n => if n.val % 2 = 0 then none else some 3
    | .xm, .imm _ => some 4
    | .xm, .v _ => some 4
    | .xm, .b _ => some 4
    | .sy _, .v _ => some 4
    | .sy _, .b _ => some 4
    | .s n, .xm => if n.val < 95 then none else some 3
    | _, _ => none

/-- MOVW reads into a scalar or writes a system register; an immediate slot is 0 to 95 (R245, R248). -/
def movwExtra (f : XForm) : Option Nat :=
  if !syExists f.d || !syExists f.b then some 3
  else if !syWritable f.d then some 4
  else
    match f.d, f.b with
    | .s _, .sy _ => immIn f.a 95
    | .unused, .sy _ => immIn f.a 95
    | .sy _, .s _ => immIn f.a 95
    | _, _ => some 4

/-! ## Common entries -/

/-- A control instruction: U and W are zero (R120). -/
def ctl : XSpec := { u := false, mode := .once }
/-- An integer instruction of two sources (R136). -/
def int2 : XSpec := { d := reg, a := src, b := src, ty := tyInts, w := true }
/-- An integer instruction of one source (R136). -/
def int1 : XSpec := { d := reg, a := src, ty := tyInts, w := true }
/-- A floating instruction of two sources (R144). -/
def flt2 : XSpec := { d := reg, a := src, b := src, ty := tyFloats, rm := true, w := true, floatImm := true }
/-- A floating instruction of one source (R144). -/
def flt1 : XSpec := { d := reg, a := src, ty := tyFloats, rm := true, w := true, floatImm := true }

/-! ## The extended operations -/

/-- The XOP value, the entry and the fields of an instruction of layout XG or XB (R105). A destination may be suppressed where the
entry names `_` among its destinations (R22, R107, R136, R144, R163, R167, R174, R229; log entry 81). CVT takes any RM
unless both types are integers: DESIGN CHOICE, as R136 gives its whole table an RM of zero and R143 rounds CVT in RM (log entry 77).
The class of WLAPP's core operand, which R238 does not state, is a scalar or an immediate: DESIGN CHOICE (log entry 90). So are MXP's
lattice addresses and MXW's rows, whose class R220 does not state: DESIGN CHOICE (log entry 103). SEAL, MXTA and MXTR take a guard and
no U: DESIGN CHOICE, as R199 and R226 make all other fields zero and R99 gives every instruction a guard (log entry 104). FENCE takes no
U: DESIGN CHOICE, as R187 makes every other modifier zero and does not name U (log entry 105). SPAWN, AWAIT, QPOP, QPUSH, QWPUT, QWGET,
WLAPP, WLPOP, TERM and the system instructions take U: DESIGN CHOICE, as R238 and R245 make every modifier zero and do not say whether
U is one (log entry 117). -/
def xspec : Instr → Option (Nat × XSpec × XForm)
  | .bra f => some (0x000, { ctl with xb := true }, f)
  | .brc f => some (0x001, { ctl with xb := true, a := [.s], b := [.s, .unused], ty := [.none, .i64, .n64], fn := [0, 1, 2, 3, 4, 5, 8, 9], extra := brcExtra }, f)
  | .brd f => some (0x002, { ctl with xb := true }, f)
  | .brx f => some (0x003, { ctl with a := [.s] }, f)
  | .call f => some (0x004, { ctl with xb := true }, f)
  | .callx f => some (0x005, { ctl with a := [.s] }, f)
  | .ret f => some (0x006, ctl, f)
  | .join f => some (0x007, { ctl with guarded := false }, f)
  | .exit f => some (0x008, { ctl with mode := .lane }, f)
  | .elect f => some (0x009, { ctl with d := [.p, .s], mode := .lane, lone := true }, f)
  | .vote f => some (0x00A, { ctl with d := [.s], a := [.p], fn := [0, 1, 2], extra := voteExtra }, f)
  | .nop f => some (0x00B, ctl, f)
  | .wait f => some (0x00C, { ctl with d := [.ev], a := [.s], b := [.s, .imm, .unused], c := [.imm, .unused], extra := waitExtra }, f)
  | .yield f => some (0x00D, ctl, f)
  | .prio f => some (0x00E, { ctl with a := [.s, .imm] }, f)
  | .mark f => some (0x00F, { ctl with a := [.s, .imm] }, f)
  | .trap f => some (0x010, { ctl with lit := false, a := [.imm], extra := fun f => immIn f.a 2047 }, f)
  | .bkpt f => some (0x011, ctl, f)
  | .add f => some (0x040, int2, f)
  | .sub f => some (0x041, int2, f)
  | .addc f => some (0x042, { int2 with c := [.p] }, f)
  | .subb f => some (0x043, { int2 with c := [.p] }, f)
  | .mul f => some (0x044, int2, f)
  | .mulh f => some (0x045, int2, f)
  | .mad f => some (0x046, { int2 with c := src }, f)
  | .min f => some (0x047, int2, f)
  | .max f => some (0x048, int2, f)
  | .abs f => some (0x049, { int1 with ty := [.none, .i8, .i16, .i32, .i64] }, f)
  | .neg f => some (0x04A, int1, f)
  | .and f => some (0x04B, int2, f)
  | .or f => some (0x04C, int2, f)
  | .xor f => some (0x04D, int2, f)
  | .andn f => some (0x04E, int2, f)
  | .not f => some (0x04F, int1, f)
  | .shl f => some (0x050, int2, f)
  | .shr f => some (0x051, int2, f)
  | .sar f => some (0x052, int2, f)
  | .rotl f => some (0x053, int2, f)
  | .bfx f => some (0x054, { int2 with ty := tyWords }, f)
  | .bfi f => some (0x055, { int2 with c := src, ty := tyWords }, f)
  | .clz f => some (0x056, int1, f)
  | .popc f => some (0x057, int1, f)
  | .brev f => some (0x058, int1, f)
  | .cmp f => some (0x059, { int2 with d := [.p, .s], w := false, fn := [0, 1, 2, 3, 4, 5] }, f)
  | .sel f => some (0x05A, { int2 with a := [.p], c := src, ty := tyWords }, f)
  | .mov f => some (0x05B, { int1 with a := [.unused], b := src, ty := tyWords }, f)
  | .li f => some (0x05C, { d := [.v], a := [.s, .imm], b := [.s, .imm], ty := [.none, .i32, .n32] }, f)
  | .cvt f => some (0x05D, { int1 with c := [.imm, .unused], ty := tyCvt, rm := true, fn := fnCvt, fixed := true, extra := cvtExtra }, f)
  | .fadd f => some (0x080, flt2, f)
  | .fsub f => some (0x081, flt2, f)
  | .fmul f => some (0x082, flt2, f)
  | .ffma f => some (0x083, { flt2 with c := src }, f)
  | .fdiv f => some (0x084, flt2, f)
  | .fmin f => some (0x085, { flt2 with rm := false }, f)
  | .fmax f => some (0x086, { flt2 with rm := false }, f)
  | .fcmp f => some (0x087, { flt2 with d := [.p, .s], w := false, rm := false, fn := [0, 1, 2, 3, 4, 5, 6, 7] }, f)
  | .fcls f => some (0x088, { flt2 with d := [.p, .s], w := false, a := [.v, .s, .b], b := [.imm], rm := false, lit := false, floatImm := false, extra := fun f => immIn f.b 1023 }, f)
  | .frnd f => some (0x089, flt1, f)
  | .frcp f => some (0x08A, { flt1 with rm := false, ty := tyApprox }, f)
  | .frsq f => some (0x08B, { flt1 with rm := false, ty := tyApprox }, f)
  | .fsqrt f => some (0x08C, flt1, f)
  | .fexp2 f => some (0x08D, { flt1 with rm := false, ty := tyApprox }, f)
  | .flog2 f => some (0x08E, { flt1 with rm := false, ty := tyApprox }, f)
  | .fsin f => some (0x08F, { flt1 with rm := false, ty := tyApprox }, f)
  | .fcos f => some (0x090, { flt1 with rm := false, ty := tyApprox }, f)
  | .pand f => some (0x0A0, { d := [.p], a := [.p], b := [.p] }, f)
  | .por f => some (0x0A1, { d := [.p], a := [.p], b := [.p] }, f)
  | .pxor f => some (0x0A2, { d := [.p], a := [.p], b := [.p] }, f)
  | .pnot f => some (0x0A3, { d := [.p], a := [.p] }, f)
  | .pmov f => some (0x0A4, { d := [.p, .v], a := [.p, .v], extra := pmovExtra }, f)
  | .red f => some (0x0C0, { d := [.v], a := [.v], ty := [.i32, .i64, .n32, .n64, .bf16, .f16, .f32, .f64], rm := true, fn := [0, 1, 2, 3, 4, 5], u := false, w := true, lit := false, extra := redExtra, mode := .lane }, f)
  | .scan f => some (0x0C1, { d := [.v], a := [.v], ty := [.i32, .i64, .n32, .n64, .bf16, .f16, .f32, .f64], rm := true, fn := [0, 1, 2, 3, 4, 5], u := false, w := true, lit := false, extra := redExtra, mode := .lane }, f)
  | .topki f => some (0x0C2, { d := [.v], a := [.v, .s], b := [.v, .s], c := [.imm], ty := [.none, .i32, .n32, .bf16, .f16, .f32], u := false, lit := false, extra := fun f => immFrom f.c 1 8, mode := .lane }, f)
  | .sieve f => some (0x0C3, { d := [.v], a := [.v], b := [.v], c := [.s, .imm], ty := [.none, .n32, .f32], u := false, extra := sieveExtra, mode := .lane }, f)
  | .ld f => some (0x100, { d := [.v], a := [.v, .s], b := off, addr := true, ty := tyMem, cp := true, w := true, mode := .laneUni }, f)
  | .st f => some (0x101, { a := [.v, .s], b := off, addr := true, c := [.v, .b, .imm], ty := tyMem, cp := true, mode := .laneUni }, f)
  | .lds f => some (0x102, { d := [.s], a := [.s], b := [.s, .imm], addr := true, ty := tyMem, cp := true, w := true, mode := .once }, f)
  | .sts f => some (0x103, { a := [.s], b := [.s, .imm], c := [.s, .imm], addr := true, ty := tyMem, cp := true, mode := .once }, f)
  | .ldl f => some (0x104, { d := reg, a := [.s], b := off, addr := true, ty := tyMem, ot := true, w := true }, f)
  | .stl f => some (0x105, { a := [.s], b := off, c := src, addr := true, ty := tyMem, ot := true }, f)
  | .pref f => some (0x106, { a := [.v, .s], b := off, addr := true, cp := true }, f)
  | .pfa f => some (0x107, { a := [.v, .s], b := off, addr := true, c := [.s, .imm], extra := fun f => immFrom f.c 128 65536 }, f)
  | .atom f => some (0x108, { d := reg, a := [.v, .s], b := off, addr := true, c := src, sc := scAny, ty := tyAtom, rm := true, fn := [0, 1, 2, 3, 4, 5, 6], w := true, extra := atomExtra, mode := .laneUni }, f)
  | .atomf f => some (0x109, { d := reg, a := [.v, .s], b := off, addr := true, c := src, sc := scAny, ty := [.f32, .f64], rm := true, fn := [0, 1, 2], w := true, mode := .laneUni }, f)
  | .atomx f => some (0x10A, { d := [.v], a := [.v, .s], b := off, addr := true, c := src, sc := scAny, ty := [.i32, .i64, .f32, .f64, .fx], rm := true, fn := List.range 64, pairD := true, w := true, mode := .laneUni }, f)
  | .cas f => some (0x10B, { d := reg, a := [.v, .s], b := off, addr := true, c := src, sc := scAny, ty := tyAtom, mode := .laneUni }, f)
  | .txb f => some (0x10C, { a := [.v], b := [.s, .imm, .unused], extra := fun f => immIn f.b 255, mode := .lane }, f)
  | .txe f => some (0x10D, { d := [.v], a := [.p], w := true, mode := .lane }, f)
  | .txa f => some (0x10E, { a := [.imm], extra := fun f => immIn f.a 255, mode := .lane }, f)
  | .txq f => some (0x10F, { d := [.v], mode := .lane }, f)
  | .fence f => some (0x110, { u := false, sc := [.grp, .blk, .cls, .die, .prt, .sys], mode := .once }, f)
  | .mon f => some (0x111, { d := [.s], a := [.v, .s], b := off, addr := true, mode := .once }, f)
  | .rwb f => some (0x112, { a := [.s], b := [.s, .imm], c := [.s, .imm], addr := true, extra := fun f => immIn f.c 0xFFFFFFFF, mode := .once }, f)
  | .rinv f => some (0x113, { a := [.s], b := [.s, .imm], c := [.s, .imm], addr := true, extra := fun f => immIn f.c 0xFFFFFFFF, mode := .once }, f)
  | .locq f => some (0x114, { d := reg, a := [.v, .s], b := off, addr := true }, f)
  | .cpy f => some (0x115, { d := [.v, .s, .b], a := [.v, .s], b := [.v, .s, .imm], c := [.imm], addr := true, cp := true, srcD := true, extra := cpyExtra }, f)
  | .seal f => some (0x116, { u := false, d := [.s], mode := .once }, f)
  | .bari f => some (0x117, { a := [.s, .imm], b := [.s, .imm], mode := .once }, f)
  | .bara f => some (0x118, { d := [.s], a := [.s, .imm], mode := .once }, f)
  | .barx f => some (0x119, { a := [.s, .imm], b := [.s, .imm], mode := .once }, f)
  | .barq f => some (0x11A, { d := [.s], a := [.s, .imm], mode := .once }, f)
  | .flag f => some (0x11B, { a := [.v, .s], b := off, addr := true, c := [.s, .imm], sc := [.none, .sys], mode := .once }, f)
  | .mxz f => some (0x142, { a := [.s, .imm], b := [.s, .imm], mode := .once }, f)
  | .mxw f => some (0x145, { a := [.s, .imm], b := [.s, .imm], mode := .once }, f)
  | .mxta f => some (0x146, { u := false, d := [.s], mode := .once }, f)
  | .mxtr f => some (0x147, { u := false, mode := .once }, f)
  | .mxp f => some (0x148, { a := [.s, .imm], b := [.s, .imm], c := [.imm], ot := true, extra := fun f => immFrom f.c 1 8, mode := .once }, f)
  | .mxq f => some (0x149, { d := [.s], mode := .once }, f)
  | .claq f => some (0x180, { u := false, d := [.s], a := [.s, .imm], extra := fun f => immIn f.a 0xFFFFF, mode := .once }, f)
  | .clrl f => some (0x181, { u := false, a := [.s, .imm], extra := fun f => immIn f.a 0xFFFFF, mode := .once }, f)
  | .clq f => some (0x182, { u := false, d := [.s], a := [.s, .imm], extra := clqExtra, mode := .once }, f)
  | .spawn f => some (0x183, { d := [.s], a := [.v, .s], b := off, addr := true, mode := .once }, f)
  | .await f => some (0x184, { c := [.imm, .unused], mode := .once }, f)
  | .qpop f => some (0x185, { d := [.v], c := [.p], mode := .lane }, f)
  | .qpush f => some (0x186, { a := [.v], b := [.s, .imm], extra := fun f => immIn f.b 255, mode := .lane }, f)
  | .qwput f => some (0x187, { a := [.v], b := [.imm], extra := fun f => immFrom f.b 1 64, mode := .once }, f)
  | .qwget f => some (0x188, { d := [.v], b := [.imm], extra := fun f => immFrom f.b 1 64, mode := .once }, f)
  | .wlapp f => some (0x189, { a := [.s, .imm], b := [.v, .s, .imm], mode := .lane }, f)
  | .wlpop f => some (0x18A, { d := [.v], c := [.p], mode := .lane }, f)
  | .term f => some (0x18B, { d := [.s], mode := .once }, f)
  | .movs f => some (0x1C0, { d := [.v, .s, .p, .sy, .xm], a := [.v, .s, .p, .b, .sy, .xm, .imm], extra := movsExtra }, f)
  | .movw f => some (0x1C1, { d := [.s, .sy], a := [.s, .imm], b := [.s, .sy], extra := movwExtra, mode := .once }, f)
  | .sysc f => some (0x1C2, { a := [.imm], extra := fun f => immIn f.a 2047, mode := .once }, f)
  | .rft f => some (0x1C3, { u := false, guarded := false, mode := .once }, f)
  | .tlbi f => some (0x1C4, { a := [.s], b := [.s], c := [.imm], sc := [.prt], extra := fun f => immIn f.c 1, mode := .once }, f)
  | .icinv f => some (0x1C5, { a := [.v, .s], b := off, addr := true, c := [.s, .imm], mode := .once }, f)
  | .csave f => some (0x1C6, { a := [.v, .s], b := off, addr := true, c := [.s], mode := .once }, f)
  | .crest f => some (0x1C7, { a := [.v, .s], b := off, addr := true, c := [.s], mode := .once }, f)
  | .gstop f => some (0x1C8, { a := [.s, .imm], mode := .once }, f)
  | .nopBase _ => none
  | .addBase _ => none
  | .subBase _ => none
  | .mulBase _ => none
  | .mulhBase _ => none
  | .minBase _ => none
  | .maxBase _ => none
  | .andBase _ => none
  | .orBase _ => none
  | .xorBase _ => none
  | .andnBase _ => none
  | .shlBase _ => none
  | .shrBase _ => none
  | .sarBase _ => none
  | .rotlBase _ => none
  | .movBase _ => none
  | .faddBase _ => none
  | .fsubBase _ => none
  | .fmulBase _ => none
  | .fminBase _ => none
  | .fmaxBase _ => none
  | .cmpEqBase _ => none
  | .cmpNeBase _ => none
  | .cmpLtBase _ => none
  | .cmpLeBase _ => none
  | .cmpGtBase _ => none
  | .cmpGeBase _ => none
  | .braBase _ _ => none
  | .joinBase => none
  | .exitBase _ => none
  | .pandBase _ => none
  | .porBase _ => none
  | .pxorBase _ => none
  | .yieldEnd _ => none
  | .sieveExchange _ => none
  | .mxm _ => none
  | .mxg _ => none
  | .mxld _ => none
  | .mxst _ => none
  | .matrixRetire _ => none
  | .engineLeaseEnd _ => none
  | .itemInList _ => none
  | .groupPark _ => none
  | .loadAtHome _ => none
  | .loadResult _ => none
  | .storePerformed _ => none
  | .atomicAtHome _ => none
  | .leaseExpiry _ _ => none
  | .monitorEviction _ => none
  | .stallEnd _ => none
  | .commit _ _ => none
  | .commitVisibility _ => none
  | .tokenReservationLapse _ => none
  | .darkroomMerge _ => none
  | .copyLanding _ _ => none
  | .copyElementFault _ => none
  | .trapEntry _ => none
  | .blockPlacement _ => none
  | .starvationLift _ => none
  | .contactSheetUpdate _ _ => none
  | .tickBoundary _ => none
  | .prologueFault _ => none
  | .tileFlagRelease _ => none
  | .gridCompletion _ => none
  | .childLaunch _ => none
  | .blockSave _ => none
  | .hardSave _ => none
  | .preemptionDeadline _ => none
  | .awaitSave _ => none
  | .blockRestore _ => none
  | .waitSatisfied _ => none
  | .launch _ _ => none
  | .launchPinned _ _ => none
  | .jointLaunch _ _ => none
  | .preempt _ _ => none
  | .restore _ _ => none
  | .signal _ _ => none
  | .waitCommand _ _ => none
  | .copyCmd _ _ => none
  | .copyCommandDone _ => none
  | .mapContext _ _ => none
  | .mapQueue _ _ => none
  | .mapContactSheet _ _ => none
  | .mapAperture _ _ => none
  | .mapTrapDescriptor _ _ => none
  | .mapSaveRegion _ _ => none
  | .unmapRange _ _ => none
  | .unmapContext _ _ => none
  | .unmapQueue _ _ => none
  | .unmapAperture _ _ => none
  | .partitionMerge _ _ => none
  | .partitionSplit _ _ => none
  | .mergeHandshakeTimeout _ => none
  | .attest _ _ => none
  | .versionCmd _ _ => none
  | .resetContext _ _ => none
  | .resetPartition _ _ => none
  | .resetPatch _ _ => none
  | .logCmd _ _ => none
  | .doorbell _ _ _ _ => none
  | .aqctl _ _ => none
  | .registerWrite _ _ _ => none
  | .functionLevelReset _ => none
  | .ptmDialogue _ _ => none
  | .coldReset => none
  | .leaseHold _ _ => none
  | .leaseHoldEnd _ _ => none
  | .fabricRequest _ _ => none
  | .acknowledgement _ _ => none
  | .fabricReplay _ => none
  | .linkDown _ => none
  | .linkUp _ _ => none
  | .targetUnreachable _ => none
  | .targetReachable _ => none
  | .staleResponse _ _ => none
  | .dieReset _ => none
  | .dieFailed _ => none
  | .tableSwitch _ _ => none
  | .forcedTableSwitch _ _ => none
  | .misrouted _ => none
  | .watchdogExpiry _ => none
  | .correctableError _ _ => none
  | .uncorrectableError _ => none
  | .patrolScrub _ _ => none
  | .stackFailure _ => none
  | .fatalState => none
  | .clockStep _ _ => none
  | .thermalTrip => none
  | .getVersion => none
  | .getHealth => none
  | .getTelemetry => none
  | .setPowerLimit _ => none
  | .getPowerLimit => none
  | .safelightResetModule => none
  | .safelightResetFunction _ => none
  | .safelightResetMain => none
  | .getLog _ _ => none
  | .setPartitionDefault _ => none
  | .loadPatch _ => none
  | .spdmGetVersion _ => none
  | .getCapabilities _ => none
  | .negotiateAlgorithms _ => none
  | .getDigests _ => none
  | .getCertificate _ _ _ _ => none
  | .challenge _ _ _ => none
  | .getMeasurements _ _ => none
  | .linkRetried _ => none
  | .dieRestart _ => none
  | .blockNotSavedByBound _ _ => none
  | .hostPortError _ _ => none

/-! ## The checks of XG and XB -/

/-- The first of some checks that fails. -/
def firstOf : List (Option Nat) → Option Nat
  | [] => none
  | none :: r => firstOf r
  | some x :: _ => some x

/-- A check that must hold, or the DETAIL code. -/
def need (c : Bool) (n : Nat) : Option Nat := if c then none else some n

/-- An operand in its field: a latch or `xm` as a destination has its own code, a field that is unused by the entry must
be empty, and other classes are not allowed (R107, R334). -/
def classCheck (dest : Bool) (cs : List OpClass) (o : Operand) : Option Nat :=
  if cs.contains (opClass o) then none
  else if dest && (isLatch o || o = .xm) then some 6
  else if cs = [.unused] then some 2
  else some 4

/-- The one immediate source of a CVT that IMM can carry: 0, of an integer type, as IMM is zero without `.fx` (R101, R143, R145). -/
def cvtZero (f : XForm) (xs : List DWord) : Bool := xs = [0] && f.c = .unused && tyInts.contains (tyOfCode f.fn.toNat)

/-- The form and the immediates fit each other (R101, R103, R145). DESIGN CHOICE: in a CVT with `.fx` IMM holds the binary point in both
forms, so an immediate A needs the literal and LEN 0b01 refuses it; R101 gives IMM to the immediate, or makes it zero, where R106 and
R143 give it to the point (log entry 112). -/
def formCheck (sp : XSpec) (f : XForm) : Option Nat :=
  let xs := imms sp f
  if sp.xb then none
  else
    match f.form with
    | .x =>
      if 1 < xs.length || (sp.floatImm && xs.length = 1) || (sp.fixed && xs.length = 1 && !cvtZero f xs) then some 5
      else if xs.all (signFits 12) then none else some 3
    | .xl =>
      if !sp.lit || xs.length = 0 || 3 < xs.length || (sp.floatImm && xs.length ≠ 1) then some 5
      else
        match xs with
        | [x, _] => need (signFits 12 x) 3
        | [x, y, z] => need (signFits 12 x && signFits 32 y && signFits 32 z) 3
        | _ => none
    | .bl => some 5

/-- The branch offsets of XB: a 23-bit target, BRD's second label of 32 bits, and the form of each (R103). -/
def branchCheck (brd : Bool) (f : XForm) : Option Nat :=
  match f.c with
  | .imm x =>
    if !signFits 23 x then some 3
    else if brd then
      match f.b with
      | .imm y => if f.form ≠ .xl then some 5 else need (signFits 32 y) 3
      | _ => some 3
    else need (f.form = .x) 5
  | _ => some 3

/-- The modifiers (R102, R107). -/
def modCheck (sp : XSpec) (f : XForm) : Option Nat :=
  firstOf
    [need (!f.gn || f.gp.val ≠ 0) 3,
      need (sp.ty.contains f.ty) 4,
      need (sp.rm || f.rm = .rn) 4,
      need (sp.sc.contains f.sc) 4,
      need (sp.ot || !f.col) 4,
      need (sp.cp || f.cp = .none) 4,
      need (sp.fn.contains f.fn.toNat) 4,
      need (sp.u || !f.uni) 2,
      need (sp.guarded || (f.gp.val = 0 && !f.gn)) 2,
      need (!f.sup || sp.w) 4,
      need (!f.sup || f.d = .unused) 2]

/-- A vector operand of a 64-bit type is an even pair, the base of a global address always is (R100, R114, R156). -/
def pairCheck (sp : XSpec) (f : XForm) : Option Nat :=
  let w := wide f.ty
  let wa := if sp.fixed then wide (tyOfCode f.fn.toNat) else if sp.addr then true else w
  need (pairOk (w || sp.pairD) f.d && pairOk wa f.a && (sp.addr || pairOk w f.b) && pairOk w f.c) 3

/-- The classes of the operands of XG. -/
def operandCheck (sp : XSpec) (f : XForm) : Option Nat :=
  firstOf
    [if f.sup then none else classCheck (!sp.srcD) sp.d f.d,
      classCheck false sp.a f.a,
      classCheck false sp.b f.b,
      classCheck false sp.c f.c]

/-- A scalar destination only in an instruction that executes once, and in ELECT and VOTE (R117). -/
def scalarCheck (sp : XSpec) (f : XForm) : Option Nat :=
  need (!isScalar f.d || sp.srcD || sp.lone || uniform sp.mode f) 4

/-- A control instruction that carries two branch offsets. -/
def isBrd : Instr → Bool
  | .brd _ => true
  | _ => false

/-- The classes of XB: only the fields that the layout leaves (R103, R120). -/
def branchOperands (sp : XSpec) (brd : Bool) (f : XForm) : Option Nat :=
  firstOf [classCheck true sp.d f.d, classCheck false sp.a f.a, if brd then none else classCheck false sp.b f.b]

/-- The first rule of R99 to R107 or of its entry that an instruction of layout XG or XB breaks. -/
def xCheck (i : Instr) (sp : XSpec) (f : XForm) : Option Nat :=
  if sp.xb then firstOf [branchCheck (isBrd i) f, modCheck sp f, branchOperands sp (isBrd i) f, sp.extra f]
  else firstOf [formCheck sp f, modCheck sp f, operandCheck sp f, sp.extra f, pairCheck sp f, scalarCheck sp f]

/-! ## The base word with literal (R95 to R98) -/

/-- The kinds of base operation (R98). -/
inductive BKind where
  | int | mov | flt | cmp | pred
  deriving DecidableEq, Repr

/-- The base operations that a literal may follow, by their extended mnemonic: the kind and the OP value (R97, R98). -/
def baseLit : Instr → Option (BKind × Nat)
  | .add _ => some (.int, 0x01)
  | .sub _ => some (.int, 0x02)
  | .mul _ => some (.int, 0x03)
  | .mulh _ => some (.int, 0x04)
  | .min _ => some (.int, 0x05)
  | .max _ => some (.int, 0x06)
  | .and _ => some (.int, 0x07)
  | .or _ => some (.int, 0x08)
  | .xor _ => some (.int, 0x09)
  | .andn _ => some (.int, 0x0A)
  | .shl _ => some (.int, 0x0B)
  | .shr _ => some (.int, 0x0C)
  | .sar _ => some (.int, 0x0D)
  | .rotl _ => some (.int, 0x0E)
  | .mov _ => some (.mov, 0x0F)
  | .fadd _ => some (.flt, 0x10)
  | .fsub _ => some (.flt, 0x11)
  | .fmul _ => some (.flt, 0x12)
  | .fmin _ => some (.flt, 0x13)
  | .fmax _ => some (.flt, 0x14)
  | .cmp f => some (.cmp, 0x15 + f.fn.toNat)
  | _ => none

/-- A register that the 6-bit field of a class names (R96): below 60, of the vector or the scalar class. -/
def field6 (scalar : Bool) : Operand → Bool
  | .v n => !scalar && n.val < 60
  | .s n => scalar && n.val < 60
  | _ => false

/-- The checks of the base word with literal; `col` holds that CL is 0b10 (R95, R96, R98). -/
def litCheck (k : BKind) (f : XForm) : Option Nat :=
  firstOf
    [need (!f.gn && f.gp.val < 4 && f.ty = .none && f.rm = .rn && f.sc = .none && f.cp = .none && f.c = .unused) 5,
      need (if k = .cmp then f.fn.toNat < 6 else f.fn = 0) 5,
      need (!f.sup || k ≠ .cmp) 4,
      (match k with
        | .cmp => need (opClass f.d = .p) 3
        | _ => if f.sup then need (f.d = .unused) 2 else need (field6 f.col f.d) 6),
      (match k with
        | .mov => need (f.a = .unused) 2
        | _ => need (field6 f.col f.a || isLatch f.a) 3),
      need (opClass f.b = .imm) 3]

/-! ## The base word (R94 to R98) -/

/-- The kind of a base word that has operand fields, with its OP value (R97). -/
def baseWord : Instr → Option (BKind × Nat × BForm)
  | .addBase f => some (.int, 0x01, f)
  | .subBase f => some (.int, 0x02, f)
  | .mulBase f => some (.int, 0x03, f)
  | .mulhBase f => some (.int, 0x04, f)
  | .minBase f => some (.int, 0x05, f)
  | .maxBase f => some (.int, 0x06, f)
  | .andBase f => some (.int, 0x07, f)
  | .orBase f => some (.int, 0x08, f)
  | .xorBase f => some (.int, 0x09, f)
  | .andnBase f => some (.int, 0x0A, f)
  | .shlBase f => some (.int, 0x0B, f)
  | .shrBase f => some (.int, 0x0C, f)
  | .sarBase f => some (.int, 0x0D, f)
  | .rotlBase f => some (.int, 0x0E, f)
  | .movBase f => some (.mov, 0x0F, f)
  | .faddBase f => some (.flt, 0x10, f)
  | .fsubBase f => some (.flt, 0x11, f)
  | .fmulBase f => some (.flt, 0x12, f)
  | .fminBase f => some (.flt, 0x13, f)
  | .fmaxBase f => some (.flt, 0x14, f)
  | .cmpEqBase f => some (.cmp, 0x15, f)
  | .cmpNeBase f => some (.cmp, 0x16, f)
  | .cmpLtBase f => some (.cmp, 0x17, f)
  | .cmpLeBase f => some (.cmp, 0x18, f)
  | .cmpGtBase f => some (.cmp, 0x19, f)
  | .cmpGeBase f => some (.cmp, 0x1A, f)
  | .pandBase f => some (.pred, 0x1E, f)
  | .porBase f => some (.pred, 0x1F, f)
  | .pxorBase f => some (.pred, 0x20, f)
  | _ => none

/-- The checks of a base word. -/
def baseCheck (k : BKind) (f : BForm) : Option Nat :=
  firstOf
    [need (k ≠ .flt || f.cl.val = 0 || f.cl.val = 2) 3,
      need (k ≠ .pred || f.cl.val = 0) 3,
      need (!f.w || (k ≠ .cmp && k ≠ .pred)) 4,
      need (!f.w || f.d.val = 0) 2,
      (if k = .cmp || k = .pred then need (f.d.val < 16) 3 else need (f.d.val < 60) 6),
      need (k ≠ .pred || (f.a.val < 16 && f.b.val < 16)) 3,
      need (k ≠ .mov || f.a.val = 0) 2]

/-! ## The matrix layout (R104, R208, R214) -/

/-- What R214 allows of MXM and MXG, and of MXLD and MXST. -/
def mCheck (tile store adapter : Bool) (f : MForm) : Option Nat :=
  firstOf
    [need (!f.gn || f.gp.val ≠ 0) 3,
      need f.uni 4,
      need (if tile then tyTile.contains f.ty else f.ty = .none) 4,
      need (!tile || f.rm = .rn || (store && (f.ty = .bf16 || f.ty = .f16))) 4,
      need (!tile || f.nsz.val < 12) 3,
      need (!tile || (f.ksz.val = 0 && !f.bcol && f.b = none && f.c = none && f.boff = 0 && f.coff = 0)) 2,
      need (adapter || f.toff = 0) 2]

/-- The matrix instructions of the layout XM (R214). -/
def mspec : Instr → Option (Nat × Bool × Bool × Bool × MForm)
  | .mxm f => some (0x140, false, false, false, f)
  | .mxg f => some (0x141, false, false, true, f)
  | .mxld f => some (0x143, true, false, false, f)
  | .mxst f => some (0x144, true, true, false, f)
  | _ => none

/-! ## All together -/

/-- The DETAIL code of the first rule that an instruction's fields break, if any (R107, R334). Device and host steps have
no fields to break. -/
def illegal (i : Instr) : Option Nat :=
  match xspec i with
  | some (_, sp, f) =>
    if f.form = .bl then
      match baseLit i with
      | some (k, _) => litCheck k f
      | none => some 5
    else xCheck i sp f
  | none =>
    match mspec i with
    | some (_, t, s, g, f) => mCheck t s g f
    | none =>
      match baseWord i with
      | some (k, _, f) => baseCheck k f
      | none => none

end Sys2Proof.Machine
end

