-- ==== Sys2Proof/Config.lean ====
section
/-! DEFINITION. What an implementation of the XN-1 fixes and the spec leaves open. The opaque constants are free
values: nothing is known of them, and a statement holds whatever they are. -/

namespace Sys2Proof.Config

/-! ## Free values (no body on purpose) -/

/-- Ticks of `sy.gtc` that the step with this number takes (log entry 1). -/
opaque elapsed : Nat → Nat
/-- Clocks that each die's `sy.cyc` counts in the step with this number (log entry 1). -/
opaque clocks : Nat → Nat → Nat
/-- Whether, at this step, work of the device that can happen happens before an instruction issues (log entry 5). -/
opaque workFirst : Nat → Bool
/-- Whether a cache still holds a copy at this step (R191, R254, R374 let it go at any time; log entry 6). -/
opaque keeps : Nat → Nat → Bool
/-- Whether a translation cache still holds an entry that differs from the tables (R366; log entry 7). -/
opaque tlbKeeps : Nat → DWord → Bool
/-- Which of the contents that a word has had since the last ICINV a fetch gets, newest first (R93; log entry 7). -/
opaque fetchesOld : Nat → Nat → Nat
/-- Whether a cache lets something go at this step: a die's darkroom line (the die, the line), a core's update-only line (8 +
the core, the line), or a monitor's registration (512 + the group's identity, the line) (R169, R189, R191; log entry 6). -/
opaque evicts : Nat → Nat → Nat → Bool
/-- Which of its lines a full cache lets go of at a step: a number, modulo their count; the cache is a core's L1 (the core) or a die's
L2 (288 + the die) (R2, R6; log entry 6). -/
opaque victim : Nat → Nat → Nat
/-- The home slice of a line on its home die (R59, R179, R194; log entry 11). -/
opaque slice : Nat → BitVec 5
/-- A byte that a peer module's memory, or a module that this one cannot see, answers with, by step and address (R315,
R326; log entry 22). -/
opaque peerByte : Nat → Nat → Byte
/-- How often a request that is answered in the step that makes it has been replayed before, by step and sequence number (R382; log
entry 110). -/
opaque replays : Nat → BitVec 32 → Nat
/-- The approximations of R151, each a fixed function of the operand's bits (log entry 9). -/
opaque frcp : BitVec 32 → BitVec 32
opaque frsq : BitVec 32 → BitVec 32
opaque fexp2 : BitVec 32 → BitVec 32
opaque flog2 : BitVec 32 → BitVec 32
opaque fsin : BitVec 32 → BitVec 32
opaque fcos : BitVec 32 → BitVec 32
/-- The rank of a core among those whose gathered floating sums a home combines at one step (R88, R169; log entry 17). -/
opaque combineRank : Nat → Nat → Nat
/-- Contact-sheet counts of a group's phase in the step with this number (R293; log entry 18). -/
opaque sheetCount : Nat → Nat → Nat → DWord
/-- Bytes of an SPDM answer, by the kind of request, the step and the contents that it reports (R331; log entry 13). -/
opaque spdmBytes : Nat → Nat → List Byte → List Byte
/-- The certificate chain of slot 0 (R331; log entry 13). -/
opaque certChain : List Byte
/-- The boot ROM (0) and the firmware ROM (1) (R331; log entry 13). -/
opaque rom : Nat → List Byte
/-- The public key that the boot ROM has for a key slot (R330; log entry 14). -/
opaque publicKey : Nat → List Byte
/-- What a module's fuses hold at its first cold reset: the key-slot digests, the revoked slots and the rollback counter (R330; log
entry 14). -/
opaque fuseKeys : List (List Byte)
opaque fuseRevoked : List Nat
opaque fuseRollback : Nat
/-- What a latch holds in a lane that its instruction left unwritten, by step and lane (R41 is silent; log entry 19). -/
opaque latchLane : Nat → Nat → BitVec 64
/-- The bytes of a CSAVE record whose layout the spec leaves open, by the group's identity (R251; log entry 27). -/
opaque saveByte : Nat → Nat → Byte
/-- The bytes of a hard-saved window's slots that have been freed, by step and place (R242, R295, R297; log entry 27). -/
opaque windowByte : Nat → Nat → Byte
/-- The block of a group that CREST loads from bytes that no CSAVE wrote (R251 is silent; log entry 27). -/
opaque foreignBlock : Nat → Nat
/-- Whether the front end asks at a step that a grid be saved, and by which deadline, 0 for none (R294; log entry 74). -/
opaque frontAsks : Nat → Nat → Option Nat
/-- A measured quantity of the module at a step: its power in W (0), the temperature of a die (1 to 8) and of the coolant
(9) in °C (R328; log entry 28). -/
opaque telemetry : Nat → Nat → Nat
/-- The Safelight version of the controller that asks at a step (R320; log entry 75). -/
opaque controllerVersion : Nat → Nat
/-- The virtual address at which a prologue sees its working copy (R283; log entry 20). -/
opaque prologueBase : DWord

/-! ## Figures of the device (R2, R6) -/

/-- HBM4E bytes of one quarter: three stacks of 64 GiB (R2, R314). -/
def quarterBytes : Nat := 192 * 2 ^ 30
/-- Lines of 128 bytes in the L2 of a die: 192 MiB on an M-die, 64 MiB on a B-die (R2, R6). -/
def l2Lines (die : Nat) : Nat := (if die < 4 then 192 else 64) * 2 ^ 20 / 128
/-- Lines of 128 bytes in the L1 of a core: 256 KiB; the four of a cluster make 1 MiB when they are fused (R6, R57). -/
def l1Lines : Nat := 256 * 2 ^ 10 / 128
/-- Resident groups per core (R6). -/
def slotsPerCore : Nat := 96
/-- Sub-cores per core (R6). -/
def subCores : Nat := 6
/-- Cores of the module (R6). -/
def cores : Nat := 288

end Sys2Proof.Config
end

