-- ==== Sys2Proof/Machine/State.lean ====
section
/-! DEFINITION. Everything the spec gives the machine to hold, as plain data: groups, blocks, grids, cores, dies,
partitions, the homes of lines, the fabric, the host interface and the management port; and the state after reset. -/

namespace Sys2Proof.Machine

/-! ## Units of work -/

/-- Why a group is not ready although it is resident. -/
inductive Stall where
  /-- FENCE until earlier stores are complete at the scope (R188). -/
  | fence (sc : Sc)
  /-- FLAG until earlier stores are complete at its scope (R204). -/
  | flag (sc : Sc)
  /-- BARA until its release is counted (R203). -/
  | bara
  /-- SPAWN, QPUSH, WLAPP and ICINV until earlier stores are complete at `.prt` (R239, R240, R243, R250). -/
  | release
  /-- CLAQ while the group has a deferred request (R235). -/
  | claq
  /-- CLRL until no copy or arrival uses what it releases (R236). -/
  | clrl
  /-- SEAL while 32 batches have not completed (R199). -/
  | seal
  /-- CPY until its channel has free records (R198). -/
  | ring
  /-- MXW and MXTR until the block's matrix instructions have retired (R223, R226), and a matrix instruction while its array
  is reserved (R216) or its lease's last counted instruction has not retired (R227). -/
  | engine
  /-- QPUSH and SPAWN while the queue or the pool is full (R239, R240). -/
  | full
  /-- QWPUT and QWGET until slots are free or full (R242). -/
  | window
  /-- A store, atomic or load that waits for a lock (R181) or for a home on a resetting die (R387). -/
  | lock
  /-- A role that halted at a stop token (R242). -/
  | halted
  /-- TLBI until every access translated through what it removes has performed, and darkroom bytes have merged (R250,
  R372). -/
  | tlbi
  /-- GSTOP until its target is parked (R251). -/
  | gstop
  /-- A group of a dependent launch's block until the block's tile flag is non-zero (R276). -/
  | tile
  deriving DecidableEq, Repr

/-- Why a group is parked. -/
inductive Park where
  /-- A restartable fault: the group replays its instruction (R345). -/
  | pageFault
  /-- A trap without a handler (R347), or a fault of the removal of lanes (R126, R343). -/
  | trap
  /-- A trap without records, inside the handler, or while a record or notice is written: the group stays parked until RESET 0, UNMAP 1
  or recovery (R347). -/
  | forGood
  /-- GSTOP (R251) or a save (R294). -/
  | stopped
  deriving DecidableEq, Repr

/-- What a group is doing. `free` is a slot that holds no group. -/
inductive Status where
  | free
  | ready
  /-- Asleep in WAIT or AWAIT on an event: the object's lattice address for `ev.bar`, the phase, the address at which
  the group resumes, and whether it sleeps in AWAIT (R132, R239). -/
  | asleep (ev : Ev) (obj : Nat) (phase : DWord) (resume : DWord) (await : Bool)
  /-- Asleep in a matrix instruction of a spilled holder until the token returns (R227). -/
  | spilled
  /-- Asleep in SIEVE until the exchange (R232); the group resumes at `resume`. -/
  | sieve (resume : DWord)
  | stalled (why : Stall)
  | parked (why : Park)
  | ended
  deriving DecidableEq, Repr

/-- A divergence entry; bit 0 of `pc` is its kind: 0 rejoin, 1 pending path (R60, R61, R123). -/
structure DivEntry where
  pc : DWord
  mask : LaneMask
  reconv : DWord
  deriving DecidableEq, Repr

/-- A call-return entry: the return address and the divergence depth at the call (R60, R61). -/
structure CallEntry where
  ret : DWord
  depth : DWord
  deriving DecidableEq, Repr

/-- What a latch holds: a value for each lane, or one value for the group (R41). -/
inductive Latch where
  | lanes (x : List DWord)
  | scalar (x : DWord)
  deriving DecidableEq, Repr

/-- The operand words of a SIEVE that its group has issued (R232), and the lanes that are live for it (R14, R230). -/
structure SieveArrival where
  ty : Ty
  packed : DWord
  d : Nat
  key : Nat
  weight : Nat
  lanes : LaneMask
  deriving DecidableEq, Repr

/-- One lane's transaction (R174 to R186). A log is a list of (line, offset and byte) entries, oldest first; `vas` has the virtual
addresses of the lines that the lane has read (R362), and `later` the bytes (number of the store and offset) of the group's stores held
back by the lane's locks over which the lane has written since (R159, R181). -/
structure Txn where
  isOpen : Bool := false
  depth : Nat := 0
  irr : Bool := false
  doomed : Option (Nat × Nat) := none
  reads : List (Nat × AMap Byte) := []
  writes : List (Nat × AMap Byte) := []
  lines : List Nat := []
  vas : AMap DWord := []
  later : List (Nat × Nat) := []
  deriving DecidableEq, Repr

/-- A batch of copy elements that has been sealed and has not completed (R199). -/
structure Batch where
  no : Nat
  elems : List Nat
  deriving DecidableEq, Repr

/-- A cached translation (R250, R366): its partition, context, virtual page base, level and leaf entry. -/
structure TlbEntry where
  part : Nat
  ctx : Nat
  page : DWord
  level : Nat
  entry : DWord
  deriving DecidableEq, Repr

/-- A fault record before it is written (R338). -/
structure Rec where
  pc : DWord
  code : Nat
  lane : Nat
  flags : Nat
  detail : Word
  addr : DWord
  entry : DWord
  mask : LaneMask
  gtc : DWord
  word : Word
  deriving DecidableEq, Repr

/-- The classes of traps (R333), in the order of their codes in `sy.ecause` (R340); class P is never delivered. -/
inductive TrapClass where
  | I | C | L | A | P
  deriving DecidableEq, Repr

/-- A trap that waits to be taken: at the end of a latch chain (R348), after outstanding results (R339), or at the
next instruction boundary (R349). `issued` is the tick at which the access issued whose lanes have records in it, some of which may
come back with no data later (R385, R404), or 0. -/
structure PendTrap where
  cls : TrapClass
  code : Nat
  sw : Nat
  recs : List Rec
  epc : DWord
  uniform : Bool
  elems : List Nat
  issued : Nat := 0
  deriving DecidableEq, Repr

/-- The role of a group in a ring (R36). -/
inductive Role where
  | none | computer | loader | storer
  deriving DecidableEq, Repr

/-- A group that runs a command's prologue (R283): the command's queue, the instructions issued, how often the command has already
run, and the working copy. A joint launch has several records: those that have been settled, those still to be looked at (whether
each stands at a multiple of 64, and its bytes; none where it cannot be read), and whether one of them asked for another run; `uids`
names the groups of the command's earlier prologues, and `before` is the status and result that earlier runs leave, with 0 for done
(R360, R385). -/
structure Prologue where
  q : QRef
  count : Nat
  runs : Nat
  copy : List Byte
  addr : DWord
  settled : List (Option (Bool × List Byte)) := []
  rest : List (Option (Bool × List Byte)) := []
  again : Bool := false
  uids : List Nat := []
  before : Nat × Nat := (0, 0)
  deriving DecidableEq, Repr

/-- One group: 128 threads with one program counter (R26, R29). `arriving` is the object of a BARA that has issued and has not been
counted (R203, R236). Its default is a free slot; a group starts with the
values that R40, R75, R287 and R302 give. -/
structure Group where
  status : Status := .free
  uid : Nat := 0
  block : Nat := 0
  gid : Nat := 0
  member : Nat := 0
  pc : DWord := 0
  xm : LaneMask := 0
  exited : LaneMask := 0
  range : Nat := 0
  v : AMap VReg := []
  s : AMap DWord := []
  hs : AMap DWord := []
  p : AMap LaneMask := []
  latches : List Latch := []
  chainPc : DWord := 0
  chainLen : Nat := 0
  chainPush : Nat := 0
  div : List DivEntry := []
  divSpill : Nat := 0
  call : List CallEntry := []
  callSpill : Nat := 0
  prio : Nat := 0
  mark : BitVec 16 := 0
  fpflags : DWord := 0
  yielding : Bool := false
  yieldAt : DWord := 0
  starve : Nat := 0
  issued : Nat := 0
  phaseIssues : Nat := 0
  cGrant : DWord := 0
  cMon : DWord := 0
  cBatch : DWord := 0
  cJoin : DWord := 0
  cQueue : DWord := 0
  cToken : DWord := 0
  monLine : Option Nat := none
  monAt : Nat := 0
  tid : AMap Word := []
  epc : DWord := 0
  ecause : DWord := 0
  erec : DWord := 0
  exm0 : DWord := 0
  exm1 : DWord := 0
  priv : Bool := false
  faultMask : LaneMask := 0
  faultPerLane : Bool := false
  faultElems : List Nat := []
  qph : DWord := 0
  qcl : Bool := false
  stk : DWord := 0
  role : Role := .none
  ring : Nat := 0
  txn : AMap Txn := []
  openCopies : List Nat := []
  batchSeq : Nat := 0
  batches : List Batch := []
  deferred : Option DWord := none
  spawned : Nat := 0
  idle : Bool := false
  pend : List PendTrap := []
  held : Option PendTrap := none
  sieve : Option SieveArrival := none
  owedSieve : Option Nat := none
  prologue : Option Prologue := none
  stopAsked : Bool := false
  arriving : Option Nat := none
  tlbiSeen : Nat := 0
  tlbiWait : Option (DWord × List Nat × List TlbEntry) := none
  fwd : List (Nat × Nat × AMap Byte) := []
  pushed : Nat := 0
  deriving DecidableEq, Repr

/-- Amounts of the four claimed kinds: register units, squares, engine, copy channels (R284). -/
structure Amt where
  reg : Nat := 0
  sqr : Nat := 0
  mxe : Nat := 0
  cpc : Nat := 0
  deriving DecidableEq, Repr

/-- The kernel header's fields that a launch reads (R112). -/
structure KHdr where
  entry : DWord := 0
  cls : Nat := 0
  remove : Bool := false
  order : Bool := false
  fuse : Bool := false
  roles : Bool := false
  regi : Nat := 0
  regm : Nat := 0
  sqi : Nat := 0
  sqm : Nat := 0
  mxem : Nat := 0
  cpcm : Nat := 0
  qwin : Nat := 0
  shrg : Nat := 0
  stk : Nat := 0
  accs : Nat := 0
  ldoff : Word := 0
  sroff : Word := 0
  lvl : List Byte := []
  deriving DecidableEq, Repr

/-- A launch record's fields (R277). -/
structure LRec where
  khdr : DWord := 0
  karg : DWord := 0
  flags : Word := 0
  nlvl : Nat := 0
  gang : Nat := 0
  lease : Nat := 0
  lvl : List Byte := []
  ext : List Nat := []
  preg : Nat := 0
  psqr : Nat := 0
  pmxe : Nat := 0
  pcpc : Nat := 0
  qnum : Nat := 0
  stkb : DWord := 0
  accb : DWord := 0
  tfa : DWord := 0
  tmap : DWord := 0
  prolog : DWord := 0
  deriving DecidableEq, Repr

/-- Where a block stands in its life. -/
inductive BlockStatus where
  | resident | saving | saved | ended | lost
  deriving DecidableEq, Repr

/-- A ring of a block (R36, R242): its three groups, the registers in its two halves, oldest first, and how many have been put into
each half so far. -/
structure Ring where
  computer : Nat
  loader : Nat
  storer : Nat
  slots : Nat
  ringL : List VReg := []
  ringS : List VReg := []
  putsL : Nat := 0
  putsS : Nat := 0
  stopL : Bool := false
  stopS : Bool := false
  haltL : Bool := false
  haltC : Bool := false
  haltS : Bool := false
  hard : Bool := false
  deriving DecidableEq, Repr

/-- The queue entry that a lane popped last and that R360 would put back: the group's identity, the lane, the entry and
whether it is marked retry-once. -/
structure Popped where
  uid : Nat
  lane : Nat
  entry : List Byte
  retry : Bool
  deriving DecidableEq, Repr

/-- A block: the claimant of every kind (R30). Lists by gang member run from member 0. `away` names the groups that CSAVE
has taken from their slots. -/
structure Block where
  status : BlockStatus := .ended
  grid : Nat := 0
  bid : Nat := 0
  cores : List Nat := []
  groups : List Nat := []
  sqrs : List (List Nat) := []
  chans : List Nat := []
  mxe : List Bool := []
  win : List (Option (Nat × Nat)) := []
  spilled : List Bool := []
  rings : List Ring := []
  popped : List Popped := []
  saved : List (Nat × Group) := []
  savedHold : List Amt := []
  savedSqrs : List (List Byte) := []
  savedAt : Option (Nat × Nat) := none
  restoring : Bool := false
  late : Bool := false
  spillFault : List (Nat × DWord) := []
  away : List Nat := []
  deriving DecidableEq, Repr

/-- Where a grid stands. -/
inductive GridStatus where
  | waiting | running | draining | saved | done
  deriving DecidableEq, Repr

/-- A grid: all the blocks of one launch (R31). `used` lists the cores on which blocks of it have been placed, `tiles` the placed blocks
that wait for their tile flag, `peerLost` is the module that a store of the grid did not reach, `told` the completion time, and what a
target must acknowledge, of what its end writes (R293, R363), `asked` the tick of a pre-emption request, `savedC` and `savedSent` the
latest completion time of what its saves have written and what of that is still on its way (R319), `prologues` the groups of its
command's prologues, and `before` the status and result that earlier runs of its command leave (R360, R385). -/
structure Grid where
  status : GridStatus := .done
  part : Nat := 0
  ctx : Nat := 0
  hdr : KHdr := {}
  lrec : LRec := {}
  blocks : Nat := 0
  next : Nat := 0
  live : List Nat := []
  used : List Nat := []
  tiles : List Nat := []
  lost : Bool := false
  peerLost : Option Nat := none
  pinned : Bool := false
  joint : List Nat := []
  core : Option Nat := none
  q : Option QRef := none
  parent : Option (Nat × Nat) := none
  record : DWord := 0
  rerun : Option Nat := none
  told : Option (Nat × List Nat) := none
  deadline : Option Nat := none
  asked : Nat := 0
  savedC : Nat := 0
  savedSent : List Nat := []
  prologues : List Nat := []
  before : Nat × Nat := (0, 0)
  die : Nat := 0
  term : Bool := false
  deriving DecidableEq, Repr

/-! ## Cores -/

/-- A claimant of a pool (R285): a block, or a carved pool's launch in the common pool. -/
structure Claimant where
  block : Option Nat := none
  carve : Option Nat := none
  grid : Nat := 0
  bid : Nat := 0
  order : Bool := false
  hold : Amt := {}
  max : Amt := {}
  deriving DecidableEq, Repr

/-- A request that the Proofer deferred: the CLAQ of the group with an identity, or the restore of a saved block (R289,
R298). -/
inductive Deferred where
  | claim (uid : Nat) (word : DWord)
  | restore (block : Nat)
  deriving DecidableEq, Repr

/-- A pool of a core (R284): the common pool has `owner = none`; a carved pool names the launch's first grid. -/
structure Pool where
  owner : Option Nat := none
  total : Amt := {}
  claimants : List Claimant := []
  queue : List Deferred := []
  deriving DecidableEq, Repr

/-- A matrix instruction that the engine has started and that has not retired (R207): its block, the group that issued it, and
the core whose array it spans as well (R216). An entry that is not `counted` is the reservation of a follower's array. -/
structure MxOp where
  block : Nat
  uid : Nat := 0
  counted : Bool
  follower : Option Nat := none
  deriving DecidableEq, Repr

/-- A copy of a line that a cache holds (R160, R254): the bytes it holds, the expiry of its lease (none: never), the bytes that
the core's own stores wrote and that no home has performed and shown yet, and of those that a home has performed into an image that
waits, the time at which that image is visible (R180). -/
structure Copy where
  bytes : AMap Byte := []
  expiry : Option Nat := none
  own : AMap Byte := []
  shown : AMap Nat := []
  deriving DecidableEq, Repr

/-- An update-only line of a core (R169): its partial sums by offset, under one type and operation, the virtual address of
the line, and the groups that have updated it, with their grids and scopes (R172, R272). -/
structure Gather where
  part : Nat
  ctx : Nat
  ty : Ty
  fx : Bool
  rm : Rm
  sums : AMap DWord
  va : DWord := 0
  whom : List (Nat × Nat × Sc) := []
  deriving DecidableEq, Repr

/-- One core: lattice, accumulator, engine, copy rings, pools and update-only lines (R46, R198, R206, R226, R284). -/
structure Core where
  placed : Bool := true
  errAt : Option Nat := none
  lat : AMap Byte := []
  owner : AMap Nat := []
  acc : AMap Word := []
  token : Option Nat := none
  tokenQ : List Nat := []
  lease : Nat := 0
  mxq : List MxOp := []
  rings : List (List Nat) := [[], [], [], []]
  pools : List Pool := [{ total := { reg := 512, sqr := 128, mxe := 1, cpc := 4 } }]
  subPtr : Nat := 0
  gather : AMap Gather := []
  hints : List ((Nat × Nat) × Nat × Nat) := []
  deriving DecidableEq, Repr

/-- A copy element (R196, R197): the identity of its CPY, the pieces that have landed, the pieces that a global destination has been
sent with the store that carries each, and the source bytes in the lattice that have been read already. An element that stopped at a
fault and that no trap will retire is an orphan (R349). -/
structure Elem where
  g : Nat
  gid : Nat := 0
  uid : Nat
  grid : Nat
  block : Nat
  cpy : Nat := 0
  lane : Nat
  toLat : Bool
  glob : DWord
  lat : Nat
  len : Nat
  bar : Option Nat
  core : Nat
  chan : Nat
  pc : DWord
  word : Word
  part : Nat
  ctx : Nat
  landed : List Nat := []
  sent : List (Nat × Nat) := []
  early : AMap Byte := []
  orphan : Bool := false
  stopped : Bool := false
  done : Bool := false
  deriving DecidableEq, Repr

/-! ## Memory system -/

/-- What a store in flight does at its home; `sheet` adds the counts of a phase into a record of a contact sheet (R293). -/
inductive StoreOp where
  | bytes (data : AMap Byte)
  | atom (fn : BitVec 8) (ty : Ty) (rm : Rm) (x : DWord)
  | atomf (fn : BitVec 8) (ty : Ty) (rm : Rm) (x : DWord)
  | atomx (y : DWord)
  | sheet (phase : Nat) (counts : List DWord)
  deriving DecidableEq, Repr

/-- A store, a no-return atomic, a commit's store half or a copy element's global piece that has left its core or its
lane and is not yet known complete (R187, R253, R255): one access to one line (R159), at the key of its first byte or,
for bytes, of its line. `dark` names the die that holds a darkroom store, `covered` says that an RWB of the group covers
it (R310), `performed` is its completion time, `sum` says that it carries a partial sum of an update-only line, `cpy` names the CPY of which it
carries a piece (or is 0), and `also` names the
other groups whose gathered updates it carries, with their grids and scopes (R169, R172, R272). It carries its die's life number
(R386) and the versions of its partition's tables (R391). -/
structure PStore where
  id : Nat
  uid : Nat
  grid : Nat
  core : Nat
  addr : Nat
  va : DWord
  op : StoreOp
  sc : Sc := .sys
  dark : Option Nat := none
  covered : Bool := false
  commit : Bool := false
  peer : Option Nat := none
  performed : Option Nat := none
  lost : Bool := false
  sum : Bool := false
  cpy : Nat := 0
  also : List (Nat × Nat × Sc) := []
  life : BitVec 16 := 0
  vers : BitVec 4 × BitVec 4 := (0, 0)
  deriving DecidableEq, Repr

/-- A load, returning atomic or CAS of one lane whose value has not come back (R161, R162): the line's lease class, the
lanes that receive the value, the group's issue count at its issue, its identity, grid, partition and context, whether it is uniform, its
die's life number (R386), the versions of its partition's tables (R391) and its instruction's first word (R404). An access that is `dead` gives its value to no group,
because its block was lost after it left the core (R360). -/
structure PLoad where
  id : Nat
  g : Nat
  uid : Nat := 0
  grid : Nat := 0
  part : Nat := 0
  ctx : Nat := 0
  lane : Nat
  addr : Nat
  va : DWord
  size : Nat
  ty : Ty
  d : Operand
  mask : LaneMask
  op : Option FabOp := none
  sc : Sc := .sys
  cls : Nat := 0
  pc : DWord := 0
  issued : Nat := 0
  word : Word := 0
  peer : Bool := false
  uni : Bool := false
  dead : Bool := false
  life : BitVec 16 := 0
  vers : BitVec 4 × BitVec 4 := (0, 0)
  got : Option DWord := none
  deriving DecidableEq, Repr

/-- What a line's home keeps beside its bytes (R180, R189, R254): the horizon, the images that are not yet visible (the
time of visibility and the bytes of each commit and of what followed it, in order of time), the lane that locks it,
the watchers, and the poisoned words that an image will show clean, with its time (R375). -/
structure HomeLine where
  horizon : Nat := 0
  next : List (Nat × AMap Byte) := []
  lock : Option (Nat × Nat) := none
  watchers : List Nat := []
  cleans : List (Nat × Nat) := []
  deriving DecidableEq, Repr

/-- A die's copy of a darkroom line (R191): its 128 bytes, the bytes that are dirty, and its 32-byte words (0 to 3) that came
poisoned (R375). -/
structure DarkLine where
  bytes : AMap Byte := []
  dirty : AMap Byte := []
  bad : List Nat := []
  deriving DecidableEq, Repr

/-- A write-back that has left a die (R192, R309), or a piece of a copy element on its way to a darkroom page, of the CPY `cpy`
(R372). Like every request it carries its die's life number and the versions of its partition's tables (R386, R391). -/
structure WriteBack where
  id : Nat
  die : Nat
  key : Nat
  bytes : AMap Byte
  stores : List Nat
  cpy : Nat := 0
  life : BitVec 16 := 0
  vers : BitVec 4 × BitVec 4 := (0, 0)
  deriving DecidableEq, Repr

/-! ## Partitions, dies, fabric and host -/

/-- A trap descriptor in force (R336). -/
structure TrapDesc where
  hent : DWord := 0
  recb : DWord := 0
  nring : DWord := 0
  nlcap : Nat := 0
  nvec : Nat := 0
  notice : Nat := 0
  deriving DecidableEq, Repr

/-- A process context (R54, R318); `sheetAt` is the clock at which counts were last added into its contact sheet (R293). -/
structure Ctx where
  root : Option DWord := none
  sheet : Option DWord := none
  sheetAt : DWord := 0
  trap : TrapDesc := {}
  tlbi : Nat := 0
  deriving DecidableEq, Repr

/-- What a command that a front end has begun and not completed waits for (R275, R319): the end of grids, a signal word, the
save or the end of a grid, stores (with the status and result that it will report, the completion time and the requests over
the fabric), a prologue, the partner of a merge, or a switch of the region table. -/
inductive Running where
  | grids (ids : List Nat)
  | wait (addr val : DWord)
  | preempt (grid : Nat)
  | restore (grid : Nat)
  | stores (status result till : Nat) (sent : List Nat)
  | prologue (g : Nat)
  | merge
  | table
  deriving DecidableEq, Repr

/-- A queue (R281, R316). Heads and tails are free-running counts; `due` holds the tick of each entry, newest last, that a
tick gate has not released; `front` holds popped entries that came back to the head, with their retry-once mark (R360).
`busy` holds the commands begun and not completed, oldest first, and `begun` says that the one begun last is among them. -/
structure Queue where
  installed : Bool := false
  base : DWord := 0
  lcap : Nat := 0
  kind : Nat := 0
  closed : Bool := false
  per : Nat := 0
  phs : Nat := 0
  head : Word := 0
  tail : Word := 0
  die : Nat := 0
  vec : Nat := 0
  due : List Nat := []
  front : List (List Byte × Bool) := []
  busy : List (CmdEntry × Running) := []
  begun : Bool := false
  deriving DecidableEq, Repr

/-- An entry of the partition's or the module's event log (R379). -/
structure LogEntry where
  gtc : Nat
  seq : Nat
  kind : Nat
  die : Nat
  ctx : Nat
  d0 : DWord
  d1 : DWord
  deriving DecidableEq, Repr

/-- An aperture entry (R327). -/
structure Aperture where
  module : Nat := 0
  fn : Nat := 0
  valid : Bool := false
  inbound : Bool := false
  deriving DecidableEq, Repr

/-- A table held twice under a 4-bit version (R391), and the tick at which a rewrite began to wait. -/
structure TableVer where
  ver : BitVec 4 := 0
  pending : Option Nat := none
  deriving DecidableEq, Repr

/-- A change of partitions that is being made and is not refused any more (R394): the quarters of the merged partition or of one part,
the function of the partner of a merge, and the die that has failed since. -/
structure Making where
  mask : BitVec 4
  partner : Option Nat
  failed : Option Nat := none
  deriving DecidableEq, Repr

/-- A partition, kept under the number of its serving function (R4, R5, R312, R318). The interleave table, active and shadow, spreads
addresses over the stacks of some quarters (R322, R391); the apertures are the contents of the region table. A list of its compaction
unit is kept for each launch and core (R38, R243). `raising` holds the vectors that wait for a completion record: the front end's die, the
vector, and the completion time and the requests of the record (R319); `leaving` says that a function reset waits for the commands that
it has given up (R318, R319). -/
structure Partition where
  live : Bool := false
  mask : BitVec 4 := 0
  spread : BitVec 4 := mask
  spreadShadow : BitVec 4 := mask
  negotiated : Option (BitVec 16 × BitVec 16 × BitVec 16) := none
  ctxs : AMap Ctx := []
  queues : List (QRef × Queue) := []
  aps : AMap Aperture := []
  shadow : AMap Aperture := []
  saveBase : DWord := 0
  saveSize : DWord := 0
  extents : List (Nat × Nat) := []
  tok : Option (Nat × Nat) := none
  tokQ : List (Nat × Nat) := []
  resv : Option Nat := none
  lists : AMap (List Word) := []
  flying : List (Nat × Nat × Word) := []
  log : List LogEntry := []
  logSeq : Nat := 0
  logRead : Nat := 0
  cecnt : AMap DWord := []
  uecnt : DWord := 0
  late : DWord := 0
  replay : DWord := 0
  dups : DWord := 0
  misr : DWord := 0
  nlost : DWord := 0
  aqbase : DWord := 0
  aqctl : DWord := 0
  ptmt : DWord := 0
  ptmm : DWord := 0
  inter : TableVer := {}
  region : TableVer := {}
  change : Option (Nat × BitVec 4) := none
  making : Option Making := none
  raising : List (Nat × Nat × Nat × List Nat) := []
  leaving : Bool := false
  deriving DecidableEq, Repr

/-- Whether a compute die works (R386, R387). -/
inductive DieStatus where
  | up | resetting | failed
  deriving DecidableEq, Repr

/-- A compute die (R7, R194, R370, R386): `holdAt` is the tick at which its lease hold began (R396), `dogAt` that at which
its firmware last restarted the watchdog and `bite` that of the last watchdog expiry (R397), `outAt` that of the last
removal of a core from placement (R374, R386), `refusing` the completion time, and what a target must acknowledge, of the bytes that tell the head of the pending
pool of its refusal (R363). -/
structure Die where
  status : DieStatus := .up
  life : BitVec 16 := 0
  resetAt : Option Nat := none
  skew : Fin 5 := 0
  hold : Bool := false
  holdAt : Nat := 0
  dogAt : Nat := 0
  fwCore : Nat := 0
  bite : Option Nat := none
  outAt : Option Nat := none
  refusing : Option (Nat × List Nat) := none
  pool : List (Nat × Nat × DWord × List Byte) := []
  deriving DecidableEq, Repr

/-- A request that this module has sent over the fabric and keeps until it is acknowledged (R382): through which aperture and under which
versions of the interleave and region tables (R391), and the tick at which it was sent last. -/
structure Sent where
  id : Nat
  part : Nat
  module : Nat
  fn : Nat
  die : Nat
  life : BitVec 16
  seq : BitVec 32
  addr : BitVec 40
  op : FabOp
  load : Option Nat
  store : Option Nat
  ap : Nat := 0
  vers : BitVec 4 × BitVec 4 := (0, 0)
  since : Nat := 0
  deriving DecidableEq, Repr

/-- A result that a receiver keeps for one source and sequence number (R382). -/
structure Applied where
  module : Nat
  die : Nat
  life : BitVec 16
  seq : BitVec 32
  result : List Byte
  deriving DecidableEq, Repr

/-- What the receiver keeps of one source of requests (R382, R383): every request before `next` has arrived; those that have
arrived and are not applied, with the function that each is for. -/
structure Source where
  module : Nat
  die : Nat
  life : BitVec 16
  next : BitVec 32 := 0
  held : List (Nat × FabReq) := []
  deriving DecidableEq, Repr

/-- A Mirrix link (R384), and the version of the link protocol that its last training has negotiated (R320). -/
structure Link where
  down : Bool := false
  fails : Nat := 0
  ver : Nat := 4
  deriving DecidableEq, Repr

/-- Whether the main power domain works (R332, R396, R399). -/
inductive Power where
  | off | up | fatal
  deriving DecidableEq, Repr

/-- What Safelight answered last (R328, R399). -/
inductive SafelightMsg where
  | none
  | bytes (x : List Byte)
  | ok
  | refused
  deriving DecidableEq, Repr

/-- An algorithm that the SPDM responder offers (R331). -/
inductive SpdmAlg where
  | sha384 | ecdsaBrainpoolP384r1
  deriving DecidableEq, Repr

/-- What the SPDM responder answered last (R331): its kind, what it reports, and the bytes of its message. -/
inductive SpdmMsg where
  | none
  | version (v : List Byte)
  | capabilities (b : List Byte)
  | algorithms (hash baseAsym extAsym : List SpdmAlg) (b : List Byte)
  | digests (b : List Byte)
  | certificate (slot off : Nat) (b : List Byte)
  | challengeAuth (slot : Nat) (b : List Byte)
  | measurements (index : Nat) (values : List (List Byte)) (b : List Byte)
  | unsupported
  deriving DecidableEq, Repr

/-- The SPDM responder (R331): how far the connection of each port has come, and its last answer. -/
structure Spdm where
  stage : Nat := 0
  last : SpdmMsg := .none
  deriving DecidableEq, Repr

/-- What the hub die's always-on domain and fuses keep (R328 to R332, R378, R386). -/
structure Module where
  power : Power := .up
  number : Nat := 0
  limit : Nat := 2200
  clock : Nat := 2000
  issueOf16 : Nat := 16
  log : List LogEntry := []
  logSeq : Nat := 0
  ue : DWord := 0
  stacksFailed : BitVec 12 := 0
  defaults : List (BitVec 4) := []
  staged : Option (List Byte) := none
  installed : Option (List Byte) := none
  keys : List (List Byte) := Config.fuseKeys
  revoked : List Nat := Config.fuseRevoked
  rollback : Nat := Config.fuseRollback
  i3c : Option Nat := none
  answer : SafelightMsg := .none
  spdmS : Spdm := {}
  spdmA : Spdm := {}
  deriving DecidableEq, Repr

/-! ## The state -/

/-- A notice that waits for the stores of its group before it, because writing it is a release at `.sys` (R346). -/
structure Notice where
  uid : Nat
  die : Nat
  part : Nat
  ctx : Nat
  bytes : List Byte
  deriving DecidableEq, Repr

/-- The whole module, as plain data. `cur` is the resident slot (96 × core + slot, R246, R337) whose group issues. -/
structure State where
  /-- The step counter that free values are applied to: the model's own field. -/
  tick : Nat := 0
  /-- The steps that the outside has chosen to come next: the model's own field. -/
  agenda : List Instr := []
  /-- The sub-cores that issue next, in order: the model's own field. -/
  sched : List Nat := []
  /-- The groups that issue slot 0 of their sub-core has taken in its current clock, one for each such sub-core (R291): the model's
  own field. -/
  slot0 : List Nat := []
  /-- For the loads and returning atomics to come, in order, whether each is performed only by a later step: the model's
  own field. -/
  late : List Bool := []
  cur : Nat := 0
  gtc : DWord := 0
  cyc : AMap DWord := []
  /-- Bytes of every partition's memory and of host memory, at their visible images (`memKey`, `hostKey`). -/
  mem : List Host.Cell := []
  /-- 32-byte words that are poisoned, by the key of their first byte (R375). -/
  poison : List Nat := []
  /-- What the lanes of one instruction have written of a poisoned word since it was poisoned: the word, the instruction and the
  offsets (R375). -/
  fills : List (Nat × Nat × List Nat) := []
  /-- Blocks whose groups have met poison in an access that no instruction reports, and that are lost with the next step: the block,
  the member, the address and the physical address (R375). -/
  losses : List (Nat × Nat × DWord × Nat) := []
  /-- Old contents of instruction words that stores have changed and no ICINV has covered, newest first (R93). -/
  stale : AMap (List Word) := []
  homes : AMap HomeLine := []
  copies : AMap (AMap Copy) := []
  dark : AMap (AMap DarkLine) := []
  wbs : List WriteBack := []
  stores : List PStore := []
  loads : List PLoad := []
  elems : AMap Elem := []
  tlb : List TlbEntry := []
  groups : AMap Group := []
  blocks : AMap Block := []
  grids : AMap Grid := []
  /-- The groups that CSAVE has written and CREST has not loaded (R251): as they were written, and as the work that goes on
  (R161) has left them. They stand for the bytes of the record whose layout the spec leaves open. -/
  csaved : List (Group × Group) := []
  /-- Phases under which counts stand on chip that no resident group's phase shows any more: grid, core, phase and the issues
  counted (R293). -/
  owed : List (Nat × Nat × Nat × Nat) := []
  cores : AMap Core := []
  dies : AMap Die := []
  parts : AMap Partition := []
  nextId : Nat := 1
  gridSeq : List (Nat × Nat) := []
  msix : List (Nat × Nat) := []
  aer : List (Nat × Nat) := []
  sent : List Sent := []
  applied : List Applied := []
  sources : List Source := []
  seqs : AMap (BitVec 32) := []
  unreach : List Nat := []
  /-- What this module has answered to requests of other modules, newest last (R382). -/
  replies : List Applied := []
  /-- The tick at which a path to a module last carried a request (R385). -/
  carried : AMap Nat := []
  notices : List Notice := []
  links : AMap Link := []
  hub : Module := {}
  deriving DecidableEq, Repr

/-- Why the machine stops with a fault. -/
inductive Fault where
  /-- Raised by a device or host step that the agenda names while the module is in the fatal state or its main domain is off
  (R332, R396): no die issues and memory is not served; only Safelight's steps and a cold reset go on. Safe: the machine takes no
  such step by itself. -/
  | mainDomainDown
  /-- Raised by a device or host step that the agenda names when its own condition does not hold (an event whose time has
  not come, or an object that does not exist). Safe: the machine takes no such step by itself. -/
  | notDue
  deriving DecidableEq, Repr

/-- Why a step has no meaning in the model. -/
inductive Refusal where
  /-- Raised by the arm of an instruction that has no meaning yet. Safe: nothing is claimed of it. -/
  | notModelled (mnemonic : String)
  deriving DecidableEq, Repr

/-- A core of a die's class that the firmware takes at boot: the last of the die (R7; log entry 10). -/
def State.bootDie (d : Nat) : Die :=
  { fwCore := if d < 4 then 40 * d + 39 else 160 + 32 * (d - 4) + 31 }

/-- The module after a cold reset with no default masks and no patch (R329): one partition of four quarters served by
function 0, every die up, memory unlisted, time zero (R325). -/
def State.reset : State :=
  { dies := (List.range 8).map fun d => (d, State.bootDie d)
    parts := [(0, { live := true, mask := 0b1111#4 })] }

end Sys2Proof.Machine
end

