-- ==== Sys2Proof/Machine/Maps.lean ====
section
/-! DEFINITION. Reading and writing sparse tables and the memory's canonical byte list. -/

namespace Sys2Proof.Machine

/-- The value at a key, if the table lists it. -/
def mapFind {α : Type} (m : AMap α) (k : Nat) : Option α :=
  match m with
  | [] => none
  | (j, w) :: r => if j = k then some w else mapFind r k

/-- The value at a key, or `d` where the table lists none. -/
def mapGet {α : Type} (d : α) (m : AMap α) (k : Nat) : α := (mapFind m k).getD d

/-- The table with the value at a key replaced or added; rising keys stay rising. -/
def mapSet {α : Type} (m : AMap α) (k : Nat) (v : α) : AMap α :=
  match m with
  | [] => [(k, v)]
  | (j, w) :: r => if k < j then (k, v) :: (j, w) :: r else if k = j then (k, v) :: r else (j, w) :: mapSet r k v

/-- The table without a key. -/
def mapDel {α : Type} (m : AMap α) (k : Nat) : AMap α := m.filter fun e => e.1 != k

/-- One entry changed by a function of its value (or of the default). -/
def mapMod {α : Type} (d : α) (m : AMap α) (k : Nat) (f : α → α) : AMap α := mapSet m k (f (mapGet d m k))

/-- What an unlisted address of memory reads as (log entry 2). -/
def unlistedByte : Byte := 0

/-- One byte of memory (R24). -/
def memRead (m : List Host.Cell) (a : Nat) : Byte :=
  match m with
  | [] => unlistedByte
  | (j, w) :: r => if j = a then w else memRead r a

/-- One byte of memory written; the canonical form is kept: addresses rise, and no entry holds what an unlisted address
reads as. -/
def memWrite (m : List Host.Cell) (a : Nat) (b : Byte) : List Host.Cell :=
  match m with
  | [] => if b = unlistedByte then [] else [(a, b)]
  | (j, w) :: r =>
    if a < j then (if b = unlistedByte then (j, w) :: r else (a, b) :: (j, w) :: r)
    else if a = j then (if b = unlistedByte then r else (a, b) :: r)
    else (j, w) :: memWrite r a b

/-- The canonical form from a lower bound on: addresses rise from `lo` and no entry is the unlisted byte. -/
def memWfFrom (lo : Nat) : List Host.Cell → Bool
  | [] => true
  | (j, w) :: r => decide (lo ≤ j) && (w != unlistedByte) && memWfFrom (j + 1) r

/-- The canonical form of memory. -/
def Memory.wf (m : List Host.Cell) : Bool := memWfFrom 0 m

/-- `n` bytes at an address, lowest first. -/
def memBytes (m : List Host.Cell) (a : Nat) : Nat → List Byte
  | 0 => []
  | n + 1 => memRead m a :: memBytes m (a + 1) n

/-- A list of bytes written from an address upward. -/
def memPut (m : List Host.Cell) (a : Nat) : List Byte → List Host.Cell
  | [] => m
  | b :: r => memPut (memWrite m a b) (a + 1) r

/-- A little-endian number from bytes (R25). -/
def leNat : List Byte → Nat
  | [] => 0
  | b :: r => b.toNat + 256 * leNat r

/-- `n` little-endian bytes of a number (R25). -/
def leBytes : Nat → Nat → List Byte
  | 0, _ => []
  | n + 1, x => BitVec.ofNat 8 x :: leBytes n (x / 256)

/-- A little-endian field of a record. -/
def recNat (b : List Byte) (o n : Nat) : Nat := leNat ((b.drop o).take n)

/-- The entries of a list that pass a test, changed by a function. -/
def modWhere {α : Type} (l : List α) (p : α → Bool) (f : α → α) : List α := l.map fun x => if p x then f x else x

end Sys2Proof.Machine
end

