-- ==== Sys2Proof/Machine/Space.lean ====
section
/-! DEFINITION. Where things are: the numbering of dies, cores, clusters and stacks, the physical and virtual address
spaces, and the translation of a virtual address (R3, R46, R54 to R56, R59, R194, R246, R314, R371, R407). -/

namespace Sys2Proof.Machine

/-! ## Numbering (R2, R194, R246) -/

/-- The die of a core: 40 cores on each of dies 0 to 3, 32 on each of dies 4 to 7 (R246). -/
def coreDie (c : Nat) : Nat := if c < 160 then c / 40 else 4 + (c - 160) / 32
/-- The cores of a die. -/
def dieCores (d : Nat) : List Nat :=
  if d < 4 then (List.range 40).map (40 * d + ·) else (List.range 32).map (160 + 32 * (d - 4) + ·)
/-- The cluster of a core, counted over the module: clusters are 4 neighbouring cores (R6). -/
def coreCluster (c : Nat) : Nat := c / 4
/-- The core of a resident slot. -/
def slotCore (g : Nat) : Nat := g / 96
/-- The slot number within its core. -/
def slotOf (g : Nat) : Nat := g % 96
/-- The resident slot of a core. -/
def slotKey (c i : Nat) : Nat := 96 * c + i
/-- The sub-core of a resident slot, counted over the module: slot `i` lies on sub-core `i` mod 6 (R287). -/
def slotSub (g : Nat) : Nat := 6 * slotCore g + slotOf g % 6
/-- The quarters of a mask, in increasing number (R4). -/
def quarters (m : BitVec 4) : List Nat := (List.range 4).filter fun q => m.getLsbD q
/-- The masks that form a partition (R4). -/
def isPartitionMask (m : BitVec 4) : Bool := m.toNat ∈ [1, 2, 4, 8, 3, 12, 15]
/-- The quarter of a die (R3, R194). -/
def dieQuarter (d : Nat) : Nat := d % 4
/-- The dies of a partition. -/
def maskDies (m : BitVec 4) : List Nat := quarters m ++ (quarters m).map (4 + ·)
/-- HBM4E bytes of a partition (R314). -/
def hbmBytes (m : BitVec 4) : Nat := Config.quarterBytes * (quarters m).length

/-- The partition with this serving function. -/
def getPart (s : State) (p : Nat) : Partition := mapGet {} s.parts p
/-- The partition that holds a die. -/
def diePart (s : State) (d : Nat) : Nat :=
  ((s.parts.find? fun e => e.2.live && e.2.mask.getLsbD (dieQuarter d)).map (·.1)).getD 4
/-- A process context of a partition. -/
def getCtx (s : State) (p c : Nat) : Ctx := mapGet {} (getPart s p).ctxs c

/-! ## Physical memory (R54, R314) -/

/-- The key of a byte of a partition's HBM4E. -/
def memKey (p pa : Nat) : Nat := 2 ^ 48 * p + pa
/-- The key of a byte of host memory at a bus address. -/
def hostKey (bus : Nat) : Nat := 2 ^ 52 + bus
/-- The partition of a key of HBM4E. -/
def keyPart (k : Nat) : Nat := k / 2 ^ 48
/-- The physical address of a key. -/
def keyPa (k : Nat) : Nat := k % 2 ^ 48
/-- The key of the 128-byte line of a key (R57). -/
def lineOf (k : Nat) : Nat := k / 128

/-- The spaces of a physical address (R314). -/
inductive Space where
  | hbm (key : Nat)
  | peer (ap off : Nat)
  | host (key : Nat)
  deriving DecidableEq, Repr

/-- The space in which a physical address of a partition lies (R314). -/
def space (p pa : Nat) : Space :=
  if pa / 2 ^ 46 = 0 then .hbm (memKey p pa)
  else if pa / 2 ^ 46 = 1 then .peer (pa / 2 ^ 40 % 64) (pa % 2 ^ 40)
  else .host (hostKey (pa % 2 ^ 47))

/-- The stack of the module that holds a key: 4 KiB unit `u` lies on stack `u` mod S of the partition, and stack
3q + k of it is stack `k` of the quarter in position `q` (R322). -/
def homeStack (s : State) (key : Nat) : Nat :=
  let qs := quarters (getPart s (keyPart key)).spread
  let i := keyPa key / 4096 % (3 * qs.length)
  3 * qs.getD (i / 3) 0 + i % 3
/-- The die that homes a key: the B-die of its stack (R59, R194). -/
def homeDie (s : State) (key : Nat) : Nat := 4 + homeStack s key / 3

/-- A doubleword of memory at a key. -/
def memDWord (s : State) (key : Nat) : DWord := BitVec.ofNat 64 (leNat (memBytes s.mem key 8))

/-! ## Translation (R54 to R56, R371, R407) -/

/-- A virtual address is canonical when bits [63:56] all equal bit 55 (R54). -/
def canonical (va : DWord) : Bool := va.toNat / 2 ^ 55 = 0 ∨ va.toNat / 2 ^ 55 = 511

/-- The fields of a page table entry (R56). -/
def pteNX (e : DWord) : Bool := e.getLsbD 63
def pteRO (e : DWord) : Bool := e.getLsbD 62
def pteCMB (e : DWord) : Bool := e.getLsbD 61
def pteDRK (e : DWord) : Bool := e.getLsbD 60
def pteLSC (e : DWord) : Nat := e.toNat / 2 ^ 57 % 8
def pteDEV (e : DWord) : Bool := e.getLsbD 56
def pteLF (e : DWord) : Bool := e.getLsbD 1
def pteV (e : DWord) : Bool := e.getLsbD 0

/-- What the translation of a virtual address comes to. `level` is the level of the deciding entry. -/
inductive Xlat where
  | ok (pa : Nat) (entry : DWord) (level : Nat)
  | absent (level : Nat) (entry : DWord)
  | bad (entry : DWord)
  | nonCanonical
  deriving DecidableEq, Repr

/-- The lowest virtual bit that each level indexes (R55). -/
def levelShift (l : Nat) : Nat := if l = 0 then 39 else if l = 1 then 30 else if l = 2 then 21 else 16
/-- The entries of a level's table (R55). -/
def levelEntries (l : Nat) : Nat := if l = 0 then 131072 else if l = 3 then 32 else 512
/-- The bytes of a level's table (R55). -/
def levelBytes (l : Nat) : Nat := 8 * levelEntries l

/-- A physical range lies within the partition's HBM4E. -/
def inHbm (pt : Partition) (pa n : Nat) : Bool := pa + n ≤ hbmBytes pt.mask

/-- A peer aperture through which accesses go: valid, naming a target that can be reached (R314, R327, R385). -/
def apertureOpen (s : State) (pt : Partition) (i : Nat) : Bool :=
  let a := mapGet {} pt.aps i
  a.valid && !a.inbound && !s.unreach.contains a.module

/-- A leaf entry at a level maps what R407 allows: no reserved bit, no frame bit below the page size, no forbidden
lease class (R371; ignored on darkroom pages, R56), and a frame within the partition's spaces. -/
def leafOk (s : State) (pt : Partition) (l : Nat) (e : DWord) : Bool :=
  let pa := e.toNat / 2 ^ 16 % 2 ^ 32 * 2 ^ 16
  e.toNat / 2 ^ 48 % 256 = 0 && e.toNat / 4 % 2 ^ 14 = 0 && pa % 2 ^ levelShift l = 0
  && (pteDRK e || pteLSC e < 4 || (pteLSC e = 4 && pteRO e))
  && (if pa / 2 ^ 46 = 0 then inHbm pt pa (2 ^ levelShift l)
      else if pa / 2 ^ 46 = 1 then apertureOpen s pt (pa / 2 ^ 40 % 64) else true)

/-- The walk of the tables from a level on, `fuel` levels deep (R55, R407). -/
def walk (s : State) (p : Nat) (pt : Partition) (va : DWord) (l table : Nat) : Nat → Xlat
  | 0 => .bad 0
  | fuel + 1 =>
    let e := memDWord s (memKey p (table + 8 * (va.toNat / 2 ^ levelShift l % levelEntries l)))
    if !pteV e then .absent l e
    else if pteLF e then
      if l = 0 then .bad e
      else if leafOk s pt l e then
        .ok (e.toNat / 2 ^ 16 % 2 ^ 32 * 2 ^ 16 + va.toNat % 2 ^ levelShift l) e l
      else .bad e
    else if l = 3 then .bad e
    else
      let next := e.toNat / 256 % 2 ^ 40 * 256
      if next % levelBytes (l + 1) = 0 && inHbm pt next (levelBytes (l + 1)) then walk s p pt va (l + 1) next fuel
      else .bad e

/-- The translation that the tables in memory give (R55, R407). -/
def tableXlat (s : State) (p c : Nat) (va : DWord) : Xlat :=
  if !canonical va then .nonCanonical
  else
    let pt := getPart s p
    match (mapGet {} pt.ctxs c).root with
    | none => .bad 0
    | some r =>
      if r.toNat % 2 ^ 20 = 0 && inHbm pt r.toNat (levelBytes 0) then walk s p pt va 0 r.toNat 4 else .bad 0

/-- The base of the page of a level that holds a virtual address. -/
def pageBase (l : Nat) (va : DWord) : DWord := BitVec.ofNat 64 (va.toNat / 2 ^ levelShift l * 2 ^ levelShift l)

/-- The cached translation of a virtual address, if a translation cache holds one (R366). -/
def tlbFind (s : State) (p c : Nat) (va : DWord) : Option TlbEntry :=
  s.tlb.find? fun t => t.part = p && t.ctx = c && t.page = pageBase t.level va

/-- The translation that an access gets: that of the tables, or that of a cached entry which differs from them and
which the translation cache still holds (R250, R366; log entry 7). An aperture whose target is unreachable takes no access (R385). -/
def xlat (s : State) (p c : Nat) (va : DWord) : Xlat :=
  match tlbFind s p c va with
  | none => tableXlat s p c va
  | some t =>
    let pa := t.entry.toNat / 2 ^ 16 % 2 ^ 32 * 2 ^ 16 + va.toNat % 2 ^ levelShift t.level
    let old := Xlat.ok pa t.entry t.level
    if tableXlat s p c va = old then old
    else if (pa / 2 ^ 46 ≠ 1 || apertureOpen s (getPart s p) (pa / 2 ^ 40 % 64)) && Config.tlbKeeps s.tick va then old
    else tableXlat s p c va

/-- An entry whose page's copies a TLBI has to find: those of a class 4 page or a darkroom page (R254, R372). -/
def TlbEntry.lasting (t : TlbEntry) : Bool := pteLSC t.entry = 4 || pteDRK t.entry

/-- The state after a translation has been cached; an entry with V = 0 is never cached (R345). An older entry of the page goes, or
stands behind the new one while copies under it may have to be discarded. -/
def tlbFill (s : State) (p c : Nat) (va : DWord) : State :=
  match xlat s p c va with
  | .ok _ e l =>
    let t : TlbEntry := { part := p, ctx := c, page := pageBase l va, level := l, entry := e }
    if s.tlb.contains t then s
    else { s with tlb := t :: s.tlb.filter fun u => u.lasting || !(u.part = p && u.ctx = c && u.page = pageBase u.level va) }
  | _ => s

/-- The lease length in ticks of a class that grants leases (R56): none for class 0, `some none` for an unlimited
one. -/
def leaseLength (cls : Nat) : Option (Option Nat) :=
  if cls = 1 then some (some 256) else if cls = 2 then some (some 1024) else if cls = 3 then some (some 16384)
  else if cls = 4 then some none else none

end Sys2Proof.Machine
end

