-- ==== Sys2Proof/Machine/Access.lean ====
section
/-! DEFINITION. The named reads and writes of the state's tables, event counters, the event log, and waking. -/

namespace Sys2Proof.Machine

/-! ## Tables -/

def getGroup (s : State) (g : Nat) : Group := mapGet {} s.groups g
def setGroup (s : State) (g : Nat) (x : Group) : State := { s with groups := mapSet s.groups g x }
def modGroup (s : State) (g : Nat) (f : Group → Group) : State := setGroup s g (f (getGroup s g))

/-- The group that issues. -/
def curGroup (s : State) : Group := getGroup s s.cur
/-- The state with the issuing group replaced. -/
def setCur (s : State) (x : Group) : State := setGroup s s.cur x

def getBlock (s : State) (b : Nat) : Block := mapGet {} s.blocks b
def setBlock (s : State) (b : Nat) (x : Block) : State := { s with blocks := mapSet s.blocks b x }
def modBlock (s : State) (b : Nat) (f : Block → Block) : State := setBlock s b (f (getBlock s b))

def getGrid (s : State) (i : Nat) : Grid := mapGet {} s.grids i
def setGrid (s : State) (i : Nat) (x : Grid) : State := { s with grids := mapSet s.grids i x }
def modGrid (s : State) (i : Nat) (f : Grid → Grid) : State := setGrid s i (f (getGrid s i))

def getCore (s : State) (c : Nat) : Core := mapGet {} s.cores c
def setCore (s : State) (c : Nat) (x : Core) : State := { s with cores := mapSet s.cores c x }
def modCore (s : State) (c : Nat) (f : Core → Core) : State := setCore s c (f (getCore s c))

def getDie (s : State) (d : Nat) : Die := mapGet {} s.dies d
def modDie (s : State) (d : Nat) (f : Die → Die) : State := { s with dies := mapMod {} s.dies d f }

def modPart (s : State) (p : Nat) (f : Partition → Partition) : State := { s with parts := mapMod {} s.parts p f }
def modCtx (s : State) (p c : Nat) (f : Ctx → Ctx) : State :=
  modPart s p fun pt => { pt with ctxs := mapMod {} pt.ctxs c f }

def getHome (s : State) (l : Nat) : HomeLine := mapGet {} s.homes l
def setHome (s : State) (l : Nat) (h : HomeLine) : State := { s with homes := mapSet s.homes l h }

def getElem (s : State) (i : Nat) : Option Elem := mapFind s.elems i
def setElem (s : State) (i : Nat) (e : Elem) : State := { s with elems := mapSet s.elems i e }

/-- A queue of its partition (R281). -/
def getQueue (s : State) (q : QRef) : Queue :=
  (((getPart s q.part).queues.find? fun e => e.1 = q).map (·.2)).getD {}
/-- The state with a queue changed. -/
def modQueue (s : State) (q : QRef) (f : Queue → Queue) : State :=
  modPart s q.part fun pt =>
    { pt with queues := (q, f (getQueue s q)) :: pt.queues.filter fun e => e.1 ≠ q }

/-- The die of the group in a slot. -/
def groupDie (g : Nat) : Nat := coreDie (slotCore g)
/-- `sy.gtc` at the hub. -/
def hubGtc (s : State) : Nat := s.gtc.toNat
/-- `sy.gtc` as a die reads it (R6, R325). -/
def dieGtc (s : State) (d : Nat) : Nat := (s.gtc + BitVec.ofNat 64 (getDie s d).skew.val).toNat
/-- The time by which committed images become visible, one for every home (R180, R271): that of the die that reads `sy.gtc` the furthest
on, so that what a commit replaced is served by no home once some die has passed its time (R256; log entry 46). -/
def shownGtc (s : State) : Nat := (List.range 8).foldl (fun m d => max m (dieGtc s d)) 0
/-- A time at a home has passed for a die: by its own time or, under lease hold, when it asks the homes, by that of every die
(R187, R370). -/
def timePast (s : State) (d t : Nat) : Bool :=
  if (getDie s d).hold then (List.range 8).all fun h => t < dieGtc s h else t < dieGtc s d
/-- `sy.gtc` at the issuing group's die. -/
def curGtc (s : State) : Nat := dieGtc s (groupDie s.cur)

/-- The clock by which a partition's contact sheets are brought up to date: that of its first die (R293; log entry 84). -/
def partClock (s : State) (p : Nat) : DWord := mapGet 0 s.cyc ((maskDies (getPart s p).mask).headD 0)

/-- The block, grid, partition and context of the group in a slot. -/
def groupBlock (s : State) (g : Nat) : Block := getBlock s (getGroup s g).block
def groupGrid (s : State) (g : Nat) : Grid := getGrid s (groupBlock s g).grid
/-- The partition and context of a group; a prologue's group has those of its command's queue (R283). -/
def groupSpace (s : State) (g : Nat) : Nat × Nat :=
  match (getGroup s g).prologue with
  | some p => (p.q.part, p.q.ctx)
  | none => ((groupGrid s g).part, (groupGrid s g).ctx)

/-- A resident group: its slot holds one that has not ended. -/
def Status.live : Status → Bool
  | .free => false
  | .ended => false
  | _ => true

/-- A block that lies on its cores. -/
def Block.here (b : Block) : Bool := b.status = .resident || b.status = .saving

/-- A core on which the firmware runs (R7, R244). -/
def isFirmwareCore (s : State) (c : Nat) : Bool := (getDie s (coreDie c)).fwCore = c

/-! ## Identifiers -/

/-- A fresh identifier for work in flight. -/
def fresh (s : State) : Nat × State := (s.nextId, { s with nextId := s.nextId + 1 })

/-! ## Event log (R378 to R380) -/

/-- The newest entries of a log that holds `n` (R378). -/
def keepLast {α : Type} (n : Nat) (l : List α) : List α := l.drop (l.length - n)

/-- A partition's log entry; every entry is copied into the module's log (R378). -/
def logEvent (s : State) (p kind die ctx : Nat) (d0 d1 : DWord) : State :=
  let e : LogEntry := { gtc := s.gtc.toNat, seq := (getPart s p).logSeq + 1, kind, die, ctx, d0, d1 }
  let m : LogEntry := { e with seq := s.hub.logSeq + 1 }
  let s := modPart s p fun pt => { pt with log := keepLast 2048 (pt.log ++ [e]), logSeq := pt.logSeq + 1 }
  { s with hub := { s.hub with log := keepLast 8192 (s.hub.log ++ [m]), logSeq := s.hub.logSeq + 1 } }

/-- An entry of the module's log alone. -/
def logModule (s : State) (kind die : Nat) (d0 d1 : DWord) : State :=
  let m : LogEntry := { gtc := s.gtc.toNat, seq := s.hub.logSeq + 1, kind, die, ctx := 255, d0, d1 }
  { s with hub := { s.hub with log := keepLast 8192 (s.hub.log ++ [m]), logSeq := s.hub.logSeq + 1 } }

/-- An uncorrectable error counted in its partition and in the module (R381, R399). -/
def countUe (s : State) (p : Nat) : State :=
  modPart { s with hub := { s.hub with ue := s.hub.ue + 1 } } p fun x => { x with uecnt := x.uecnt + 1 }

/-- A response of a stale life number is dropped and counted (R388). -/
def countLate (s : State) (d : Nat) : State := modPart s (diePart s d) fun p => { p with late := p.late + 1 }

/-- The versions of a partition's interleave and region tables, under which its requests are routed (R391). -/
def partVers (s : State) (p : Nat) : BitVec 4 × BitVec 4 := ((getPart s p).inter.ver, (getPart s p).region.ver)

/-- A request of a partition comes to its home: one that was routed under an old version is answered "misrouted", issued again under the
new one, and counted (R392). -/
def reroute (s : State) (p : Nat) (vers : BitVec 4 × BitVec 4) : State :=
  if vers = partVers s p then s else modPart s p fun x => { x with misr := x.misr + 1 }

/-- A die of a partition is resetting (R387). -/
def partResetting (s : State) (p : Nat) : Bool := (maskDies (getPart s p).mask).any fun d => (getDie s d).status = .resetting

/-- A partition's new requests are stopped, because one of its tables is being rewritten (R391). -/
def requestsStopped (s : State) (p : Nat) : Bool := (getPart s p).region.pending.isSome || (getPart s p).inter.pending.isSome

/-- The front end of a partition makes no request now: its requests are stopped, or a die of it is resetting, whose homes do not answer
(R387, R391; log entry 93). -/
def frontWaits (s : State) (p : Nat) : Bool := requestsStopped s p || partResetting s p

/-- The versions under which a request was routed are still those of its partition (R391); the answer to
a die that has reset since matters no more (R388). -/
def routed (s : State) (x : Sent) : Bool := x.vers = partVers s x.part || x.life ≠ (getDie s x.die).life

/-- A switch is forced when the requests have not drained within 100 µs, or when a die resets during the wait (R392). -/
def forcedSwitch (s : State) (p : Nat) (t : TableVer) : Bool :=
  match t.pending with
  | none => false
  | some b => b + 100000 ≤ hubGtc s || partResetting s p

/-- An MSI-X vector raised; `vec` is the vector + 1, or 0 for none (R319, R336). -/
def raiseVector (s : State) (fn vec : Nat) : State :=
  if vec = 0 then s else { s with msix := s.msix ++ [(fn, vec - 1)] }

/-! ## Event counters and waking (R29, R132, R134) -/

/-- The counter of an event (R29); the barrier's phase is in the lattice. -/
def counter (g : Group) : Ev → DWord
  | .bar => 0
  | .grant => g.cGrant
  | .mon => g.cMon
  | .batch => g.cBatch
  | .join => g.cJoin
  | .queue => g.cQueue
  | .token => g.cToken

/-- A group with one event counter replaced. -/
def withCounter (g : Group) (e : Ev) (x : DWord) : Group :=
  match e with
  | .bar => g
  | .grant => { g with cGrant := x }
  | .mon => { g with cMon := x }
  | .batch => { g with cBatch := x }
  | .join => { g with cJoin := x }
  | .queue => { g with cQueue := x }
  | .token => { g with cToken := x }

/-- Reached(c, ph) for the 64-bit counters (R132). -/
def reached (c ph : DWord) : Bool := !(c - ph).msb
/-- Reached(c, ph) for a barrier object's 32-bit phase; the low 32 bits of `ph` are used (R132, R200). -/
def reached32 (c : Word) (ph : DWord) : Bool := !(c - ph.setWidth 32).msb

/-- A group that sleeps on an event whose counter has reached its phase wakes (R134). -/
def wakeGroup (g : Group) : Group :=
  match g.status with
  | .asleep ev _ ph resume _ =>
    if ev ≠ .bar && reached (counter g ev) ph then { g with status := .ready, pc := resume } else g
  | _ => g

/-- An event counter of a group advances by one, and the group wakes if its phase is reached. -/
def bump (s : State) (g : Nat) (e : Ev) : State :=
  modGroup s g fun x => wakeGroup (withCounter x e (counter x e + 1))

/-! ## Groups by identity (R134, R161: a saved group's counts go on) -/

/-- The resident slot of the group with an identity. -/
def slotOfUid (s : State) (uid : Nat) : Option Nat :=
  (s.groups.find? fun e => e.2.uid = uid && e.2.status.live).map (·.1)

/-- The group with an identity changed, whether it is resident, saved with its block, or written by CSAVE. -/
def modUid (s : State) (uid : Nat) (f : Group → Group) : State :=
  match slotOfUid s uid with
  | some g => modGroup s g f
  | none =>
    { s with
      blocks := s.blocks.map fun e =>
        (e.1, { e.2 with saved := e.2.saved.map fun x => (x.1, if x.2.uid = uid then f x.2 else x.2) })
      csaved := s.csaved.map fun x => (x.1, if x.2.uid = uid then f x.2 else x.2) }

/-- What the group with an identity is now: resident, saved with its block, or written by CSAVE. -/
def findUid (s : State) (uid : Nat) : Option Group :=
  match slotOfUid s uid with
  | some g => some (getGroup s g)
  | none => ((s.blocks.flatMap fun e => e.2.saved.map (·.2)) ++ s.csaved.map (·.2)).find? fun x => x.uid = uid

/-- An event counter of the group with an identity advances by one, and the group wakes if its phase is reached. -/
def bumpUid (s : State) (uid : Nat) (e : Ev) : State :=
  modUid s uid fun x => wakeGroup (withCounter x e (counter x e + 1))

/-- The block of the group with an identity and the member on which it lies, wherever the group is. -/
def placeOfUid (s : State) (uid : Nat) : Option (Nat × Nat) :=
  match s.groups.find? fun e => e.2.uid = uid && e.2.status ≠ .free with
  | some e => some (e.2.block, e.2.member)
  | none =>
    match s.blocks.findSome? fun e => e.2.saved.findSome? fun x => if x.2.uid = uid then some (e.1, x.2.member) else none with
    | some b => some b
    | none => (s.csaved.find? fun x => x.1.uid = uid).map fun x => (x.1.block, x.1.member)

/-- Groups have met poison at an address in an access that no instruction reports: their blocks are lost with the next step (R375). -/
def loseLater (s : State) (uids : List Nat) (va : DWord) (pa : Nat) : State :=
  let bs := (uids.filterMap (placeOfUid s)).filter fun b => !(s.losses.any fun e => e.1 = b.1)
  { s with losses := s.losses ++ bs.map fun b => (b.1, b.2, va, pa) }

/-- The slots that hold groups of a block, by the block's own list. -/
def blockGroups (s : State) (b : Nat) : List Nat := (getBlock s b).groups

end Sys2Proof.Machine
end

