-- ==== Sys2Proof/Machine/Flags.lean ====
section
/-! DEFINITION. Number formats, rounding and the floating flags (R65 to R82). A value of a format is carried in the low
bits of a doubleword; an exact value before rounding is a dyadic number. -/

namespace Sys2Proof.Machine

/-! ## Flags (R75): NX, UF, OF, DZ, IV are bits 0 to 4 -/

/-- Floating flags as they stand in bits [4:0] of `sy.fpflags`. -/
abbrev FFlags := BitVec 5
def fNX : FFlags := 1#5
def fUF : FFlags := 2#5
def fOF : FFlags := 4#5
def fDZ : FFlags := 8#5
def fIV : FFlags := 16#5

/-- The bits of `sy.fpflags` that hold something (R75). -/
def fpMask : DWord := 0x1F1F#64

/-- `sy.fpflags` after flags have been raised (R76). -/
def raiseFlags (r : DWord) (f : FFlags) : DWord := r ||| f.setWidth 64

/-- The raised flags whose enable bit is set (R75, R77). -/
def enabledFlags (r : DWord) (f : FFlags) : FFlags := f &&& (r.extractLsb' 8 5)

/-! ## Integer formats (R65, R66) -/

/-- The width in bits of a type (R65, R67, R81). -/
def tyBits : Ty → Nat
  | .none => 32
  | .i8 => 8 | .n8 => 8 | .q8 => 8
  | .i16 => 16 | .n16 => 16 | .bf16 => 16 | .f16 => 16
  | .i32 => 32 | .n32 => 32 | .f32 => 32
  | .i64 => 64 | .n64 => 64 | .f64 => 64 | .fx => 64
  | .q4 => 4

/-- A type of `.i`, which reads its operands as signed (R12, R137). -/
def tySigned : Ty → Bool
  | .none => true | .i8 => true | .i16 => true | .i32 => true | .i64 => true
  | .n8 => false | .n16 => false | .n32 => false | .n64 => false
  | .bf16 => true | .f16 => true | .f32 => true | .f64 => true
  | .q4 => false | .q8 => false | .fx => true

/-- One of the eight integer formats of R65. -/
def tyInt : Ty → Bool
  | .i8 => true | .i16 => true | .i32 => true | .i64 => true
  | .n8 => true | .n16 => true | .n32 => true | .n64 => true
  | _ => false

/-- One of the four floating formats of R67. -/
def tyFloat : Ty → Bool
  | .bf16 => true | .f16 => true | .f32 => true | .f64 => true
  | _ => false

/-- The low `w` bits as an unsigned number. -/
def toN (w : Nat) (x : DWord) : Nat := x.toNat % 2 ^ w
/-- The low `w` bits as two's complement. -/
def toS (w : Nat) (x : DWord) : Int :=
  if x.toNat % 2 ^ w < 2 ^ (w - 1) then (x.toNat % 2 ^ w : Int) else (x.toNat % 2 ^ w : Int) - 2 ^ w
/-- S or N of R137, by the signedness. -/
def toSN (sg : Bool) (w : Nat) (x : DWord) : Int := if sg then toS w x else toN w x
/-- An unbounded integer wrapped to `w` bits (R66). -/
def wrap (w : Nat) (x : Int) : DWord := BitVec.ofInt 64 (x % 2 ^ w)
/-- A `w`-bit result extended to the register: sign or zero (R66). -/
def extend (sg : Bool) (w : Nat) (x : DWord) : DWord :=
  if sg then BitVec.ofInt 64 (toS w x) else BitVec.ofNat 64 (toN w x)

/-- The range of an integer format, or of `.fx` taken as `.i64` (R65, R74). -/
def tyRange (t : Ty) : Int × Int :=
  if tySigned t then (-(2 ^ (tyBits t - 1)), 2 ^ (tyBits t - 1) - 1) else (0, 2 ^ tyBits t - 1)

/-- A value clamped to a range (R74, R82). -/
def clampTo (r : Int × Int) (x : Int) : Int := if x < r.1 then r.1 else if r.2 < x then r.2 else x

/-! ## Floating formats (R67, R68) -/

/-- A binary format: fraction bits, exponent bits (R67). -/
structure Fmt where
  m : Nat
  e : Nat
  deriving DecidableEq, Repr

/-- The parameters of R67; types that are not floating take those of FP32. -/
def fmtOf : Ty → Fmt
  | .bf16 => ⟨7, 8⟩
  | .f16 => ⟨10, 5⟩
  | .f64 => ⟨52, 11⟩
  | _ => ⟨23, 8⟩

/-- The bias of a format (R67). -/
def fmtBias (f : Fmt) : Nat := 2 ^ (f.e - 1) - 1

/-- A floating value as R68 decodes it; a number is `m × 2 ^ e` with `m > 0`. -/
inductive FVal where
  | nan (signalling : Bool)
  | inf (neg : Bool)
  | zero (neg : Bool)
  | num (neg : Bool) (m : Nat) (e : Int)
  deriving DecidableEq, Repr

/-- The value of the bits of a format (R68). -/
def fval (f : Fmt) (x : DWord) : FVal :=
  let s := x.getLsbD (f.m + f.e)
  let ex := x.toNat / 2 ^ f.m % 2 ^ f.e
  let fr := x.toNat % 2 ^ f.m
  if ex = 2 ^ f.e - 1 then (if fr = 0 then .inf s else .nan (fr < 2 ^ (f.m - 1)))
  else if ex = 0 then (if fr = 0 then .zero s else .num s fr (1 - fmtBias f - f.m))
  else .num s (2 ^ f.m + fr) (ex - fmtBias f - f.m)

/-- The sign bit of a format (R67). -/
def signBit (f : Fmt) (neg : Bool) : Nat := if neg then 2 ^ (f.m + f.e) else 0
/-- The default NaN of a format (R70). -/
def defaultNaN (f : Fmt) : DWord := BitVec.ofNat 64 ((2 ^ f.e - 1) * 2 ^ f.m + 2 ^ (f.m - 1))
/-- An infinity of a format (R68). -/
def infBits (f : Fmt) (neg : Bool) : DWord := BitVec.ofNat 64 (signBit f neg + (2 ^ f.e - 1) * 2 ^ f.m)
/-- A zero of a format (R68). -/
def zeroBits (f : Fmt) (neg : Bool) : DWord := BitVec.ofNat 64 (signBit f neg)
/-- The greatest finite value of a format (R67). -/
def maxBits (f : Fmt) (neg : Bool) : DWord := BitVec.ofNat 64 (signBit f neg + (2 ^ f.e - 1) * 2 ^ f.m - 1)

/-! ## Rounding (R72 to R74) -/

/-- Whether a magnitude `q + r` with `r` in [0, 1) is rounded away from zero: `half` compares `r` with one half. -/
def roundsUp (rm : Rm) (neg odd inexact : Bool) (half : Ordering) : Bool :=
  match rm with
  | .rn => match half with | .gt => true | .eq => odd | .lt => false
  | .rz => false
  | .ru => inexact && !neg
  | .rd => inexact && neg

/-- `m × 2 ^ e`, plus a fraction of the last place when `st`, rounded to a multiple of `2 ^ q`: the multiple, and
whether it differs. -/
def roundAt (rm : Rm) (neg : Bool) (m : Nat) (e : Int) (st : Bool) (q : Int) : Nat × Bool :=
  if q ≤ e then (m * 2 ^ (e - q).toNat, st)
  else
    let k := (q - e).toNat
    let lo := m % 2 ^ k
    let hi := m / 2 ^ k
    let half := if lo < 2 ^ (k - 1) then Ordering.lt else if lo = 2 ^ (k - 1) && !st then .eq else .gt
    let inexact := lo != 0 || st
    (if roundsUp rm neg (hi % 2 = 1) inexact half then hi + 1 else hi, inexact)

/-- The overflow value of a mode (R73). -/
def overflowBits (rm : Rm) (f : Fmt) (neg : Bool) : DWord :=
  match rm with
  | .rn => infBits f neg
  | .rz => maxBits f neg
  | .ru => if neg then maxBits f true else infBits f false
  | .rd => if neg then infBits f true else maxBits f false

/-- Steps 3 to 5 of `Round` to a floating format for a non-zero value (R73). -/
def roundNum (rm : Rm) (f : Fmt) (neg : Bool) (m : Nat) (e : Int) (st : Bool) : DWord × FFlags :=
  let emin : Int := 1 - fmtBias f
  let top : Int := e + Nat.log2 m
  let q : Int := max (top - f.m) (emin - f.m)
  let r := roundAt rm neg m e st q
  let u := roundAt rm neg m e st (top - f.m)
  let tiny : Bool := top < emin && !(top = emin - 1 && u.1 = 2 ^ (f.m + 1))
  if (fmtBias f : Int) < q + Nat.log2 r.1 && r.1 != 0 then (overflowBits rm f neg, fOF ||| fNX)
  else
    (BitVec.ofNat 64 (signBit f neg + (q - (emin - f.m)).toNat * 2 ^ f.m + r.1),
      if r.2 then (if tiny then fNX ||| fUF else fNX) else 0)

/-- An exact result: the fraction of the last place that `st` marks is strictly between 0 and 1. -/
inductive XV where
  | nan (iv : Bool)
  | inf (neg dz : Bool)
  | zero (neg : Bool)
  | num (neg : Bool) (m : Nat) (e : Int) (st : Bool)
  deriving DecidableEq, Repr

/-- `Round(x, mode, fmt)` for a floating format (R73), with the flags of the case that gave `x` (R71). -/
def roundF (rm : Rm) (f : Fmt) : XV → DWord × FFlags
  | .nan iv => (defaultNaN f, if iv then fIV else 0)
  | .inf neg dz => (infBits f neg, if dz then fDZ else 0)
  | .zero neg => (zeroBits f neg, 0)
  | .num neg m e st => if m = 0 then (zeroBits f neg, 0) else roundNum rm f neg m e st

/-- `Round(x, mode, fmt)` for an integer format, or for `.fx` after scaling by 2 ^ f (R74). -/
def roundI (rm : Rm) (t : Ty) (scale : Nat) : XV → DWord × FFlags
  | .nan _ => (0, fIV)
  | .inf neg _ => (wrap (tyBits t) (if neg then (tyRange t).1 else (tyRange t).2), fIV)
  | .zero _ => (0, 0)
  | .num neg m e st =>
    let r := roundAt rm neg m (e + scale) st 0
    let x : Int := if neg then -r.1 else r.1
    let y := clampTo (tyRange t) x
    (wrap (tyBits t) y, if y = x then (if r.2 then fNX else 0) else fIV)

/-- An exact integer as an exact result. -/
def xvInt (x : Int) : XV := if x = 0 then .zero false else .num (x < 0) x.natAbs 0 false
/-- A floating operand as an exact result: a NaN raises IV only when it is signalling (R71). -/
def xvF : FVal → XV
  | .nan s => .nan s
  | .inf n => .inf n false
  | .zero n => .zero n
  | .num n m e => .num n m e false

/-! ## Operations of R71 and R146 -/

/-- The sign of an exact zero sum of operands of opposite sign (R71). -/
def zeroSign (rm : Rm) : Bool := rm = .rd
/-- A signed dyadic number. -/
def signed (neg : Bool) (m : Nat) : Int := if neg then -(m : Int) else m

/-- The exact sum of two dyadic numbers. -/
def sumXV (rm : Rm) (n1 : Bool) (m1 : Nat) (e1 : Int) (n2 : Bool) (m2 : Nat) (e2 : Int) : XV :=
  let e := min e1 e2
  let x := signed n1 (m1 * 2 ^ (e1 - e).toNat) + signed n2 (m2 * 2 ^ (e2 - e).toNat)
  if x = 0 then .zero (zeroSign rm) else .num (x < 0) x.natAbs e false

/-- The sum of two values none of which is a NaN (R71). -/
def addVal (rm : Rm) : FVal → FVal → XV
  | .nan s, _ => .nan s
  | _, .nan s => .nan s
  | .inf a, .inf b => if a = b then .inf a false else .nan true
  | .inf a, _ => .inf a false
  | _, .inf b => .inf b false
  | .zero a, .zero b => if a = b then .zero a else .zero (zeroSign rm)
  | .zero _, .num n m e => .num n m e false
  | .num n m e, .zero _ => .num n m e false
  | .num n1 m1 e1, .num n2 m2 e2 => sumXV rm n1 m1 e1 n2 m2 e2

/-- The first two rows of R71: a signalling NaN among the operands, or a quiet one. -/
def nanOf (xs : List FVal) : Option XV :=
  if xs.contains (.nan true) then some (.nan true) else if xs.contains (.nan false) then some (.nan false) else none

/-- A value with its sign changed. -/
def negVal : FVal → FVal
  | .nan s => .nan s
  | .inf n => .inf !n
  | .zero n => .zero !n
  | .num n m e => .num (!n) m e

/-- The exact product of two values; 0 × ∞ is the signalling case of R71. -/
def mulVal : FVal → FVal → FVal
  | .nan s, _ => .nan s
  | _, .nan s => .nan s
  | .inf a, .inf b => .inf (a != b)
  | .inf _, .zero _ => .nan true
  | .zero _, .inf _ => .nan true
  | .inf a, .num b _ _ => .inf (a != b)
  | .num a _ _, .inf b => .inf (a != b)
  | .zero a, .zero b => .zero (a != b)
  | .zero a, .num b _ _ => .zero (a != b)
  | .num a _ _, .zero b => .zero (a != b)
  | .num a m1 e1, .num b m2 e2 => .num (a != b) (m1 * m2) (e1 + e2)

/-- a + b (R146). -/
def xAdd (rm : Rm) (a b : FVal) : XV := (nanOf [a, b]).getD (addVal rm a b)
/-- a − b (R146). -/
def xSub (rm : Rm) (a b : FVal) : XV := (nanOf [a, b]).getD (addVal rm a (negVal b))
/-- a × b (R146). -/
def xMul (a b : FVal) : XV := (nanOf [a, b]).getD (xvF (mulVal a b))
/-- a × b + c with one rounding (R146). -/
def xFma (rm : Rm) (a b c : FVal) : XV := (nanOf [a, b, c]).getD (addVal rm (mulVal a b) c)

/-- a / b to 128 bits below the quotient's last place, with the rest in `st` (R71, R146). -/
def xDiv (a b : FVal) : XV :=
  (nanOf [a, b]).getD <|
    match a, b with
    | .nan s, _ => .nan s
    | _, .nan s => .nan s
    | .inf _, .inf _ => .nan true
    | .zero _, .zero _ => .nan true
    | .inf x, .zero y => .inf (x != y) false
    | .inf x, .num y _ _ => .inf (x != y) false
    | .zero x, .inf y => .zero (x != y)
    | .num x _ _, .inf y => .zero (x != y)
    | .zero x, .num y _ _ => .zero (x != y)
    | .num x _ _, .zero y => .inf (x != y) true
    | .num x m1 e1, .num y m2 e2 =>
      .num (x != y) (m1 * 2 ^ 128 / m2) (e1 - e2 - 128) (m1 * 2 ^ 128 % m2 != 0)

/-- The integer square root, one bit a step from bit `k` down. -/
def isqrt (n : Nat) : Nat → Nat → Nat
  | 0, r => r
  | k + 1, r => isqrt n k (if (r + 2 ^ k) * (r + 2 ^ k) ≤ n then r + 2 ^ k else r)

/-- √a to at least 64 bits below the root's last place (R71, R146). -/
def xSqrt (a : FVal) : XV :=
  match a with
  | .nan s => .nan s
  | .inf n => if n then .nan true else .inf false false
  | .zero n => .zero n
  | .num true _ _ => .nan true
  | .num false m e =>
    let m' := if e % 2 = 0 then m * 2 ^ 128 else m * 2 ^ 129
    let e' : Int := if e % 2 = 0 then e / 2 - 64 else (e - 1) / 2 - 64
    let r := isqrt m' 100 0
    .num false r e' (r * r != m')

/-- Whether a < b, for values none of which is a NaN. -/
def ltVal (a b : FVal) : Bool :=
  match addVal .rn a (negVal b) with
  | .inf n _ => n
  | .num n _ _ _ => n
  | .zero _ => false
  | .nan _ => (match a, b with | .inf true, .inf false => true | _, _ => false)

/-- Whether a = b for values none of which is a NaN: −0 and +0 are equal, and an infinity equals itself (R148). -/
def eqVal (a b : FVal) : Bool := a ≠ .nan true && !ltVal a b && !ltVal b a

/-- FMIN or FMAX on the bits of a format (R71, R147). -/
def fMinMax (mx : Bool) (f : Fmt) (x y : DWord) : DWord × FFlags :=
  let a := fval f x
  let b := fval f y
  if a = .nan true || b = .nan true then (defaultNaN f, fIV)
  else if a = .nan false && b = .nan false then (defaultNaN f, 0)
  else if a = .nan false then (y, 0)
  else if b = .nan false then (x, 0)
  else match a, b with
    | .zero m, .zero n => (if m = n then x else zeroBits f (!mx), 0)
    | _, _ => (if ltVal a b then (if mx then y else x) else if ltVal b a then (if mx then x else y) else x, 0)

/-- FCMP's relation and its IV flag (R148); FN as in R106. -/
def fCompare (fn : Nat) (a b : FVal) : Bool × FFlags :=
  let isNan (v : FVal) : Bool := v = .nan true || v = .nan false
  let un := isNan a || isNan b
  let sig := a = .nan true || b = .nan true
  let quiet : FFlags := if sig then fIV else 0
  let loud : FFlags := if un then fIV else 0
  if fn = 0 then (!un && eqVal a b, quiet)
  else if fn = 1 then (un || !eqVal a b, quiet)
  else if fn = 2 then (!un && ltVal a b, loud)
  else if fn = 3 then (!un && (ltVal a b || eqVal a b), loud)
  else if fn = 4 then (!un && ltVal b a, loud)
  else if fn = 5 then (!un && (ltVal b a || eqVal a b), loud)
  else if fn = 6 then (un, quiet)
  else (!un, quiet)

/-- The class bit of a value for FCLS (R149). -/
def fClass (f : Fmt) (x : DWord) : Nat :=
  match fval f x with
  | .nan true => 0
  | .nan false => 1
  | .inf true => 2
  | .inf false => 9
  | .zero true => 5
  | .zero false => 6
  | .num true m _ => if m < 2 ^ f.m then 4 else 3
  | .num false m _ => if m < 2 ^ f.m then 7 else 8

/-- FRND: the integral value nearest in the mode; only a signalling NaN raises a flag (R150). -/
def fRound (rm : Rm) (f : Fmt) (x : DWord) : DWord × FFlags :=
  match fval f x with
  | .nan s => (defaultNaN f, if s then fIV else 0)
  | .inf _ => (x, 0)
  | .zero _ => (x, 0)
  | .num n m e =>
    if 0 ≤ e then (x, 0)
    else
      let r := (roundAt rm n m e false 0).1
      if r = 0 then (zeroBits f n, 0) else ((roundNum rm f n r 0 false).1, 0)

/-! ## The approximations (R151) -/

/-- The six approximated functions. -/
inductive Approx where
  | rcp | rsq | exp2 | log2 | sin | cos
  deriving DecidableEq, Repr

/-- A value that is a power of two, `2 ^ k`. -/
def powerOfTwo : FVal → Option Int
  | .num false m e => if 2 ^ Nat.log2 m = m then some (e + Nat.log2 m) else none
  | _ => none

/-- A finite value that is an integer. -/
def integral : FVal → Option Int
  | .zero _ => some 0
  | .num n m e =>
    if 0 ≤ e then some (signed n (m * 2 ^ e.toNat))
    else if m % 2 ^ (-e).toNat = 0 then some (signed n (m / 2 ^ (-e).toNat)) else none
  | _ => none

/-- One of two neighbours of an exact value, by a free bit: both lie within one unit in the last place. -/
def pickNear (free : Bool) (f : Fmt) (neg : Bool) (m : Nat) (e : Int) (st : Bool) : DWord × FFlags :=
  let n := roundNum .rn f neg m e st
  if n.2 &&& fOF != 0 || n.2 = 0 then n
  else if free then roundNum .rd f neg m e st else roundNum .ru f neg m e st

/-- The flags of an inexact approximation, from the bits of its result: NX, and OF or UF when the result is infinite or
below the least normal (R151). -/
def approxFlags (f : Fmt) (r : DWord) : FFlags :=
  match fval f r with
  | .inf _ => fNX ||| fOF
  | .zero _ => fNX ||| fUF
  | .num _ m _ => if m < 2 ^ f.m then fNX ||| fUF else fNX
  | .nan _ => fNX

/-! Reference values, to hold a free result to its bound: numbers with 320 bits of fraction. -/

def fxOne : Int := 2 ^ 320
def fxMul (a b : Int) : Int := a * b / fxOne
/-- A dyadic number with an exponent of at least −320. -/
def fxOf (neg : Bool) (m : Nat) (e : Int) : Int := signed neg (m * 2 ^ (e + 320).toNat)

/-- The sum of the first terms of a series: `next` leads from one power to the next, `term` from a power to its term. -/
def fxSum (next term : Nat → Int → Int) : Nat → Nat → Int → Int
  | 0, _, _ => 0
  | n + 1, k, p => term k p + fxSum next term n (k + 1) (next k p)

/-- ln 2 = Σ 1 / (k 2 ^ k). -/
def fxLn2 : Int := fxSum (fun _ p => p / 2) (fun k p => p / (k + 1)) 330 0 (fxOne / 2)
/-- The arc tangent of 1 / q. -/
def fxAtanInv (q : Int) : Int := fxSum (fun _ p => -(p / (q * q))) (fun k p => p / (2 * k + 1)) 90 0 (fxOne / q)
/-- π by Machin's formula. -/
def fxPi : Int := 4 * (4 * fxAtanInv 5 - fxAtanInv 239)
/-- e ^ t for t in [0, 1). -/
def fxExp (t : Int) : Int := fxSum (fun k p => fxMul p t / (k + 1)) (fun _ p => p) 80 0 fxOne
/-- 2 ^ x. -/
def fxExp2 (x : Int) : Int :=
  let n := x / fxOne
  let y := fxExp (fxMul (x % fxOne) fxLn2)
  if 0 ≤ n then y * 2 ^ n.toNat else y / 2 ^ min (-n).toNat 400
/-- log2 of m × 2 ^ e, through ln y = 2 artanh ((y − 1) / (y + 1)) for y in [1, 2). -/
def fxLog2 (m : Nat) (e : Int) : Int :=
  let k := Nat.log2 m
  let z := (m - 2 ^ k : Nat) * fxOne / (m + 2 ^ k : Nat)
  let ln := 2 * fxSum (fun _ p => fxMul p (fxMul z z)) (fun k p => p / (2 * k + 1)) 110 0 z
  (e + k) * fxOne + ln * fxOne / fxLn2
/-- sin and cos of a number, reduced against 2π. -/
def fxSin (x : Int) : Int :=
  let r := x % (2 * fxPi)
  fxSum (fun k p => -(fxMul (fxMul p r) r / ((2 * k + 2) * (2 * k + 3)))) (fun _ p => p) 75 0 r
def fxCos (x : Int) : Int :=
  let r := x % (2 * fxPi)
  fxSum (fun k p => -(fxMul (fxMul p r) r / ((2 * k + 1) * (2 * k + 2)))) (fun _ p => p) 75 0 fxOne

/-- The spacing of FP32 values at a magnitude (R151). -/
def fxUlp (y : Int) : Int := 2 ^ max (Nat.log2 y.natAbs - 23) 171
/-- The value of an FP32 number; an infinity stands for 2 ^ 128. -/
def fxVal (x : DWord) : Option Int :=
  match fval (fmtOf .f32) x with
  | .nan _ => none
  | .inf n => some (fxOf n 1 128)
  | .zero _ => some 0
  | .num n m e => some (fxOf n m e)

/-- An approximated result: a free value within a bound of the exact result `y` (log entry 9); where the free value is not, the
result nearest to `y`. -/
def within (free : BitVec 32) (y bound : Int) : DWord × FFlags :=
  let f := fmtOf .f32
  let near : Bool := match fxVal (free.setWidth 64) with | some v => (v - y).natAbs ≤ bound.natAbs | none => false
  let r := if near then free.setWidth 64 else if y = 0 then 0 else (roundNum .rn f (decide (y < 0)) y.natAbs (-320) true).1
  (r, approxFlags f r)

/-- The bounds of R151: for FEXP2 two units in the last place, for FLOG2 also 2 ^ −22 between 0.5 and 2, for FSIN and FCOS
2 ^ −21. -/
def approxExp2 (free : BitVec 32) (neg : Bool) (m : Nat) (e : Int) : DWord × FFlags :=
  let y := fxExp2 (fxOf neg m e)
  within free y (2 * fxUlp y)
def approxLog2 (free : BitVec 32) (m : Nat) (e : Int) : DWord × FFlags :=
  let y := fxLog2 m e
  within free y (if y.natAbs ≤ fxOne.natAbs then max (2 * fxUlp y) (2 ^ 298) else 2 * fxUlp y)

/-- The six functions in FP32 (R70, R71, R151): special values and exact cases as stated, every other result free within its
bound. -/
def approx32 (k : Approx) (x : DWord) : DWord × FFlags :=
  let f := fmtOf .f32
  let one : FVal := .num false 1 0
  let bits : BitVec 32 := x.setWidth 32
  match fval f x with
  | .nan s => (defaultNaN f, if s then fIV else 0)
  | a =>
    match k with
    | .rcp =>
      match xDiv one a with
      | .num n m e st => pickNear ((Config.frcp bits).getLsbD 0) f n m e st
      | y => roundF .rn f y
    | .rsq =>
      match a with
      | .zero n => (infBits f n, fDZ)
      | .inf false => (zeroBits f false, 0)
      | .num false m e =>
        let e' : Int := if e % 2 = 0 then e else e - 1
        let m' := if e % 2 = 0 then m else 2 * m
        let q := 2 ^ 200 / m'
        let r := isqrt q 101 0
        if r * r * m' = 2 ^ 200 then roundNum .rn f false r (-100 - e' / 2) false
        else
          let y := fxOf false r (-100 - e' / 2)
          within (Config.frsq bits) y (2 * fxUlp y)
      | _ => (defaultNaN f, fIV)
    | .exp2 =>
      match a with
      | .inf n => if n then (zeroBits f false, 0) else (infBits f false, 0)
      | .num n m e =>
        if !n && 128 ≤ m * 2 ^ (e + 149).toNat / 2 ^ 149 then (infBits f false, fOF ||| fNX)
        else
          match integral a with
          | some i => if -149 ≤ i then roundNum .rn f false 1 i false else approxExp2 (Config.fexp2 bits) n m e
          | none => approxExp2 (Config.fexp2 bits) n m e
      | _ => roundNum .rn f false 1 0 false
    | .log2 =>
      match a with
      | .zero _ => (infBits f true, fDZ)
      | .inf false => (infBits f false, 0)
      | .num false m e =>
        match powerOfTwo (.num false m e) with
        | some i => roundF .rn f (xvInt i)
        | none => approxLog2 (Config.flog2 bits) m e
      | _ => (defaultNaN f, fIV)
    | .sin =>
      match a with
      | .inf _ => (defaultNaN f, fIV)
      | .zero _ => (x, 0)
      | .num n m e => within (Config.fsin bits) (fxSin (fxOf n m e)) (2 ^ 299)
      | .nan _ => (defaultNaN f, 0)
    | .cos =>
      match a with
      | .inf _ => (defaultNaN f, fIV)
      | .zero _ => roundNum .rn f false 1 0 false
      | .num n m e => within (Config.fcos bits) (fxCos (fxOf n m e)) (2 ^ 299)
      | .nan _ => (defaultNaN f, 0)

/-- An approximation at its type: 16-bit operands are widened exactly and the result is rounded to nearest-even into
the type (R151). -/
def approx (k : Approx) (t : Ty) (x : DWord) : DWord × FFlags :=
  let f := fmtOf t
  if t = .bf16 || t = .f16 then
    match fval f x with
    | .nan s => (defaultNaN f, if s then fIV else 0)
    | a =>
      let r := approx32 k (roundF .rn (fmtOf .f32) (xvF a)).1
      let y := roundF .rn f (xvF (fval (fmtOf .f32) r.1))
      (y.1, r.2 ||| y.2)
  else approx32 k (x.setWidth 32 |>.setWidth 64)

end Sys2Proof.Machine
end

