-- ==== Sys2Proof/Machine/Home.lean ====
section
/-! DEFINITION. Lines at their homes and in caches: visible and next images, leases and completion times, stores in
flight, gathered updates, darkroom copies and merges (R159, R160, R168 to R172, R180 to R182, R187 to R193, R253 to
R256, R307 to R311, R370, R375, R387, R389, R395). -/

namespace Sys2Proof.Machine

/-! ## Poison (R375, R387, R395) -/

/-- A stack or a home that answers nothing any more: its words count as poisoned and its stores are dropped. -/
def homeGone (s : State) (key : Nat) : Bool :=
  s.hub.stacksFailed.getLsbD (homeStack s key) || (getDie s (homeDie s key)).status = .failed

/-- The home answers no request now, because its die is resetting (R387). -/
def homeBusy (s : State) (key : Nat) : Bool := (getDie s (homeDie s key)).status = .resetting

/-- Some byte of a range of one line is poisoned (R375). -/
def poisoned (s : State) (key n : Nat) : Bool :=
  homeGone s key || s.poison.any fun w => w ≤ key + n - 1 && key ≤ w + 31

/-- Some byte of a range of one line is poisoned in the line's next image: a word that a waiting image makes clean is not
(R180, R375). -/
def poisonedNext (s : State) (key n : Nat) : Bool :=
  homeGone s key || s.poison.any fun w => w ≤ key + n - 1 && key ≤ w + 31
    && !((getHome s (lineOf w)).cleans.any fun e => e.2 = w)

/-- The poisoned words that are left after bytes at some offsets of a line have been written (R375): a word is clean
when all 32 of its bytes came from the operation. -/
def cleaned (line : Nat) (bytes : AMap Byte) (ws : List Nat) : List Nat :=
  ws.filter fun w => !(lineOf w = line && (List.range 32).all fun i => (mapFind bytes (w % 128 + i)).isSome)

/-! ## The two images of a line (R180) -/

/-- `sy.gtc` at a line's home. -/
def homeGtc (s : State) (l : Nat) : Nat := dieGtc s (homeDie s (128 * l))

/-- The bytes of a line that differ between two images. -/
def changes (mem : List Host.Cell) (l : Nat) (bytes : AMap Byte) : Bool :=
  bytes.any fun e => memRead mem (128 * l + e.1) != e.2

/-- Bytes written into memory at offsets of a line. -/
def putOffsets (mem : List Host.Cell) (l : Nat) : AMap Byte → List Host.Cell
  | [] => mem
  | (o, b) :: r => putOffsets (memWrite mem (128 * l + o) b) l r

/-- The old contents of instruction words that a write to some bytes changes, before those that earlier writes since the last
ICINV changed (R93), by the key of the word. -/
def staleWords (s : State) (keys : List Nat) : AMap (List Word) :=
  ((keys.map fun k => k / 4 * 4).eraseDups).foldl (fun m k =>
    let old := BitVec.ofNat 32 (leNat (memBytes s.mem k 4))
    if (mapGet [] m k).contains old then m else mapMod [] m k (old :: ·)) s.stale

/-- Bytes of host memory written at a key (R314). -/
def hostPut (s : State) (key : Nat) (b : List Byte) : State :=
  { s with stale := staleWords s ((List.range b.length).map (key + ·)), mem := memPut s.mem key b }

/-- The monitors of a line's watchers advance (R189). -/
def bumpWatchers (s : State) (l : Nat) : State := (getHome s l).watchers.foldl (fun s u => bumpUid s u .mon) s

/-- The visible image of a line with bytes put over it: the watchers' monitors advance if it changes. -/
def showBytes (s : State) (l : Nat) (bytes : AMap Byte) : State :=
  let ch := changes s.mem l bytes
  let s := { s with stale := staleWords s (bytes.map fun e => 128 * l + e.1), mem := putOffsets s.mem l bytes }
  if ch then bumpWatchers s l else s

/-- The visible image of a line after a write of bytes to it: words that the write fills are clean (R375). -/
def setVisible (s : State) (l : Nat) (bytes : AMap Byte) : State :=
  { showBytes s l bytes with poison := cleaned l bytes (showBytes s l bytes).poison }

/-- The L1 that holds a store's bytes: the issuing core's, or the fused slice of its launch (R57, R160). -/
def storeHolder (s : State) (t : PStore) : Nat :=
  let r := getGrid s t.grid
  let f := r.lrec.flags.toNat / 8 % 4
  if f = 1 || (f = 0 && r.hdr.fuse) then 4 * coreCluster t.core + keyPa t.addr / 128 % 4 else t.core

/-- A store in flight from a holder writes an offset of a line. -/
def inFlight (s : State) (holder l o : Nat) : Bool :=
  s.stores.any fun t => t.performed = none && t.dark = none && t.peer = none && !t.lost && lineOf t.addr = l
    && storeHolder s t = holder && (match t.op with | .bytes m => (mapFind m o).isSome | _ => false)

/-- The caches' own bytes of a line whose image of time `t` has become visible are kept no longer, except those of stores in flight
and those that a later image shows (R159, R180). -/
def releaseOwn (s : State) (l t : Nat) : State :=
  { s with copies := s.copies.map fun e =>
      match mapFind e.2 l with
      | none => e
      | some c => (e.1, mapSet e.2 l { c with
          own := c.own.filter fun b => inFlight s e.1 l b.1 || t < mapGet 0 c.shown b.1
          shown := c.shown.filter fun b => t < b.2 }) }

/-- The first image of a line that waits becomes its visible image (R180, R271). -/
def makeVisible (s : State) (l : Nat) : State :=
  let h := getHome s l
  match h.next with
  | [] => s
  | (t, m) :: r =>
    let clean := (h.cleans.filter fun e => e.1 ≤ t).map (·.2)
    let s := showBytes (setHome s l { h with next := r, cleans := h.cleans.filter fun e => t < e.1 }) l m
    let s := { s with poison := s.poison.filter fun w => !clean.contains w }
    releaseOwn s l t

/-- A line whose times of visibility have come shows the images in their order (R180). -/
def settleN (s : State) (l : Nat) : Nat → State
  | 0 => s
  | n + 1 =>
    match (getHome s l).next with
    | (t, _) :: _ => if t ≤ shownGtc s then settleN (makeVisible s l) l n else s
    | [] => s
def settle (s : State) (l : Nat) : State := settleN s l (getHome s l).next.length

/-- The latest time of visibility of a line's images, if one waits. -/
def lastVisible (h : HomeLine) : Option Nat := h.next.getLast?.map (·.1)

/-- A byte of a line's next image: the visible image with the commits' bytes and every later update applied. -/
def nextByte (s : State) (key : Nat) : Byte :=
  (((getHome s (lineOf key)).next.reverse.findSome? fun e => mapFind e.2 (key % 128))).getD (memRead s.mem key)

/-- The greatest expiry that a home answers for: in the span after a reset of its die it is the reset's (R389). -/
def horizon (s : State) (l : Nat) : Nat :=
  match (getDie s (homeDie s (128 * l))).resetAt with
  | some t => if homeGtc s l < t + 16384 then max (getHome s l).horizon (t + 16384) else (getHome s l).horizon
  | none => (getHome s l).horizon

/-- The completion time of a store performed now: C = max(t, H) + 4, and at least T of a pending commit (R180,
R255). -/
def completion (s : State) (l : Nat) : Nat :=
  let c := max (homeGtc s l) (horizon s l) + 4
  match lastVisible (getHome s l) with
  | some t => max c t
  | none => c

/-- The last image of a line with bytes put over it. -/
def putLast (bytes : AMap Byte) : List (Nat × AMap Byte) → List (Nat × AMap Byte)
  | [] => []
  | [e] => [(e.1, bytes.foldl (fun m b => mapSet m b.1 b.2) e.2)]
  | e :: r => e :: putLast bytes r

/-- The poisoned words of a line that a write fills, with the time at which an image that takes it shows them clean (R375). -/
def willClean (s : State) (l t : Nat) (bytes : AMap Byte) : List (Nat × Nat) :=
  ((s.poison.filter fun w => lineOf w = l).filter fun w => !(cleaned l bytes [w]).contains w).map fun w => (t, w)

/-- A store performed at its line's home: into the next image while there is one, else into the visible image (R180,
R255). Stores to a home that is gone are dropped and counted (R387, R395). -/
def homeWrite (s : State) (l : Nat) (bytes : AMap Byte) : State :=
  if homeGone s (128 * l) then
    countUe s (keyPart (128 * l))
  else
    let s := settle s l
    let h := getHome s l
    if h.next.isEmpty then setVisible s l bytes
    else setHome s l { h with next := putLast bytes h.next
                              cleans := h.cleans ++ willClean s l ((lastVisible h).getD 0) bytes }

/-- A poisoned word whose bytes have all been written is clean: at once, or with the last image that waits (R180, R375). -/
def cleanWord (s : State) (w : Nat) : State :=
  let s := { s with fills := s.fills.filter fun e => e.1 ≠ w }
  match lastVisible (getHome s (lineOf w)) with
  | none => { s with poison := s.poison.filter (· ≠ w) }
  | some t => setHome s (lineOf w) { getHome s (lineOf w) with cleans := (getHome s (lineOf w)).cleans ++ [(t, w)] }

/-- Bytes of a line that one lane of an instruction has written: with what other lanes of it wrote before, they may fill a poisoned
word (R375). -/
def fillWord (s : State) (id w : Nat) (bytes : AMap Byte) : State :=
  let mine := (bytes.filter fun b => w % 128 ≤ b.1 && b.1 < w % 128 + 32).map (·.1)
  let all := (((s.fills.find? fun e => e.1 = w && e.2.1 = id).map (·.2.2)).getD [] ++ mine).eraseDups
  if all.length < 32 then { s with fills := (s.fills.filter fun e => !(e.1 = w && e.2.1 = id)) ++ [(w, id, all)] }
  else cleanWord s w
def fill (s : State) (id l : Nat) (bytes : AMap Byte) : State :=
  (s.poison.filter fun w => lineOf w = l && !((getHome s l).cleans.any fun e => e.2 = w)).foldl (fun s w => fillWord s id w bytes) s

/-- The numbers under which the lanes of a CPY and those of a group's TXE fill words. -/
def fillCpy (cpy : Nat) : Nat := 2 * cpy
def fillTxe (uid : Nat) : Nat := 2 * uid + 1

/-- Bytes as offsets of their line. -/
def offsets (key : Nat) : List Byte → AMap Byte
  | [] => []
  | b :: r => (key % 128, b) :: offsets (key + 1) r

/-- Bytes of any length written at homes from a key upward, one line at a time, as stores performed now; the latest
completion time. -/
def homePut (s : State) (key : Nat) (bytes : List Byte) : Nat → State × Nat
  | 0 => (s, 0)
  | fuel + 1 =>
    match bytes with
    | [] => (s, 0)
    | _ =>
      let n := 128 - key % 128
      let c := completion (settle s (lineOf key)) (lineOf key)
      let r := homePut (homeWrite s (lineOf key) (offsets key (bytes.take n))) (key + n) (bytes.drop n) fuel
      (r.1, max c r.2)

/-! ## Atomic operations and the next image (R168, R180) -/

/-- The Op of ATOM on integers and of ATOM and ATOMF on floating values (R168); no flag is raised (R78). -/
def atomOp (fn : Nat) (ty : Ty) (rm : Rm) (old x : DWord) : DWord :=
  let w := tyBits ty
  if tyFloat ty then
    if fn = 6 then extend false w x
    else if fn = 0 then (roundF rm (fmtOf ty) (xAdd rm (fval (fmtOf ty) old) (fval (fmtOf ty) x))).1
    else (fMinMax (fn = 2) (fmtOf ty) old x).1
  else
    let a := toSN (tySigned ty) w old
    let b := toSN (tySigned ty) w x
    if fn = 0 then wrap w (a + b)
    else if fn = 1 then wrap w (min a b)
    else if fn = 2 then wrap w (max a b)
    else if fn = 3 then extend false w (old &&& x)
    else if fn = 4 then extend false w (old ||| x)
    else if fn = 5 then extend false w (old ^^^ x)
    else extend false w x

/-- `n` bytes of a line's next image. -/
def nextBytes (s : State) (key : Nat) : Nat → List Byte
  | 0 => []
  | n + 1 => nextByte s key :: nextBytes s (key + 1) n

/-- A value of `n` bytes in the next image. -/
def nextVal (s : State) (key n : Nat) : DWord := BitVec.ofNat 64 (leNat (nextBytes s key n))

/-! ## Copies under leases (R160, R254) -/

/-- The holder number of a die's non-home L2 copies; a core's L1 has the core's number. -/
def l2Holder (d : Nat) : Nat := 288 + d

/-- The L1 that holds a line for a core: its own, or that of the cluster's core a[8:7] when the launch fused the
cluster's L1s (R57). -/
def l1Holder (s : State) (g : Nat) (key : Nat) : Nat :=
  let c := slotCore g
  let r := groupGrid s g
  let f := r.lrec.flags.toNat / 8 % 4
  if f = 1 || (f = 0 && r.hdr.fuse) then 4 * coreCluster c + keyPa key / 128 % 4 else c

def getCopy (s : State) (holder l : Nat) : Option Copy := mapFind (mapGet [] s.copies holder) l
def setCopy (s : State) (holder l : Nat) (c : Copy) : State :=
  { s with copies := mapMod [] s.copies holder fun m => mapSet m l c }
def dropCopy (s : State) (holder l : Nat) : State :=
  { s with copies := mapMod [] s.copies holder fun m => mapDel m l }

/-- A copy serves a load only below its expiry (R254); under lease hold a die's caches hold none (R370). -/
def leased (s : State) (d : Nat) (c : Copy) : Bool :=
  !(getDie s d).hold && (match c.expiry with | some e => dieGtc s d < e | none => true)

/-- The home grants a copy of a line (R254): its expiry, bounded by a pending commit's T − 4, and the new horizon.
`none`: the class or the die's state allows no copy. -/
def grant (s : State) (l : Nat) (cls : Nat) : Option (Option Nat) :=
  if (getDie s (homeDie s (128 * l))).hold then none
  else
    match leaseLength cls with
    | none => none
    | some none => some none
    | some (some n) =>
      match (getHome s l).next.head? with
      | some (t, _) => some (some (min (homeGtc s l + n) (t - 4)))
      | none => some (some (homeGtc s l + n))

/-- Bytes of a map at `n` offsets from `o`, if it lists them all. -/
def mapBytes (m : AMap Byte) (o : Nat) : Nat → Option (List Byte)
  | 0 => some []
  | n + 1 =>
    match mapFind m o, mapBytes m (o + 1) n with
    | some b, some r => some (b :: r)
    | _, _ => none

/-- Bytes with those that a map lists at the same offsets put over them. -/
def overlay (m : AMap Byte) (o : Nat) : List Byte → List Byte
  | [] => []
  | b :: r => (mapFind m o).getD b :: overlay m (o + 1) r

/-- Own bytes of a holder's copy. -/
def ownBytes (s : State) (holder l : Nat) : AMap Byte :=
  match getCopy s holder l with | some c => c.own | none => []

/-! ## Stores in flight -/

/-- Whether the line is locked by an irrevocable lane other than the given one (R181, R182). -/
def lockedFor (s : State) (l : Nat) (who : Option (Nat × Nat)) : Bool :=
  match (getHome s l).lock with
  | none => false
  | some x => some x ≠ who

/-- The width of a scope (R17): an atomic's store half counts for the scopes up to its own (R172). -/
def scRank : Sc → Nat
  | .none => 0 | .grp => 1 | .blk => 2 | .cls => 3 | .die => 4 | .prt => 5 | .sys => 6

/-- A store is one of a group: its own, or one that carries its gathered updates (R272). -/
def PStore.ofUid (t : PStore) (uid : Nat) : Bool := t.uid = uid || t.also.any fun e => e.1 = uid
/-- A store is one of a grid. -/
def PStore.ofGrid (t : PStore) (i : Nat) : Bool := t.grid = i || t.also.any fun e => e.2.1 = i
/-- A store is one of a group, with a scope of its own at least as wide as another (R172). -/
def PStore.counts (t : PStore) (uid : Nat) (sc : Sc) : Bool :=
  (t.uid = uid && scRank sc ≤ scRank t.sc) || t.also.any fun e => e.1 = uid && scRank sc ≤ scRank e.2.2

/-- A store of a group to a peer, numbered below `n`, has not been performed there: a read of the group through an aperture that is no
request of its own waits for it (R326). -/
def peerLeft (s : State) (uid n : Nat) : Bool :=
  s.stores.any fun t => t.ofUid uid && t.id < n && t.peer.isSome && t.performed.isNone && !t.lost

/-- A store on its way to a coherent line of this partition's homes. -/
def PStore.going (t : PStore) (l : Nat) : Bool :=
  lineOf t.addr = l && t.performed = none && t.dark = none && t.peer = none && !t.lost

/-- Two stores to one line keep their order: those of one core, and those of one group that has moved (R159, R160, R251). -/
def PStore.ordered (t u : PStore) : Bool := t.core = u.core || u.ofUid t.uid

/-- An earlier store that must come first is still on its way to the same line: they reach the home in the order in which they were
issued (R159, R160). -/
def storeBlocked (u : PStore) : List PStore → Bool
  | [] => false
  | t :: r => if t.id = u.id then false else (t.going (lineOf u.addr) && t.ordered u) || storeBlocked u r

/-! ## A cache lets go of a line (R2, R6, R169, R192) -/

/-- The die that issued a store: that of its core, or of the front end that stands for 4096 and the number of its die. -/
def storeDie (t : PStore) : Nat := if t.core < 4096 then coreDie t.core else t.core - 4096

/-- A store or access that leaves its core, numbered, with its die's life number and the versions of the tables that route it (R386,
R391). -/
def addStore (s : State) (t : PStore) : State :=
  let n := fresh s
  { n.2 with stores := n.2.stores ++ [{ t with id := n.1, life := (getDie s (storeDie t)).life, vers := partVers s (keyPart t.addr) }] }

/-- A write-back that leaves its die, numbered, with the die's life number and the versions of the tables that route it (R386, R391). -/
def addWriteBack (s : State) (w : WriteBack) : State :=
  let n := fresh s
  { n.2 with wbs := n.2.wbs ++ [{ w with id := n.1, life := (getDie s w.die).life, vers := partVers s (keyPart w.key) }] }

/-- The atomic that carries one partial sum of an update-only line to its home, for every group that has updated the line. DESIGN
CHOICE: the home adds a floating sum in the rounding mode of the line's updates, which R169 and R88 leave open (log entry 17). -/
def gatherStore (c l : Nat) (h : Gather) (e : Nat × DWord) : PStore :=
  let w := h.whom.headD (0, 0, .sys)
  { id := 0, uid := w.1, grid := w.2.1, core := c, addr := 128 * l + e.1, va := h.va + BitVec.ofNat 64 e.1
    op := if h.fx then .atomx e.2 else .atom 0 h.ty h.rm e.2, sc := w.2.2, sum := true, also := h.whom.drop 1 }

/-- The update-only line of one core is sent to its home: its sums are atomics in flight, behind the core's earlier stores. -/
def sendGather (s : State) (c l : Nat) : State :=
  match mapFind (getCore s c).gather l with
  | none => s
  | some h =>
    h.sums.foldl (fun s e => addStore s (gatherStore c l h e)) (modCore s c fun k => { k with gather := mapDel k.gather l })

def getDark (s : State) (d l : Nat) : Option DarkLine := mapFind (mapGet [] s.dark d) l
def setDark (s : State) (d l : Nat) (x : DarkLine) : State :=
  { s with dark := mapMod [] s.dark d fun m => mapSet m l x }
def dropDark (s : State) (d l : Nat) : State := { s with dark := mapMod [] s.dark d fun m => mapDel m l }

/-- The group's darkroom stores to a line of a die are covered by its RWB, whichever write-back carries their bytes (R310). -/
def coverDark (s : State) (d l uid : Nat) : State :=
  { s with
    stores := modWhere s.stores (fun t => t.dark = some d && lineOf t.addr = l && t.uid = uid && !t.lost) fun t =>
      { t with covered := true } }

/-- The write-back of one line leaves a die: its dirty bytes go to the stack and the copy stays clean (R192, R309). The group
that issued it covers its own stores and waits for its merge; the stores whose bytes it carries are complete with it. -/
def writeBack (s : State) (d l : Nat) (uid : Option Nat) : State :=
  let s := match uid with | some u => coverDark s d l u | none => s
  match getDark s d l with
  | none => s
  | some x =>
    if x.dirty.isEmpty then s
    else
      let s := match uid with
        | some u =>
          let g := (slotOfUid s u).getD s.cur
          addStore s { id := 0, uid := u, grid := (groupBlock s g).grid, core := slotCore g, addr := 128 * l, va := 0
                       op := .bytes [], dark := some d, covered := true }
        | none => s
      let s := setDark s d l { x with dirty := [] }
      let ids := (s.stores.filter fun t => t.dark = some d && lineOf t.addr = l && t.performed = none && !t.lost).map (·.id)
      addWriteBack s { id := 0, die := d, key := 128 * l, bytes := x.dirty, stores := ids }

/-- The line that a full cache lets go of. -/
def victim {α : Type} (s : State) (holder : Nat) (ls : List α) : Option α := ls[Config.victim s.tick holder % ls.length]?

/-- An L1 has no room for one more line (R6). -/
def l1Full (s : State) (c : Nat) : Bool := Config.l1Lines ≤ (mapGet [] s.copies c).length + (getCore s c).gather.length

/-- Room for one more line in an L1: with 256 KiB of lines, a leased copy without own bytes goes, or an update-only line, whose
sums are sent (R6, R169). -/
def l1Room (s : State) (c : Nat) : State :=
  if l1Full s c then
    match victim s c ((((mapGet [] s.copies c).filter fun e => e.2.own.isEmpty).map fun e => (false, e.1))
        ++ (getCore s c).gather.map fun e => (true, e.1)) with
    | some (false, l) => dropCopy s c l
    | some (true, l) => sendGather s c l
    | none => s
  else s

/-- Room for one more line in the L2 of a die beside the lines that it holds: a leased copy goes, or a darkroom line, whose dirty
bytes are written back (R2, R6, R191, R192). -/
def l2Room (s : State) (d : Nat) : State :=
  let m := mapGet [] s.copies (l2Holder d)
  let u := mapGet [] s.dark d
  if m.length + u.length < Config.l2Lines d then s
  else
    match victim s (l2Holder d) ((m.map fun e => (false, e.1)) ++ u.map fun e => (true, e.1)) with
    | some (false, l) => dropCopy s (l2Holder d) l
    | some (true, l) => dropDark (writeBack s d l none) d l
    | none => s

/-- A copy put into a cache, which makes room for it if the line is new to it; an L1 in which no line can go does not take it (R6,
R374). -/
def putCopy (s : State) (holder l : Nat) (c : Copy) : State :=
  if (getCopy s holder l).isSome then setCopy s holder l c
  else if holder < l2Holder 0 then
    (if l1Full (l1Room s holder) holder then l1Room s holder else setCopy (l1Room s holder) holder l c)
  else setCopy (l2Room s (holder - l2Holder 0)) holder l c

/-! ## Stores at their homes -/

/-- A store's bytes kept in the issuing core's L1 line until its home performs them (R160, R254). -/
def ownStore (s : State) (holder l : Nat) (bytes : AMap Byte) : State :=
  let c := (getCopy s holder l).getD { expiry := some 0 }
  putCopy s holder l { c with
    own := bytes.foldl (fun m e => mapSet m e.1 e.2) c.own
    shown := c.shown.filter fun e => (mapFind bytes e.1).isNone }

/-- Own bytes that the home has now performed: each becomes an ordinary byte of the copy, unless a later store of the
core to it is still in flight. Performed into an image that waits, they stay until that image is visible (R159, R180). -/
def ownDone (s : State) (holder l : Nat) (bytes : AMap Byte) : State :=
  match getCopy s holder l with
  | none => s
  | some c =>
    match lastVisible (getHome s l) with
    | some t =>
      setCopy s holder l { c with
        shown := (bytes.filter fun e => !inFlight s holder l e.1).foldl (fun m e => mapSet m e.1 t) c.shown }
    | none =>
      setCopy s holder l
        { c with
          own := c.own.filter fun e => (mapFind bytes e.1).isNone || inFlight s holder l e.1
          bytes := c.bytes.map fun e => (e.1, (mapFind bytes e.1).getD e.2) }

/-- Every other copy of a line on the issuing die's L2 is dropped when a store of the die is performed, so that a later
load of the group finds the store or a later value (R159; R374 lets a copy go at any time). -/
def dropStale (s : State) (d l : Nat) : State := dropCopy s (l2Holder d) l

/-- The bytes that a store in flight writes over a value of its width: an atomic computes them from it (R168). -/
def storeBytesOn (val : Nat → DWord) (t : PStore) : AMap Byte :=
  let run (n : Nat) (f : DWord → DWord) : AMap Byte := offsets t.addr (leBytes n (f (val n)).toNat)
  match t.op with
  | .bytes m => m
  | .atom fn ty rm x => run (tyBits ty / 8) fun old => atomOp fn.toNat ty rm old x
  | .atomf fn ty rm x => run (tyBits ty / 8) fun old => atomOp fn.toNat ty rm old x
  | .atomx y => run 8 fun old => old + y
  | .sheet _ _ => []

/-- A record of a contact sheet with counts added for a phase (R293): PHASE, FLG and the seven counts. -/
def sheetRecord (old : List Byte) (phase : Nat) (counts : List DWord) : List Byte :=
  let other := (recNat old 2 2).testBit 0 && recNat old 0 2 ≠ phase
  leBytes 2 phase ++ leBytes 2 (1 + (if other || (recNat old 2 2).testBit 1 then 2 else 0)) ++ leBytes 4 0
    ++ (List.range 7).flatMap fun k => leBytes 8 (BitVec.ofNat 64 (recNat old (8 + 8 * k) 8) + counts.getD k 0).toNat

/-- The bytes that a store in flight writes at its home, computed from the next image for an atomic (R168). -/
def storeBytes (s : State) (t : PStore) : AMap Byte :=
  match t.op with
  | .sheet phase counts => offsets t.addr (sheetRecord (nextBytes s t.addr 64) phase counts)
  | _ => storeBytesOn (nextVal s t.addr) t

/-- Bytes that a group has written since are no longer forwarded to its loads (R159, R180). -/
def unforward (s : State) (uid l : Nat) (bytes : AMap Byte) : State :=
  match findUid s uid with
  | none => s
  | some y =>
    if y.fwd.any fun e => e.1 = l then
      modUid s uid fun x => { x with fwd := x.fwd.map fun e =>
        if e.1 = l then (e.1, e.2.1, e.2.2.filter fun b => (mapFind bytes b.1).isNone) else e }
    else s

/-- While an image of a line waits to be visible, bytes performed into it are forwarded to the later loads of some groups (R159,
R180). -/
def forward (s : State) (uids : List Nat) (l : Nat) (bytes : AMap Byte) : State :=
  match lastVisible (getHome s l) with
  | none => s
  | some t =>
    if bytes.isEmpty then s
    else uids.foldl (fun s u => modUid s u fun x =>
      { x with fwd := (x.fwd.filter fun e => (getHome s e.1).next.any fun i => i.1 = e.2.1) ++ [(l, t, bytes)] }) s

/-- Bytes that an access of some groups of a core has written at the home without its L1: the L1's copy of them goes, so that the core
reads them or later values (R159). While an image waits to be visible, they are forwarded to the groups (R180; log entry 68). -/
def ownAtomic (s : State) (uids : List Nat) (holder l : Nat) (bytes : AMap Byte) : State :=
  let hit (o : Nat) : Bool := (mapFind bytes o).isSome && !inFlight s holder l o
  match lastVisible (getHome s l) with
  | none =>
    (match getCopy s holder l with
    | none => s
    | some c => setCopy s holder l { c with bytes := c.bytes.filter fun b => !hit b.1, own := c.own.filter fun b => !hit b.1 })
  | some _ => forward s uids l (bytes.filter fun b => hit b.1)

/-- What a performed access of some groups leaves to their later loads: nothing forwarded that is older, and no older bytes in their
L1. -/
def ownWritten (s : State) (uids : List Nat) (holder l : Nat) (bytes : AMap Byte) : State :=
  ownAtomic (uids.foldl (fun s u => unforward s u l bytes) s) uids holder l bytes

/-- A group's store of bytes has been performed: its L1 releases them, or, where it had no room for them, they are forwarded until
they are visible (R6, R159, R180). -/
def storeWritten (s : State) (uid holder l : Nat) (bytes : AMap Byte) : State :=
  let own := ownBytes s holder l
  forward (ownDone (unforward s uid l bytes) holder l bytes) [uid] l (bytes.filter fun b => (mapFind own b.1).isNone)

/-- The bytes that an atomic in flight reads, none for a store of bytes. -/
def PStore.reads (t : PStore) : Nat :=
  match t.op with
  | .bytes _ => 0
  | .atom _ ty _ _ => tyBits ty / 8
  | .atomf _ ty _ _ => tyBits ty / 8
  | .atomx _ => 8
  | .sheet _ _ => 64

/-- A store in flight is performed at its home: applied to the next or visible image, its completion time recorded,
and its own bytes in the L1 released (R168, R180, R253, R255). An atomic or gathered sum that would read poison changes nothing,
and the blocks of its groups are lost (R375). The response to a die that has reset since is late (R388). -/
def performStore (s : State) (holder : Nat) (t : PStore) : State :=
  let l := lineOf t.addr
  let s := settle (reroute s (keyPart t.addr) t.vers) l
  let s := if t.life = (getDie s (storeDie t)).life then s else countLate s (storeDie t)
  if t.reads ≠ 0 && poisonedNext s t.addr t.reads then
    loseLater { s with stores := modWhere s.stores (fun u => u.id = t.id) fun u => { u with lost := true } }
      (t.uid :: t.also.map (·.1)) t.va (keyPa t.addr)
  else
  let bytes := storeBytes s t
  let c := completion s l
  let s := { homeWrite s l bytes with
    stores := modWhere s.stores (fun u => u.id = t.id) fun u => { u with performed := some c } }
  match t.op with
  | .bytes _ => storeWritten (dropStale s (storeDie t) l) t.uid holder l bytes
  | _ => ownWritten (dropStale s (storeDie t) l) (t.uid :: t.also.map (·.1)) holder l bytes

/-- A line takes no store now: the token holder has locked it (R181), or its home does not answer (R387). -/
def lineHeld (s : State) (l : Nat) : Bool := (getHome s l).lock.isSome || homeBusy s (128 * l)

/-- The stores of a core to a line that are still in flight are performed now, oldest first: an access of the core
that must follow them in program order goes on (R159, R257). At a held line they go on waiting. -/
def flushCore (s : State) (c l : Nat) : State :=
  if lineHeld s l then s
  else
    let us := s.stores.filter fun t => t.core = c && t.going l
    (s.stores.filter fun t => t.going l && us.any fun u => t.ordered u).foldl (fun s t => performStore s (storeHolder s t) t) s
def flushLine (s : State) (g : Nat) (key : Nat) : State := flushCore s (slotCore g) (lineOf key)

/-- Before a store's bytes come into a full L1 in which every line has own bytes, the stores of one line are performed, one whose own
bytes go with that (R6, R160). -/
def ownRoom (s : State) (holder l : Nat) : State :=
  let m := mapGet [] s.copies holder
  if !l1Full s holder || (getCopy s holder l).isSome || !(getCore s holder).gather.isEmpty || m.any fun e => e.2.own.isEmpty then s
  else
    match victim s holder ((m.map (·.1)).filter fun k => !lineHeld s k && (getHome s k).next.isEmpty) with
    | some k => ((s.stores.filter fun t => t.going k && storeHolder s t = holder).map (·.core)).eraseDups.foldl (fun s c => flushCore s c k) s
    | none => s

/-- A store's bytes come into an L1, where it has room for them (R6, R160). -/
def keepOwn (s : State) (holder l : Nat) (bytes : AMap Byte) : State := ownStore (ownRoom s holder l) holder l bytes

/-- A store to a coherent line leaves its core (R160). -/
def sendStore (s : State) (g : Nat) (key : Nat) (va : DWord) (op : StoreOp) (sc : Sc) (peer : Option Nat) : State :=
  addStore s
    { id := 0, uid := (getGroup s g).uid, grid := (groupBlock s g).grid, core := slotCore g, addr := key, va, op, sc, peer }

/-- A store already performed, whose completion time releases still wait for (R187). -/
def doneStore (s : State) (g : Nat) (key : Nat) (va : DWord) (c : Nat) (sc : Sc) (commit : Bool) : State :=
  addStore s
    { id := 0, uid := (getGroup s g).uid, grid := (groupBlock s g).grid, core := slotCore g, addr := key, va, op := .bytes [], sc,
      commit, performed := some c }

/-! ## Gathered updates (R169, R272) -/

/-- Cores in the order in which a home takes their sums: no order is fixed (R88; log entry 17). -/
def insertRank (t : Nat) (c : Nat) : List Nat → List Nat
  | [] => [c]
  | d :: r => if Config.combineRank t c ≤ Config.combineRank t d then c :: d :: r else d :: insertRank t c r

/-- The cores that hold an update-only copy of a line, or whose partial sums of it are on their way, in the order of combination. -/
def gatherers (s : State) (l : Nat) : List Nat :=
  ((s.cores.filter fun e => (mapFind e.2.gather l).isSome).map (·.1)
    ++ (s.stores.filter fun t => t.sum && t.going l).map (·.core)).eraseDups.foldr (insertRank s.tick) []

/-- Before a home serves a reader of a line, it combines every partial sum of the line (R169, R272). At a held line the sums wait
like any atomic (R181; log entry 68). -/
def combine (s : State) (l : Nat) : State :=
  if lineHeld s l then s else (gatherers s l).foldl (fun s c => flushCore (sendGather s c l) c l) s

/-- A core's update-only lines are all sent, before a FENCE or a release at `.die` or wider and when a group of the core ends
(R169, R266, R272). -/
def sendAllGathers (s : State) (c : Nat) : State :=
  ((getCore s c).gather.map (·.1)).foldl (fun s l => sendGather s c l) s

/-- The update-only lines, on every core, whose sums pass a test are sent. -/
def sendGathersOf (s : State) (hit : Gather → Bool) : State :=
  (s.cores.flatMap fun e => (e.2.gather.filter fun h => hit h.2).map fun h => (e.1, h.1)).foldl (fun s e => sendGather s e.1 e.2) s
/-- An update-only line holds updates of a group. -/
def Gather.ofUid (h : Gather) (uid : Nat) : Bool := h.whom.any fun e => e.1 = uid
/-- An update-only line holds updates of a grid. -/
def Gather.ofGrid (h : Gather) (i : Nat) : Bool := h.whom.any fun e => e.2.1 = i
/-- The width of an element of an update-only line in bytes. -/
def Gather.size (h : Gather) : Nat := if h.fx then 8 else tyBits h.ty / 8

/-! ## A group's own accesses that its L1 does not show (R159) -/

/-- The bytes of its line that a store in flight writes overlap `n` bytes at a key. -/
def PStore.touches (t : PStore) (key n : Nat) : Bool :=
  match t.op with
  | .bytes m => m.any fun e => key % 128 ≤ e.1 && e.1 < key % 128 + n
  | .atom _ ty _ _ => t.addr < key + n && key < t.addr + tyBits ty / 8
  | .atomf _ ty _ _ => t.addr < key + n && key < t.addr + tyBits ty / 8
  | .atomx _ => t.addr < key + n && key < t.addr + 8
  | .sheet _ _ => t.addr < key + n && key < t.addr + 64

/-- A store in flight whose bytes stand in an L1: one of bytes, in the L1 of its core, which had room for them (R6, R160). -/
def PStore.inCache (s : State) (t : PStore) (holder : Nat) : Bool :=
  match t.op with
  | .bytes m => storeHolder s t = holder && m.all fun e => (mapFind (ownBytes s holder (lineOf t.addr)) e.1).isSome
  | _ => false

/-- An earlier access of the group to some bytes has not been performed, and its L1 does not show it: an atomic without a result, in
flight or gathered, or a store that it issued on another core (R159, R251). -/
def unseen (s : State) (g key n : Nat) : Bool :=
  let u := (getGroup s g).uid
  (s.stores.any fun t => t.going (lineOf key) && t.ofUid u && t.touches key n && !t.inCache s (l1Holder s g key))
    || s.cores.any fun c => match mapFind c.2.gather (lineOf key) with
      | some h => h.ofUid u && h.sums.any fun e => e.1 < key % 128 + n && key % 128 < e.1 + h.size
      | none => false

/-- A group's accesses to a line that are in flight, on whatever core it issued them, are performed now, and its gathered updates of
it sent before. At a held line they go on waiting. -/
def flushOwn (s : State) (g key : Nat) : State :=
  let u := (getGroup s g).uid
  let l := lineOf key
  let mine (c : Nat × Core) : Bool := match mapFind c.2.gather l with | some h => h.ofUid u | none => false
  let s := (s.cores.filter mine).foldl (fun s c => sendGather s c.1 l) s
  ((s.stores.filter fun t => t.going l && t.ofUid u).map (·.core)).eraseDups.foldl (fun s c => flushCore s c l) s

/-- The copies of a line that the caches of a core and of its die hold are dropped; own bytes stay (R159, R374). -/
def dropCopies (s : State) (g l : Nat) : State :=
  let h := l1Holder s g (128 * l)
  let s := match getCopy s h l with
    | some c => setCopy s h l { c with bytes := [], expiry := some 0 }
    | none => s
  dropCopy s (l2Holder (groupDie g)) l

/-- Leased copies that a group's new core holds of a line to which it has stored from another core are not used: they may be older
than its own store (R159, R251). -/
def dropOlder (s : State) (g key : Nat) : State :=
  if s.stores.any fun t => t.ofUid (getGroup s g).uid && lineOf t.addr = lineOf key && t.peer = none && t.dark = none
      && storeHolder s t ≠ l1Holder s g key then dropCopies s g (lineOf key)
  else s

/-! ## Loads of coherent lines (R159, R160, R254) -/

/-- The bytes of committed write logs that the group still forwards to its own loads: until their image is visible (R180). -/
def forwarded (s : State) (g l : Nat) : AMap Byte :=
  ((getGroup s g).fwd.filter fun e => e.1 = l && (getHome s l).next.any fun i => i.1 = e.2.1).foldl
    (fun m e => e.2.2.foldl (fun m b => mapSet m b.1 b.2) m) []

/-- What a leased copy holds of a range, with the holder's own bytes over it. -/
def copyBytes (s : State) (d holder key n : Nat) : Option (List Byte) :=
  match getCopy s holder (lineOf key) with
  | none => none
  | some c =>
    if leased s d c then
      (mapBytes (c.own.foldl (fun m e => mapSet m e.1 e.2) c.bytes) (key % 128) n)
    else mapBytes c.own (key % 128) n

/-- A holder's copy of a line with new bytes under a new lease: what its core has stored stays (R159, R160, R180). -/
def renewed (s : State) (holder l : Nat) (bytes : AMap Byte) (expiry : Option Nat) : Copy :=
  { (getCopy s holder l).getD {} with bytes, expiry }

/-- What a copy of a line gets from its home: the bytes of the visible image, but none that is poisoned, so that no copy serves one
(R253, R375). -/
def servedBytes (s : State) (l : Nat) : AMap Byte :=
  (offsets (128 * l) (memBytes s.mem (128 * l) 128)).filter fun e => !poisoned s (128 * l + e.1) 1

/-- The home serves a load of a line from its visible image and grants a holder a copy of the whole line (R253,
R254). -/
def homeServe (s : State) (holder l cls : Nat) : State :=
  let s := settle (combine s l) l
  match grant s l cls with
  | none => s
  | some e =>
    let s := putCopy s holder l (renewed s holder l (servedBytes s l) e)
    match e with
    | some t => setHome s l { getHome s l with horizon := max (getHome s l).horizon t }
    | none => s

/-- A copy made from another copy expires no later than that one, nor than its own class allows (R254). -/
def copyExpiry (s : State) (d cls : Nat) (from_ : Option Nat) : Option (Option Nat) :=
  match leaseLength cls with
  | none => none
  | some none => some from_
  | some (some n) => some (some (match from_ with | some e => min e (dieGtc s d + n) | none => dieGtc s d + n))

/-- An L1's line filled from the die's L2 copy (R254). -/
def fillFrom (s : State) (d holder l cls : Nat) : State :=
  match getCopy s (l2Holder d) l with
  | none => s
  | some c =>
    match copyExpiry s d cls c.expiry with
    | some e => putCopy s holder l (renewed s holder l c.bytes e)
    | none => s

/-- A load or prefetch of a group served at the home: a die that is not the home's takes a copy into its L2 on the way to the
L1 (R160, R165). -/
def serveLoad (s : State) (g key cls : Nat) : State :=
  let d := groupDie g
  let s := if homeDie s key = d then s else homeServe s (l2Holder d) (lineOf key) cls
  homeServe s (l1Holder s g key) (lineOf key) cls

/-- A line made ready for a load of the group: its own accesses that its L1 does not show come first, and every gathered sum (R159,
R169). -/
def readyLoad (s : State) (g key n : Nat) : State :=
  let s := if unseen s g key n then flushOwn s g key else s
  settle (combine (dropOlder s g key) (lineOf key)) (lineOf key)

/-- A load of the group would read poison: some byte that neither its L1 nor what is forwarded to it, nor a log of its own, supplies
(R159, R160, R375). -/
def loadPoisoned (s : State) (g key n : Nat) (log : AMap Byte) : Bool :=
  let s := readyLoad s g key n
  let has (m : AMap Byte) (i : Nat) : Bool := (mapFind m (key % 128 + i)).isSome
  let own := ownBytes s (l1Holder s g key) (lineOf key)
  let fw := forwarded s g (lineOf key)
  (List.range n).any fun i => poisoned s (key + i) 1 && !has own i && !has fw i && !has log i

/-- An atomic of the group would read poison at the home, once its own earlier accesses to the line are performed (R159, R375). -/
def atomPoisoned (s : State) (g key n : Nat) (log : AMap Byte) : Bool :=
  let s := settle (combine (flushLine (flushOwn s g key) g key) (lineOf key)) (lineOf key)
  (List.range n).any fun i => poisonedNext s (key + i) 1 && (mapFind log (key % 128 + i)).isNone

/-- A load of `n` bytes of one coherent line by a group (R159, R160, R254): after its own accesses that its L1 does not show, served by a leased copy that its caches
still hold, or by the home; the group's own committed bytes are forwarded. Where the copy and the home differ, whether
the copy is still held is free (log entry 6). -/
def cohLoad (s : State) (g cls key n : Nat) : List Byte × State :=
  let l := lineOf key
  let h := l1Holder s g key
  let d := groupDie g
  let s := readyLoad s g key n
  let own := ownBytes s h l
  let fw := forwarded s g l
  let home := overlay fw (key % 128) (overlay own (key % 128) (memBytes s.mem key n))
  match copyBytes s d h key n with
  | some c =>
    let c := overlay fw (key % 128) c
    if c = home then (home, s)
    else if Config.keeps s.tick l then (c, s) else (home, serveLoad s g key cls)
  | none =>
    match copyBytes s d (l2Holder d) key n with
    | some c =>
      let c := overlay fw (key % 128) (overlay own (key % 128) c)
      if c = home || Config.keeps s.tick l then (c, fillFrom s d h l cls) else (home, serveLoad s g key cls)
    | none => (home, serveLoad s g key cls)

/-! ## Darkroom lines (R191 to R193, R307 to R311) -/

/-- A die's copy of a darkroom line, fetched whole and clean from the stack when the die holds none; words that are poisoned
come as poisoned (R191, R307, R308, R375). -/
def fetchDark (s : State) (d l : Nat) : DarkLine :=
  (getDark s d l).getD
    { bytes := offsets (128 * l) (memBytes s.mem (128 * l) 128)
      bad := (List.range 4).filter fun w => poisoned s (128 * l + 32 * w) 32 }

/-- The darkroom words that a write fills are no longer poisoned (R375). -/
def filledWords (bytes : AMap Byte) (ws : List Nat) : List Nat :=
  ws.filter fun w => !(List.range 32).all fun i => (mapFind bytes (32 * w + i)).isSome

/-- Bytes that reach the stack of a darkroom line; those for a home that is gone are dropped and counted (R387, R395). -/
def darkPut (s : State) (l : Nat) (bytes : AMap Byte) : State :=
  if homeGone s (128 * l) then countUe s (keyPart (128 * l)) else setVisible s l bytes

/-- A stack writes a write-back's masked bytes as one event (R308); the stores that it carried, and that no earlier merge did,
are complete once `GTC()` has passed the merge time plus 4 (R187, R310). One routed under old versions is issued again, and the
answer to a die that has reset since is late (R388, R392). -/
def mergeBack (s : State) (w : WriteBack) : State :=
  let l := lineOf w.key
  let c := homeGtc s l + 4
  let s := reroute s (keyPart w.key) w.vers
  let s := if w.life = (getDie s w.die).life then s else countLate s w.die
  let s := darkPut s l w.bytes
  let s := if w.cpy = 0 then s else fill s (fillCpy w.cpy) l w.bytes
  { s with
    wbs := s.wbs.filter fun u => u.id ≠ w.id,
    stores := modWhere s.stores (fun t => w.stores.contains t.id && t.performed.isNone) fun t =>
      { t with performed := some c } }

/-- Before a stack serves a fetch of a line, it has merged the write-backs that reached it before (R308; log entry 69). -/
def mergeLine (s : State) (l : Nat) : State := (s.wbs.filter fun w => w.key = 128 * l).foldl mergeBack s

/-- The state in which a die holds a copy of a darkroom line, fetched if it held none. -/
def darkReady (s : State) (d l : Nat) : State :=
  match getDark s d l with
  | some _ => s
  | none =>
    let s := mergeLine s l
    setDark (l2Room s d) d l (fetchDark s d l)

/-- A load of a darkroom line by a core of a die (R191). -/
def darkLoad (s : State) (d key n : Nat) : List Byte × State :=
  let s := darkReady s d (lineOf key)
  (overlay (fetchDark s d (lineOf key)).bytes (key % 128) (memBytes s.mem key n), s)

/-- A store written into the die's copy; its bytes become dirty (R191, R307). -/
def darkWrite (s : State) (d l : Nat) (bytes : AMap Byte) : State :=
  let s := darkReady s d l
  let x := fetchDark s d l
  setDark s d l { bytes := bytes.foldl (fun m e => mapSet m e.1 e.2) x.bytes
                  dirty := bytes.foldl (fun m e => mapSet m e.1 e.2) x.dirty
                  bad := filledWords bytes x.bad }

/-- The group's record of a darkroom store, which only an RWB makes complete beyond the die (R187, R258, R310). -/
def darkStoreRecord (s : State) (g d key : Nat) (va : DWord) (bytes : AMap Byte) : State :=
  addStore s { id := 0, uid := (getGroup s g).uid, grid := (groupBlock s g).grid, core := slotCore g,
               addr := key, va, op := .bytes bytes, dark := some d }

/-- The stores to a die's copy of a line whose bytes no write-back took, and of which none is dirty any more, are lost (R193,
R310, R374). -/
def loseDark (s : State) (d l : Nat) (dirty : AMap Byte) : State :=
  let gone (t : PStore) : Bool := t.dark = some d && lineOf t.addr = l && t.performed = none
    && !(s.wbs.any fun w => w.stores.contains t.id)
    && (match t.op with | .bytes m => m.all fun b => (mapFind dirty b.1).isNone | _ => true)
  { s with stores := modWhere s.stores gone fun t => { t with lost := true } }

/-! ## When an earlier store is complete at a scope (R187, R258, R310) -/

/-- Whether a block is placed on a gang (R30). -/
def isGang (b : Block) : Bool := 1 < b.cores.length

/-- Whether the launch of a grid fused the cluster's L1s (R279). -/
def fusedL1 (r : Grid) : Bool :=
  let f := r.lrec.flags.toNat / 8 % 4
  f = 1 || (f = 0 && r.hdr.fuse)

/-- The time against which a die compares a store's completion time: its own, or under lease hold the home's (R187, R370). -/
def completeGtc (s : State) (d : Nat) (t : PStore) : Nat := if (getDie s d).hold then homeGtc s (lineOf t.addr) else dieGtc s d

/-- A store has been performed and its completion time has passed for a die (R187, R255). -/
def storePast (s : State) (d : Nat) (t : PStore) : Bool := match t.performed with | some c => c < completeGtc s d t | none => false

/-- What a store has put where a core's loads find it: a store's bytes stand in the L1 on issue, an atomic's only once it has
been performed (R160, R187; log entry 70). -/
def inL1 (s : State) (t : PStore) : Bool := t.performed.isSome || t.inCache s (storeHolder s t)

/-- One earlier store of the group in a slot is complete at a scope (R187). Stores to a peer aperture or to host memory
are waited for at `.sys` only. -/
def storeComplete (s : State) (g : Nat) (sc : Sc) (t : PStore) : Bool :=
  let past := storePast s (groupDie g) t
  let far := t.peer.isSome || keyPart t.addr ≥ 16
  if t.commit && sc ≠ .none && sc ≠ .grp then past else
  match sc with
  | .none => true
  | .grp => true
  | .blk =>
    t.dark.isSome || far || ((!isGang (groupBlock s g) || fusedL1 (groupGrid s g)) && inL1 s t) || past
  | .cls => t.dark.isSome || far || (fusedL1 (groupGrid s g) && inL1 s t) || past
  | .die => t.dark.isSome || far || past
  | .prt => if t.dark.isSome then !t.covered || t.lost || past else far || past
  | .sys => if t.dark.isSome then !t.covered || t.lost || past else if far then t.performed.isSome || t.lost else past

/-- A copy element of the group with a global destination that has not completed (R258). -/
def copyOutstanding (s : State) (uid : Nat) : Bool :=
  s.elems.any fun e => e.2.uid = uid && !e.2.toLat && !e.2.done && !e.2.orphan

/-- Every earlier store of the group itself, its copy elements apart, is complete at a scope, and no atomic of it stands gathered
(R187, R303). -/
def ownComplete (s : State) (g : Nat) (sc : Sc) : Bool :=
  (s.stores.all fun t => t.cpy ≠ 0 || !t.counts (getGroup s g).uid sc || storeComplete s g sc t)
    && s.cores.all fun c => c.2.gather.all fun h => !h.2.ofUid (getGroup s g).uid

/-- Every earlier store of the group is complete at a scope (R187, R188, R258). -/
def storesComplete (s : State) (g : Nat) (sc : Sc) : Bool :=
  (s.stores.all fun t => !t.counts (getGroup s g).uid sc || storeComplete s g sc t) && (sc = .none || sc = .grp || !copyOutstanding s (getGroup s g).uid)

/-- Every store of the group with an identity is complete at `.sys`, as a die sees it: what a release at `.sys` waits for
when the group itself does not (R187, R346, R385). -/
def uidComplete (s : State) (uid d : Nat) : Bool :=
  (s.stores.all fun t => !t.ofUid uid || t.lost || (t.dark.isSome && !t.covered) || storePast s d t)
    && !copyOutstanding s uid

/-- The first store of the group that was lost on its way to a target, for which a release at `.sys` ends in a fault
(R385). -/
def lostStore (s : State) (g : Nat) : Option PStore :=
  s.stores.find? fun t => t.uid = (getGroup s g).uid && t.lost && t.peer.isSome

end Sys2Proof.Machine
end

