-- ==== Sys2Proof/Machine/Operands.lean ====
section
/-! DEFINITION. Operands: registers, predicates, latches and immediates as sources and destinations, guards and live
lanes, widths, addresses (R10 to R15, R24, R39 to R43, R63, R66, R94 to R101, R114 to R117, R156, R157). -/

namespace Sys2Proof.Machine

/-- What a step comes to. -/
abbrev Out := Host.Outcome State Fault Refusal

/-! ## Base words as extended forms (R94 to R98, R105) -/

/-- The operand that a 6-bit field names, of the vector or the scalar class (R96). -/
def fieldOp (scalar : Bool) (n : Fin 64) : Operand :=
  if 60 ≤ n.val then .b (Fin.ofNat 4 (n.val - 60)) else if scalar then .s (Fin.ofNat 96 n.val) else .v (Fin.ofNat 512 n.val)

/-- Source B of a base word (R95). -/
def fieldB (f : BForm) : Operand :=
  if f.cl = 0 then fieldOp false f.b else if f.cl = 3 then .imm (BitVec.ofNat 64 f.b.val) else fieldOp true f.b

/-- A base word as the extended form with the defaults of R98: `col` holds that CL is 0b10. -/
def baseForm (f : BForm) : XForm :=
  { form := .bl, gp := Fin.ofNat 16 f.g.val, uni := f.u, sup := f.w, col := f.cl = 2,
    d := if f.w then .unused else fieldOp (f.cl = 2) f.d, a := fieldOp (f.cl = 2) f.a, b := fieldB f }

/-- A base CMP (R98): D names a predicate. -/
def baseCmp (f : BForm) (fn : BitVec 8) : XForm := { baseForm f with d := .p (Fin.ofNat 16 f.d.val), fn }
/-- A base PAND, POR or PXOR (R98). -/
def basePred (f : BForm) : XForm :=
  { baseForm f with d := .p (Fin.ofNat 16 f.d.val), a := .p (Fin.ofNat 16 f.a.val), b := .p (Fin.ofNat 16 f.b.val) }
/-- A base MOV (R98): no source A. -/
def baseMov (f : BForm) : XForm := { baseForm f with a := .unused }

/-- The bytes of an extended instruction or a base word with literal (R90). -/
def xLen (f : XForm) : Nat := if f.form = .xl then 20 else 12

/-! ## Register files of a group (R10, R39, R40, R341) -/

/-- The group's scalars 88 to 95 are the handler's: it runs in privileged mode on a program core (R341). -/
def hidden (s : State) (g : Nat) : Bool := (getGroup s g).priv && !isFirmwareCore s (slotCore g)

/-- A scalar register; `s0` reads as zero (R10). -/
def sRead (h : Bool) (g : Group) (n : Nat) : DWord :=
  if n = 0 then 0 else if h && 88 ≤ n then mapGet 0 g.hs n else mapGet 0 g.s n
/-- A scalar register written; a write to `s0` is discarded (R10). -/
def sWrite (h : Bool) (g : Group) (n : Nat) (x : DWord) : Group :=
  if n = 0 then g
  else if h && 88 ≤ n then { g with hs := mapSet g.hs n x }
  else { g with s := mapSet g.s n x }
/-- A predicate register; `p0` reads as all ones (R10, R154). -/
def pRead (g : Group) (n : Nat) : LaneMask := if n = 0 then LaneMask.full else mapGet 0 g.p n
/-- A predicate register written in some lanes; a write to `p0` is discarded (R154). -/
def pWrite (g : Group) (n : Nat) (m x : LaneMask) : Group :=
  if n = 0 then g else { g with p := mapSet g.p n ((pRead g n &&& ~~~m) ||| (x &&& m)) }
/-- The register whose lanes are all zero (R40). -/
def vZero : VReg := Vector.replicate 128 0
/-- A whole vector register. -/
def vReg (g : Group) (n : Nat) : VReg := mapGet vZero g.v n
/-- One lane of a vector register. -/
def vRead (g : Group) (n lane : Nat) : Word := (vReg g n)[lane]?.getD 0
/-- One lane of a pair, low half first (R10, R25). -/
def pairRead (g : Group) (n lane : Nat) : DWord := (vRead g (n + 1) lane ++ vRead g n lane : BitVec 64)
/-- A vector register written in some lanes (R115). -/
def vWrite (g : Group) (n : Nat) (m : LaneMask) (x : Nat → Word) : Group :=
  { g with v := mapSet g.v n (Vector.ofFn fun i => if m.getLsbD i.val then x i.val else (vReg g n)[i]) }
/-- A vector register or a pair written in some lanes with the low or all bits of doublewords. -/
def vPut (g : Group) (n : Nat) (pair : Bool) (m : LaneMask) (x : Nat → DWord) : Group :=
  let g := vWrite g n m fun i => (x i).setWidth 32
  if pair then vWrite g (n + 1) m fun i => (x i >>> 32).setWidth 32 else g

/-! ## Lanes (R14, R24, R116) -/

/-- The lanes of a mask, in increasing order. -/
def lanes (m : LaneMask) : List Nat := (List.range 128).filter fun i => m.getLsbD i
/-- Lane L: the lowest lane set in `xm`, or lane 0 (R116). -/
def lu (g : Group) : Nat := (lanes g.xm).headD 0
/-- The number of lanes set in a mask. -/
def laneCount (m : LaneMask) : Nat := (lanes m).length
/-- The mask of a list of lanes. -/
def maskOf (l : List Nat) : LaneMask := l.foldl (fun m i => m ||| BitVec.twoPow 128 i) 0
/-- The mask of the lanes that pass a test. -/
def maskWhere (p : Nat → Bool) : LaneMask := maskOf ((List.range 128).filter p)

/-- The lanes whose guard reads true (R14). -/
def guardMask (g : Group) (gn : Bool) (gp : Fin 16) : LaneMask :=
  if gn then ~~~(pRead g gp.val) else pRead g gp.val
/-- The live lanes of an instruction (R24). -/
def live (g : Group) (f : XForm) : LaneMask := g.xm &&& guardMask g f.gn f.gp
/-- The guard of an instruction that executes once, read at lane L (R116). -/
def runs (g : Group) (f : XForm) : Bool := (guardMask g f.gn f.gp).getLsbD (lu g)
/-- The lanes in which an instruction writes a per-lane destination (R115, R116). -/
def writes (g : Group) (f : XForm) (uni : Bool) : LaneMask := if uni then (if runs g f then g.xm else 0) else live g f

/-! ## Sources (R114) -/

/-- One lane of a latch; a latch or lane that nothing wrote holds an unknown value (R41; log entry 19). -/
def latchRead (tick : Nat) (g : Group) (n lane : Nat) : DWord :=
  match g.latches[n]? with
  | some (.scalar x) => x
  | some (.lanes x) => x.getD lane 0
  | none => Config.latchLane tick lane

/-- What a source operand reads in a lane (R114): `pair` reads a vector operand as a pair. The reader takes the bits of
its width; a 64-bit reader of a 32-bit vector register finds zeros above bit 31: DESIGN CHOICE, for an untyped instruction with a
scalar destination that reads such a register (R12, R114; log entry 78). -/
def opnd (s : State) (g : Group) (pair : Bool) (o : Operand) (lane : Nat) : DWord :=
  match o with
  | .v n => if pair then pairRead g n.val lane else (vRead g n.val lane).setWidth 64
  | .s n => sRead (hidden s s.cur) g n.val
  | .b n => latchRead s.tick g n.val lane
  | .imm x => x
  | .p n => if (pRead g n.val).getLsbD lane then 1 else 0
  | .unused => 0
  | .xm => 0
  | .ev _ => 0
  | .sy _ => 0

/-- The bit of a predicate operand in a lane. -/
def predBit (g : Group) (o : Operand) (lane : Nat) : Bool :=
  match o with
  | .p n => (pRead g n.val).getLsbD lane
  | _ => true

/-- The width at which an integer instruction without a type works, by its destination (R12). -/
def destWidth (d : Operand) : Nat := match d with | .s _ => 64 | _ => 32
/-- The width of an integer instruction (R12, R102, R114). -/
def intWidth (f : XForm) : Nat := if f.ty = .none then destWidth f.d else tyBits f.ty
/-- The width of CMP (R12, R140): with a predicate destination and no type, 64 bits unless a source is a vector register
or a latch. -/
def cmpWidth (f : XForm) : Nat :=
  if f.ty ≠ .none then tyBits f.ty
  else if isScalar f.d then 64
  else if perLane f.a || perLane f.b || isLatch f.a || isLatch f.b then 32 else 64
/-- The type of a floating instruction (R144). -/
def fltTy (f : XForm) : Ty := if f.ty = .none then .f32 else f.ty

/-! ## Latches (R41 to R44) -/

/-- The latches that operands read. -/
def latchesOf (os : List Operand) : List Nat := os.filterMap fun o => match o with | .b n => some n.val | _ => none

/-- A latch read is inside a chain (R43): the instructions since the run began are fewer than four, and one of them
writes that latch. -/
def latchOk (g : Group) (n : Nat) : Bool := g.chainLen < 4 && n < g.chainPush

/-- A result pushed for the lanes that wrote one (R41, R63). -/
def pushOf (s : State) (g : Group) (f : XForm) (uni : Bool) (x : Nat → DWord) : Option Latch :=
  if uni then (if runs g f then some (.scalar (x (lu g))) else none)
  else
    let m := live g f
    if m = 0 then none
    else some (.lanes ((List.range 128).map fun i => if m.getLsbD i then x i else Config.latchLane s.tick i))

/-- The group after an instruction of a length that read latches or not, and pushed a result or not: the program counter
advances, the run of the latch chain goes on or starts anew (R41, R43). `result` holds that the instruction is one that
pushes. -/
def advance (g : Group) (len : Nat) (reads result : Bool) (push : Option Latch) : Group :=
  let old := if reads then g.latches else []
  { g with
    pc := g.pc + BitVec.ofNat 64 len
    latches := (push.toList ++ old).take 4
    chainPc := if reads then g.chainPc else g.pc
    chainLen := if reads then g.chainLen + 1 else 1
    chainPush := (if reads then g.chainPush else 0) + (if result then 1 else 0) }

/-- The group outside any latch chain. -/
def unchained (g : Group) : Group := { g with latches := [], chainLen := 0, chainPush := 0, chainPc := g.pc }

/-! ## Destinations (R115 to R117) -/

/-- A value per lane written to a register or predicate destination (R115, R116): under uniform execution the value at
lane L, in every lane of `xm`. -/
def putD (s : State) (g : Group) (f : XForm) (uni : Bool) (pair : Bool) (x : Nat → DWord) : Group :=
  let m := writes g f uni
  let y := x (lu g)
  match f.d with
  | .v n => vPut g n.val pair m (if uni then fun _ => y else x)
  | .s n => if runs g f then sWrite (hidden s s.cur) g n.val y else g
  | .p n => pWrite g n.val m (if uni then (if y.getLsbD 0 then LaneMask.full else 0) else maskWhere fun i => (x i).getLsbD 0)
  | _ => g

/-- Whether the destination is a register or `_`, so that a result is pushed (R41). -/
def pushes (f : XForm) : Bool :=
  match f.d with
  | .v _ => true
  | .s _ => true
  | .unused => f.sup
  | _ => false

/-! ## Addresses (R156, R157) -/

/-- An address offset in a lane: a vector register or latch zero-extended from 32 bits, a scalar, or an immediate. -/
def offsetAt (s : State) (g : Group) (o : Operand) (lane : Nat) : DWord :=
  match o with
  | .v n => (vRead g n.val lane).setWidth 64
  | .b n => ((latchRead s.tick g n.val lane).setWidth 32).setWidth 64
  | _ => opnd s g false o lane

/-- The global address in a lane. -/
def globalAt (s : State) (g : Group) (base off : Operand) (lane : Nat) : DWord :=
  opnd s g true base lane + offsetAt s g off lane

/-- The lattice address in a lane. -/
def latticeAt (s : State) (g : Group) (base off : Operand) (lane : Nat) : Nat :=
  (opnd s g false base lane + offsetAt s g off lane).toNat % 2 ^ 22

/-- The highest vector register that some operands name, each with how many registers it names from its index on; none
without a vector operand (R39, R334). -/
def topReg (os : List (Operand × Nat)) : Option Nat :=
  os.foldl (fun t o => match o.1 with
    | .v n => some (max (t.getD 0) (n.val + o.2 - 1))
    | _ => t) none

/-- The registers that a vector operand names. -/
def span (pair : Bool) : Nat := if pair then 2 else 1

/-- The highest register of an instruction whose vector operands are all of its type (R114). -/
def typedTop (f : XForm) : Option Nat :=
  let n := span (wide f.ty)
  topReg [(f.d, n), (f.a, n), (f.b, n), (f.c, n)]

/-- The highest register of an instruction with a global address in A and B (R156). -/
def addrTop (f : XForm) (d c : Nat) : Option Nat := topReg [(f.d, d), (f.a, 2), (f.b, 1), (f.c, c)]

end Sys2Proof.Machine
end

