-- ==== Sys2Proof/WellFormed.lean ====
section
/-! DEFINITION. Well-formed instructions: those whose fields break no rule of their entry (R107). -/

namespace Sys2Proof

/-- An instruction that is well-formed: no rule of R94 to R107 or of its entry makes its encoding reserved. -/
def Instr.wf (i : Instr) : Bool := (Machine.illegal i).isNone

/-- A constructor of the instruction set: it has an encoding (R90). The other constructors are the device's and the
host's own steps. -/
def Instr.encoded (i : Instr) : Bool :=
  (Machine.xspec i).isSome || (Machine.mspec i).isSome || (Machine.baseWord i).isSome ||
    (match i with
      | .nopBase _ => true
      | .braBase _ _ => true
      | .joinBase => true
      | .exitBase _ => true
      | _ => false)

end Sys2Proof
end

