-- ==== Sys2Proof/Decode.lean ====
section
/-! DEFINITION. Decoding and encoding of the XN-1's instructions (R90 to R107). An instruction's bits are numbered from
bit 0 of its first word upward; each word is little-endian and the first word lies lowest (R91). -/

namespace Sys2Proof

open Machine

/-! ## Raw fields -/

/-- The fields of the extended form's three words (R99), lowest first; `z` is the reserved bit 0. -/
structure XRaw where
  z : Nat := 0
  cp : Nat := 0
  ot : Nat := 0
  sc : Nat := 0
  rm : Nat := 0
  ty : Nat := 0
  w : Nat := 0
  u : Nat := 0
  gp : Nat := 0
  gn : Nat := 0
  xop : Nat := 0
  len : Nat := 0
  imm : Nat := 0
  fn : Nat := 0
  ci : Nat := 0
  ck : Nat := 0
  bi : Nat := 0
  bk : Nat := 0
  ai : Nat := 0
  ak : Nat := 0
  di : Nat := 0
  dk : Nat := 0
  deriving DecidableEq, Repr

/-- The fields of a 96-bit number (R99). -/
def xUnpack (x : Nat) : XRaw :=
  { z := x % 2, cp := x / 2 ^ 1 % 4, ot := x / 2 ^ 3 % 2, sc := x / 2 ^ 4 % 8, rm := x / 2 ^ 7 % 4, ty := x / 2 ^ 9 % 16,
    w := x / 2 ^ 13 % 2, u := x / 2 ^ 14 % 2, gp := x / 2 ^ 15 % 16, gn := x / 2 ^ 19 % 2, xop := x / 2 ^ 20 % 1024,
    len := x / 2 ^ 30 % 4, imm := x / 2 ^ 32 % 4096, fn := x / 2 ^ 44 % 256, ci := x / 2 ^ 52 % 512,
    ck := x / 2 ^ 61 % 4, bi := x / 2 ^ 63 % 512, bk := x / 2 ^ 72 % 4, ai := x / 2 ^ 74 % 512, ak := x / 2 ^ 83 % 4,
    di := x / 2 ^ 85 % 512, dk := x / 2 ^ 94 % 4 }

/-- The 96-bit number with given fields (R99). -/
def xPack (r : XRaw) : Nat :=
  r.z + r.cp * 2 ^ 1 + r.ot * 2 ^ 3 + r.sc * 2 ^ 4 + r.rm * 2 ^ 7 + r.ty * 2 ^ 9 + r.w * 2 ^ 13 + r.u * 2 ^ 14
    + r.gp * 2 ^ 15 + r.gn * 2 ^ 19 + r.xop * 2 ^ 20 + r.len * 2 ^ 30 + r.imm * 2 ^ 32 + r.fn * 2 ^ 44 + r.ci * 2 ^ 52
    + r.ck * 2 ^ 61 + r.bi * 2 ^ 63 + r.bk * 2 ^ 72 + r.ai * 2 ^ 74 + r.ak * 2 ^ 83 + r.di * 2 ^ 85 + r.dk * 2 ^ 94

/-- The fields of a base word (R94). -/
structure BRaw where
  b : Nat := 0
  a : Nat := 0
  d : Nat := 0
  cl : Nat := 0
  w : Nat := 0
  u : Nat := 0
  g : Nat := 0
  op : Nat := 0
  len : Nat := 0
  deriving DecidableEq, Repr

/-- The fields of a 32-bit number (R94). -/
def bUnpack (x : Nat) : BRaw :=
  { b := x % 64, a := x / 2 ^ 6 % 64, d := x / 2 ^ 12 % 64, cl := x / 2 ^ 18 % 4, w := x / 2 ^ 20 % 2,
    u := x / 2 ^ 21 % 2, g := x / 2 ^ 22 % 4, op := x / 2 ^ 24 % 64, len := x / 2 ^ 30 % 4 }

/-- The 32-bit number with given fields (R94). -/
def bPack (r : BRaw) : Nat :=
  r.b + r.a * 2 ^ 6 + r.d * 2 ^ 12 + r.cl * 2 ^ 18 + r.w * 2 ^ 20 + r.u * 2 ^ 21 + r.g * 2 ^ 22 + r.op * 2 ^ 24
    + r.len * 2 ^ 30

/-! ## Codes of R72 and R102 -/

def tyCode : Ty → Nat
  | .none => 0 | .i8 => 1 | .i16 => 2 | .i32 => 3 | .i64 => 4 | .n8 => 5 | .n16 => 6 | .n32 => 7 | .n64 => 8
  | .bf16 => 9 | .f16 => 10 | .f32 => 11 | .f64 => 12 | .q4 => 13 | .q8 => 14 | .fx => 15

def rmCode : Rm → Nat
  | .rn => 0 | .rz => 1 | .ru => 2 | .rd => 3
def rmOfCode (n : Nat) : Rm :=
  match n with
  | 0 => .rn | 1 => .rz | 2 => .ru | _ => .rd

def scCode : Sc → Nat
  | .none => 0 | .grp => 1 | .blk => 2 | .cls => 3 | .die => 4 | .prt => 5 | .sys => 6
def scOfCode (n : Nat) : Option Sc :=
  match n with
  | 0 => some .none | 1 => some .grp | 2 => some .blk | 3 => some .cls | 4 => some .die | 5 => some .prt
  | 6 => some .sys | _ => none

def cpCode : Cp → Nat
  | .none => 0 | .ev => 1 | .l2 => 2 | .kp => 3
def cpOfCode (n : Nat) : Cp :=
  match n with
  | 0 => .none | 1 => .ev | 2 => .l2 | _ => .kp

/-- The index of an event (R100). -/
def evCode : Ev → Nat
  | .bar => 32 | .grant => 33 | .mon => 34 | .batch => 35 | .join => 36 | .queue => 37 | .token => 38
def evOfCode (n : Nat) : Option Ev :=
  match n with
  | 32 => some .bar | 33 => some .grant | 34 => some .mon | 35 => some .batch | 36 => some .join | 37 => some .queue
  | 38 => some .token | _ => none

/-- A field value as a bit. -/
def bit (b : Bool) : Nat := if b then 1 else 0

/-! ## Operands (R100, R101) -/

/-- The operand of a class and index; an immediate's value comes later. -/
def opOf (k i : Nat) : Option Operand :=
  if k = 0 then some (.v (Fin.ofNat 512 i))
  else if k = 1 then (if i < 96 then some (.s (Fin.ofNat 96 i)) else none)
  else if k = 3 then (if i = 0 then some (.imm 0) else none)
  else if i < 16 then some (.p (Fin.ofNat 16 i))
  else if i < 20 then some (.b (Fin.ofNat 4 (i - 16)))
  else if i = 20 then some .xm
  else if 256 ≤ i then some (.sy (Fin.ofNat 256 (i - 256)))
  else (evOfCode i).map .ev

/-- The class of an operand. -/
def opK : Operand → Nat
  | .unused => 0 | .v _ => 0 | .s _ => 1 | .p _ => 2 | .b _ => 2 | .xm => 2 | .ev _ => 2 | .sy _ => 2 | .imm _ => 3
/-- The index of an operand. -/
def opI : Operand → Nat
  | .unused => 0 | .v n => n.val | .s n => n.val | .p n => n.val | .b n => 16 + n.val | .xm => 20 | .ev e => evCode e
  | .sy n => 256 + n.val | .imm _ => 0

/-- An operand field of class 0 and index 0 is empty where the entry names no vector there, or W suppresses D. -/
def emptied (cs : List OpClass) (sup : Bool) (o : Operand) : Operand :=
  if o = .v 0 && (sup || (cs.contains .unused && !cs.contains .v)) then .unused else o

/-- The sign extension of the low `n` bits of a number. -/
def sext64 (n x : Nat) : DWord := (BitVec.ofNat n x).signExtend 64

/-- An immediate operand takes the first value that is left (R101). -/
def fillImm (o : Operand) (vs : List DWord) : Operand × List DWord :=
  match o, vs with
  | .imm _, x :: r => (.imm x, r)
  | _, _ => (o, vs)

/-- The values of `n` immediate operands under LEN, or the DETAIL code (R101). -/
def immValues (len n imm lit : Nat) : Except Nat (List DWord) :=
  if len = 1 then
    match n with
    | 0 => if imm = 0 then .ok [] else .error 2
    | 1 => .ok [sext64 12 imm]
    | _ => .error 5
  else
    match n with
    | 1 => if imm = 0 then .ok [BitVec.ofNat 64 lit] else .error 2
    | 2 => .ok [sext64 12 imm, BitVec.ofNat 64 lit]
    | 3 => .ok [sext64 12 imm, sext64 32 (lit % 2 ^ 32), sext64 32 (lit / 2 ^ 32)]
    | _ => .error 5

/-- Whether a class is an immediate's. -/
def isImm (k : Nat) : Nat := if k = 3 then 1 else 0

/-! ## The opcode maps (R97, R105) -/

/-- The extended operation with an XOP value, for the layouts XG and XB (R105). -/
def xInstr (xop : Nat) : Option (XForm → Instr) :=
  match xop with
  | 0x000 => some .bra
  | 0x001 => some .brc
  | 0x002 => some .brd
  | 0x003 => some .brx
  | 0x004 => some .call
  | 0x005 => some .callx
  | 0x006 => some .ret
  | 0x007 => some .join
  | 0x008 => some .exit
  | 0x009 => some .elect
  | 0x00A => some .vote
  | 0x00B => some .nop
  | 0x00C => some .wait
  | 0x00D => some .yield
  | 0x00E => some .prio
  | 0x00F => some .mark
  | 0x010 => some .trap
  | 0x011 => some .bkpt
  | 0x040 => some .add
  | 0x041 => some .sub
  | 0x042 => some .addc
  | 0x043 => some .subb
  | 0x044 => some .mul
  | 0x045 => some .mulh
  | 0x046 => some .mad
  | 0x047 => some .min
  | 0x048 => some .max
  | 0x049 => some .abs
  | 0x04A => some .neg
  | 0x04B => some .and
  | 0x04C => some .or
  | 0x04D => some .xor
  | 0x04E => some .andn
  | 0x04F => some .not
  | 0x050 => some .shl
  | 0x051 => some .shr
  | 0x052 => some .sar
  | 0x053 => some .rotl
  | 0x054 => some .bfx
  | 0x055 => some .bfi
  | 0x056 => some .clz
  | 0x057 => some .popc
  | 0x058 => some .brev
  | 0x059 => some .cmp
  | 0x05A => some .sel
  | 0x05B => some .mov
  | 0x05C => some .li
  | 0x05D => some .cvt
  | 0x080 => some .fadd
  | 0x081 => some .fsub
  | 0x082 => some .fmul
  | 0x083 => some .ffma
  | 0x084 => some .fdiv
  | 0x085 => some .fmin
  | 0x086 => some .fmax
  | 0x087 => some .fcmp
  | 0x088 => some .fcls
  | 0x089 => some .frnd
  | 0x08A => some .frcp
  | 0x08B => some .frsq
  | 0x08C => some .fsqrt
  | 0x08D => some .fexp2
  | 0x08E => some .flog2
  | 0x08F => some .fsin
  | 0x090 => some .fcos
  | 0x0A0 => some .pand
  | 0x0A1 => some .por
  | 0x0A2 => some .pxor
  | 0x0A3 => some .pnot
  | 0x0A4 => some .pmov
  | 0x0C0 => some .red
  | 0x0C1 => some .scan
  | 0x0C2 => some .topki
  | 0x0C3 => some .sieve
  | 0x100 => some .ld
  | 0x101 => some .st
  | 0x102 => some .lds
  | 0x103 => some .sts
  | 0x104 => some .ldl
  | 0x105 => some .stl
  | 0x106 => some .pref
  | 0x107 => some .pfa
  | 0x108 => some .atom
  | 0x109 => some .atomf
  | 0x10A => some .atomx
  | 0x10B => some .cas
  | 0x10C => some .txb
  | 0x10D => some .txe
  | 0x10E => some .txa
  | 0x10F => some .txq
  | 0x110 => some .fence
  | 0x111 => some .mon
  | 0x112 => some .rwb
  | 0x113 => some .rinv
  | 0x114 => some .locq
  | 0x115 => some .cpy
  | 0x116 => some .seal
  | 0x117 => some .bari
  | 0x118 => some .bara
  | 0x119 => some .barx
  | 0x11A => some .barq
  | 0x11B => some .flag
  | 0x142 => some .mxz
  | 0x145 => some .mxw
  | 0x146 => some .mxta
  | 0x147 => some .mxtr
  | 0x148 => some .mxp
  | 0x149 => some .mxq
  | 0x180 => some .claq
  | 0x181 => some .clrl
  | 0x182 => some .clq
  | 0x183 => some .spawn
  | 0x184 => some .await
  | 0x185 => some .qpop
  | 0x186 => some .qpush
  | 0x187 => some .qwput
  | 0x188 => some .qwget
  | 0x189 => some .wlapp
  | 0x18A => some .wlpop
  | 0x18B => some .term
  | 0x1C0 => some .movs
  | 0x1C1 => some .movw
  | 0x1C2 => some .sysc
  | 0x1C3 => some .rft
  | 0x1C4 => some .tlbi
  | 0x1C5 => some .icinv
  | 0x1C6 => some .csave
  | 0x1C7 => some .crest
  | 0x1C8 => some .gstop
  | _ => none

/-- The matrix instruction with an XOP value (R105). -/
def mInstr (xop : Nat) : Option (MForm → Instr) :=
  match xop with
  | 0x140 => some .mxm
  | 0x141 => some .mxg
  | 0x143 => some .mxld
  | 0x144 => some .mxst
  | _ => none

/-- The base operation of operand fields with an OP value (R97). -/
def bInstr (op : Nat) : Option (BForm → Instr) :=
  match op with
  | 0x01 => some .addBase
  | 0x02 => some .subBase
  | 0x03 => some .mulBase
  | 0x04 => some .mulhBase
  | 0x05 => some .minBase
  | 0x06 => some .maxBase
  | 0x07 => some .andBase
  | 0x08 => some .orBase
  | 0x09 => some .xorBase
  | 0x0A => some .andnBase
  | 0x0B => some .shlBase
  | 0x0C => some .shrBase
  | 0x0D => some .sarBase
  | 0x0E => some .rotlBase
  | 0x0F => some .movBase
  | 0x10 => some .faddBase
  | 0x11 => some .fsubBase
  | 0x12 => some .fmulBase
  | 0x13 => some .fminBase
  | 0x14 => some .fmaxBase
  | 0x15 => some .cmpEqBase
  | 0x16 => some .cmpNeBase
  | 0x17 => some .cmpLtBase
  | 0x18 => some .cmpLeBase
  | 0x19 => some .cmpGtBase
  | 0x1A => some .cmpGeBase
  | 0x1E => some .pandBase
  | 0x1F => some .porBase
  | 0x20 => some .pxorBase
  | _ => none

/-- The operation of a base word with literal: the extended operation of the same mnemonic and its FN (R97, R105). -/
def litInstr (op : Nat) : Option ((XForm → Instr) × Nat) :=
  match op with
  | 0x01 => some (.add, 0)
  | 0x02 => some (.sub, 0)
  | 0x03 => some (.mul, 0)
  | 0x04 => some (.mulh, 0)
  | 0x05 => some (.min, 0)
  | 0x06 => some (.max, 0)
  | 0x07 => some (.and, 0)
  | 0x08 => some (.or, 0)
  | 0x09 => some (.xor, 0)
  | 0x0A => some (.andn, 0)
  | 0x0B => some (.shl, 0)
  | 0x0C => some (.shr, 0)
  | 0x0D => some (.sar, 0)
  | 0x0E => some (.rotl, 0)
  | 0x0F => some (.mov, 0)
  | 0x10 => some (.fadd, 0)
  | 0x11 => some (.fsub, 0)
  | 0x12 => some (.fmul, 0)
  | 0x13 => some (.fmin, 0)
  | 0x14 => some (.fmax, 0)
  | 0x15 => some (.cmp, 0)
  | 0x16 => some (.cmp, 1)
  | 0x17 => some (.cmp, 2)
  | 0x18 => some (.cmp, 3)
  | 0x19 => some (.cmp, 4)
  | 0x1A => some (.cmp, 5)
  | _ => none

/-! ## Decoding -/

/-- The modifier fields of an extended instruction as a form without operands (R99, R102). -/
def formOf (r : XRaw) (sc : Sc) : XForm :=
  { form := if r.len = 1 then .x else .xl, gn := r.gn = 1, gp := Fin.ofNat 16 r.gp, uni := r.u = 1, sup := r.w = 1,
    ty := tyOfCode r.ty, rm := rmOfCode r.rm, sc, col := r.ot = 1, cp := cpOfCode r.cp, fn := BitVec.ofNat 8 r.fn }

/-- The operands of layout XG, with their immediate values (R99 to R101). -/
def xgOperands (sp : XSpec) (r : XRaw) (lit : Nat) (f : XForm) : Except Nat XForm :=
  match opOf r.dk r.di, opOf r.ak r.ai, opOf r.bk r.bi, opOf r.ck r.ci with
  | some d, some a, some b, some c =>
    let fx : Bool := r.ty = 15 || r.fn = 15
    let imm := if sp.fixed then (if fx then 0 else r.imm) else r.imm
    match immValues r.len (isImm r.dk + isImm r.ak + isImm r.bk + isImm r.ck) imm lit with
    | .error e => .error e
    | .ok vs =>
      let d := fillImm (emptied sp.d f.sup d) vs
      let a := fillImm (emptied sp.a false a) d.2
      let b := fillImm (emptied sp.b false b) a.2
      let c := fillImm (emptied sp.c false c) b.2
      if sp.fixed then
        if c.1 ≠ .unused then .error 2
        else .ok { f with d := d.1, a := a.1, b := b.1, c := if fx then .imm (BitVec.ofNat 64 r.imm) else .unused }
      else .ok { f with d := d.1, a := a.1, b := b.1, c := c.1 }
  | _, _, _, _ => .error 3

/-- The operands of layout XB (R103). -/
def xbOperands (brd : Bool) (sp : XSpec) (r : XRaw) (lit : Nat) (f : XForm) : Except Nat XForm :=
  match opOf r.dk r.di, opOf r.ak r.ai, opOf r.bk r.bi with
  | some d, some a, some b =>
    let t1 := sext64 23 ((r.ci + 512 * r.ck) * 4096 + r.imm)
    let f := { f with d := emptied sp.d f.sup d, a := emptied sp.a false a, c := .imm t1 }
    if brd then
      if emptied sp.b false b ≠ .unused then .error 2
      else if lit / 2 ^ 32 ≠ 0 then .error 2
      else .ok { f with b := .imm (sext64 32 lit) }
    else .ok { f with b := emptied sp.b false b }
  | _, _, _ => .error 3

/-- A matrix operand's scalar: class 0b11 names none (R104). -/
def mScalar (k i : Nat) : Except Nat (Option (Fin 96)) :=
  if k = 3 then (if i = 0 then .ok none else .error 3)
  else if k = 1 then (if i < 96 then .ok (some (Fin.ofNat 96 i)) else .error 3)
  else .error 4

/-- An operand field that MXLD and MXST leave empty (R104). -/
def mEmpty (k i : Nat) : Except Nat (Option (Fin 96)) := if k = 0 && i = 0 then .ok none else .error 2

/-- The fields of layout XM (R104). -/
def xmForm (tile : Bool) (r : XRaw) (lit : Nat) : Except Nat MForm :=
  if r.len ≠ 3 then .error 5
  else if r.imm % 64 ≠ 0 then .error 2
  else if r.sc ≠ 0 || r.ot ≠ 0 || r.cp ≠ 0 || r.w ≠ 0 then .error 4
  else if r.dk ≠ 3 || 192 ≤ r.di || 12 ≤ r.fn / 16 || 24 ≤ r.fn % 16 * 2 + r.imm / 2048 then .error 3
  else
    match mScalar r.ak r.ai, (if tile then mEmpty r.bk r.bi else mScalar r.bk r.bi),
        (if tile then mEmpty r.ck r.ci else mScalar r.ck r.ci) with
    | .ok a, .ok b, .ok c =>
      .ok { gn := r.gn = 1, gp := Fin.ofNat 16 r.gp, uni := r.u = 1, ty := tyOfCode r.ty, rm := rmOfCode r.rm,
            row := Fin.ofNat 192 r.di, msz := Fin.ofNat 12 (r.fn / 16),
            nsz := Fin.ofNat 24 (r.fn % 16 * 2 + r.imm / 2048), ksz := Fin.ofNat 8 (r.imm / 256 % 8),
            acol := r.imm / 128 % 2 = 1, bcol := r.imm / 64 % 2 = 1, a, b, c,
            aoff := BitVec.ofNat 15 lit, boff := BitVec.ofNat 15 (lit / 2 ^ 15), coff := BitVec.ofNat 18 (lit / 2 ^ 30),
            toff := BitVec.ofNat 16 (lit / 2 ^ 48) }
    | .error e, _, _ => .error e
    | _, .error e, _ => .error e
    | _, _, .error e => .error e

/-- An instruction whose fields have been read, if no rule makes it reserved (R107). -/
def checked (i : Instr) (len : Nat) : Except Nat (Instr × Nat) :=
  match illegal i with
  | none => .ok (i, len)
  | some e => .error e

/-- The extended forms (R99 to R105). -/
def decodeX (x lit : Nat) : Except Nat (Instr × Nat) :=
  let r := xUnpack x
  let len := if r.len = 1 then 12 else 20
  match xInstr r.xop with
  | some mk =>
    match xspec (mk {}) with
    | none => .error 1
    | some (_, sp, _) =>
      if r.z ≠ 0 then .error 2
      else
        match scOfCode r.sc with
        | none => .error 3
        | some sc =>
          let ops := if sp.xb then xbOperands (isBrd (mk {})) sp r lit (formOf r sc) else xgOperands sp r lit (formOf r sc)
          match ops with
          | .error e => .error e
          | .ok f => checked (mk f) len
  | none =>
    match mInstr r.xop with
    | none => .error 1
    | some mk =>
      if r.z ≠ 0 then .error 2
      else
        match xmForm (r.xop = 0x143 || r.xop = 0x144) r lit with
        | .error e => .error e
        | .ok f => checked (mk f) len

/-- The register that a 6-bit field names, of the vector or the scalar class (R96). -/
def field6Op (scalar : Bool) (n : Nat) : Operand :=
  if 60 ≤ n then .b (Fin.ofNat 4 (n - 60)) else if scalar then .s (Fin.ofNat 96 n) else .v (Fin.ofNat 512 n)

/-- The base word (R94 to R98). -/
def decodeB (x : Nat) : Except Nat (Instr × Nat) :=
  let r := bUnpack x
  let g : Fin 4 := Fin.ofNat 4 r.g
  match bInstr r.op with
  | some mk =>
    checked (mk { g, u := r.u = 1, w := r.w = 1, cl := Fin.ofNat 4 r.cl, d := Fin.ofNat 64 r.d, a := Fin.ofNat 64 r.a,
                  b := Fin.ofNat 64 r.b }) 4
  | none =>
    if r.op = 0x1B then
      if r.u = 0 && r.w = 0 then .ok (.braBase g (BitVec.ofNat 20 x), 4) else .error 2
    else if r.op = 0 then if x % 2 ^ 22 = 0 then .ok (.nopBase g, 4) else .error 2
    else if r.op = 0x1C then
      if x % 2 ^ 22 ≠ 0 then .error 2 else if r.g ≠ 0 then .error 3 else .ok (.joinBase, 4)
    else if r.op = 0x1D then if x % 2 ^ 22 = 0 then .ok (.exitBase g, 4) else .error 2
    else .error 1

/-- The base word with literal (R95, R98). -/
def decodeL (x lit : Nat) : Except Nat (Instr × Nat) :=
  let r := bUnpack x
  match litInstr r.op with
  | some (mk, fn) =>
    if r.cl % 2 = 1 then .error 3
    else if r.b ≠ 0 then .error 2
    else
      let col : Bool := r.cl = 2
      let d : Option Operand :=
        if 0x15 ≤ r.op then (if r.d < 16 then some (.p (Fin.ofNat 16 r.d)) else none)
        else if r.w = 1 then (if r.d = 0 then some .unused else none)
        else some (field6Op col r.d)
      match d with
      | none => .error (if 0x15 ≤ r.op then 3 else 2)
      | some d =>
        let a : Option Operand := if r.op = 0x0F then (if r.a = 0 then some .unused else none) else some (field6Op col r.a)
        match a with
        | none => .error 2
        | some a =>
          checked (mk { form := .bl, gp := Fin.ofNat 16 r.g, uni := r.u = 1, sup := r.w = 1, col, fn := BitVec.ofNat 8 fn,
                        d, a, b := .imm (BitVec.ofNat 64 lit) }) 12
  | none => if r.op ≤ 0x20 then .error 5 else .error 1

/-- The instruction whose bits are `w`, with its length in bytes, or the DETAIL code of the illegal-instruction trap
(R107, R334). Bits beyond the instruction's length are not looked at. -/
def decodeBits (w : Nat) : Except Nat (Instr × Nat) :=
  let len := w / 2 ^ 30 % 4
  if len = 0 then decodeB (w % 2 ^ 32)
  else if len = 2 then decodeL (w % 2 ^ 32) (w / 2 ^ 32 % 2 ^ 64)
  else decodeX (w % 2 ^ 96) (if len = 3 then w / 2 ^ 96 % 2 ^ 64 else 0)

/-- The length in bytes that an instruction's first word gives (R90). -/
def lengthOf (w0 : Word) : Nat :=
  match w0.toNat / 2 ^ 30 with
  | 0 => 4
  | 1 => 12
  | 2 => 12
  | _ => 20

/-- The number whose bits are those of some words, the first word lowest (R91, R99). -/
def bitsOf : List Word → Nat
  | [] => 0
  | w :: r => w.toNat + 2 ^ 32 * bitsOf r

/-- Decoding of any bytes, lowest first: total, refusing by name of the DETAIL code (R107). -/
def decodeBytes (bs : List Byte) : Except Nat (Instr × Nat) := decodeBits (leNat bs)

/-- The instruction that the decoder reads from a row of the table of operations: the bits above `nbits` are zero. -/
def decodeTableWord (nbits w : Nat) : Option Instr :=
  match decodeBytes (leBytes 20 (w % 2 ^ nbits)) with
  | .ok r => some r.1
  | .error _ => none

/-! ## Encoding -/

/-- The IMM field and the literal that carry some immediate values (R101). -/
def immFields (f : Form) (vs : List DWord) : Nat × Nat :=
  match f, vs with
  | .x, [x] => (x.toNat % 4096, 0)
  | .xl, [x] => (0, x.toNat)
  | .xl, [x, y] => (x.toNat % 4096, y.toNat)
  | .xl, [x, y, z] => (x.toNat % 4096, y.toNat % 2 ^ 32 + 2 ^ 32 * (z.toNat % 2 ^ 32))
  | _, _ => (0, 0)

/-- The value of an immediate, or zero. -/
def immVal (o : Operand) : Nat :=
  match o with
  | .imm x => x.toNat
  | _ => 0

/-- The bits of an instruction of layout XG or XB (R99 to R103). -/
def encodeX (xop : Nat) (sp : XSpec) (brd : Bool) (f : XForm) : Nat :=
  let r : XRaw :=
    { cp := cpCode f.cp, ot := bit f.col, sc := scCode f.sc, rm := rmCode f.rm, ty := tyCode f.ty, w := bit f.sup,
      u := bit f.uni, gp := f.gp.val, gn := bit f.gn, xop, len := if f.form = .x then 1 else 3, fn := f.fn.toNat,
      ai := opI f.a, ak := opK f.a, di := opI f.d, dk := opK f.d }
  if sp.xb then
    let t := immVal f.c % 2 ^ 23
    let r := { r with imm := t % 4096, ci := t / 4096 % 512, ck := t / 4096 / 512 }
    if brd then xPack r + 2 ^ 96 * (immVal f.b % 2 ^ 32) else xPack { r with bi := opI f.b, bk := opK f.b }
  else
    let v := immFields f.form (imms sp f)
    let r := { r with bi := opI f.b, bk := opK f.b }
    if sp.fixed then
      xPack { r with imm := if f.ty = .fx || f.fn = 15 then immVal f.c % 4096 else 0 } + 2 ^ 96 * v.2
    else xPack { r with ci := opI f.c, ck := opK f.c, imm := v.1 } + 2 ^ 96 * v.2

/-- The 6-bit field of a register operand (R96). -/
def field6Of : Operand → Nat
  | .v n => n.val | .s n => n.val | .p n => n.val | .b n => 60 + n.val | _ => 0

/-- The bits of a base word with literal (R95). -/
def encodeL (op : Nat) (f : XForm) : Nat :=
  bPack { a := field6Of f.a, d := field6Of f.d, cl := if f.col then 2 else 0, w := bit f.sup, u := bit f.uni,
          g := f.gp.val, op, len := 2 } + 2 ^ 32 * immVal f.b

/-- The bits of a matrix instruction (R104). -/
def encodeM (xop : Nat) (tile : Bool) (f : MForm) : Nat :=
  let k (o : Option (Fin 96)) : Nat := match o with | none => 3 | some _ => 1
  let i (o : Option (Fin 96)) : Nat := match o with | none => 0 | some n => n.val
  xPack { rm := rmCode f.rm, ty := tyCode f.ty, u := bit f.uni, gp := f.gp.val, gn := bit f.gn, xop, len := 3,
          imm := f.nsz.val % 2 * 2048 + f.ksz.val * 256 + bit f.acol * 128 + bit f.bcol * 64,
          fn := f.msz.val * 16 + f.nsz.val / 2,
          ci := if tile then 0 else i f.c, ck := if tile then 0 else k f.c,
          bi := if tile then 0 else i f.b, bk := if tile then 0 else k f.b, ai := i f.a, ak := k f.a, di := f.row.val,
          dk := 3 }
    + 2 ^ 96 * (f.aoff.toNat + f.boff.toNat * 2 ^ 15 + f.coff.toNat * 2 ^ 30 + f.toff.toNat * 2 ^ 48)

/-- The bits of a base word of operand fields (R94). -/
def encodeB (op : Nat) (f : BForm) : Nat :=
  bPack { b := f.b.val, a := f.a.val, d := f.d.val, cl := f.cl.val, w := bit f.w, u := bit f.u, g := f.g.val, op }

/-- The bits of an instruction, and its length in bytes (R90 to R104); zero bits for a step that has no encoding. -/
def encodeBits (i : Instr) : Nat × Nat :=
  match xspec i with
  | some (xop, sp, f) =>
    if f.form = .bl then (encodeL (match baseLit i with | some (_, op) => op | none => 0) f, 12)
    else (encodeX xop sp (isBrd i) f, if f.form = .x then 12 else 20)
  | none =>
    match mspec i with
    | some (xop, tile, _, _, f) => (encodeM xop tile f, 20)
    | none =>
      match baseWord i with
      | some (_, op, f) => (encodeB op f, 4)
      | none =>
        match i with
        | .nopBase g => (g.val * 2 ^ 22, 4)
        | .braBase g off => (off.toNat + g.val * 2 ^ 22 + 0x1B * 2 ^ 24, 4)
        | .joinBase => (0x1C * 2 ^ 24, 4)
        | .exitBase g => (g.val * 2 ^ 22 + 0x1D * 2 ^ 24, 4)
        | _ => (0, 0)

/-- `n` words of a number, the lowest first. -/
def wordsOf : Nat → Nat → List Word
  | 0, _ => []
  | n + 1, x => BitVec.ofNat 32 x :: wordsOf n (x / 2 ^ 32)

/-- The words of a well-formed instruction, in the order in which they lie in memory (R91). -/
def encode (i : Instr) : List Word := wordsOf ((encodeBits i).2 / 4) (encodeBits i).1

end Sys2Proof
end

