-- ==== Sys2Proof/Machine/Virtual.lean ====
section
/-! DEFINITION. Memory as the device reaches it through a context's tables: instruction fetch, and the reads and writes
of the front end and of trap entry (R54 to R56, R93, R155, R314, R337, R376, R407). -/

namespace Sys2Proof.Machine

/-! ## One place -/

/-- Where a virtual address lies: its space, its leaf entry and the level of it. -/
structure Place where
  space : Space
  entry : DWord
  level : Nat
  deriving DecidableEq, Repr

/-- The place of a translation that succeeded. -/
def placeOf (p : Nat) : Xlat → Option Place
  | .ok pa e l => some { space := space p pa, entry := e, level := l }
  | _ => none

/-- A place in HBM4E on a darkroom page (R56). -/
def Place.dark (x : Place) : Bool := pteDRK x.entry
/-- The key of a place in HBM4E or host memory. -/
def Place.key? (x : Place) : Option Nat :=
  match x.space with
  | .hbm k => some k
  | .host k => some k
  | .peer _ _ => none

/-- A load by a group from a place would read poison (R375); a darkroom line that the die holds is read from its copy. -/
def placePoisoned (s : State) (g : Nat) (x : Place) (n : Nat) : Bool :=
  match x.space with
  | .hbm k =>
    if x.dark then
      (fetchDark (darkReady s (groupDie g) (lineOf k)) (groupDie g) (lineOf k)).bad.any fun w =>
        k % 128 < 32 * w + 32 && 32 * w < k % 128 + n
    else loadPoisoned s g k n []
  | _ => false

/-- Bytes that a peer's memory answers with (log entry 22). -/
def peerBytes (tick ap off : Nat) : Nat → List Byte
  | 0 => []
  | n + 1 => Config.peerByte tick (2 ^ 40 * ap + off) :: peerBytes tick ap (off + 1) n

/-- A partition admits requests from a module and function (R327). -/
def inboundFrom (s : State) (fn module src : Nat) : Bool :=
  (getPart s fn).live
    && (getPart s fn).aps.any fun e => e.2.valid && e.2.inbound && e.2.module = module && e.2.fn = src

/-- The key in another partition of this module that an offset of a peer aperture reaches, when that partition admits the
request (R5, R314, R327). -/
def ownTarget (s : State) (p ap off n : Nat) : Option Nat :=
  let a := mapGet {} (getPart s p).aps ap
  if a.valid && !a.inbound && a.module = s.hub.number && inboundFrom s a.fn a.module p && inHbm (getPart s a.fn) off n then
    some (memKey a.fn off)
  else none

/-- The bytes of a line or part of it at its home (R180, R253). -/
def homeBytes (s : State) (k n : Nat) : List Byte := memBytes (settle (combine s (lineOf k)) (lineOf k)).mem k n

/-- The bytes that a partition reads through a peer aperture: those of another partition of this module, or a peer's answer. The request
that brings them is numbered and counted beside (`askPeer`; log entry 110). -/
def peerRead (s : State) (p ap off n : Nat) : List Byte :=
  match ownTarget s p ap off n with
  | some k => homeBytes s k n
  | none => peerBytes s.tick ap off n

/-- The visible bytes of a place of a partition, at their homes (R180, R253). -/
def placeBytes (s : State) (p : Nat) (x : Place) (n : Nat) : List Byte :=
  match x.space with
  | .hbm k => homeBytes s k n
  | .host k => memBytes s.mem k n
  | .peer a o => peerRead s p a o n

/-- A request that a die sends over the fabric through a peer aperture, kept until its acknowledgement: it carries the
die's life number and the next sequence number of its die and target (R326, R382, R386). -/
def sendPeer (s : State) (p d ap off : Nat) (op : FabOp) (load store : Option Nat) : State :=
  let a := mapGet {} (getPart s p).aps ap
  let k := 4096 * d + a.module
  let q := mapGet 0 s.seqs k
  let n := fresh s
  let x : Sent := { id := n.1, part := p, module := a.module, fn := a.fn, die := d, life := (getDie s d).life, seq := q,
                    addr := BitVec.ofNat 40 off, op, load, store, ap, vers := partVers s p, since := hubGtc s }
  { n.2 with sent := n.2.sent ++ [x], seqs := mapSet s.seqs k (q + 1) }

/-- A group's store to a peer: the store waits for the acknowledgement of the request that carries it (R187, R315). -/
def storePeer (s : State) (g : Nat) (va : DWord) (ap off : Nat) (op : FabOp) (data : StoreOp) : State :=
  sendPeer (sendStore s g (2 ^ 53 + 2 ^ 40 * ap + off) va data .sys (some ap)) (groupSpace s g).1 (groupDie g) ap off op none
    (some s.nextId)

/-! ## Reads and writes of the device in a context -/

/-- How many bytes from an address lie in one line. -/
def inLine (va n : Nat) : Nat := min n (128 - va % 128)

/-- A virtual range as parts of one line each: address and length. -/
def partsOf (va : DWord) : Nat → Nat → List (DWord × Nat)
  | _, 0 => []
  | 0, _ => []
  | fuel + 1, n =>
    let k := inLine va.toNat n
    (va, k) :: partsOf (va + BitVec.ofNat 64 k) fuel (n - k)
def lineParts (va : DWord) (n : Nat) : List (DWord × Nat) := partsOf va (n / 128 + 2) n

/-- Bytes of a virtual range, line by line; none when a part does not translate or is poisoned (R375, R376). -/
def ctxRead (s : State) (p c : Nat) (va : DWord) : Nat → Nat → Option (List Byte)
  | _, 0 => some []
  | 0, _ => none
  | fuel + 1, n =>
    let k := inLine va.toNat n
    match placeOf p (tableXlat s p c va) with
    | none => none
    | some x =>
      let bad := match x.space with | .hbm key => poisoned s key k | _ => false
      if bad then none
      else
        match ctxRead s p c (va + BitVec.ofNat 64 k) fuel (n - k) with
        | none => none
        | some r => some (placeBytes s p x k ++ r)

/-- Bytes of a virtual range, with fuel for every line that it can touch. -/
def ctxBytes (s : State) (p c : Nat) (va : DWord) (n : Nat) : Option (List Byte) := ctxRead s p c va (n / 128 + 2) n

/-- A little-endian number of `n` bytes at a virtual address. -/
def ctxNat (s : State) (p c : Nat) (va : DWord) (n : Nat) : Option Nat := (ctxBytes s p c va n).map leNat

/-- Who stores: a resident group, or a die for the device itself. -/
inductive Writer where
  | group (g : Nat)
  | die (d : Nat)
  deriving DecidableEq, Repr

/-- A store of the device itself by a die, of no group and no grid (R386). -/
def deviceStore (d key : Nat) (va : DWord) (b : AMap Byte) : PStore :=
  { id := 0, uid := 0, grid := 2 ^ 64, core := 4096 + d, addr := key, va, op := .bytes b }

/-- A group's store to a darkroom line of a home that answers no request now, which its die does not hold: it goes there as a write-back
that merges when the home answers again (R308, R387). -/
def darkLater (s : State) (g d key : Nat) (va : DWord) (b : AMap Byte) : State :=
  let l := lineOf key
  let t := addStore s { id := 0, uid := (getGroup s g).uid, grid := (groupBlock s g).grid, core := slotCore g, addr := 128 * l, va
                        op := .bytes b, dark := some d, covered := true }
  addWriteBack t { id := 0, die := d, key := 128 * l, bytes := b, stores := [s.nextId] }

/-- Bytes within one line stored at once at a place (R253): at the home, into host memory, or towards a peer, whose
acknowledgement a later release waits for. The completion time is recorded for the group when there is one. A store that
finds its line held waits in flight (R181, R387). -/
def storePlace (s : State) (w : Writer) (p : Nat) (va : DWord) (x : Place) (bytes : List Byte) : State :=
  match x.space with
  | .hbm k =>
    let l := lineOf k
    let b := offsets k bytes
    let s := match w with | .group i => flushLine (flushOwn (sendGather s (slotCore i) l) i k) i k | .die _ => s
    if x.dark then
      match w with
      | .group i =>
        if homeBusy s k && (getDark s (groupDie i) l).isNone then darkLater s i (groupDie i) k va b
        else darkStoreRecord (darkWrite s (groupDie i) l b) i (groupDie i) k va b
      | .die d => if homeBusy s k then addStore s (deviceStore d (128 * l) va b) else darkPut s l b
    else if lineHeld s l then
      match w with
      | .group i => sendStore (keepOwn (unforward s (getGroup s i).uid l b) (l1Holder s i k) l b) i k va (.bytes b) .sys none
      | .die d => addStore s (deviceStore d (128 * l) va b)
    else
      let s := settle s l
      let c := completion s l
      let s := homeWrite s l b
      match w with
      | .group i => doneStore (dropCopies (ownWritten s [(getGroup s i).uid] (l1Holder s i k) l b) i l) i k va c .sys false
      | .die _ => s
  | .host k => hostPut s k bytes
  | .peer a o =>
    match w with
    | .group i => storePeer s i va a o (.store bytes) (.bytes (offsets o bytes))
    | .die d => sendPeer s p d a o (.store bytes) none none

/-- Bytes of a virtual range written by the device; none when a part does not translate or is read-only. -/
def ctxStore (s : State) (p c : Nat) (w : Writer) (va : DWord) : Nat → List Byte → Option State
  | _, [] => some s
  | 0, _ => none
  | fuel + 1, bytes =>
    let k := 128 - va.toNat % 128
    match placeOf p (tableXlat s p c va) with
    | none => none
    | some x =>
      if pteRO x.entry then none
      else ctxStore (storePlace s w p va x (bytes.take k)) p c w (va + BitVec.ofNat 64 k) fuel (bytes.drop k)

/-- Bytes of a virtual range written by the device, with fuel for every line. -/
def ctxWrite (s : State) (p c : Nat) (w : Writer) (va : DWord) (bytes : List Byte) : Option State :=
  ctxStore s p c w va (bytes.length / 128 + 2) bytes

/-- A byte of the device's own in a context whose home answers no request now (R387). -/
def farBusy (s : State) (p : Nat) (x : Xlat) : Bool :=
  match placeOf p x with
  | some y => (match y.space with | .hbm k => homeBusy s k | _ => false)
  | none => false

/-! ## Instruction fetch (R91 to R93, R155, R334) -/

/-- Why a fetch fails: its code, DETAIL, the address and the deciding entry. Code 0x11 is restartable, 0x13 is of class
I at the target. -/
structure FetchFault where
  code : Nat
  detail : Nat
  addr : DWord
  entry : DWord
  deriving DecidableEq, Repr

/-- The key under which the memory of this module keeps a place's words: also those of another of its partitions, through an aperture
(R5, R314). -/
def wordKey (s : State) (p : Nat) (x : Place) : Option Nat :=
  match x.space with
  | .peer a o => ownTarget s p a o 4
  | _ => x.key?

/-- One instruction word of a group's context: contents that it has had since the last ICINV may still be fetched, and which
of them is free (R93; log entry 7). -/
def fetchWord (s : State) (p c : Nat) (va : DWord) : Except FetchFault Word :=
  match xlat s p c va with
  | .nonCanonical => .error { code := 0x13, detail := 1, addr := va, entry := 0 }
  | .absent l e => .error { code := 0x11, detail := l, addr := va, entry := e }
  | .bad e => .error { code := 0x13, detail := 2, addr := va, entry := e }
  | .ok pa e l =>
    if pteNX e then .error { code := 0x13, detail := 0, addr := va, entry := e }
    else
      let x : Place := { space := space p pa, entry := e, level := l }
      let now := BitVec.ofNat 32 (leNat (placeBytes s p x 4))
      match wordKey s p x with
      | some k =>
        match mapGet [] s.stale k with
        | [] => .ok now
        | old => .ok ((now :: old).getD (Config.fetchesOld s.tick k) now)
      | none => .ok now

/-- `n` further words from an address. -/
def fetchMore (s : State) (p c : Nat) (va : DWord) : Nat → Except FetchFault (List Word)
  | 0 => .ok []
  | n + 1 =>
    match fetchWord s p c va with
    | .error e => .error e
    | .ok w =>
      match fetchMore s p c (va + 4) n with
      | .error e => .error e
      | .ok r => .ok (w :: r)

/-- The words of the instruction at an address: the first gives the length (R90). -/
def fetch (s : State) (p c : Nat) (va : DWord) : Except FetchFault (List Word) :=
  match fetchWord s p c va with
  | .error e => .error e
  | .ok w =>
    match fetchMore s p c (va + 4) (lengthOf w / 4 - 1) with
    | .error e => .error e
    | .ok r => .ok (w :: r)

/-- The instruction at an address of a group's context, if it can be fetched and is one. -/
def peek (s : State) (p c : Nat) (va : DWord) : Option Instr :=
  match fetch s p c va with
  | .error _ => none
  | .ok ws =>
    match decodeBits (bitsOf ws) with
    | .ok r => some r.1
    | .error _ => none

end Sys2Proof.Machine
end

