-- ==== Sys2Proof/Machine/Pending.lean ====
section
/-! DEFINITION. Loads, atomics and CAS at their homes, and results that come back later (R159 to R164, R168 to R172, R257,
R315, R339). -/

namespace Sys2Proof.Machine

/-- What a load puts into a register (R164): a narrow integer extended by its type, a floating value or a value without a
type with zeros above (log entry 26). -/
def loadValue (ty : Ty) (x : Nat) : DWord :=
  if tyFloat ty || ty = .none then BitVec.ofNat 64 x else extend (tySigned ty) (tyBits ty) (BitVec.ofNat 64 x)

/-- The access width of a type in bytes (R163). -/
def tyBytes (ty : Ty) : Nat := tyBits ty / 8

/-! ## Atomics at their homes (R168 to R172) -/

/-- What an atomic writes for the old value: none writes nothing (R168, R170, R171). -/
abbrev AtomFn := DWord → Option DWord

/-- The function of an atomic operation. -/
def atomFn : FabOp → AtomFn
  | .atom fn ty rm x => fun old => some (atomOp fn.toNat ty rm old x)
  | .atomf fn ty rm x => fun old => some (atomOp fn.toNat ty rm old x)
  | .atomx y => fun old => some (old + y)
  | .cas ty old new => fun x =>
      if extend false (tyBits ty) x = extend false (tyBits ty) old then some (extend false (tyBits ty) new) else none
  | .load _ => fun _ => none
  | .store _ => fun _ => none

/-- The width in bytes of an atomic operation. -/
def atomBytes : FabOp → Nat
  | .atom _ ty _ _ => tyBytes ty
  | .atomf _ ty _ _ => tyBytes ty
  | .atomx _ => 8
  | .cas ty _ _ => tyBytes ty
  | .load n => n
  | .store b => b.length

/-- The type of the value that an atomic returns. -/
def atomTy : FabOp → Ty
  | .atom _ ty _ _ => ty
  | .atomf _ ty _ _ => ty
  | .cas ty _ _ => ty
  | _ => .fx

/-- An atomic of a group performed indivisibly at the home of a coherent line (R168): the old value. The group's earlier
stores to the line come first (R159), and its core's copies of the line are dropped so that it reads its own update. Its
callers wait for a line that is held. -/
def atomicAt (s : State) (g key : Nat) (va : DWord) (sc : Sc) (n : Nat) (f : AtomFn) : DWord × State :=
  let l := lineOf key
  let s := flushLine (flushOwn s g key) g key
  let s := settle (combine s l) l
  let old := nextVal s key n
  match f old with
  | none => (old, s)
  | some y =>
    let c := completion s l
    let b := offsets key (leBytes n y.toNat)
    let s := ownWritten (homeWrite s l b) [(getGroup s g).uid] (l1Holder s g key) l b
    (old, doneStore (dropCopies s g l) g key va c sc false)

/-- An atomic to a darkroom line, performed at the issuing die's copy (R172, R191). -/
def atomicDark (s : State) (g key : Nat) (va : DWord) (n : Nat) (f : AtomFn) : DWord × State :=
  let d := groupDie g
  let r := darkLoad s d key n
  let old := BitVec.ofNat 64 (leNat r.1)
  match f old with
  | none => (old, r.2)
  | some y =>
    let b := offsets key (leBytes n y.toNat)
    (old, darkStoreRecord (darkWrite r.2 d (lineOf key) b) g d key va b)

/-- An atomic to host memory, performed at its target (R315). -/
def atomicHost (s : State) (key n : Nat) (f : AtomFn) : DWord × State :=
  let old := BitVec.ofNat 64 (leNat (memBytes s.mem key n))
  match f old with
  | none => (old, s)
  | some y => (old, hostPut s key (leBytes n y.toNat))

/-- A read by the group of some bytes of a coherent line must wait, because an access of its own to them has to come first and a lock
holds that back: a load waits for no lock but this (R159, R181; log entry 68). -/
def ownHeld (s : State) (g k n : Nat) : Bool := unseen s g k n && (getHome s (lineOf k)).lock.isSome

/-- A load or atomic of the group to a line that has not been performed. -/
def lineWaits (s : State) (g k : Nat) : Bool :=
  s.loads.any fun l => l.g = g && !l.dead && l.got = none && !l.peer && lineOf l.addr = lineOf k

/-- A line is locked by an irrevocable lane of the group itself (R181, R182). -/
def ownLock (s : State) (g k : Nat) : Bool :=
  match (getHome s (lineOf k)).lock with | some e => e.1 = (getGroup s g).uid | none => false

/-- A pending atomic of a group waits for a lock of the group's own: only that lane's TXE ends the wait, so the TXE does not wait for the
atomic, against R257, as the holder must be able to commit (R181, R183; log entry 121). -/
def ownLocked (s : State) (g : Nat) (l : PLoad) : Bool := l.op.isSome && !l.peer && ownLock s g l.addr

/-! ## Results that come back (R162) -/

/-- A value put into the lanes of a destination of a group, and into the latch that its instruction pushed; an access whose
group is gone gives it to none, and one whose die has reset since comes late (R360, R388): the response of one access counts once,
and that of a peer where it is acknowledged. -/
def giveResult (s : State) (l : PLoad) (x : DWord) : State :=
  let s := { s with loads := s.loads.filter fun m => m.id ≠ l.id }
  let more : Bool := l.op = none && s.loads.any fun m =>
    m.uid = l.uid && m.issued = l.issued && m.op = none && lineOf m.addr = lineOf l.addr
  if l.dead then
    (if l.peer || more || l.life = (getDie s (groupDie l.g)).life then s else countLate s (groupDie l.g))
  else
  modGroup s l.g fun y =>
    let y := match l.d with
      | .v n => vPut y n.val (wide l.ty) l.mask fun _ => x
      | .s n => sWrite (hidden s l.g) y n.val x
      | _ => y
    if y.issued = l.issued then
      { y with latches := match y.latches with
          | .lanes v :: r => .lanes (v.set l.lane (if wide l.ty then x else (x.setWidth 32).setWidth 64)) :: r
          | .scalar _ :: r => .scalar x :: r
          | [] => [] }
    else y

/-- An atomic of a group that is gone, performed at its home for its grid (R275, R360). -/
def deadAtomic (s : State) (l : PLoad) (f : AtomFn) : State :=
  let k := lineOf l.addr
  let s := settle (combine s k) k
  match f (nextVal s l.addr l.size) with
  | none => s
  | some y =>
    addStore (homeWrite s k (offsets l.addr (leBytes l.size y.toNat)))
      { id := 0, uid := l.uid, grid := l.grid, core := slotCore l.g, addr := l.addr, va := l.va, op := .bytes [], sc := l.sc
        performed := some (completion s k) }

/-- A pending load or atomic performed at its home: its value is fixed (R253). -/
def performPending (s : State) (l : PLoad) : State :=
  let r : DWord × State := match l.op with
    | none =>
      if l.dead then (0, s) else
      let b := cohLoad s l.g l.cls l.addr l.size
      (loadValue l.ty (leNat b.1), b.2)
    | some op =>
      if l.dead then (0, deadAtomic s l (atomFn op)) else
      let a := atomicAt s l.g l.addr l.va l.sc l.size (atomFn op)
      (loadValue l.ty (extend false (8 * l.size) a.1).toNat, a.2)
  { r.2 with loads := modWhere r.2.loads (fun m => m.id = l.id) fun m => { m with got := some r.1 } }

/-- The loads of a group that have not come back. -/
def pendingOf (s : State) (g : Nat) : List PLoad := s.loads.filter fun l => l.g = g && !l.dead

/-- The choice whether the next load or returning atomic waits for a later step, and the state without it. -/
def nextLate (s : State) : Bool × State :=
  match s.late with
  | [] => (false, s)
  | b :: r => (b, { s with late := r })

/-- The result of a lane comes from a later step. -/
def deferLoad (s : State) (l : PLoad) : State :=
  let n := fresh s
  let sp := groupSpace s l.g
  { n.2 with loads := n.2.loads ++ [{ l with
      id := n.1, pc := (getGroup s l.g).pc, uid := (getGroup s l.g).uid, grid := (groupBlock s l.g).grid, part := sp.1, ctx := sp.2
      life := (getDie s (groupDie l.g)).life, vers := partVers s sp.1 }] }

end Sys2Proof.Machine
end

