-- ==== Sys2Proof/Machine/Peer.lean ====
section
/-! DEFINITION. Requests over the Mirrix fabric: what a receiver keeps and applies, what a sender keeps, and the requests that are
answered in the step that makes them (R5, R326, R327, R382, R383). -/

namespace Sys2Proof.Machine

/-! ## The receiver -/

/-- The result that a receiver keeps for a request that it has applied (R382). -/
def appliedResult (s : State) (r : FabReq) : Option Applied :=
  s.applied.find? fun a => a.module = r.module && a.die = r.die && a.life = r.life && a.seq = r.seq

/-- A request performed at its home: the bytes it returns (R168, R253, R326). -/
def applyOp (s : State) (key : Nat) (op : FabOp) : List Byte × State :=
  let l := lineOf key
  let s := settle (combine s l) l
  match op with
  | .load n => (memBytes s.mem key n, s)
  | .store b => ([], (homePut s key b (b.length / 128 + 2)).1)
  | op =>
    let n := atomBytes op
    let old := nextVal s key n
    match atomFn op old with
    | none => (leBytes n old.toNat, s)
    | some y => (leBytes n old.toNat, homeWrite s l (offsets key (leBytes n y.toNat)))

/-- The results of the last 4,096 requests of a source are kept (R382). -/
def keepApplied (l : List Applied) (x : Applied) : List Applied :=
  let mine (a : Applied) : Bool := a.module = x.module && a.die = x.die && a.life = x.life
  let l := l ++ [x]
  if 4096 < (l.filter mine).length then
    match l.find? mine with
    | some a => l.erase a
    | none => l
  else l

/-- What the receiver keeps of a request's source. -/
def sourceOf (s : State) (r : FabReq) : Source :=
  (s.sources.find? fun x => x.module = r.module && x.die = r.die && x.life = r.life).getD { module := r.module, die := r.die, life := r.life }

/-- What the receiver keeps of a source, replaced. -/
def setSource (s : State) (x : Source) : State :=
  { s with sources := (s.sources.filter fun y => !(y.module = x.module && y.die = x.die && y.life = x.life)) ++ [x] }

/-- A sequence number comes before another, the numbers being counted mod 2^32 (R382). -/
def seqBefore (a b : BitVec 32) : Bool := 2 ^ 31 ≤ (a - b).toNat

/-- A request has arrived before (R382). -/
def arrivedBefore (x : Source) (seq : BitVec 32) : Bool := seqBefore seq x.next || x.held.any fun h => h.2.seq = seq

/-- The first number that has not arrived, from a number on. -/
def nextMissing (held : List (Nat × FabReq)) : Nat → BitVec 32 → BitVec 32
  | 0, n => n
  | k + 1, n => if held.any fun h => h.2.seq = n then nextMissing held k (n + 1) else n

/-- A request that arrives is held (R383). -/
def holdRequest (x : Source) (fn : Nat) (r : FabReq) : Source :=
  let held := x.held ++ [(fn, r)]
  { x with held, next := nextMissing held held.length x.next }

/-- A held request is the next to be applied at its address: every earlier request of its source has arrived, and none of them to
the same line is still held (R383; log entry 71). -/
def itsTurn (x : Source) (h : Nat × FabReq) : Bool :=
  seqBefore h.2.seq x.next && x.held.all fun y =>
    !seqBefore y.2.seq h.2.seq || y.1 ≠ h.1 || lineOf y.2.addr.toNat ≠ lineOf h.2.addr.toNat

/-- A request that no inbound entry admits, or beyond the partition's HBM4E, is not served (R327). -/
def serveable (s : State) (h : Nat × FabReq) : Bool :=
  inboundFrom s h.1 h.2.module h.2.fn && inHbm (getPart s h.1) h.2.addr.toNat (atomBytes h.2.op)

/-- What another module is answered (R382). -/
def reply (s : State) (a : Applied) : State := if a.module = s.hub.number then s else { s with replies := s.replies ++ [a] }

/-- A request applied, its result kept, and answered (R382). A read of poisoned data returns none (R375; log entry 35). -/
def applyRequest (s : State) (h : Nat × FabReq) : State :=
  let key := memKey h.1 h.2.addr.toNat
  let reads := match h.2.op with | .store _ => false | _ => true
  let a := if reads && poisoned s key (atomBytes h.2.op) then ([], s) else applyOp s key h.2.op
  let done : Applied := { module := h.2.module, die := h.2.die, life := h.2.life, seq := h.2.seq, result := a.1 }
  reply { a.2 with applied := keepApplied a.2.applied done } done

/-- The home of a held request can take it now, or the request is not served. -/
def homeFree (s : State) (h : Nat × FabReq) : Bool :=
  let key := memKey h.1 h.2.addr.toNat
  !serveable s h || !(lockedFor s (lineOf key) none || homeBusy s key)

/-- The first held request of a source whose turn it is, taken from the source and applied. -/
def serveTurn (s : State) (x : Source) : Option State :=
  (x.held.find? fun h => itsTurn x h && homeFree s h).map fun h =>
    let s := setSource s { x with held := x.held.erase h }
    if serveable s h then applyRequest s h else s

/-- Held requests of a source applied, as many as can be. -/
def serveSource (s : State) (r : FabReq) : Nat → State
  | 0 => s
  | n + 1 => match serveTurn s (sourceOf s r) with | some t => serveSource t r n | none => s

/-- A request that has come to a function: a duplicate is answered with the stored result and counted; any other is held until its
turn, and what can be applied is (R382, R383). -/
def receive (s : State) (fn : Nat) (r : FabReq) : State :=
  let x := sourceOf s r
  if arrivedBefore x r.seq then
    let s := modPart s fn fun p => { p with dups := p.dups + 1 }
    match appliedResult s r with | some a => reply s a | none => s
  else serveSource (setSource s (holdRequest x fn r)) r (x.held.length + 1)

/-! ## The sender -/

/-- A request has left its die: of the requests of one life of a die to one target that are not acknowledged, at most 4,096 have
(R382). -/
def onTheWay (s : State) (x : Sent) : Bool :=
  ((s.sent.filter fun y => y.die = x.die && y.life = x.life && y.module = x.module).take 4096).any fun y => y.id = x.id

/-- A request that the sender keeps no longer; what has waited for its place leaves now. -/
def dropSent (s : State) (id : Nat) : State :=
  let t := { s with sent := s.sent.filter fun y => y.id ≠ id }
  { t with sent := t.sent.map fun y => if onTheWay t y && !onTheWay s y then { y with since := hubGtc s } else y }

/-- A request to another partition of this module, as its receiver sees it (R5, R382). -/
def asRequest (x : Sent) : FabReq :=
  { module := x.module, fn := x.part, die := x.die, life := x.life, seq := x.seq, addr := x.addr, op := x.op }

/-! ## Requests answered in the step that makes them -/

/-- A die has no request to a module that is not acknowledged: the next one is applied as soon as it arrives (R382, R383). -/
def peerIdle (s : State) (p d ap : Nat) : Bool :=
  let m := (mapGet {} (getPart s p).aps ap).module
  s.sent.all fun x => x.die ≠ d || x.module ≠ m || x.life ≠ (getDie s d).life

/-- The replays of a request before its answer: each is counted, and by the partition of this module that it names as a duplicate
(R382). -/
def replayed (s : State) (x : Sent) : State :=
  let n := BitVec.ofNat 64 (Config.replays s.tick x.seq)
  let s := modPart s x.part fun p => { p with replay := p.replay + n }
  if x.module = s.hub.number then modPart s x.fn fun p => { p with dups := p.dups + n } else s

/-- A read that a die makes through a peer aperture: its request carries the die's life and the next number, is applied at its target and
acknowledged in one step, and how often it has been replayed before is free: DESIGN CHOICE, as R382 gives no time for an answer (R326,
R386; log entry 110). None while the request cannot be applied yet. -/
def peerRound (s : State) (p d ap off n : Nat) : Option (List Byte × State) :=
  if !peerIdle s p d ap then none
  else
    let t := sendPeer s p d ap off (.load n) none none
    match t.sent.getLast? with
    | none => none
    | some x =>
      let free := peerBytes s.tick ap off n
      let done (u : State) : State := dropSent { u with carried := mapSet u.carried x.module (hubGtc s) } x.id
      if x.module = s.hub.number then
        let u := receive t x.fn (asRequest x)
        (appliedResult u (asRequest x)).map fun a => (if a.result.length = n then a.result else free, done (replayed u x))
      else some (free, done (replayed t x))

/-- The requests of a read through a peer aperture whose bytes the step takes itself (`peerRead`). -/
def askPeer (s : State) (p d : Nat) (x : Place) (n : Nat) : State :=
  match x.space with
  | .peer a o => ((peerRound s p d a o n).map (·.2)).getD s
  | _ => s

/-- The requests of a read of a range of a context by a die, part by part (R326, R382). -/
def askRange (s : State) (p d : Nat) (tr : DWord → Xlat) (va : DWord) (n : Nat) : State :=
  (lineParts va n).foldl (fun s e => match placeOf p (tr e.1) with | some x => askPeer s p d x e.2 | none => s) s

/-- No request of a die keeps its requests for a range of a context waiting (R382, R383). -/
def idleRange (s : State) (p d : Nat) (tr : DWord → Xlat) (va : DWord) (n : Nat) : Bool :=
  (lineParts va n).all fun e => match placeOf p (tr e.1) with
    | some x => (match x.space with | .peer a _ => peerIdle s p d a | _ => true)
    | none => true

/-- A read of a group at a peer has to wait: for its own stores to peers, and for the requests of its die to that module (R326, R383). -/
def peerWaits (s : State) (g : Nat) (x : Place) : Bool :=
  match x.space with
  | .peer a _ => peerLeft s (getGroup s g).uid s.nextId || !peerIdle s (groupSpace s g).1 (groupDie g) a
  | _ => false

end Sys2Proof.Machine
end

