-- ==== Sys2Proof/Machine/Lattice.lean ====
section
/-! DEFINITION. The lattice: windows and squares, bytes, barrier objects and their advance (R46 to R49, R200 to R203). -/

namespace Sys2Proof.Machine

/-! ## The window (R15, R47) -/

/-- The core and the lattice byte of a window address of a block: member [21:20], slot [19:13], byte [12:0] (R47). -/
def latPlace (b : Block) (a : Nat) : Option (Nat × Nat) :=
  match b.cores[a / 2 ^ 20 % 4]?, (b.sqrs.getD (a / 2 ^ 20 % 4) [])[a / 2 ^ 13 % 128]? with
  | some c, some q => some (c, 8192 * q + a % 8192)
  | _, _ => none

/-- `n` bytes from an address lie inside one member's window. -/
def inWindow (b : Block) (a n : Nat) : Bool :=
  a + n ≤ 2 ^ 22 && (a / 2 ^ 20 = (a + n - 1) / 2 ^ 20) && (latPlace b a).isSome && (latPlace b (a + n - 1)).isSome

/-- One byte of a block's window: in its core's squares, or with what is kept of a block that is saved (R295). -/
def latByte (s : State) (b : Block) (a : Nat) : Byte :=
  match latPlace b a with
  | some (c, k) => mapGet 0 (getCore s c).lat k
  | none => (b.savedSqrs.getD (a / 2 ^ 20 % 4) []).getD (a % 2 ^ 20) 0

/-- `n` bytes of a block's window. -/
def latBytes (s : State) (b : Block) (a : Nat) : Nat → List Byte
  | 0 => []
  | n + 1 => latByte s b a :: latBytes s b (a + 1) n

/-- A little-endian number of `n` bytes of a block's window. -/
def latNat (s : State) (b : Block) (a n : Nat) : Nat := leNat (latBytes s b a n)

/-- Bytes written into a block's window. -/
def latPut (s : State) (b : Block) (a : Nat) : List Byte → State
  | [] => s
  | x :: r =>
    match latPlace b a with
    | some (c, k) => latPut (modCore s c fun m => { m with lat := mapSet m.lat k x }) b (a + 1) r
    | none => latPut s b (a + 1) r

/-- A physical square with every byte zero (R40, R235). -/
def clearSquare (s : State) (c q : Nat) : State :=
  modCore s c fun m => { m with lat := m.lat.filter fun e => e.1 / 8192 ≠ q }

/-- The lattice sources of some elements that are still to be read are read now. -/
def readNow (s : State) (hit : Elem → Bool) : State :=
  let due (e : Elem) : Bool := hit e && !e.toLat && !e.done && !e.stopped && e.early.isEmpty
  if s.elems.any fun e => due e.2 then
    { s with elems := s.elems.map fun e =>
        if due e.2 then
          (e.1, { e.2 with early := (latBytes s (getBlock s e.2.block) e.2.lat e.2.len).zipIdx.map fun b => (b.2, b.1) })
        else e }
  else s

/-- Before a lattice access of a group, the engine has read the lattice sources of the CPYs before it in program order: of all that
the group has issued, or, before the landing of one of them, of those before that one (R23, R197, R268). -/
def readSources (s : State) (uid before : Nat) : State := readNow s fun e => e.uid = uid && e.cpy < before

/-! ## Squares of a core (R46, R48) -/

/-- The squares of a core that some block holds. -/
def squaresInUse (s : State) (c : Nat) : List Nat :=
  s.blocks.flatMap fun e =>
    (List.range e.2.cores.length).flatMap fun m => if e.2.cores[m]? = some c then e.2.sqrs.getD m [] else []

/-- The lowest free square in a bank (R48). -/
def freeInBank (used : List Nat) (k : Nat) : Option Nat :=
  ((List.range 4).map (32 * · + k)).find? fun q => !used.contains q

/-- The square for the next window slot: the bank of slot 0 plus the slot number, or the next bank upward that has a free
square; slot 0 takes the lowest free square (R48). -/
def nextSquare (used mine : List Nat) : Option Nat :=
  match mine with
  | [] => (List.range 128).find? fun q => !used.contains q
  | q0 :: _ => ((List.range 32).map fun i => (q0 % 32 + mine.length + i) % 32).findSome? (freeInBank used)

/-- `n` more squares for a member of a block, cleared (R48, R235). -/
def addSquares (s : State) (b m : Nat) : Nat → State
  | 0 => s
  | n + 1 =>
    let x := getBlock s b
    let c := x.cores.getD m 0
    let mine := x.sqrs.getD m []
    match nextSquare (squaresInUse s c) mine with
    | none => s
    | some q => addSquares (setBlock (clearSquare s c q) b { x with sqrs := x.sqrs.set m (mine ++ [q]) }) b m n

/-! ## Barrier objects (R200 to R203) -/

/-- A barrier object's phase, bytes expected, arrivals per phase and arrivals still expected (R200). -/
structure BarObj where
  ph : Word
  byt : Word
  exp : Word
  arv : Word
  deriving DecidableEq, Repr

/-- The object at a window address. -/
def barRead (s : State) (b : Block) (a : Nat) : BarObj :=
  { arv := BitVec.ofNat 32 (latNat s b a 4), exp := BitVec.ofNat 32 (latNat s b (a + 4) 4)
    byt := BitVec.ofNat 32 (latNat s b (a + 8) 4), ph := BitVec.ofNat 32 (latNat s b (a + 12) 4) }

/-- The 16 bytes of an object (R200). -/
def barBytes (x : BarObj) : List Byte :=
  leBytes 4 x.arv.toNat ++ leBytes 4 x.exp.toNat ++ leBytes 4 x.byt.toNat ++ leBytes 4 x.ph.toNat

/-- An object written at a window address. -/
def barWrite (s : State) (b : Block) (a : Nat) (x : BarObj) : State := latPut s b a (barBytes x)

/-- Bytes written into the squares of a block that is saved. -/
def savedPut (b : Block) (a : Nat) (x : List Byte) : Block :=
  { b with savedSqrs := b.savedSqrs.modify (a / 2 ^ 20 % 4) fun l =>
      x.zipIdx.foldl (fun l e => l.set (a % 2 ^ 20 + e.2) e.1) l }

/-- An object of a block written where the block is: in its window, or with what is kept of it while it is saved (R161). -/
def barPut (s : State) (b a : Nat) (x : BarObj) : State :=
  if (latPlace (getBlock s b) a).isSome then barWrite s (getBlock s b) a x
  else modBlock s b fun y => savedPut y a (barBytes x)

/-- An object address is a multiple of 16 inside the window. -/
def barOk (b : Block) (a : Nat) : Bool := a % 16 = 0 && inWindow b a 16

/-- A group that sleeps on a phase of an object that is now reached is ready and resumes (R132). -/
def wakeOn (a : Nat) (ph : Word) (x : Group) : Group :=
  match x.status with
  | .asleep .bar o p resume _ => if o = a && reached32 ph p then { x with status := .ready, pc := resume } else x
  | _ => x

/-- The groups of a block that sleep on a phase of an object that is now reached wake, the saved ones as well (R132, R134,
R202). -/
def wakeBar (s : State) (b a : Nat) : State :=
  let ph := (barRead s (getBlock s b) a).ph
  let s := (getBlock s b).groups.foldl (fun s g => modGroup s g (wakeOn a ph)) s
  modBlock s b fun y => { y with saved := y.saved.map fun e => (e.1, wakeOn a ph e.2) }

/-- The test for advance after an update: with no arrivals and no bytes expected, the phase rises by one, the arrivals
start anew and the waiters wake (R202). -/
def barTest (s : State) (b a : Nat) (x : BarObj) : State :=
  if x.arv = 0 && x.byt = 0 then wakeBar (barPut s b a { x with ph := x.ph + 1, arv := x.exp }) b a else barPut s b a x

/-- Bytes landed on an object, also while its block is saved (R161, R197, R202). -/
def barLand (s : State) (b a n : Nat) : State :=
  let y := getBlock s b
  if y.here || y.status = .saved then
    let x := barRead s y a
    barTest s b a { x with byt := x.byt - BitVec.ofNat 32 n }
  else s

end Sys2Proof.Machine
end

