-- ==== Sys2Proof/Machine/Stacks.lean ====
section
/-! DEFINITION. The divergence and call-return stacks of a group, on chip and spilled (R60, R61, R123, R126). On-chip
entries stand newest first. -/

namespace Sys2Proof.Machine

/-- What keeps a push or a pop from reaching the stack area: it would pass the end, its page is absent, or the page may
not be written (R61, R126, R334). `call` names the call-return stack. A pop that reads at a peer may have to wait (R326). -/
inductive StackFault where
  | overflow (call : Bool)
  | absent (call : Bool) (level : Nat) (addr entry : DWord)
  | prot (call : Bool) (why : Nat) (addr entry : DWord)
  | wait
  deriving DecidableEq, Repr

/-- The bytes of the group's stack area (R61). -/
def stackSize (s : State) (g : Nat) : Nat := (groupGrid s g).hdr.stk

/-- The divergence depth and the call-return depth, with spilled entries (R60, R61). -/
def depthD (x : Group) : Nat := x.divSpill + x.div.length
def depthC (x : Group) : Nat := x.callSpill + x.call.length

/-- The 32 bytes of a divergence entry (R61). -/
def divBytes (e : DivEntry) : List Byte := leBytes 8 e.pc.toNat ++ leBytes 16 e.mask.toNat ++ leBytes 8 e.reconv.toNat
/-- The 16 bytes of a call-return entry (R61). -/
def callBytes (e : CallEntry) : List Byte := leBytes 8 e.ret.toNat ++ leBytes 8 e.depth.toNat
/-- A divergence entry from bytes; lanes that have exited since are in no mask (R62). -/
def divOf (exited : LaneMask) (b : List Byte) : DivEntry :=
  { pc := BitVec.ofNat 64 (leNat (b.take 8)), mask := BitVec.ofNat 128 (leNat ((b.drop 8).take 16)) &&& ~~~exited,
    reconv := BitVec.ofNat 64 (leNat ((b.drop 24).take 8)) }
/-- A call-return entry from bytes. -/
def callOf (b : List Byte) : CallEntry :=
  { ret := BitVec.ofNat 64 (leNat (b.take 8)), depth := BitVec.ofNat 64 (leNat ((b.drop 8).take 8)) }

/-- The address of the `i`-th oldest spilled entry: divergence entries from the low end upward, call-return entries from
the high end downward (R61). -/
def divAddr (x : Group) (i : Nat) : DWord := x.stk + BitVec.ofNat 64 (32 * i)
def callAddr (s : State) (g : Nat) (i : Nat) : DWord :=
  (getGroup s g).stk + BitVec.ofNat 64 (stackSize s g) - BitVec.ofNat 64 (16 * (i + 1))

/-- What keeps an access from reaching one address of the stack area. An address that is not canonical counts as out of range: DESIGN
CHOICE, as R334 gives 0x15 no detail for it (log entry 99). -/
def areaFaultAt (s : State) (g : Nat) (call write : Bool) (va : DWord) : Option StackFault :=
  let sp := groupSpace s g
  match xlat s sp.1 sp.2 va with
  | .absent l e => some (.absent call l va e)
  | .nonCanonical => some (.prot call 1 va 0)
  | .bad e => some (.prot call 1 va e)
  | .ok _ e _ =>
    if write && pteRO e then some (.prot call 0 va e)
    else if pteDEV e then some (.prot call 2 va e)
    else if !write && (match placeOf sp.1 (xlat s sp.1 sp.2 va) with | some x => peerWaits s g x | none => false) then some .wait
    else none

/-- The fault of reaching some entries of `n` bytes of the stack area, which may lie across lines and pages (R277): code 0x15, of class
I, comes before the restartable 0x12 (R334, R335), and a wait after both. -/
def areaFault (s : State) (g : Nat) (call write : Bool) (n : Nat) (vas : List DWord) : Option StackFault :=
  let fs := (vas.flatMap fun va => lineParts va n).filterMap fun p => areaFaultAt s g call write p.1
  let rank (e : StackFault) : Nat := match e with | .wait => 2 | .absent _ _ _ _ => 1 | _ => 0
  (fs.find? fun e => rank e = 0).or ((fs.find? fun e => rank e = 1).or fs.head?)

/-- Bytes of the stack area read as the group's own loads. -/
def stackRead (s : State) (g : Nat) (va : DWord) (n : Nat) : List Byte :=
  let sp := groupSpace s g
  (lineParts va n).flatMap fun e => match placeOf sp.1 (xlat s sp.1 sp.2 e.1) with
    | none => []
    | some p =>
      match p.space with
      | .hbm k => if p.dark then (darkLoad s (groupDie g) k e.2).1 else (cohLoad s g 0 k e.2).1
      | _ => placeBytes s sp.1 p e.2

/-- The requests of a read of some entries of `n` bytes, for the parts that lie at a peer (R326, R382). -/
def askStack (s : State) (g n : Nat) (vas : List DWord) : State :=
  let sp := groupSpace s g
  vas.foldl (fun s va => askRange s sp.1 (groupDie g) (xlat s sp.1 sp.2) va n) s

/-- The first part of some entries of `n` bytes that the group would read poisoned, and its physical address (R375). -/
def stackPoison (s : State) (g n : Nat) (vas : List DWord) : Option (DWord × Nat) :=
  let sp := groupSpace s g
  (vas.flatMap fun va => lineParts va n).findSome? fun e => match placeOf sp.1 (xlat s sp.1 sp.2 e.1) with
    | none => none
    | some p => if placePoisoned s g p e.2 then some (e.1, match p.key? with | some k => keyPa k | none => 0) else none

/-- Bytes of one entry written to the stack area as the group's own stores, through the translations that were tested in `s0`. -/
def stackWrite (s0 s : State) (g : Nat) (va : DWord) (b : List Byte) : State :=
  let sp := groupSpace s0 g
  (lineParts va b.length).foldl (fun s e =>
    match placeOf sp.1 (xlat s0 sp.1 sp.2 e.1) with
    | none => s
    | some p => storePlace s (.group g) sp.1 e.1 p ((b.drop (e.1 - va).toNat).take e.2)) s

/-- The eight oldest on-chip divergence entries written to the area (R61). -/
def spillDiv (s : State) (g : Nat) : State :=
  let x := getGroup s g
  let old := (x.div.reverse.take 8).zipIdx
  let s := old.foldl (fun t e => stackWrite s t g (divAddr x (x.divSpill + e.2)) (divBytes e.1)) s
  modGroup s g fun y => { y with div := y.div.take (y.div.length - 8), divSpill := y.divSpill + 8 }

/-- The eight oldest on-chip call-return entries written to the area (R61). -/
def spillCall (s : State) (g : Nat) : State :=
  let x := getGroup s g
  let old := (x.call.reverse.take 8).zipIdx
  let s := old.foldl (fun t e => stackWrite s t g (callAddr s g (x.callSpill + e.2)) (callBytes e.1)) s
  modGroup s g fun y => { y with call := y.call.take (y.call.length - 8), callSpill := y.callSpill + 8 }

/-- A divergence entry pushed; a full on-chip stack of 32 spills its eight oldest entries first (R60, R61, R126). -/
def pushDiv (s : State) (g : Nat) (e : DivEntry) : Except StackFault State :=
  let x := getGroup s g
  let put (s : State) : State := modGroup s g fun y => { y with div := e :: y.div }
  if x.div.length < 32 then .ok (put s)
  else if stackSize s g < 32 * (x.divSpill + 8) + 16 * x.callSpill then .error (.overflow false)
  else
    match areaFault s g false true 32 ((List.range 8).map fun i => divAddr x (x.divSpill + i)) with
    | some f => .error f
    | none => .ok (put (spillDiv s g))

/-- A call-return entry pushed; a full on-chip stack of 16 spills its eight oldest entries first (R60, R61, R126). -/
def pushCall (s : State) (g : Nat) (e : CallEntry) : Except StackFault State :=
  let x := getGroup s g
  let put (s : State) : State := modGroup s g fun y => { y with call := e :: y.call }
  if x.call.length < 16 then .ok (put s)
  else if stackSize s g < 32 * x.divSpill + 16 * (x.callSpill + 8) then .error (.overflow true)
  else
    match areaFault s g true true 16 ((List.range 8).map fun i => callAddr s g (x.callSpill + i)) with
    | some f => .error f
    | none => .ok (put (spillCall s g))

/-- The eight most recent spilled divergence entries read back once the on-chip stack is empty (R61). The block of a group that would
read poison is lost (R375). -/
def refillDiv (s : State) (g : Nat) : State :=
  let x := getGroup s g
  if x.div.isEmpty && 8 ≤ x.divSpill then
    let at_ := (List.range 8).map fun i => divAddr x (x.divSpill - 1 - i)
    match stackPoison s g 32 at_ with
    | some e => loseLater s [x.uid] e.1 e.2
    | none => setGroup (askStack s g 32 at_) g { x with div := at_.map fun va => divOf x.exited (stackRead s g va 32), divSpill := x.divSpill - 8 }
  else s

/-- The eight most recent spilled call-return entries read back once the on-chip stack is empty (R61, R375). -/
def refillCall (s : State) (g : Nat) : State :=
  let x := getGroup s g
  if x.call.isEmpty && 8 ≤ x.callSpill then
    let at_ := (List.range 8).map fun i => callAddr s g (x.callSpill - 1 - i)
    match stackPoison s g 16 at_ with
    | some e => loseLater s [x.uid] e.1 e.2
    | none => setGroup (askStack s g 16 at_) g { x with call := at_.map fun va => callOf (stackRead s g va 16), callSpill := x.callSpill - 8 }
  else s

/-- The newest divergence entry popped (R60, R61). -/
def popDiv (s : State) (g : Nat) : State := refillDiv (modGroup s g fun x => { x with div := x.div.tail }) g
/-- The newest call-return entry popped (R60, R61). -/
def popCall (s : State) (g : Nat) : State := refillCall (modGroup s g fun x => { x with call := x.call.tail }) g

/-- What keeps the entries that a pop brings back from being read (R61; log entry 24). -/
def popDivFault (s : State) (g : Nat) : Option StackFault :=
  let x := getGroup s g
  if x.div.length ≤ 1 && 8 ≤ x.divSpill then
    areaFault s g false false 32 ((List.range 8).map fun i => divAddr x (x.divSpill - 1 - i))
  else none
def popCallFault (s : State) (g : Nat) : Option StackFault :=
  let x := getGroup s g
  if x.call.length ≤ 1 && 8 ≤ x.callSpill then
    areaFault s g true false 16 ((List.range 8).map fun i => callAddr s g (x.callSpill - 1 - i))
  else none

/-- The call-return entries whose recorded depth is not below a divergence depth are discarded (R129). -/
def discardCalls (s : State) (g : Nat) (depth : Nat) : Nat → State
  | 0 => s
  | fuel + 1 =>
    match (getGroup s g).call with
    | [] => s
    | c :: _ => if depth ≤ c.depth.toNat then discardCalls (popCall s g) g depth fuel else s

/-- What keeps an entry that the discarding of call-return entries brings back from being read. -/
def discardFault (s : State) (g : Nat) (depth : Nat) : Nat → Option StackFault
  | 0 => none
  | fuel + 1 =>
    match (getGroup s g).call with
    | [] => none
    | c :: _ =>
      if depth ≤ c.depth.toNat then (popCallFault s g).or (discardFault (popCall s g) g depth fuel) else none

/-- What keeps a spilled entry that the loop of R129 reads from being read (R61; log entry 24). -/
def resumeFault (s : State) (g : Nat) : Nat → Option StackFault
  | 0 => none
  | fuel + 1 =>
    match (getGroup s g).div with
    | [] => none
    | e :: _ =>
      if e.mask = 0 then (popDivFault s g).or (resumeFault (popDiv s g) g fuel)
      else
        (discardFault s g (depthD (getGroup s g)) (depthC (getGroup s g))).or
          (if e.pc.getLsbD 0 then popDivFault s g else none)

/-- The loop of R129 once no lane of `xm` is left: entries with no lane are dropped, and the group resumes from the newest
other one; a rejoin entry stays for its JOIN. -/
def resumeStacks (s : State) (g : Nat) : Nat → State
  | 0 => s
  | fuel + 1 =>
    match (getGroup s g).div with
    | [] => s
    | e :: _ =>
      if e.mask = 0 then resumeStacks (popDiv s g) g fuel
      else
        let s := discardCalls s g (depthD (getGroup s g)) (depthC (getGroup s g))
        let s := if e.pc.getLsbD 0 then popDiv s g else s
        modGroup s g fun x => { x with xm := e.mask, pc := e.pc &&& ~~~(1 : DWord) }

end Sys2Proof.Machine
end

