-- ==== Sys2Proof/Machine/Proofer.lean ====
section
/-! DEFINITION. Grants and what ends with a group: the Proofer's test, grants and its deferred queue (R235, R284, R285,
R288, R289, R298), engine tokens and leases (R226, R227, R357, R358), the irrevocable token (R182), quiescence (R38,
R243), and the end of groups and blocks (R30, R62, R129, R354, R402). -/

namespace Sys2Proof.Machine

/-! ## Amounts -/

def Amt.add (a b : Amt) : Amt := { reg := a.reg + b.reg, sqr := a.sqr + b.sqr, mxe := a.mxe + b.mxe, cpc := a.cpc + b.cpc }
def Amt.sub (a b : Amt) : Amt := { reg := a.reg - b.reg, sqr := a.sqr - b.sqr, mxe := a.mxe - b.mxe, cpc := a.cpc - b.cpc }
def Amt.le (a b : Amt) : Bool := a.reg ≤ b.reg && a.sqr ≤ b.sqr && a.mxe ≤ b.mxe && a.cpc ≤ b.cpc

/-- The amounts of a request word (R234). -/
def wordAmt (w : DWord) : Amt :=
  { reg := w.toNat % 256, sqr := w.toNat / 256 % 256, mxe := w.toNat / 65536 % 2, cpc := w.toNat / 131072 % 8 }
/-- The request word of amounts (R234, R237). -/
def amtWord (a : Amt) : Nat := a.reg % 256 + 256 * (a.sqr % 256) + 65536 * (a.mxe % 2) + 131072 * (a.cpc % 8)

/-! ## The test (R288) -/

/-- Avail: the pool's totals less what its claimants hold. -/
def Pool.avail (p : Pool) : Amt := p.claimants.foldl (fun a c => a.sub c.hold) p.total

/-- Prior: the claimants of the pool from the same launch with a lower block index, when wait order is in effect (R288);
indices into the list of claimants. -/
def prior (cs : List Claimant) (c : Claimant) : List Nat :=
  if c.order then
    (List.range cs.length).filter fun j =>
      match cs[j]? with
      | some d => d.block.isSome && d.grid = c.grid && d.bid < c.bid
      | none => false
  else []

/-- The claimants after a request has been added to the one at index `r`. -/
def withRequest (cs : List Claimant) (r : Nat) (q : Amt) : List Claimant :=
  cs.modify r fun c => { c with hold := c.hold.add q }

/-- The full sweep of R288: every claimant whose need is covered and whose Prior is done is added to those done. -/
def sweep (cs : List Claimant) (a : Amt) (done : List Nat) : Nat → Bool
  | 0 => (List.range cs.length).all done.contains
  | fuel + 1 =>
    let f := (List.range cs.length).filter fun j =>
      match cs[j]? with
      | some c => !done.contains j && (c.max.sub c.hold).le a && (prior cs c).all done.contains
      | none => false
    if f.isEmpty then (List.range cs.length).all done.contains
    else sweep cs (f.foldl (fun a j => match cs[j]? with | some c => a.add c.hold | none => a) a) (done ++ f) fuel

/-- The Proofer's test of a request of the claimant at index `r` (R288). -/
def proofTest (p : Pool) (r : Nat) (q : Amt) : Bool :=
  q.le p.avail &&
    (let cs := withRequest p.claimants r q
     let a := p.avail.sub q
     (match cs[r]? with
      | some c => ((c.max.sub c.hold).le a && (prior cs c).isEmpty) || sweep cs a [] (cs.length + 1)
      | none => false))

/-! ## Pools of a core (R284, R285) -/

/-- The launch that owns the pool of a grid: the first grid of its joint launch, or none for the common pool. -/
def poolOwner (s : State) (i : Nat) : Option Nat :=
  let g := getGrid s i
  if g.lrec.preg = 0 && g.lrec.psqr = 0 && g.lrec.pmxe = 0 && g.lrec.pcpc = 0 then none else some (g.joint.headD i)

/-- The pool of a core with an owner. -/
def getPool (s : State) (c : Nat) (o : Option Nat) : Option Pool := (getCore s c).pools.find? fun p => p.owner = o
/-- The pool of a core with an owner changed. -/
def modPool (s : State) (c : Nat) (o : Option Nat) (f : Pool → Pool) : State :=
  modCore s c fun k => { k with pools := modWhere k.pools (fun p => p.owner = o) f }
/-- The index of a block among the claimants of a pool. -/
def claimantIx (p : Pool) (b : Nat) : Option Nat := p.claimants.findIdx? fun c => c.block = some b

/-- The pool that a block uses on its core. -/
def blockPool (s : State) (b c : Nat) : Option Pool := getPool s c (poolOwner s (getBlock s b).grid)
/-- What a block holds and may hold on a core. -/
def blockClaim (s : State) (b c : Nat) : Claimant :=
  match blockPool s b c with
  | some p => (p.claimants.find? fun x => x.block = some b).getD {}
  | none => {}
/-- A block's holding on a core changed. -/
def modHold (s : State) (b c : Nat) (f : Amt → Amt) : State :=
  modPool s c (poolOwner s (getBlock s b).grid) fun p =>
    { p with claimants := modWhere p.claimants (fun x => x.block = some b) fun x => { x with hold := f x.hold } }

/-- The copy channels of a block on a core, in grant order; a channel is kept as 4 × core + number (R198). -/
def blockChans (b : Block) (c : Nat) : List Nat := b.chans.filter fun k => k / 4 = c
/-- The lowest channels of a core that no block holds. -/
def freeChans (s : State) (c : Nat) : List Nat :=
  ((List.range 4).map (4 * c + ·)).filter fun k => !(s.blocks.any fun e => e.2.chans.contains k)

/-- A claim granted to a group (R235): its range rises and the new registers read zero, window slots are appended and
cleared, the block gains the engine grant and channels, and the group's grant counter advances. -/
def applyGrant (s : State) (g : Nat) (q : Amt) : State :=
  let x := getGroup s g
  let c := slotCore g
  let s := modHold s x.block c (·.add q)
  let s := addSquares s x.block x.member q.sqr
  let s := modBlock s x.block fun k =>
    { k with
      mxe := if q.mxe = 0 then k.mxe else k.mxe.set x.member true
      chans := k.chans ++ (freeChans s c).take q.cpc }
  let s := modGroup s g fun y =>
    { y with range := y.range + 8 * q.reg, v := y.v.filter fun e => e.1 < x.range, deferred := none }
  bump s g .grant

/-- The head part of a pool's deferred queue is tested; what passes is granted and removed, the rest keeps its place
(R289, R355). -/
def walkQueue (s : State) (c : Nat) (o : Option Nat) : List Deferred → State
  | [] => s
  | d :: r =>
    let p := (getPool s c o).getD {}
    let keep := walkQueue s c o r
    let drop (s : State) : State := modPool s c o fun p => { p with queue := p.queue.erase d }
    match d with
    | .claim uid w =>
      match slotOfUid s uid with
      | none => keep
      | some g =>
        match claimantIx p (getGroup s g).block with
        | none => keep
        | some i =>
          if proofTest p i (wordAmt w) then walkQueue (applyGrant (drop s) g (wordAmt w)) c o r else keep
    | .restore b =>
      match claimantIx p b with
      | none => keep
      | some i =>
        let k := (getBlock s b).cores.findIdx (· = c)
        let q := (getBlock s b).savedHold.getD k {}
        if proofTest p i q then walkQueue (modHold (drop s) b c fun _ => q) c o r else keep

/-- After a release the Proofer walks the deferred queue of a pool from head to tail (R289). -/
def walkPool (s : State) (c : Nat) (o : Option Nat) : State :=
  match getPool s c o with
  | some p => walkQueue s c o p.queue
  | none => s

/-- Every pool of a core is walked. -/
def walkCore (s : State) (c : Nat) : State :=
  ((getCore s c).pools.map (·.owner)).foldl (fun s o => walkPool s c o) s

/-! ## Engine tokens (R226, R227, R357, R358) -/

/-- The lease of a launch in counted instructions; 0 means 64 (R227, R277). -/
def leaseOf (r : Grid) : Nat := if r.lrec.lease = 0 then 64 else r.lrec.lease

/-- The member number of a core in a block. -/
def memberOn (b : Block) (c : Nat) : Nat := b.cores.findIdx (· = c)
/-- The accumulator save area of a block's member (R277). -/
def accsv (s : State) (b : Nat) (m : Nat) : DWord :=
  let x := getBlock s b
  let r := getGrid s x.grid
  r.lrec.accb + BitVec.ofNat 64 (r.hdr.accs * (4 * x.bid + m))

/-- The bytes of an accumulator row: 192 cells (R206). -/
def rowBytes (a : AMap Word) (row : Nat) : List Byte :=
  (List.range 192).flatMap fun j => leBytes 4 (mapGet 0 a (192 * row + j)).toNat

/-- Cells of a row from bytes. -/
def rowCells (a : AMap Word) (row : Nat) (bytes : List Byte) : AMap Word :=
  (List.range 192).foldl (fun a j => mapSet a (192 * row + j) (BitVec.ofNat 32 (leNat ((bytes.drop (4 * j)).take 4)))) a

/-- The rows of a window. -/
def windowRows (w : Option (Nat × Nat)) : List Nat :=
  match w with
  | some (lo, hi) => (List.range (hi + 1 - lo)).map (lo + ·)
  | none => []

/-- The save area of a block's member as far as the rows of its window go, by parts of one line (R277, R358). -/
def saveArea (s : State) (b m : Nat) : List (DWord × Nat) :=
  lineParts (accsv s b m) (768 * (windowRows ((getBlock s b).win.getD m none)).length)

/-- The first address of a block's save area that cannot be written or read (R358). -/
def saveFault (s : State) (b m : Nat) (write : Bool) : Option DWord :=
  let r := getGrid s (getBlock s b).grid
  ((saveArea s b m).find? fun e => match placeOf r.part (tableXlat s r.part r.ctx e.1) with
    | some p => write && pteRO p.entry
    | none => true).map (·.1)

/-- A block's window rows written to its save area, row by row (R227, R228). -/
def spillRows (s : State) (b c : Nat) : State :=
  let x := getBlock s b
  let m := memberOn x c
  let r := getGrid s x.grid
  (windowRows (x.win.getD m none)).foldl (fun s row =>
    let lo := ((x.win.getD m none).map (·.1)).getD 0
    (ctxWrite s r.part r.ctx (.die (coreDie c)) (accsv s b m + BitVec.ofNat 64 (768 * (row - lo))) (rowBytes (getCore s c).acc row)).getD s) s

/-- The first address of a block's save area that would be read poisoned, with its physical address (R358, R362, R375). -/
def savePoison (s : State) (b m : Nat) : Option (DWord × Nat) :=
  let r := getGrid s (getBlock s b).grid
  (saveArea s b m).findSome? fun e => match placeOf r.part (tableXlat s r.part r.ctx e.1) with
    | none => none
    | some p =>
      match p.space with
      | .hbm k => ((List.range e.2).find? fun i => poisoned s (k + i) 1).map fun i => (e.1 + BitVec.ofNat 64 i, keyPa (k + i))
      | _ => none

/-- A block's window rows read back from its save area; every other row is zero (R226). -/
def restoreRows (s : State) (b c : Nat) : State :=
  let x := getBlock s b
  let m := memberOn x c
  let r := getGrid s x.grid
  let lo := ((x.win.getD m none).map (·.1)).getD 0
  let acc := (windowRows (x.win.getD m none)).foldl (fun a row =>
    rowCells a row ((ctxBytes s r.part r.ctx (accsv s b m + BitVec.ofNat 64 (768 * (row - lo))) 768).getD [])) []
  let s := askRange s r.part (coreDie c) (tableXlat s r.part r.ctx) (accsv s b m) (768 * (windowRows (x.win.getD m none)).length)
  modCore s c fun k => { k with acc }

/-- A group that sleeps in a matrix instruction of its spilled block is ready again (R227). -/
def wakeSpilled (s : State) (b c : Nat) : State :=
  (getBlock s b).groups.foldl (fun s g =>
    if slotCore g = c then modGroup s g fun x => if x.status = .spilled then { x with status := .ready } else x else s) s

/-- The token given to a block (R226): its rows are restored or all rows are zero, a new lease begins, and the token
counter of every group of the block on the core advances. -/
def giveToken (s : State) (b c : Nat) : State :=
  let x := getBlock s b
  let m := memberOn x c
  let s := if x.spilled.getD m false then restoreRows s b c else modCore s c fun k => { k with acc := [] }
  let s := modBlock s b fun k => { k with spilled := k.spilled.set m false }
  let s := modCore s c fun k =>
    { k with token := some b, tokenQ := k.tokenQ.filter (· ≠ b), lease := leaseOf (getGrid s x.grid) }
  let s := wakeSpilled s b c
  x.groups.foldl (fun s g => if slotCore g = c then bump s g .token else s) s

/-- The trap of a uniform access to a save-area address, at the instruction itself (R344, R358). -/
def saveTrap (s : State) (g : Nat) (va : DWord) (write : Bool) : PendTrap :=
  let x := getGroup s g
  let sp := groupSpace s g
  let l := lu x
  let rec1 (code detail : Nat) (e : DWord) : Rec :=
    { pc := x.pc, code, lane := l, flags := if write then 7 else 3, detail := BitVec.ofNat 32 detail, addr := va,
      entry := e, mask := maskOf [l], gtc := BitVec.ofNat 64 (dieGtc s (groupDie g)),
      word := match fetchWord s sp.1 sp.2 x.pc with | .ok w => w | .error _ => 0 }
  let mk (cls : TrapClass) (r : Rec) : PendTrap :=
    { cls, code := r.code, sw := 0, recs := [r], epc := x.pc, uniform := true, elems := [] }
  match tableXlat s sp.1 sp.2 va with
  | .absent lv e => mk .P (rec1 0x10 lv e)
  | .nonCanonical => mk .L (rec1 0x19 0 0)
  | .bad e => mk .L (rec1 0x19 1 e)
  | .ok _ e _ => mk .L (rec1 0x1A 0 e)

/-- The token passes to the head of the queue (R226): to its first block that is not saved (log entry 29). A head whose rows
cannot be read back keeps them spilled, its sleeping groups take the fault, and the token goes on (R358). One whose rows are poisoned
keeps them spilled and is lost, as by a read of its own: DESIGN CHOICE, as R358 speaks of areas that do not translate and R375 of
reads by a group (log entry 83). -/
def passToken (s : State) (c : Nat) : Nat → State
  | 0 => s
  | fuel + 1 =>
    let k := getCore s c
    if k.token.isSome then s
    else
      match k.tokenQ.find? fun b => (getBlock s b).status ≠ .saved with
      | none => s
      | some b =>
        let x := getBlock s b
        let m := memberOn x c
        let r := getGrid s x.grid
        let n := (getCtx s r.part r.ctx).tlbi
        match (if x.spilled.getD m false then saveFault s b m false else none) with
        | none =>
          (match (if x.spilled.getD m false then savePoison s b m else none) with
          | none => giveToken s b c
          | some e =>
            passToken { modCore s c fun k => { k with tokenQ := k.tokenQ.filter (· ≠ b) } with
              losses := s.losses ++ [(b, m, e.1, e.2)] } c fuel)
        | some va =>
          let s := modCore s c fun k => { k with tokenQ := k.tokenQ.filter (· ≠ b) }
          let s := x.groups.foldl (fun s g =>
            if slotCore g = c && (getGroup s g).status = .spilled then
              modGroup s g fun y => { y with status := .ready, tlbiSeen := n, pend := y.pend ++ [saveTrap s g va false] }
            else s) s
          passToken s c fuel

/-- A spill that cannot write its save area is abandoned: the token stays under a new lease, and the holder's next counted instruction
takes the fault (R358). -/
def abandonSpill (s : State) (b c : Nat) (va : DWord) : State :=
  modBlock (modCore s c fun k => { k with lease := leaseOf (getGrid s (getBlock s b).grid) }) b fun y =>
    { y with spillFault := y.spillFault.filter (·.1 ≠ c) ++ [(c, va)] }

/-- The token of a saved block passes on: its window rows are written to its save area, and it stands at the tail of the token
queue with its rows spilled (R227, R228). -/
def saveToken (s : State) (b c : Nat) : State :=
  if (getCore s c).token = some b then
    let m := memberOn (getBlock s b) c
    let s := modBlock (spillRows s b c) b fun x => { x with spilled := x.spilled.set m true }
    passToken (modCore s c fun k => { k with token := none, acc := [], lease := 0, tokenQ := k.tokenQ ++ [b] }) c 32
  else s

/-- MXTR's effect: the block's matrix instructions have retired, the token is free and passes on (R226). -/
def freeToken (s : State) (b c : Nat) : State :=
  if (getCore s c).token = some b then
    passToken (modCore s c fun k => { k with token := none, acc := [], lease := 0 }) c 17
  else s

/-! ## The irrevocable token (R182, R369) -/

/-- The token of a partition is free again; it is reserved for the head of the queue from now on. -/
def passIrr (s : State) (p : Nat) : State :=
  modPart s p fun pt => { pt with tok := none, resv := if pt.tokQ.isEmpty then none else some s.gtc.toNat }

/-- The locks of a lane on some lines are released. -/
def unlock (s : State) (who : Nat × Nat) (lines : List Nat) : State :=
  lines.foldl (fun s l => if (getHome s l).lock = some who then setHome s l { getHome s l with lock := none } else s) s

/-- A lane's token and locks are released: its writes stand in no image yet, so none is applied (R182). -/
def dropIrr (s : State) (p : Nat) (uid lane : Nat) (lines : List Nat) : State :=
  let s := unlock s (uid, lane) lines
  if (getPart s p).tok = some (uid, lane) then passIrr s p else s

/-- A lane leaves the token queue; a reservation that was held for it goes to the new head (R182). -/
def leaveIrr (s : State) (p : Nat) (uid lane : Nat) : State :=
  let pt := getPart s p
  if pt.tokQ.contains (uid, lane) then
    let q := pt.tokQ.filter (· ≠ (uid, lane))
    let resv := if pt.tok.isSome || q.isEmpty then none else if pt.tokQ.head? = some (uid, lane) then some s.gtc.toNat else pt.resv
    modPart s p fun pt => { pt with tokQ := q, resv }
  else s

/-- Every queued lane of some groups leaves the token queue (R369). -/
def leaveIrrs (s : State) (p : Nat) (uids : List Nat) : State :=
  ((getPart s p).tokQ.filter fun e => uids.contains e.1).foldl (fun s e => leaveIrr s p e.1 e.2) s

/-- Lanes of a group are gone: open transactions are discarded, and the token, locks and queue places go with them. -/
def dropLanes (s : State) (g : Nat) (m : LaneMask) : State :=
  let x := getGroup s g
  let p := (groupSpace s g).1
  (lanes m).foldl (fun s i =>
    let t := mapGet {} x.txn i
    let s := if t.isOpen && t.irr && t.doomed = none then dropIrr s p x.uid i t.lines else s
    leaveIrr (modGroup s g fun y => { y with txn := mapDel y.txn i }) p x.uid i) s

/-! ## Quiescence (R38, R243) -/

/-- The cores that run a group of a launch. -/
def gridCores (s : State) (i : Nat) : List Nat :=
  ((getGrid s i).live.flatMap fun b => (getBlock s b).cores).eraseDups

/-- Where the compaction unit keeps the list of a launch on a core: DESIGN CHOICE, as R243 speaks of a core's list and R38 of the lists
of a launch, which are here one for each of both (log entry 87). -/
def listKey (i c : Nat) : Nat := 1024 * i + c

/-- The lists of a launch that is over go, and its appends in flight reach none (log entry 87). -/
def dropLists (s : State) (i : Nat) : State :=
  modPart s (getGrid s i).part fun p =>
    { p with lists := p.lists.filter fun e => e.1 / 1024 ≠ i, flying := p.flying.filter fun e => e.1 ≠ i }

/-- Items of a launch that has lost a block, in the list of a core that runs no group of it any more, are discarded and logged
(R361). -/
def discardItems (s : State) (i c : Nat) : State :=
  let r := getGrid s i
  let n := (mapGet [] (getPart s r.part).lists (listKey i c)).length
  if n = 0 || !r.lost || (gridCores s i).contains c then s
  else
    let s := modPart s r.part fun p => { p with lists := mapDel p.lists (listKey i c) }
    logEvent s r.part 6 (coreDie c) r.ctx (BitVec.ofNat 64 c) (BitVec.ofNat 64 n)

/-- The groups of a block that have not ended: in their slots, saved with the block, or written by CSAVE. -/
def blockMembers (s : State) (b : Nat) : List Group :=
  ((getBlock s b).groups.map (getGroup s)).filter (·.status.live) ++ (getBlock s b).saved.map (·.2)
    ++ (s.csaved.filter fun x => x.1.block = b).map (·.2)

/-- Every group of a block that has not ended changed, wherever it is. -/
def modMembers (s : State) (b : Nat) (f : Group → Group) : State :=
  let s := (getBlock s b).groups.foldl (fun s g => modGroup s g fun x => if x.status.live then f x else x) s
  { modBlock s b fun y => { y with saved := y.saved.map fun e => (e.1, if e.2.status.live then f e.2 else e.2) } with
    csaved := s.csaved.map fun x => (x.1, if x.1.block = b then f x.2 else x.2) }

/-- Every list of the launch is empty, those of cores that its blocks have left as well, every participating group is idle, and no
append is in flight (R38). A launch whose blocks are not all placed still has groups to come. -/
def quiescent (s : State) (i : Nat) : Bool :=
  let r := getGrid s i
  let pt := getPart s r.part
  r.next = r.blocks &&
    (r.used.all fun c => (mapGet [] pt.lists (listKey i c)).isEmpty) &&
    (pt.flying.all fun f => f.1 ≠ i) &&
    (r.live.all fun b => (blockMembers s b).all fun x => x.idle)

/-- A group's queue counter advances, and the group wakes if its phase is reached. -/
def queueBump (x : Group) : Group := wakeGroup (withCounter x .queue (counter x .queue + 1))

/-- The detector signals quiescence once: from then on `sy.term` reads 1, and the queue counters of the idle groups
advance (R243). -/
def testQuiet (s : State) (i : Nat) : State :=
  let r := getGrid s i
  if !r.term && quiescent s i && r.live.any (fun b => (blockMembers s b).any fun x => x.idle) then
    r.live.foldl (fun s b => modMembers s b fun x => if x.idle && x.status.live then queueBump x else x)
      (setGrid s i { r with term := true })
  else s

/-! ## The end of a block and of a group -/

/-- The carved pool of a launch on a core returns when its last block there has ended (R284, R300). -/
def returnCarve (s : State) (c : Nat) (o : Option Nat) : State :=
  match o with
  | none => s
  | some w =>
    match getPool s c o with
    | some p =>
      let grids := (getGrid s w).joint ++ [w]
      let more := grids.any fun i => (getGrid s i).next < (getGrid s i).blocks && (getGrid s i).status ≠ .done
        && ((getGrid s i).pinned || !(getGrid s w).joint.isEmpty)
      if p.claimants.isEmpty && !more then
        let s := modCore s c fun k => { k with pools := k.pools.filter fun p => p.owner ≠ o }
        walkPool (modPool s c none fun p => { p with claimants := p.claimants.filter fun x => x.carve ≠ some w }) c none
      else s
    | none => s

/-- A block's holdings on one member return to its pool, the token and its requests there end, and the Proofer walks
(R226, R289, R357, R402). -/
def returnHoldings (s : State) (b c : Nat) : State :=
  let o := poolOwner s (getBlock s b).grid
  let s := modCore s c fun k => { k with tokenQ := k.tokenQ.filter (· ≠ b), mxq := k.mxq.filter (·.block ≠ b) }
  let s := freeToken s b c
  let s := modPool s c o fun p => { p with claimants := p.claimants.filter fun x => x.block ≠ some b }
  returnCarve (walkPool s c o) c o

/-- A group leaves its contact-sheet phase: the counts stand on chip until they are added into the sheet (R293). -/
def owePhase (s : State) (g : Nat) : State :=
  let x := getGroup s g
  modGroup { s with owed := s.owed ++ [((groupBlock s g).grid, slotCore g, x.mark.toNat, x.phaseIssues)] } g fun x =>
    { x with phaseIssues := 0 }

/-- A block ends: it ceases to be a claimant at once and its slots and grants are free (R30, R402). Copies that have left its cores
go on: what they were to read in its squares has been read, and what lands there is dropped (R360; log entry 23). A launch that has
lost a block keeps no items on cores that it has left (R361). -/
def endBlock (s : State) (b : Nat) (st : BlockStatus) : State :=
  let s := readNow s fun e => e.block = b
  let x := getBlock s b
  let s := leaveIrrs s (getGrid s x.grid).part (x.saved.map (·.2.uid) ++ x.away)
  let s := x.groups.foldl (fun s g => modGroup (owePhase s g) g fun y => { y with status := .free }) s
  let s := setBlock s b { x with status := st, groups := [], sqrs := [], chans := [], mxe := [], win := [], spilled := [],
                                 rings := [], popped := [], saved := [], savedSqrs := [], away := [] }
  let s := { s with csaved := s.csaved.filter fun x => x.1.block ≠ b }
  let s := modGrid s x.grid fun r => { r with live := r.live.filter (· ≠ b) }
  let s := x.cores.foldl (fun s c => discardItems s x.grid c) s
  testQuiet (x.cores.foldl (fun s c => returnHoldings s b c) s) x.grid

/-- Whether every group of a block has ended. -/
def allEnded (s : State) (b : Nat) : Bool :=
  (getBlock s b).away.isEmpty && (getBlock s b).groups.all fun g => (getGroup s g).status = .ended

/-- A block ends when its last group does (R30). -/
def tryEndBlock (s : State) (b : Nat) : State :=
  if (getBlock s b).here && allEnded s b then endBlock s b .ended else s

/-- A group ends: every lane has exited (R62). Its deferred request is withdrawn (R354), it counts as idle (R243), and the
update-only lines of its core are sent, because the end of its grid will be a release (R272, R275). -/
def endGroup (s : State) (g : Nat) : State :=
  let x := getGroup s g
  let s := dropLanes (sendAllGathers s (slotCore g)) g LaneMask.full
  let s := modCore s (slotCore g) fun k =>
    { k with pools := k.pools.map fun p => { p with queue := p.queue.filter fun d => match d with
        | .claim u _ => u ≠ x.uid
        | .restore _ => true } }
  let s := modGroup s g fun y =>
    { y with status := .ended, priv := false, deferred := none, xm := 0, exited := LaneMask.full, idle := true, pend := [] }
  let s := testQuiet s (getBlock s x.block).grid
  tryEndBlock s x.block

/-! ## Removal of lanes (R62, R129, R342) -/

/-- Lanes are gone from a group: from `xm` and every divergence entry (R62); it stands at `next`. -/
def lanesGone (s : State) (g : Nat) (m : LaneMask) (next : DWord) : State :=
  modGroup (dropLanes s g m) g fun x =>
    { x with xm := x.xm &&& ~~~m, exited := x.exited ||| m, pc := next, div := x.div.map fun e => { e with mask := e.mask &&& ~~~m } }

/-- Whether a group whose lanes are gone resumes from its stacks: it has lanes left and none in `xm`, and it runs no handler, in
which it goes on (R129, R341). -/
def resumes (s : State) (g : Nat) : Bool :=
  (getGroup s g).exited ≠ LaneMask.full && (getGroup s g).xm = 0 && !hidden s g

/-- Lanes leave a group as by EXIT (R129, R62): if none is left the group ends, and if `xm` is empty the group resumes from its
stacks, or goes on at `next` with `xm` zero. -/
def removeLanes (s : State) (g : Nat) (m : LaneMask) (next : DWord) : State :=
  let s := lanesGone s g m next
  if (getGroup s g).exited = LaneMask.full then endGroup s g
  else if resumes s g then resumeStacks s g (depthD (getGroup s g) + 1)
  else s

/-- What keeps a spilled entry that the removal of lanes needs from being read (R61; log entry 24). -/
def removeFault (s : State) (g : Nat) (m : LaneMask) (next : DWord) : Option StackFault :=
  let s := lanesGone s g m next
  if resumes s g then resumeFault s g (depthD (getGroup s g) + 1) else none

end Sys2Proof.Machine
end

