-- ==== Sys2Proof/Machine/Ops.lean ====
section
/-! DEFINITION. What every instruction shares: the checks at issue (R335), completion, sleeping and stalling, and taking
a trap and returning from one (R333 to R350, R401 to R406). -/

namespace Sys2Proof.Machine

/-! ## Records and notices (R336 to R338, R346) -/

/-- The record of a trap of a group (R338, R401, R404): lane 0xFF for a trap that concerns no lane. -/
def mkRec (s : State) (g : Nat) (code lane flags detail : Nat) (addr entry : DWord) (mask : LaneMask) : Rec :=
  let x := getGroup s g
  let sp := groupSpace s g
  { pc := x.pc, code, lane, flags := flags + 1, detail := BitVec.ofNat 32 detail, addr, entry, mask,
    gtc := BitVec.ofNat 64 (dieGtc s (groupDie g)),
    word := match fetchWord s sp.1 sp.2 x.pc with | .ok w => w | .error _ => 0 }

/-- The record of a trap that concerns no lane (R401). -/
def plainRec (s : State) (g code detail : Nat) : Rec := mkRec s g code 255 0 detail 0 0 0

/-- The 64 bytes of a record of a group in a slot (R338). -/
def recOf (g gid more : Nat) (r : Rec) : List Byte :=
  leBytes 8 r.pc.toNat ++ leBytes 1 r.code ++ leBytes 1 r.lane ++ leBytes 2 (r.flags + more) ++ leBytes 4 r.detail.toNat
    ++ leBytes 8 r.addr.toNat ++ leBytes 8 r.entry.toNat ++ leBytes 16 r.mask.toNat ++ leBytes 8 r.gtc.toNat
    ++ leBytes 4 r.word.toNat ++ leBytes 2 (slotCore g) ++ leBytes 1 (slotOf g) ++ leBytes 1 gid
def recBytes (s : State) (g : Nat) (more : Nat) (r : Rec) : List Byte := recOf g (getGroup s g).gid more r

/-- Privileged mode: a firmware core, or a trap handler (R244, R246). -/
def privileged (s : State) (g : Nat) : Bool := (getGroup s g).priv || isFirmwareCore s (slotCore g)

/-- FLAGS[7] of a trap of a group: it is in privileged mode (R338). -/
def privFlag (s : State) (g : Nat) : Nat := if privileged s g then 128 else 0

/-- FLAGS[4] of a lane's fault: its transaction is irrevocable (R338). -/
def irrFlag (x : Group) (i : Nat) : Nat :=
  let t := mapGet ({} : Txn) x.txn i
  if t.isOpen && t.irr && t.doomed = none then 16 else 0

/-- The slot area of a resident slot (R337). -/
def slotArea (s : State) (g : Nat) : DWord :=
  let sp := groupSpace s g
  (getCtx s sp.1 sp.2).trap.recb + BitVec.ofNat 64 (16384 * g)

/-- Bytes followed by zeros up to a length. -/
def padTo (n : Nat) (b : List Byte) : List Byte := b ++ List.replicate (n - b.length) 0

/-- The stack snapshot: depths, the on-chip divergence entries and the on-chip call-return entries, oldest first (R337,
R406). -/
def snapshot (x : Group) : List Byte :=
  padTo 64 (leBytes 8 (x.div.length + 256 * x.call.length))
    ++ padTo 1024 (x.div.reverse.flatMap divBytes) ++ padTo 256 (x.call.reverse.flatMap callBytes)
    ++ List.replicate 6848 0

/-- The records written into the slot area, and the snapshot unless lanes are only removed (R337, R406); none when a
byte cannot be written (R347). -/
def writeRecords (s : State) (g : Nat) (more : Nat) (recs : List Rec) (snap : Bool) : Option State :=
  let sp := groupSpace s g
  let x := getGroup s g
  let put (s : Option State) (r : Rec) : Option State :=
    match s with
    | none => none
    | some s =>
      let l := if r.lane = 255 then lu x else r.lane
      ctxWrite s sp.1 sp.2 (.group g) (slotArea s g + BitVec.ofNat 64 (64 * l)) (recBytes s g more r)
  match recs.foldl put (some s) with
  | none => none
  | some s => if snap then ctxWrite s sp.1 sp.2 (.group g) (slotArea s g + 0x2000) (snapshot x) else some s

/-- A notice or record that is entered in the event log instead (R346, R347). -/
def logRecord (s : State) (p c d : Nat) (bytes : List Byte) : State :=
  logEvent s p 4 d c (BitVec.ofNat 64 (leNat (bytes.take 8))) (BitVec.ofNat 64 (leNat ((bytes.drop 8).take 8)))

/-- A notice lost: logged and counted (R346, R347). -/
def loseNotice (s : State) (p c d : Nat) (bytes : List Byte) : State :=
  modPart (logRecord s p c d bytes) p fun pt => { pt with nlost := pt.nlost + 1 }

/-- A notice written at the context's ring, once the stores before it are complete (R346). -/
def writeNotice (s : State) (n : Notice) : State :=
  let d := (getCtx s n.part n.ctx).trap
  if d.nring = 0 then loseNotice s n.part n.ctx n.die n.bytes
  else
    let va := d.nring + BitVec.ofNat 64 (64 * (d.notice % 2 ^ d.nlcap))
    match ctxNat s n.part n.ctx (va + 10) 2 with
    | none => loseNotice s n.part n.ctx n.die n.bytes
    | some f =>
      if f % 2 = 1 then loseNotice s n.part n.ctx n.die n.bytes
      else
        match ctxWrite s n.part n.ctx (.die n.die) va n.bytes with
        | none => loseNotice s n.part n.ctx n.die n.bytes
        | some s =>
          raiseVector (modCtx s n.part n.ctx fun c => { c with trap := { c.trap with notice := c.trap.notice + 1 } }) n.part
            d.nvec

/-- A notice that waits for the stores of its group before it, its gathered updates among them (R272, R346). A context without an area for records has no notices:
the trap is logged (R347). -/
def postNotice (s : State) (uid d p c : Nat) (bytes : List Byte) : State :=
  let s := sendGathersOf s fun h => h.ofUid uid
  if (getCtx s p c).trap.recb = 0 then logRecord s p c d bytes
  else { s with notices := s.notices ++ [{ uid, die := d, part := p, ctx := c, bytes }] }

/-- A notice of a resident group, a release that sends its core's update-only lines (R272, R346). -/
def sendNotice (s : State) (g : Nat) (more : Nat) (r : Rec) : State :=
  postNotice (sendAllGathers s (slotCore g)) (getGroup s g).uid (groupDie g) (groupSpace s g).1 (groupSpace s g).2 (recBytes s g more r)

/-! ## Dooming (R177, R186, R339) -/

/-- The lane's speculative transaction is aborted with a cause and detail; the first cause stands (R177). -/
def doomTxn (t : Txn) (cause detail : Nat) : Txn :=
  if t.isOpen && !t.irr && t.doomed = none then { t with doomed := some (cause, detail) } else t

/-- Every open speculative transaction of a group is doomed. -/
def doomAll (x : Group) (cause detail : Nat) : Group := { x with txn := x.txn.map fun e => (e.1, doomTxn e.2 cause detail) }

/-! ## Taking a trap (R333, R339 to R350) -/

/-- The code of a class in `sy.ecause` (R340). -/
def classCode : TrapClass → Nat
  | .I => 0 | .C => 1 | .L => 2 | .A => 3 | .P => 4

/-- `sy.ecause` on entry (R340, R405). -/
def ecauseOf (p : PendTrap) : DWord :=
  BitVec.ofNat 64 (p.code % 256 + classCode p.cls * 2 ^ 12 + p.recs.length * 2 ^ 16 + p.sw * 2 ^ 32)

/-- The lanes that have a record of the trap (R342). -/
def recMask (p : PendTrap) : LaneMask := p.recs.foldl (fun m r => m ||| r.mask) 0

/-- The request record of an element is free (R198). -/
def freeRecord (s : State) (i : Nat) (e : Elem) : State :=
  modCore s (e.chan / 4) fun c => { c with rings := c.rings.map fun r => r.filter (· ≠ i) }

/-- A faulting copy element is retired: its bytes not yet landed count as landed, and it counts as complete (R367); its barrier object is written
after the lattice sources of the group's earlier copies have been read (R23). -/
def retireElem (s : State) (i : Nat) : State :=
  match getElem s i with
  | none => s
  | some e =>
    let left := (List.range ((e.len + 127) / 128)).filter fun k => !e.landed.contains k
    let n := left.foldl (fun n k => n + min 128 (e.len - 128 * k)) 0
    let s := freeRecord (setElem s i { e with done := true }) i e
    match e.bar with
    | some a => barLand (readSources s e.uid e.cpy) e.block a n
    | none => s

/-- The batches that have completed in order advance the batch counter (R199). -/
def batchDone (s : State) (b : Batch) : Bool := b.elems.all fun i => match getElem s i with | some e => e.done | none => true

/-- How many of a group's batches, after one that has completed or not, have not: a batch with no elements completes with the one
before it (R199). -/
def batchesLeft (s : State) (before : Bool) : List Batch → Nat
  | [] => 0
  | b :: r =>
    let d := if b.elems.isEmpty then before else batchDone s b
    (if d then 0 else 1) + batchesLeft s d r

/-- A group's batch counter after elements have completed: batch k counts once every earlier batch has (R199). -/
def countBatches (s : State) (uid : Nat) : List Batch → State
  | [] => s
  | b :: r =>
    if batchDone s b then
      countBatches (bumpUid (modUid s uid fun x => { x with batches := x.batches.drop 1 }) uid .batch) uid r
    else s

/-- The batches of a group, resident or saved. -/
def batchesOf (s : State) (uid : Nat) : List Batch :=
  match slotOfUid s uid with
  | some g => (getGroup s g).batches
  | none =>
    match s.blocks.findSome? fun e => e.2.saved.findSome? fun x => if x.2.uid = uid then some x.2.batches else none with
    | some l => l
    | none => (s.csaved.findSome? fun x => if x.2.uid = uid then some x.2.batches else none).getD []

/-- Copy elements retired, and the batches that this completes (R199, R367). -/
def retireElems (s : State) (uid : Nat) (l : List Nat) : State :=
  let s := l.foldl retireElem s
  countBatches s uid (batchesOf s uid)

/-- A group parked at its next instruction (R251, R347). -/
def park (s : State) (g : Nat) (why : Park) : State := modGroup s g fun x => { unchained x with status := .parked why }

/-- The trap delivered to the handler (R339). -/
def deliver (s : State) (g : Nat) (p : PendTrap) : State :=
  let sp := groupSpace s g
  let hent := (getCtx s sp.1 sp.2).trap.hent
  let erec := slotArea s g
  modGroup s g fun x =>
    let x := unchained (doomAll x 7 p.code)
    { x with
      epc := p.epc, ecause := ecauseOf p, erec, exm0 := x.xm.extractLsb' 0 64, exm1 := x.xm.extractLsb' 64 64
      priv := true, arriving := none, xm := ~~~x.exited, pc := hent, faultMask := recMask p
      faultPerLane := (p.cls = .L || p.cls = .A) && !p.uniform, faultElems := p.elems }

/-- Under the setting `remove`, and in a per-lane fault of any kind, the faulting lanes leave (R343, R347). A group whose spilled
entries cannot be read for it parks (log entry 24). -/
def removeFaulting (s : State) (g : Nat) (p : PendTrap) : State :=
  match removeFault s g (recMask p) p.epc with
  | none => retireElems (removeLanes s g (recMask p) p.epc) (getGroup s g).uid p.elems
  | some .wait => modGroup s g fun x => { x with held := some p }
  | some _ =>
    park (sendNotice (modGroup s g fun x => { x with pc := p.epc }) g (64 + privFlag s g) (p.recs.headD (plainRec s g p.code 0))) g .trap

/-- A trap of class I, C, L or A is taken (R339, R343, R347): the shared operation of every trap. While results of the
group are still to come, the trap is held (R339). A prologue's group stops at the instruction at fault: its command ends (R283,
R353). -/
def takeTrap (s : State) (g : Nat) (p : PendTrap) : State :=
  let x := getGroup s g
  let sp := groupSpace s g
  let d := (getCtx s sp.1 sp.2).trap
  let perLane := (p.cls = .L || p.cls = .A) && !p.uniform
  let at_ (s : State) : State := modGroup s g fun x => { x with pc := p.epc }
  let head := p.recs.headD (plainRec s g p.code 0)
  if x.prologue.isSome then park (modGroup s g fun x => { x with pc := head.pc }) g .trap
  else if !(pendingOf s g).isEmpty then modGroup s g fun x => { x with held := some p }
  else if d.recb = 0 then
    let s := logRecord s sp.1 sp.2 (groupDie g) (recBytes s g (privFlag s g) head)
    if perLane && (groupGrid s g).hdr.remove && !hidden s g then removeFaulting s g p else park (at_ s) g .forGood
  else if hidden s g then
    let s := (writeRecords s g 128 p.recs true).getD s
    park (at_ (sendNotice s g 192 head)) g .forGood
  else if perLane && (groupGrid s g).hdr.remove then
    match writeRecords s g (privFlag s g) p.recs false with
    | none => park (at_ (sendNotice s g 192 head)) g .forGood
    | some s => removeFaulting s g p
  else
    match writeRecords s g (privFlag s g) p.recs true with
    | none => park (at_ (sendNotice s g 192 head)) g .forGood
    | some s => if d.hent = 0 then park (at_ (sendNotice s g (64 + privFlag s g) head)) g .trap else deliver s g p

/-- What waits of a latch chain that replays from its first instruction is forgotten; a class A trap stays (R348, R349). -/
def dropPend (s : State) (g : Nat) : State := modGroup s g fun x => { x with pend := x.pend.filter fun p => p.cls = .A }

/-- A restartable fault parks the group, which replays from the given address (R345, R348, R366). In privileged mode on a
program core the park lasts (R347; log entry 25). A prologue's group stops: the one notice is that of its command (R353). -/
def parkFault (s : State) (g : Nat) (pc : DWord) (r : Rec) : State :=
  let sp := groupSpace s g
  if (getGroup s g).prologue.isSome then park (modGroup s g fun x => { x with pc := r.pc }) g .trap else
  let s := sendNotice s g (64 + privFlag s g) r
  let n := (getCtx s sp.1 sp.2).tlbi
  let s := dropPend s g
  if hidden s g then park (modGroup s g fun x => { x with pc }) g .forGood
  else
    modGroup s g fun x =>
      { unchained x with pc, chainPc := pc, status := .parked .pageFault, tlbiSeen := n }

/-- Where a trap of class I or P leaves the program counter: at the chain's first instruction if the instruction is inside
a latch chain (R348). -/
def replayPc (x : Group) (ops : List Operand) : DWord :=
  if !(latchesOf ops).isEmpty && (latchesOf ops).all (latchOk x) then x.chainPc else x.pc

/-! ## The checks at issue (R335) -/

/-- What the shared checks need of an instruction: its bytes, its operands, the highest vector register it names, whether
it needs a full mask (R63), whether it is privileged (R244) and whether it pushes a result (R41). -/
structure Issue where
  len : Nat
  ops : List Operand := []
  top : Option Nat := none
  full : Bool := false
  priv : Bool := false
  res : Bool := false
  deriving DecidableEq, Repr

/-- The first of conditions 2 to 5 of R335 that holds: its code and DETAIL (R334). -/
def issueFault (s : State) (k : Issue) : Option (Nat × Nat) :=
  let x := curGroup s
  if k.priv && !privileged s s.cur then some (0x02, 0)
  else
    match (match k.top with | some t => if x.range ≤ t then some t else none | none => none) with
    | some t => some (0x03, t % 512 + x.range * 2 ^ 16)
    | none =>
      match (latchesOf k.ops).find? fun n => !latchOk x n with
      | some n => some (0x04, n)
      | none => if k.full && x.xm ≠ LaneMask.full then some (0x05, 0) else none

/-- A trap of class I of the issuing group with its record: nothing of the instruction has been done (R333, R348). -/
def trapRec (s : State) (k : Issue) (r : Rec) (uniform : Bool) : Out :=
  .next (takeTrap (dropPend s s.cur) s.cur
    { cls := .I, code := r.code, sw := 0, recs := [r], epc := replayPc (curGroup s) k.ops, uniform, elems := [] })

/-- A trap of class I that concerns no lane and names no address (R401). -/
def trapI (s : State) (k : Issue) (code detail : Nat) : Out := trapRec s k (plainRec s s.cur code detail) false

/-- A trap of class I that concerns no lane, with the address at fault and FLAGS beside the valid bit. -/
def trapAt (s : State) (k : Issue) (code flags detail : Nat) (addr entry : DWord) : Out :=
  trapRec s k (mkRec s s.cur code 255 flags detail addr entry 0) false

/-- The issuing group's instruction goes on unless a check at issue fails (R335). -/
def issue (s : State) (k : Issue) (go : Out) : Out :=
  match issueFault s k with
  | some (code, detail) => trapI s k code detail
  | none => go

/-- The issue of an extended form. -/
def xIssue (f : XForm) (len : Nat) (top : Option Nat) : Issue := { len, ops := [f.d, f.a, f.b, f.c], top, res := pushes f }

/-- Whether an instruction reads a latch (R43). -/
def readsLatch (k : Issue) : Bool := !(latchesOf k.ops).isEmpty

/-! ## Completion -/

/-- The operands of an instruction that may read a latch. -/
def instrOps (i : Instr) : List Operand :=
  match xspec i with
  | some (_, _, f) => [f.d, f.a, f.b, f.c]
  | none =>
    match baseWord i with
    | some (.pred, _, _) => []
    | some (.mov, _, f) => [fieldB f]
    | some (_, _, f) => [(baseForm f).a, fieldB f]
    | none => []

/-- The next instruction of a group continues its latch chain (R43, R44, R348). -/
def chainReads (s : State) (g : Nat) : Bool :=
  let x := getGroup s g
  let sp := groupSpace s g
  match peek s sp.1 sp.2 x.pc with
  | some i => !(latchesOf (instrOps i)).isEmpty && (latchesOf (instrOps i)).all (latchOk x)
  | none => false

/-- A group's latch chain goes on, or may: the page of the next instruction is absent, and only the restart of its fetch will
show it (R43, R44, R345, R348; log entry 41). -/
def chainGoesOn (s : State) (g : Nat) : Bool :=
  let x := getGroup s g
  let sp := groupSpace s g
  let absent : Bool := match fetch s sp.1 sp.2 x.pc with | .error e => e.code = 0x11 | .ok _ => false
  chainReads s g || (0 < x.chainPush && x.chainLen < 4 && absent)

/-- A fetch from an absent page parks a group, which keeps what it needs to replay a latch chain (R345, R348). -/
def fetchPark (s : State) (g : Nat) (e : FetchFault) : State :=
  let x := getGroup s g
  let t := parkFault s g x.pc (mkRec s g e.code 255 0 e.detail e.addr e.entry 0)
  modGroup t g fun y =>
    if y.status = .parked .pageFault then
      { y with latches := x.latches, chainPc := x.chainPc, chainLen := x.chainLen, chainPush := x.chainPush, pend := x.pend }
    else y

/-- A group that a restartable fault parked replays: it is ready, at the first instruction of its latch chain if the fault struck
inside one, and then nothing waits of the chain; while its instruction's page is absent it parks again (R44, R345, R348). -/
def replay (s : State) (g : Nat) : State :=
  let x := getGroup s g
  let sp := groupSpace s g
  match fetch s sp.1 sp.2 x.pc with
  | .error e =>
    if e.code = 0x11 then fetchPark s g e else modGroup s g fun x => { x with status := .ready }
  | .ok _ =>
    if chainReads s g then
      modGroup (dropPend s g) g fun x => { unchained { x with pc := x.chainPc } with status := .ready }
    else modGroup s g fun x => { x with status := .ready }

/-- The records of one of the traps that are taken as one: those that one access wrote, at its issue and when lanes came back with no
data, share their mask, the time of the last and the word of the first (R404). -/
def joinedRecs (ps : List PendTrap) (p : PendTrap) : List Rec :=
  let rs := if p.issued = 0 then p.recs else (ps.filter fun q => q.issued = p.issued).flatMap (·.recs)
  let m := maskOf (rs.map (·.lane))
  let t := rs.foldl (fun t r => if t.toNat < r.gtc.toNat then r.gtc else t) 0
  if p.issued = 0 then p.recs else p.recs.map fun r => { r with mask := m, gtc := t, word := (rs.headD r).word }

/-- Traps that wait at the end of a latch chain, as one trap (R348); a uniform access among them makes it precise (R344). -/
def mergeTraps (epc : DWord) : List PendTrap → Option PendTrap
  | [] => none
  | p :: r => some { p with
      recs := (p :: r).flatMap (joinedRecs (p :: r)), epc, uniform := (p :: r).any (·.uniform)
      elems := (p :: r).flatMap (·.elems) }

/-- A trap of class C or L after its instruction has completed: taken now, or once the latch chain has ended (R333,
R348). -/
def raiseTrap (s : State) (p : PendTrap) : State :=
  let x := curGroup s
  if chainGoesOn s s.cur then setCur s { x with pend := x.pend ++ [p] }
  else
    match mergeTraps x.pc (x.pend ++ [p]) with
    | some q => takeTrap (setCur s { x with pend := [] }) s.cur q
    | none => s

/-- The issuing group replaced and advanced past its instruction (R114, R41). -/
def retire (s : State) (x : Group) (k : Issue) (result : Bool) (push : Option Latch) : State :=
  setCur s (advance x k.len (readsLatch k) result push)

/-- Completion of an instruction that may raise floating flags: they are ORed into `sy.fpflags`, and an enabled one takes
the floating-exception trap (R76, R77). -/
def finish (s : State) (x : Group) (k : Issue) (result : Bool) (push : Option Latch) (fl : FFlags) : Out :=
  let r := plainRec s s.cur 0x09 (enabledFlags x.fpflags fl).toNat
  let s := retire s { x with fpflags := raiseFlags x.fpflags fl } k result push
  if enabledFlags x.fpflags fl = 0 then .next s
  else .next (raiseTrap s { cls := .C, code := 0x09, sw := 0, recs := [r], epc := 0, uniform := false, elems := [] })

/-- Completion of an instruction that raises nothing and pushes nothing. -/
def complete (s : State) (k : Issue) : Out := .next (retire s (curGroup s) k false none)

/-- Completion of an instruction whose result is one scalar (R41, R116); `x` is the group after it. -/
def completeScalar (s : State) (x : Group) (f : XForm) (k : Issue) (v : DWord) : Out :=
  .next (retire s (match f.d with | .s n => sWrite (hidden s s.cur) x n.val v | _ => x) k (pushes f) (some (.scalar v)))

/-- The issuing group stalls at its instruction: nothing is done, and it issues again when the stall ends (R188). -/
def stall (s : State) (why : Stall) : Out := .next (setCur s { curGroup s with status := .stalled why })

/-- A push or pop that cannot reach the stack area nullifies the instruction (R61, R126, R334). -/
def stackTrap (s : State) (k : Issue) : StackFault → Out
  | .wait => stall s .lock
  | .overflow call => trapI s k 0x0B (if call then 1 else 0)
  | .prot call why a e => trapAt s k 0x15 0 ((if call then 1 else 0) + 2 * why) a e
  | .absent call l a e =>
    .next (parkFault s s.cur (replayPc (curGroup s) k.ops) (mkRec s s.cur 0x12 255 0 (l + (if call then 256 else 0)) a e 0))

/-- A uniform access's fault (R344): one record at lane L. Class P parks (R345), class L is precise, and comes after the latch chain, which
goes on with what the instruction pushes (R41, R348). -/
def uniformFault (s : State) (k : Issue) (write lattice : Bool) (code detail : Nat) (addr entry : DWord) : Out :=
  let x := curGroup s
  let l := lu x
  let r := mkRec s s.cur code l (2 + (if write then 4 else 0) + irrFlag x l + (if lattice then 32 else 0)) detail addr entry (maskOf [l])
  if code = 0x10 then .next (parkFault s s.cur (replayPc x k.ops) r)
  else
    let s := retire s x k k.res (if k.res then some (.scalar (Config.latchLane s.tick l)) else none)
    .next (raiseTrap s { cls := .L, code, sw := 0, recs := [r], epc := 0, uniform := true, elems := [] })

/-! ## Return from trap (R249, R342) -/

/-- The saved program counter and mask come back, and privileged mode ends on a program core (R249). -/
def restored (s : State) : State :=
  let x := curGroup s
  setCur s { unchained x with
    pc := x.epc, xm := (x.exm1 ++ x.exm0 : BitVec 128) &&& ~~~x.exited, priv := false, faultElems := [] }

/-- RFT removes the faulting lanes: `sy.ecause` asks for it, and the trap was per-lane (R342). -/
def rftRemoves (x : Group) : Bool := x.ecause.getLsbD 63 && x.faultPerLane

/-- What keeps a spilled entry that RFT needs from being read. -/
def rftFault (s : State) : Option StackFault :=
  let x := curGroup s
  if rftRemoves x then removeFault (restored s) s.cur x.faultMask x.epc else none

/-- RFT: the saved program counter and mask come back, the faulting lanes leave if `sy.ecause` says so, copy elements of
the trap are retired, and privileged mode ends on a program core. -/
def returnFromTrap (s : State) : State :=
  let x := curGroup s
  let t := restored s
  retireElems (if rftRemoves x then removeLanes t s.cur x.faultMask x.epc else t) x.uid x.faultElems

/-! ## Waiting (R132) -/

/-- The barrier object or event that a WAIT tests has reached a phase (R132). -/
def eventReached (s : State) (x : Group) (e : Ev) (obj : Nat) (ph : DWord) : Bool :=
  match e with
  | .bar => reached32 (barRead s (getBlock s x.block) obj).ph ph
  | _ => reached (counter x e) ph

/-- The issuing group waits on an event: it goes on at `resume` at once, or sleeps and goes on there when it wakes. -/
def waitOn (s : State) (x : Group) (e : Ev) (obj : Nat) (ph resume : DWord) (await : Bool) : Out :=
  if eventReached s x e obj ph then .next (setCur s { unchained x with pc := resume })
  else .next (setCur s { unchained x with status := .asleep e obj ph resume await })

end Sys2Proof.Machine
end

