-- ==== Sys2Proof/Machine/Integer.lean ====
section
/-! DEFINITION. Integer and bit instructions (R136 to R143) and the shared shape of every instruction that computes one
value per lane, or one for the group, from its sources (R114 to R118). -/

namespace Sys2Proof.Machine

/-! ## Shared operations -/

/-- A lane's result as the latches keep it: 32 bits unless the destination is a pair (R41). -/
def laneValue (pair : Bool) (x : Nat → DWord) (i : Nat) : DWord := if pair then x i else ((x i).setWidth 32).setWidth 64

/-- The value of an instruction in every live lane, or once for the group, written and pushed; the flags it raises are
those of its live lanes, none under a zero mask (R76, R115, R116). -/
def performAt (s : State) (f : XForm) (k : Issue) (m : Mode) (pair : Bool) (x : Nat → DWord × FFlags) : Out :=
  let g := curGroup s
  let u := uniform m f
  let y (i : Nat) : DWord := (x i).1
  let z := if u then y else laneValue pair y
  let fl : FFlags := if u then (if runs g f && g.xm ≠ 0 then (x (lu g)).2 else 0) else (lanes (live g f)).foldl (fun a i => a ||| (x i).2) 0
  issue s k (finish s (putD s g f u pair y) k (pushes f) (if pushes f then pushOf s g f u z else none) fl)

/-- An instruction that raises no flag and executes by its operands. -/
def perform (s : State) (f : XForm) (len : Nat) (top : Option Nat) (pair : Bool) (x : Nat → DWord) : Out :=
  performAt s f (xIssue f len top) .auto pair fun i => (x i, 0)

/-- An integer operation of the signedness, the width and its sources. -/
abbrev IntFn := Bool → Nat → DWord → DWord → DWord → DWord

/-- An integer instruction of up to three sources: the operation's low bits, extended under R66 (R137). -/
def integer (s : State) (f : XForm) (len : Nat) (op : IntFn) : Out :=
  let g := curGroup s
  let w := intWidth f
  let p := wide f.ty
  perform s f len (typedTop f) p fun i =>
    extend (tySigned f.ty) w (op (tySigned f.ty) w (opnd s g p f.a i) (opnd s g p f.b i) (opnd s g p f.c i))

/-! ## The operations (R137, R139) -/

def iAdd : IntFn := fun _ _ a b _ => a + b
def iSub : IntFn := fun _ _ a b _ => a - b
def iMul : IntFn := fun _ _ a b _ => a * b
def iMulh : IntFn := fun sg w a b _ => wrap w (toSN sg w a * toSN sg w b / 2 ^ w)
def iMad : IntFn := fun _ _ a b c => a * b + c
def iMin : IntFn := fun sg w a b _ => if toSN sg w b < toSN sg w a then b else a
def iMax : IntFn := fun sg w a b _ => if toSN sg w a < toSN sg w b then b else a
def iAbs : IntFn := fun _ w a _ _ => wrap w (toS w a).natAbs
def iNeg : IntFn := fun _ _ a _ _ => -a
def iAnd : IntFn := fun _ _ a b _ => a &&& b
def iOr : IntFn := fun _ _ a b _ => a ||| b
def iXor : IntFn := fun _ _ a b _ => a ^^^ b
def iAndn : IntFn := fun _ _ a b _ => a &&& ~~~b
def iNot : IntFn := fun _ _ a _ _ => ~~~a
def iShl : IntFn := fun _ w a b _ => if w ≤ toN w b then 0 else BitVec.ofNat 64 (toN w a * 2 ^ toN w b)
def iShr : IntFn := fun _ w a b _ => if w ≤ toN w b then 0 else BitVec.ofNat 64 (toN w a / 2 ^ toN w b)
def iSar : IntFn := fun _ w a b _ => wrap w (toS w a / 2 ^ min w (toN w b))
def iRotl : IntFn := fun _ w a b _ =>
  BitVec.ofNat 64 (toN w a * 2 ^ (toN w b % w) + toN w a / 2 ^ (w - toN w b % w))
def iClz : IntFn := fun _ w a _ _ => BitVec.ofNat 64 (if toN w a = 0 then w else w - 1 - Nat.log2 (toN w a))
def iPopc : IntFn := fun _ w a _ _ => BitVec.ofNat 64 ((List.range w).filter fun i => a.getLsbD i).length
def iBrev : IntFn := fun _ w a _ _ =>
  BitVec.ofNat 64 ((List.range w).foldl (fun n i => n + if a.getLsbD (w - 1 - i) then 2 ^ i else 0) 0)

/-- The position and length of a bit field (R139). -/
def fieldPos (spec : DWord) : Nat := spec.toNat % 128
def fieldLen (w : Nat) (spec : DWord) : Nat := min (spec.toNat / 256 % 128) w

def iBfx : IntFn := fun sg w a b _ =>
  let n := fieldLen w b
  let v : Int := toSN sg w a / 2 ^ fieldPos b % 2 ^ n
  wrap w (if sg && n ≠ 0 && 2 ^ (n - 1) ≤ v then v - 2 ^ n else v)
def iBfi : IntFn := fun _ w a b c =>
  let m : DWord := BitVec.ofNat 64 ((2 ^ fieldLen w c - 1) * 2 ^ fieldPos c % 2 ^ w)
  (a &&& ~~~m) ||| (BitVec.ofNat 64 (toN w b * 2 ^ fieldPos c) &&& m)

/-! ## Arithmetic, logic and bit instructions (R137, R139) -/

def execAddBase (f : BForm) (s : State) : Out := integer s (baseForm f) 4 iAdd
def execSubBase (f : BForm) (s : State) : Out := integer s (baseForm f) 4 iSub
def execMulBase (f : BForm) (s : State) : Out := integer s (baseForm f) 4 iMul
def execMulhBase (f : BForm) (s : State) : Out := integer s (baseForm f) 4 iMulh
def execMinBase (f : BForm) (s : State) : Out := integer s (baseForm f) 4 iMin
def execMaxBase (f : BForm) (s : State) : Out := integer s (baseForm f) 4 iMax
def execAndBase (f : BForm) (s : State) : Out := integer s (baseForm f) 4 iAnd
def execOrBase (f : BForm) (s : State) : Out := integer s (baseForm f) 4 iOr
def execXorBase (f : BForm) (s : State) : Out := integer s (baseForm f) 4 iXor
def execAndnBase (f : BForm) (s : State) : Out := integer s (baseForm f) 4 iAndn
def execShlBase (f : BForm) (s : State) : Out := integer s (baseForm f) 4 iShl
def execShrBase (f : BForm) (s : State) : Out := integer s (baseForm f) 4 iShr
def execSarBase (f : BForm) (s : State) : Out := integer s (baseForm f) 4 iSar
def execRotlBase (f : BForm) (s : State) : Out := integer s (baseForm f) 4 iRotl

def execAdd (f : XForm) (s : State) : Out := integer s f (xLen f) iAdd
def execSub (f : XForm) (s : State) : Out := integer s f (xLen f) iSub
def execMul (f : XForm) (s : State) : Out := integer s f (xLen f) iMul
def execMulh (f : XForm) (s : State) : Out := integer s f (xLen f) iMulh
def execMad (f : XForm) (s : State) : Out := integer s f (xLen f) iMad
def execMin (f : XForm) (s : State) : Out := integer s f (xLen f) iMin
def execMax (f : XForm) (s : State) : Out := integer s f (xLen f) iMax
def execAbs (f : XForm) (s : State) : Out := integer s f (xLen f) iAbs
def execNeg (f : XForm) (s : State) : Out := integer s f (xLen f) iNeg
def execAnd (f : XForm) (s : State) : Out := integer s f (xLen f) iAnd
def execOr (f : XForm) (s : State) : Out := integer s f (xLen f) iOr
def execXor (f : XForm) (s : State) : Out := integer s f (xLen f) iXor
def execAndn (f : XForm) (s : State) : Out := integer s f (xLen f) iAndn
def execNot (f : XForm) (s : State) : Out := integer s f (xLen f) iNot
def execShl (f : XForm) (s : State) : Out := integer s f (xLen f) iShl
def execShr (f : XForm) (s : State) : Out := integer s f (xLen f) iShr
def execSar (f : XForm) (s : State) : Out := integer s f (xLen f) iSar
def execRotl (f : XForm) (s : State) : Out := integer s f (xLen f) iRotl
def execBfx (f : XForm) (s : State) : Out := integer s f (xLen f) iBfx
def execBfi (f : XForm) (s : State) : Out := integer s f (xLen f) iBfi
def execClz (f : XForm) (s : State) : Out := integer s f (xLen f) iClz
def execPopc (f : XForm) (s : State) : Out := integer s f (xLen f) iPopc
def execBrev (f : XForm) (s : State) : Out := integer s f (xLen f) iBrev

/-! ## Carries (R138) -/

/-- A predicate destination written in the lanes that execute: per lane, or with the value at lane L (R116). -/
def putPred (g : Group) (f : XForm) (u : Bool) (o : Operand) (x : Nat → Bool) (y : Group) : Group :=
  match o with
  | .p n => pWrite y n.val (writes g f u) (if u then (if x (lu g) then LaneMask.full else 0) else maskWhere x)
  | _ => y

/-- ADDC and SUBB: the sum or difference with the carry bit of C, which receives the carry or borrow. -/
def carrying (s : State) (f : XForm) (sub : Bool) : Out :=
  let g := curGroup s
  let w := intWidth f
  let p := wide f.ty
  let u := uniform .auto f
  let k := xIssue f (xLen f) (typedTop f)
  let t (i : Nat) : Int :=
    let a : Int := toN w (opnd s g p f.a i)
    let b : Int := toN w (opnd s g p f.b i)
    let c : Int := if predBit g f.c i then 1 else 0
    if sub then a - b - c else a + b + c
  let y (i : Nat) : DWord := extend (tySigned f.ty) w (wrap w (t i))
  let out (i : Nat) : Bool := if sub then t i < 0 else (2 : Int) ^ w ≤ t i
  issue s k (finish s (putPred g f u f.c out (putD s g f u p y)) k (pushes f)
    (if pushes f then pushOf s g f u (if u then y else laneValue p y) else none) 0)

def execAddc (f : XForm) (s : State) : Out := carrying s f false
def execSubb (f : XForm) (s : State) : Out := carrying s f true

/-! ## Comparison and selection (R140 to R142) -/

/-- The comparison that an FN code selects (R106, R140). -/
def cmpInt (fn : Nat) (a b : Int) : Bool :=
  if fn = 0 then a = b else if fn = 1 then a ≠ b else if fn = 2 then a < b else if fn = 3 then a ≤ b
  else if fn = 4 then b < a else b ≤ a

/-- CMP of a length. -/
def compare (s : State) (f : XForm) (len : Nat) : Out :=
  let g := curGroup s
  let w := cmpWidth f
  let p := wide f.ty
  let sg := tySigned f.ty
  perform s f len (typedTop f) p fun i =>
    if cmpInt f.fn.toNat (toSN sg w (opnd s g p f.a i)) (toSN sg w (opnd s g p f.b i)) then 1 else 0

def execCmpEqBase (f : BForm) (s : State) : Out := compare s (baseCmp f 0) 4
def execCmpNeBase (f : BForm) (s : State) : Out := compare s (baseCmp f 1) 4
def execCmpLtBase (f : BForm) (s : State) : Out := compare s (baseCmp f 2) 4
def execCmpLeBase (f : BForm) (s : State) : Out := compare s (baseCmp f 3) 4
def execCmpGtBase (f : BForm) (s : State) : Out := compare s (baseCmp f 4) 4
def execCmpGeBase (f : BForm) (s : State) : Out := compare s (baseCmp f 5) 4
def execCmp (f : XForm) (s : State) : Out := compare s f (xLen f)

/-- SEL: b where the lane's bit of predicate A is 1, else c. -/
def execSel (f : XForm) (s : State) : Out :=
  let g := curGroup s
  let p := wide f.ty
  perform s f (xLen f) (typedTop f) p fun i =>
    extend (tySigned f.ty) (intWidth f) (if predBit g f.a i then opnd s g p f.b i else opnd s g p f.c i)

/-- MOV of a length. -/
def move (s : State) (f : XForm) (len : Nat) : Out := integer s f len fun _ _ _ b _ => b

def execMovBase (f : BForm) (s : State) : Out := move s (baseMov f) 4
def execMov (f : XForm) (s : State) : Out := move s f (xLen f)

/-- LI: base + lane × stride (R142); with `.uni` the value of lane L for the group (R13, R116; log entry 42). -/
def execLi (f : XForm) (s : State) : Out :=
  let g := curGroup s
  performAt s f (xIssue f (xLen f) (typedTop f)) .auto false fun i =>
    (extend (tySigned f.ty) 32 (opnd s g false f.a i + BitVec.ofNat 64 i * opnd s g false f.b i), 0)

/-! ## Conversion (R143) -/

/-- The exact value of bits in a source format; `fx` is the binary point of `.fx` (R65 to R68, R80). -/
def exactOf (t : Ty) (fx : Nat) (x : DWord) : XV :=
  if tyFloat t then xvF (fval (fmtOf t) x)
  else if t = .fx then
    (match xvInt (toS 64 x) with
      | .num n m _ st => .num n m (-fx) st
      | y => y)
  else xvInt (toSN (tySigned t) (tyBits t) x)

/-- The conversion between two types (R143): a clamp between integers, else one rounding. -/
def convert (src dst : Ty) (rm : Rm) (fx : Nat) (x : DWord) : DWord × FFlags :=
  if tyInt src && tyInt dst then
    (extend (tySigned dst) (tyBits dst) (wrap (tyBits dst) (clampTo (tyRange dst) (toSN (tySigned src) (tyBits src) x))), 0)
  else if tyFloat dst then roundF rm (fmtOf dst) (exactOf src fx x)
  else
    let r := roundI rm dst (if dst = .fx then fx else 0) (exactOf src fx x)
    (extend (tySigned dst) (tyBits dst) r.1, r.2)

/-- The binary point that CVT's IMM carries. -/
def pointOf (o : Operand) : Nat := match o with | .imm x => x.toNat % 64 | _ => 0

def execCvt (f : XForm) (s : State) : Out :=
  let g := curGroup s
  let src := tyOfCode f.fn.toNat
  let k := xIssue f (xLen f) (topReg [(f.d, span (wide f.ty)), (f.a, span (wide src))])
  performAt s f k .auto (wide f.ty) fun i => convert src f.ty f.rm (pointOf f.c) (opnd s g (wide src) f.a i)

end Sys2Proof.Machine
end

