-- ==== Sys2Proof/Machine/Control.lean ====
section
/-! DEFINITION. Control instructions: branches, divergence, calls, EXIT, ELECT, VOTE, WAIT and the scheduler's and
system's own (R120 to R135). -/

namespace Sys2Proof.Machine

/-! ## Shared operations -/

/-- The shared checks of a control instruction of a length. -/
def ctlIssue (f : XForm) (len : Nat) : Issue := xIssue f len none

/-- The issuing group goes on at an address (R122). -/
def goTo (s : State) (k : Issue) (pc : DWord) : Out :=
  .next (setCur s { advance (curGroup s) k.len (readsLatch k) false none with pc })

/-- The value of a label field in bytes from the instruction: four times the offset (R103). -/
def labelAt (x : Group) (o : Operand) : DWord :=
  match o with
  | .imm t => x.pc + 4 * t
  | _ => x.pc

/-- A uniform control instruction: under a false guard it only goes on (R116). -/
def guarded (s : State) (f : XForm) (k : Issue) (go : Out) : Out :=
  issue s k (if runs (curGroup s) f then go else complete s k)

/-- A target of BRX or CALLX is a multiple of 4 and canonical, or the branch traps (R155). -/
def toTarget (s : State) (k : Issue) (t : DWord) (go : Out) : Out :=
  if t.toNat % 4 = 0 && canonical t then go else trapAt s k 0x14 0 0 t 0

/-! ## Branches (R122) -/

/-- A uniform branch to a label. -/
def branch (s : State) (f : XForm) (len : Nat) (target : DWord) : Out :=
  guarded s f (ctlIssue f len) (goTo s (ctlIssue f len) target)

/-- The condition of BRC (R122). -/
def brcCond (fn : Nat) (unsigned : Bool) (a b : DWord) : Bool :=
  if fn = 0 then a = b
  else if fn = 1 then a ≠ b
  else if fn = 2 then toSN (!unsigned) 64 a < toSN (!unsigned) 64 b
  else if fn = 3 then toSN (!unsigned) 64 a ≤ toSN (!unsigned) 64 b
  else if fn = 4 then toSN (!unsigned) 64 b < toSN (!unsigned) 64 a
  else if fn = 5 then toSN (!unsigned) 64 b ≤ toSN (!unsigned) 64 a
  else if fn = 8 then a = 0
  else a ≠ 0

def execBra (f : XForm) (s : State) : Out := branch s f 12 (labelAt (curGroup s) f.c)

def execBraBase (g : Fin 4) (off : BitVec 20) (s : State) : Out :=
  branch s { gp := Fin.ofNat 16 g.val } 4 ((curGroup s).pc + 4 * off.signExtend 64)

def execBrc (f : XForm) (s : State) : Out :=
  let x := curGroup s
  let k := ctlIssue f 12
  guarded s f k
    (if brcCond f.fn.toNat (f.ty = .n64) (opnd s x false f.a 0) (opnd s x false f.b 0) then goTo s k (labelAt x f.c)
      else complete s k)

def execBrx (f : XForm) (s : State) : Out :=
  let k := ctlIssue f 12
  let t := opnd s (curGroup s) false f.a 0
  guarded s f k (toTarget s k t (goTo s k t))

/-! ## Divergence and reconvergence (R123 to R125) -/

/-- BRD (R124). -/
def execBrd (f : XForm) (s : State) : Out :=
  let x := curGroup s
  let k := ctlIssue f 20
  let first := labelAt x f.c
  let second := labelAt x f.b
  let t := live x f
  let fl := x.xm &&& ~~~t
  issue s k <|
    if x.xm = 0 then complete s k
    else
      match pushDiv s s.cur { pc := second, mask := x.xm, reconv := second } with
      | .error e => stackTrap s k e
      | .ok s1 =>
        if t ≠ 0 && fl ≠ 0 then
          match (if first ≠ second then pushDiv s1 s.cur { pc := first ||| 1, mask := t, reconv := second } else .ok s1) with
          | .error e => stackTrap s k e
          | .ok s2 => goTo (setCur s2 { curGroup s2 with xm := fl }) k (x.pc + 20)
        else goTo s1 k (if fl = 0 then first else x.pc + 20)

/-- The divergence depth of the current call frame (R125). -/
def frameDepth (x : Group) : Nat := match x.call with | c :: _ => c.depth.toNat | [] => 0

/-- A divergence entry popped, once the spilled entries that the pop brings back can be read (R61; log entry 24). -/
def tryPopDiv (s : State) (g : Nat) : Except StackFault State :=
  match popDivFault s g with
  | some e => .error e
  | none => .ok (popDiv s g)

/-- A call-return entry popped, once the spilled entries that the pop brings back can be read (R61; log entry 24). -/
def tryPopCall (s : State) (g : Nat) : Except StackFault State :=
  match popCallFault s g with
  | some e => .error e
  | none => .ok (popCall s g)

/-- The loop of JOIN at an address (R125): the group after it, with the mask and the program counter set. -/
def joinLoop (s : State) (j next : DWord) : Nat → Except StackFault State
  | 0 => .ok (setCur s { curGroup s with pc := next })
  | fuel + 1 =>
    let x := curGroup s
    match x.div with
    | [] => .ok (setCur s { x with pc := next })
    | e :: _ =>
      if frameDepth x < depthD x && e.reconv = j then
        match tryPopDiv s s.cur with
        | .error b => .error b
        | .ok s =>
          if e.mask = 0 then joinLoop s j next fuel
          else
            .ok (setCur s { curGroup s with
              xm := e.mask, pc := if e.pc.getLsbD 0 then e.pc &&& ~~~(1 : DWord) else next })
      else .ok (setCur s { x with pc := next })

/-- JOIN of a length (R125). -/
def joinHere (s : State) (k : Issue) : Out :=
  let x := curGroup s
  issue s k <|
    match joinLoop s x.pc (x.pc + BitVec.ofNat 64 k.len) (depthD x + 1) with
    | .error e => stackTrap s k e
    | .ok t => goTo (setCur t { curGroup t with pc := x.pc }) k (curGroup t).pc

def execJoin (f : XForm) (s : State) : Out := joinHere s (ctlIssue f 12)
def execJoinBase (s : State) : Out := joinHere s { len := 4 }

/-! ## Calls (R127, R128) -/

/-- CALL and CALLX to a target. -/
def callTo (s : State) (k : Issue) (t : DWord) : Out :=
  let x := curGroup s
  match pushCall s s.cur { ret := x.pc + BitVec.ofNat 64 k.len, depth := BitVec.ofNat 64 (depthD x) } with
  | .error e => stackTrap s k e
  | .ok s => goTo s k t

def execCall (f : XForm) (s : State) : Out :=
  guarded s f (ctlIssue f 12) (callTo s (ctlIssue f 12) (labelAt (curGroup s) f.c))

def execCallx (f : XForm) (s : State) : Out :=
  let k := ctlIssue f 12
  let t := opnd s (curGroup s) false f.a 0
  guarded s f k (toTarget s k t (callTo s k t))

/-- RET at the depth that its entry recorded, or the stack-discipline trap (R127, R128, R334). -/
def execRet (f : XForm) (s : State) : Out :=
  let x := curGroup s
  let k := ctlIssue f 12
  guarded s f k <|
    match x.call with
    | [] => trapI s k 0x0A (depthD x % 256 + 2 ^ 16)
    | c :: _ =>
      if c.depth.toNat ≠ depthD x then trapI s k 0x0A (depthD x % 256 + 256 * (c.depth.toNat % 256))
      else
        match tryPopCall s s.cur with
        | .error e => stackTrap s k e
        | .ok s => goTo s k c.ret

/-! ## EXIT (R129) -/

/-- EXIT of a length: the live lanes leave, once the spilled entries from which the group then resumes can be read (log entry 24). -/
def exitLanes (s : State) (f : XForm) (k : Issue) : Out :=
  let x := curGroup s
  let m := live x f
  let next := x.pc + BitVec.ofNat 64 k.len
  issue s k <|
    if m = 0 then complete s k
    else
      let t := setCur s (advance x k.len (readsLatch k) false none)
      match removeFault t s.cur m next with
      | some e => stackTrap s k e
      | none => .next (removeLanes t s.cur m next)

def execExit (f : XForm) (s : State) : Out := exitLanes s f (ctlIssue f 12)
def execExitBase (g : Fin 4) (s : State) : Out := exitLanes s { gp := Fin.ofNat 16 g.val } { len := 4 }

/-! ## ELECT and VOTE (R130, R131) -/

/-- ELECT: the lowest live lane, as a predicate of one lane or as a number. -/
def execElect (f : XForm) (s : State) : Out :=
  let x := curGroup s
  let k := ctlIssue f 12
  let ls := lanes (live x f)
  issue s k <|
    match f.d with
    | .p n => .next (retire s (pWrite x n.val LaneMask.full (maskOf (ls.take 1))) k false none)
    | _ => completeScalar s x f k (BitVec.ofNat 64 (ls.headD 128))

/-- VOTE over the live lanes: the guard is read once (R116, R121), so they are the lanes of `xm` (log entry 39). -/
def execVote (f : XForm) (s : State) : Out :=
  let x := curGroup s
  let k := ctlIssue f 12
  let a : LaneMask := match f.a with | .p n => pRead x n.val | _ => 0
  let m := x.xm
  guarded s f k <|
    if f.fn = 0 then completeScalar s x f k (if a &&& m ≠ 0 then 1 else 0)
    else if f.fn = 1 then completeScalar s x f k (if m &&& ~~~a = 0 then 1 else 0)
    else
      let v := a &&& m
      let x := match f.d with
        | .s n => sWrite (hidden s s.cur) x (n.val + 1) (v.extractLsb' 64 64)
        | _ => x
      completeScalar s x f k (v.extractLsb' 0 64)

/-! ## WAIT (R132 to R134) -/

/-- DETAIL of a lattice-address trap (R334): outside the window, misaligned. -/
def latDetail (b : Block) (a n al : Nat) : Nat := (if inWindow b a n then 0 else 1) + (if a % al = 0 then 0 else 2)

/-- WAIT (R155). DESIGN CHOICE: the record of its barrier object's fault is that of a trap that concerns no lane, LANE 0xFF and MASK 0
with FLAGS[1] clear, as no rule gives WAIT's (log entry 113). -/
def execWait (f : XForm) (s : State) : Out :=
  let x := curGroup s
  let k := ctlIssue f (xLen f)
  let ev : Ev := match f.d with | .ev e => e | _ => .grant
  let obj := (opnd s x false f.b 0).toNat % 2 ^ 22
  let resume := match f.c with | .imm _ => labelAt x f.c | _ => x.pc + BitVec.ofNat 64 k.len
  guarded s f k <|
    if ev = .bar && !barOk (getBlock s x.block) obj then
      trapAt s k 0x1C 32 (latDetail (getBlock s x.block) obj 16 16) (BitVec.ofNat 64 obj) 0
    else waitOn s x ev obj (opnd s x false f.a 0) resume false

/-! ## The scheduler, the contact sheet and taken traps (R135) -/

/-- A group after a change of its own scheduling state. -/
def tune (s : State) (f : XForm) (h : Group → Group) : Out :=
  let k := ctlIssue f (xLen f)
  guarded s f k (.next (retire s (h (curGroup s)) k false none))

def execNop (f : XForm) (s : State) : Out := guarded s f (ctlIssue f 12) (complete s (ctlIssue f 12))
def execNopBase (g : Fin 4) (s : State) : Out := guarded s { gp := Fin.ofNat 16 g.val } { len := 4 } (complete s { len := 4 })
/-- The clocks of a group's die, `sy.cyc`. -/
def groupCyc (s : State) (g : Nat) : DWord := mapGet 0 s.cyc (groupDie g)
def execYield (f : XForm) (s : State) : Out := tune s f fun x => { x with yielding := true, yieldAt := groupCyc s s.cur }
/-- A group ranks below the others of its sub-core: it has yielded in one of the last 64 clocks (R135, R291). -/
def yields (s : State) (g : Nat) : Bool :=
  (getGroup s g).yielding && (groupCyc s g - (getGroup s g).yieldAt).toNat ≤ 64
/-- The 64 clocks of a YIELD have passed. -/
def execYieldEnd (g : Nat) (s : State) : Out :=
  if (getGroup s g).yielding && !yields s g then .next (modGroup s g fun x => { x with yielding := false }) else .fault .notDue
def execPrio (f : XForm) (s : State) : Out :=
  tune s f fun x => { x with prio := min (opnd s x false f.a 0).toNat 15 }
def execMark (f : XForm) (s : State) : Out :=
  let m := (opnd s (curGroup s) false f.a 0).setWidth 16
  tune (if runs (curGroup s) f && (curGroup s).mark ≠ m then owePhase s s.cur else s) f fun x => { x with mark := m }

/-- A trap of class C that the instruction itself takes: TRAP and SYSC (R135, R249). -/
def software (s : State) (f : XForm) (code : Nat) : Out :=
  let k := ctlIssue f (xLen f)
  let sw := (opnd s (curGroup s) false f.a 0).toNat
  let r := plainRec s s.cur code sw
  guarded s f k
    (.next (raiseTrap (retire s (curGroup s) k false none)
      { cls := .C, code, sw, recs := [r], epc := 0, uniform := false, elems := [] }))

def execTrap (f : XForm) (s : State) : Out := software s f 0x07
def execBkpt (f : XForm) (s : State) : Out :=
  let k := ctlIssue f 12
  guarded s f k (trapI s k 0x06 0)

end Sys2Proof.Machine
end

