-- ==== Sys2Proof/Machine/Loss.lean ====
section
/-! DEFINITION. The loss of a block (R360 to R362, R369, R402) and the parts of it that other ends share. -/

namespace Sys2Proof.Machine

/-- The deferred requests of a block's groups are withdrawn from every pool of its cores (R354, R360). -/
def withdraw (s : State) (b : Nat) : State :=
  let x := getBlock s b
  let uids := x.groups.map fun g => (getGroup s g).uid
  x.cores.foldl (fun s c => modCore s c fun k =>
    { k with pools := k.pools.map fun p => { p with queue := p.queue.filter fun d => match d with
        | .claim u _ => !uids.contains u
        | .restore r => r ≠ b } }) s

/-- The engine has begun an element: a piece of it has moved (R198, R360). -/
def Elem.begun (e : Elem) : Bool := !e.landed.isEmpty || !e.sent.isEmpty

/-- The copy elements of a block that the engine has not begun are dropped, from their rings too; those that have left the core
complete (R360). -/
def dropElems (s : State) (b : Nat) : State :=
  let gone : List Nat := (s.elems.filter fun e => e.2.block = b && !e.2.done && (!e.2.begun || e.2.stopped)).map (·.1)
  { s with
    elems := s.elems.map fun e => if gone.contains e.1 then (e.1, { e.2 with done := true, stopped := true }) else e
    cores := s.cores.map fun c => (c.1, { c.2 with rings := c.2.rings.map fun r => r.filter fun i => !gone.contains i }) }

/-- The accesses of a group that is lost: its loads are forgotten, and its atomics at a home complete without it (R360). -/
def dropLoads (s : State) (g : Nat) : State :=
  { s with loads := (s.loads.filter fun l => l.g ≠ g || l.dead || l.op.isSome).map fun l =>
      if l.g = g then { l with dead := true } else l }

/-- A block's groups stop at once: their transactions, tokens and loads are gone (R182, R360, R369). The update-only lines of its
cores are sent, because sums of other blocks may stand in them, and the end of its grid is a release (R169, R272, R275). -/
def stopGroups (s : State) (b : Nat) : State :=
  let s := (getBlock s b).cores.foldl sendAllGathers s
  (getBlock s b).groups.foldl (fun s g =>
    modGroup (dropLoads (dropLanes s g LaneMask.full) g) g fun x =>
      { x with status := .ended, idle := true, pend := [], held := none }) s

/-- The queue that a persistent grid serves (R279). -/
def gridQueue (r : Grid) : QRef := { part := r.part, ctx := r.ctx, host := false, q := r.lrec.qnum }

/-- The popped entries of a block go back to the head of their queue, marked retry-once; one that already is is dropped
(R360). -/
def returnPopped (s : State) (b : Nat) : State :=
  let x := getBlock s b
  let r := getGrid s x.grid
  if r.lrec.flags.getLsbD 5 then
    modQueue s (gridQueue r) fun q =>
      { q with front := (x.popped.filter fun e => !e.retry).map (fun e => (e.entry, true)) ++ q.front }
  else s

/-- DETAIL of the notice for a lost block (R362). -/
def lossDetail (x : Block) (m str : Nat) (psn qrt qdr : Bool) : Nat :=
  str + 16 + (if isGang x then 32 + 2 ^ 16 * m else 0) + (if qrt then 64 else 0) + (if qdr then 128 else 0)
    + (if psn then 256 else 0)

/-- A block is lost: `m` is the failing member, `str` the structure, `psn` that poisoned data was read at `va`, and `pa`
the physical address that the log carries, or 0 (R360 to R362, R374, R375, R380). The error itself is counted where it is found. -/
def loseBlock (s : State) (b m str : Nat) (psn : Bool) (va : DWord) (pa : Nat) : State :=
  let x := getBlock s b
  let r := getGrid s x.grid
  let c := x.cores.getD m 0
  let d := lossDetail x m str psn (x.popped.any fun e => !e.retry) (x.popped.any fun e => e.retry)
  let first := ((x.groups.filter fun g => slotCore g = c).head?).getD (slotKey c 0)
  let uid := (getGroup s first).uid
  let rec_ := { mkRec s first 0x3F 255 0 d va 0 0 with gtc := BitVec.ofNat 64 (dieGtc s (coreDie c)) }
  let bytes := recBytes s first 0 rec_
  let s := returnPopped (dropElems (withdraw (stopGroups s b) b) b) b
  let s := logEvent s r.part 8 (coreDie c) r.ctx (BitVec.ofNat 64 d) (BitVec.ofNat 64 pa)
  let s := endBlock (modGrid s x.grid fun g => { g with lost := true }) b .lost
  postNotice s uid (coreDie c) r.part r.ctx bytes

end Sys2Proof.Machine
end

