-- ==== Sys2Proof/Machine/Reach.lean ====
section
/-! DEFINITION. The shared shape of every access to global memory: translation and its faults per lane (R158, R205, R333,
R335, R343, R344, R403 to R405), transactions (R175 to R177, R182, R186), and results (R115, R116, R162). -/

namespace Sys2Proof.Machine

/-! ## Translation and its faults -/

/-- What an access does to its page: reads it, writes it, or updates it at a scope (the SC field as written). -/
inductive Need where
  | read
  | write
  | atom (sc : Sc)
  deriving DecidableEq, Repr

/-- An access that writes (R338 FLAGS[2]). -/
def Need.writes : Need → Bool
  | .read => false
  | _ => true

/-- A fault of an access: its code, DETAIL, and the entry that decided it (R334, R403). -/
structure AccFault where
  code : Nat
  detail : Nat
  entry : DWord
  deriving DecidableEq, Repr

/-- The scope of an atomic whose SC is 0 (R167). -/
def atomScope (sc : Sc) : Sc := if sc = .none then .prt else sc

/-- The place that an access of `n` bytes reaches, or its fault: restartable first, then non-canonical, misaligned, out of
range, protection, scope (R335). Inside a transaction an atomic on a DEV page is no protection fault (R175). -/
def reach (s : State) (p c : Nat) (need : Need) (n : Nat) (inTxn : Bool) (va : DWord) : Except AccFault Place :=
  let off := va.toNat % n ≠ 0
  match xlat s p c va with
  | .nonCanonical => .error ⟨0x19, 0, 0⟩
  | .absent l e => .error ⟨0x10, l, e⟩
  | .bad e => if off then .error ⟨0x18, Nat.log2 n, 0⟩ else .error ⟨0x19, 1, e⟩
  | .ok pa e l =>
    let x : Place := { space := space p pa, entry := e, level := l }
    if off then .error ⟨0x18, Nat.log2 n, 0⟩
    else if need.writes && pteRO e then .error ⟨0x1A, 0, e⟩
    else
      match need with
      | .atom sc =>
        if pteDEV e && !inTxn then .error ⟨0x1A, 1, e⟩
        else if inTxn then .ok x
        else
          match x.space with
          | .hbm _ => if x.dark && scRank .die < scRank (atomScope sc) then .error ⟨0x1B, scRank sc, 0⟩ else .ok x
          | .peer _ _ => if atomScope sc = .sys then .ok x else .error ⟨0x1B, scRank sc, 0⟩
          | .host _ => .ok x
      | _ => .ok x

/-- The lease class of a place: none for a DEV page (R56). -/
def Place.cls (x : Place) : Nat := if pteDEV x.entry then 0 else pteLSC x.entry

/-- A place that takes no request now: its home is on a resetting die (R387), or the partition's requests are stopped. -/
def placeBusy (s : State) (g : Nat) (x : Place) : Bool :=
  requestsStopped s (groupSpace s g).1 || (match x.space with | .hbm k => homeBusy s k | _ => false)

/-! ## Transactions of a lane (R175 to R177, R182) -/

/-- How a lane's access stands to a transaction. -/
inductive LaneMode where
  | plain | spec | irr | doomed
  deriving DecidableEq, Repr

/-- The mode of a lane of a group: accesses of a handler are plain (R341). -/
def laneMode (s : State) (g i : Nat) (inside : Bool) : LaneMode :=
  let t := mapGet {} (getGroup s g).txn i
  if !inside || !t.isOpen || hidden s g then .plain
  else if t.doomed.isSome then .doomed
  else if t.irr then .irr
  else .spec

/-- A lane's transaction changed. -/
def modTxn (s : State) (g i : Nat) (f : Txn → Txn) : State :=
  modGroup s g fun x => { x with txn := mapMod {} x.txn i f }

/-- A speculative lane doomed (R177). -/
def doomLane (s : State) (g i cause detail : Nat) : State := modTxn s g i fun t => doomTxn t cause detail

/-- An irrevocable lane's abort: its writes are withdrawn, its locks and the token released (R182). -/
def abortIrr (s : State) (g i cause detail : Nat) : State :=
  let t := mapGet {} (getGroup s g).txn i
  dropIrr (modTxn s g i fun t => { t with doomed := some (cause, detail), writes := [], lines := [], later := [] }) (groupSpace s g).1
    (getGroup s g).uid i t.lines

/-- What one lane's access came to: a value (or none, when it comes later or there is none), a fault, or poison read. -/
inductive Did where
  | done (s : State) (x : Option Nat)
  | fault (s : State) (f : AccFault)
  | lost (pa : Nat)

/-- The log entries of all lanes of a group: an irrevocable lane keeps no logs (R175, R182). -/
def logTotal (x : Group) (f : Txn → Nat) : Nat := x.txn.foldl (fun n e => n + if e.2.irr then 0 else f e.2) 0

/-- Bytes of a line that a log lists. -/
def logAt (log : List (Nat × AMap Byte)) (l : Nat) : AMap Byte := ((log.find? fun e => e.1 = l).map (·.2)).getD []
/-- A log with the bytes of a line changed; a new line stands last. -/
def logSet (log : List (Nat × AMap Byte)) (l : Nat) (m : AMap Byte) : List (Nat × AMap Byte) :=
  if log.any fun e => e.1 = l then log.map fun e => if e.1 = l then (l, m) else e else log ++ [(l, m)]

/-- Bytes that are not yet in a map are added to it. -/
def addNew (m new : AMap Byte) : AMap Byte := new.foldl (fun m e => if (mapFind m e.1).isSome then m else mapSet m e.1 e.2) m
/-- Bytes put over a map. -/
def putOver (m new : AMap Byte) : AMap Byte := new.foldl (fun m e => mapSet m e.1 e.2) m

/-- A speculative lane's access of `n` bytes to a coherent line: a logged read and, where `f` gives a value, a buffered
write (R175). -/
def specAccess (s : State) (g i k : Nat) (va : DWord) (cls n : Nat) (reads : Bool) (f : Nat → Option Nat) : Did :=
  let t := mapGet {} (getGroup s g).txn i
  let l := lineOf k
  let wlog := logAt t.writes l
  let need := reads && (mapBytes wlog (k % 128) n).isNone
  let newR := need && !(t.reads.any fun e => e.1 = l)
  if newR && 16 ≤ t.reads.length then .done (doomLane s g i 2 0) (some 0)
  else if newR && 1024 ≤ logTotal (getGroup s g) (·.reads.length) then .done (doomLane s g i 2 1) (some 0)
  else if reads && loadPoisoned s g k n wlog then .lost (keyPa k)
  else
    let r := if reads then cohLoad s g cls k n else ([], s)
    let now := overlay wlog (k % 128) r.1
    let s := r.2
    let fresh_ := (offsets k r.1).filter fun e => (mapFind wlog e.1).isNone
    let s := if need then
        modTxn s g i fun t => { t with
          reads := logSet t.reads l (addNew (logAt t.reads l) fresh_)
          vas := mapSet t.vas l (va - BitVec.ofNat 64 (k % 128)) }
      else s
    match f (leNat now) with
    | none => .done s (some (leNat now))
    | some y =>
      let newW := !(t.writes.any fun e => e.1 = l)
      if newW && 8 ≤ t.writes.length then .done (doomLane s g i 3 0) (some 0)
      else if newW && 512 ≤ logTotal (getGroup s g) (·.writes.length) then .done (doomLane s g i 3 1) (some 0)
      else
        .done (modTxn s g i fun t => { t with writes := logSet t.writes l (putOver wlog (offsets k (leBytes n y))) })
          (some (leNat now))

/-- The stores of a group to a line that have not been performed: at a line that one of its lanes has locked they wait for that lane's
TXE (R181). -/
def heldOwn (s : State) (uid l : Nat) : List PStore := s.stores.filter fun t => t.ofUid uid && t.going l

/-- Bytes of a line with those of held stores put over them in their order, but for what an irrevocable lane has written since (R159). -/
def heldView (s : State) (ts : List PStore) (later : List (Nat × Nat)) (m : AMap Byte) : AMap Byte :=
  ts.foldl (fun m t =>
    let val (n : Nat) : DWord := BitVec.ofNat 64 (leNat (overlay m (t.addr % 128) (nextBytes s t.addr n)))
    putOver m ((storeBytesOn val t).filter fun b => !later.contains (t.id, b.1))) m

/-- An irrevocable lane's access of `n` bytes: its first access to a line locks the line; a 65th line is a fault (R182). It reads what it
and the group have written in program order, and a write comes after the group's held stores (R159). -/
def irrAccess (s : State) (g i k n : Nat) (reads : Bool) (f : Nat → Option Nat) : Did :=
  let t := mapGet {} (getGroup s g).txn i
  let l := lineOf k
  let new := !t.lines.contains l
  if new && 64 ≤ t.lines.length then .fault s ⟨0x24, 0, 0⟩
  else if reads && atomPoisoned s g k n (logAt t.writes l) then .lost (keyPa k)
  else
    let s := if new then
        let s := combine (flushLine (flushOwn (sendGather s (slotCore g) l) g k) g k) l
        let s := setHome s l { getHome s l with lock := some ((getGroup s g).uid, i) }
        modTxn s g i fun t => { t with lines := t.lines ++ [l] }
      else s
    let s := settle s l
    let wlog := logAt t.writes l
    let held := heldOwn s (getGroup s g).uid l
    let now := overlay (heldView s held t.later wlog) (k % 128) (nextBytes s k n)
    match f (leNat now) with
    | none => .done s (some (leNat now))
    | some y =>
      let b := offsets k (leBytes n y)
      let late := held.flatMap fun u => (b.filter fun e => u.touches (128 * l + e.1) 1).map fun e => (u.id, e.1)
      .done (modTxn s g i fun t => { t with writes := logSet t.writes l (putOver wlog b), later := t.later ++ late })
        (some (leNat now))

/-- A transactional access of a lane to a place: an unsupported region aborts the lane with cause 8 (R175, R178, R182,
R315). -/
def txnAccess (s : State) (g i : Nat) (va : DWord) (x : Place) (n : Nat) (reads : Bool) (f : Nat → Option Nat) : Did :=
  let irr := (mapGet {} (getGroup s g).txn i).irr
  let out (d : Nat) : Did := .done (if irr then abortIrr s g i 8 d else doomLane s g i 8 d) (some 0)
  match x.space with
  | .hbm k =>
    if x.dark then out 0
    else if pteDEV x.entry then out 1
    else if irr then irrAccess s g i k n reads f
    else specAccess s g i k va x.cls n reads f
  | _ => out 1

/-! ## One instruction's accesses -/

/-- A lane that takes part, with its address, its mode and the place it reaches. -/
structure Tried where
  lane : Nat
  va : DWord
  mode : LaneMode
  at_ : Except AccFault Place

/-- What an access of an instruction is: whether it executes once, whether it lies inside transactions, what it needs of
the page, its width, and the address in a lane. -/
structure Access where
  uni : Bool
  inside : Bool
  need : Need
  n : Nat
  va : Nat → DWord

/-- The lanes of an access with the places they reach. -/
def tryLanes (s : State) (f : XForm) (a : Access) : List Tried :=
  let x := curGroup s
  let sp := groupSpace s s.cur
  let ls := if a.uni then (if runs x f then [lu x] else []) else lanes (live x f)
  ls.map fun i =>
    let m := laneMode s s.cur i a.inside
    { lane := i, va := a.va i, mode := m, at_ := reach s sp.1 sp.2 a.need a.n (m = .spec || m = .irr) (a.va i) }

/-- The lanes that go on: those that reach a place and are not doomed. -/
def reached_ (ts : List Tried) : List (Tried × Place) :=
  ts.filterMap fun t => match t.at_ with | .ok x => if t.mode = .doomed then none else some (t, x) | .error _ => none

/-- The lanes whose page is not present, and whose fault parks the group (R186, R345). -/
def absentLanes (ts : List Tried) : List (Tried × AccFault) :=
  ts.filterMap fun t => match t.at_ with
    | .ok _ => none
    | .error e => if e.code = 0x10 && (t.mode = .plain || t.mode = .irr) then some (t, e) else none

/-- FLAGS of an access's record beside the valid bit (R338). -/
def accFlags (a : Access) (irr : Bool) : Nat :=
  (if a.uni then 2 else 0) + (if a.need.writes then 4 else 0) + (if irr then 16 else 0)

/-- The instruction is nullified in every lane and the group parks (R205, R333, R345); an irrevocable lane aborts (R186). -/
def parkAccess (s : State) (k : Issue) (a : Access) (ps : List (Tried × AccFault)) : Out :=
  match ps with
  | [] => .next s
  | (t, e) :: _ =>
    let irr := t.mode = .irr
    let r := mkRec s s.cur 0x10 t.lane (accFlags a irr) e.detail t.va e.entry (maskOf (ps.map (·.1.lane)))
    let s' := ps.foldl (fun s p => if p.1.mode = .irr then abortIrr s s.cur p.1.lane 7 0x10 else s) s
    .next (parkFault s' s.cur (replayPc (curGroup s) k.ops) r)

/-- The outcome of the lanes so far: values, faults (in lane order) and the physical address of poison read. -/
structure Got where
  s : State
  vals : List (Nat × DWord) := []
  faults : List (Tried × AccFault) := []
  lost : Option (DWord × Nat) := none

/-- One lane whose access faulted: a speculative lane is doomed, an irrevocable lane aborts and is reported (R186, R350). -/
def laneFault (r : Got) (t : Tried) (e : AccFault) : Got :=
  match t.mode with
  | .spec => { r with s := doomLane r.s r.s.cur t.lane 7 e.code, vals := r.vals ++ [(t.lane, 0)] }
  | .irr => { r with s := abortIrr r.s r.s.cur t.lane 7 e.code, faults := r.faults ++ [(t, e)] }
  | .doomed => { r with vals := r.vals ++ [(t.lane, 0)] }
  | .plain => { r with faults := r.faults ++ [(t, e)] }

/-- One lane's access performed by a function, and its outcome added. -/
def laneDid (r : Got) (t : Tried) (put : Nat → DWord) : Did → Got
  | .done s x => { r with s, vals := r.vals ++ (x.map fun y => (t.lane, put y)).toList }
  | .fault s e => laneFault { r with s } t e
  | .lost pa => { r with lost := some (t.va, pa) }

/-- One lane's access (R175, R184): `plain` performs a plain lane's; for a transactional lane `reads` and the value that lane `i` writes
for the old one, and `put` makes the register value of the old one. In a doomed lane an atomic or CAS with a result writes 0: DESIGN
CHOICE, as R177 says so of loads and only that atomics make no access (log entry 95). -/
def laneStep (a : Access) (reads : Bool) (f : Nat → Nat → Option Nat) (put : Nat → DWord) (plain : Got → Tried × Place → Got)
    (r : Got) (t : Tried) : Got :=
  if r.lost.isSome then r
  else
    match t.mode, t.at_ with
    | .doomed, _ => { r with vals := r.vals ++ [(t.lane, 0)] }
    | _, .error e => laneFault r t e
    | .plain, .ok x => plain r (t, x)
    | _, .ok x => laneDid r t put (txnAccess r.s r.s.cur t.lane t.va x a.n reads (f t.lane))

/-- Two places lie in one line of the homes. -/
def sameLine (x y : Place) : Bool :=
  match x.space, y.space with
  | .hbm j, .hbm k => lineOf j = lineOf k
  | _, _ => false

/-- A read of a lane must wait before it is made: for an access of the group to the same bytes that a lock holds back, and inside a
transaction also for an earlier load or returning atomic of the group from the line (R159, R181), unless a lane of the group itself has
locked the line, when the speculative lane's validation decides (R179). A plain atomic waits where it is performed, and an irrevocable
lane reads the line that it has locked. -/
def readsWait (s : State) (ts : List Tried) (n : Nat) (plain : Bool) : Bool :=
  (reached_ ts).any fun e => match e.2.space with
    | .hbm k => !e.2.dark && (match e.1.mode with
        | .plain => plain && ownHeld s s.cur k n
        | .spec => (ownHeld s s.cur k n || lineWaits s s.cur k) && !ownLock s s.cur k
        | _ => false)
    | _ => false

/-- A transactional lane of the instruction reaches the line of a lane (R168). -/
def txnNear (ts : List Tried) (e : Tried × Place) : Bool :=
  (reached_ ts).any fun d => (d.1.mode = .spec || d.1.mode = .irr) && sameLine d.2 e.2

/-- A speculative lane would read a line before a lower plain lane's atomic on it, which a lock holds back, has been performed (R168). -/
def mixedWait (s : State) (ts : List Tried) : Bool :=
  (reached_ ts).any fun e => e.1.mode = .plain && txnNear ts e && (match e.2.space with
    | .hbm k => !e.2.dark && (lineWaits s s.cur k || (getHome s (lineOf k)).lock.isSome) && !ownLock s s.cur k
    | _ => false)

/-- A lane's place takes no access now; an irrevocable lane does not lock a line while the group waits for an earlier load or atomic of
its own from it, which could then never be performed (R159, R183). -/
def laneBusy (s : State) (e : Tried × Place) : Bool :=
  placeBusy s s.cur e.2 || (match e.2.space with
    | .hbm k => e.1.mode = .irr && !(mapGet {} (curGroup s).txn e.1.lane).lines.contains (lineOf k) && lineWaits s s.cur k
    | _ => false)

/-- The translations of lanes are cached (R366). -/
def fillTlb (s : State) (ts : List Tried) : State :=
  let sp := groupSpace s s.cur
  ts.foldl (fun s t => tlbFill s sp.1 sp.2 t.va) s

/-- A loaded value written where it belongs (R115, R116, R343): `vals` lists the lanes that have one. -/
def putVals (s : State) (g : Group) (f : XForm) (uni pair : Bool) (vals : List (Nat × DWord)) : Group :=
  if uni then
    match vals with
    | [] => g
    | (_, y) :: _ => putD s g f true pair fun _ => y
  else
    match f.d with
    | .v n => vPut g n.val pair (maskOf (vals.map (·.1))) fun i => ((vals.find? fun e => e.1 = i).map (·.2)).getD 0
    | _ => g

/-- What an access pushes (R41). -/
def pushVals (s : State) (g : Group) (f : XForm) (uni pair : Bool) (vals : List (Nat × DWord)) : Option Latch :=
  if !pushes f then none
  else if uni then (if runs g f then some (.scalar ((vals.head?.map (·.2)).getD (Config.latchLane s.tick (lu g)))) else none)
  else if live g f = 0 then none
  else
    some (.lanes ((List.range 128).map fun i =>
      match vals.find? fun e => e.1 = i with
      | some e => if pair then e.2 else (e.2.setWidth 32).setWidth 64
      | none => Config.latchLane s.tick i))

/-- The record of one lane's fault (R338, R343, R404). -/
def accRec (s : State) (a : Access) (m : LaneMask) (e : Tried × AccFault) : Rec :=
  mkRec s s.cur e.2.code e.1.lane (accFlags a (e.1.mode = .irr)) e.2.detail e.1.va e.2.entry m

/-- The end of an instruction's accesses: results are written, flags raised without a trap (R78), the group advances, and per-lane faults are
taken together (R335, R343, R405). A block that read poison is lost (R375). -/
def finishAccess (s0 : State) (r : Got) (f : XForm) (k : Issue) (a : Access) (pair : Bool) (fl : FFlags) : Out :=
  match r.lost with
  | some (va, pa) =>
    let b := (curGroup s0).block
    .next (loseBlock s0 b (memberOn (getBlock s0 b) (slotCore s0.cur)) 6 true va pa)
  | none =>
    let s := r.s
    let x := curGroup s
    let y := putVals s x f a.uni pair r.vals
    let push := pushVals s x f a.uni pair r.vals
    match r.faults with
    | [] => .next (retire s { y with fpflags := raiseFlags y.fpflags fl } k (pushes f) push)
    | e :: _ =>
      let m := maskOf (r.faults.map (·.1.lane))
      let recs := r.faults.map (accRec s0 a m)
      let s := retire s { y with fpflags := raiseFlags y.fpflags fl } k (pushes f) push
      .next (raiseTrap s { cls := .L, code := e.2.code, sw := 0, recs, epc := 0, uniform := a.uni, elems := [], issued := x.issued })

/-- An instruction's accesses (R335): the group parks when a page is not present, waits while a home does not answer, and
else every lane performs; `go` performs the lanes. -/
def accesses (s : State) (f : XForm) (k : Issue) (a : Access) (pair : Bool) (go : List Tried → Got × FFlags) : Out :=
  issue s k <|
    let ts := tryLanes s f a
    match absentLanes ts with
    | p :: ps => parkAccess s k a (p :: ps)
    | [] =>
      if (reached_ ts).any (laneBusy s) then stall s .lock
      else
        let r := go ts
        finishAccess s { r.1 with s := fillTlb r.1.s ts } f k a pair r.2

end Sys2Proof.Machine
end

