-- ==== Sys2Proof/Machine/Memory.lean ====
section
/-! DEFINITION. Loads, stores, prefetches and their later halves (R156 to R166, R253 to R257). -/

namespace Sys2Proof.Machine

/-! ## Plain loads -/

/-- What a pending access of a lane needs to come back. -/
def pendOf (s : State) (f : XForm) (a : Access) (t : Tried) (key : Nat) (x : Place) (ty : Ty) : PLoad :=
  let g := curGroup s
  { id := 0, g := s.cur, lane := t.lane, addr := key, va := t.va, size := a.n, ty, d := if f.sup then .unused else f.d
    uni := a.uni, mask := if a.uni then g.xm else maskOf [t.lane], cls := x.cls, issued := g.issued
    word := (plainRec s s.cur 0 0).word }

/-- One plain load of a lane (R160, R191, R253, R315): its value, or a pending load. -/
def plainLoad (late : Bool) (f : XForm) (a : Access) (r : Got) (e : Tried × Place) : Got :=
  let s := r.s
  let val (s : State) (b : List Byte) : Got := { r with s, vals := r.vals ++ [(e.1.lane, loadValue f.ty (leNat b))] }
  if r.lost.isSome then r
  else
    match e.2.space with
    | .hbm k =>
      if !e.2.dark && (late || lineWaits s s.cur k) then { r with s := deferLoad s (pendOf s f a e.1 k e.2 f.ty) }
      else if placePoisoned s s.cur e.2 a.n then { r with lost := some (e.1.va, keyPa k) }
      else if e.2.dark then
        let b := darkLoad s (groupDie s.cur) k a.n
        val b.2 b.1
      else
        let b := cohLoad s s.cur e.2.cls k a.n
        val b.2 b.1
    | .host k => val s (memBytes s.mem k a.n)
    | .peer ap off =>
      let id := s.nextId
      let s := deferLoad s { pendOf s f a e.1 (2 ^ 53 + 2 ^ 40 * ap + off) e.2 f.ty with peer := true }
      { r with s := sendPeer s (groupSpace s s.cur).1 (groupDie s.cur) ap off (.load a.n) (some id) none }

/-- LD and LDS (R164, R175, R176). A transactional lane's read is performed in the step that issues it, whatever the choice of `nextLate`:
DESIGN CHOICE, as R306 leaves the time between its issue and its use open (log entry 4). -/
def load (s : State) (f : XForm) (m : Mode) (inside : Bool) : Out :=
  let x := curGroup s
  let pair := wide f.ty
  let k := xIssue f (xLen f) (addrTop f (span pair) 0)
  let a : Access := { uni := uniform m f, inside, need := .read, n := tyBytes f.ty, va := globalAt s x f.a f.b }
  if readsWait s (tryLanes s f a) a.n true then issue s k (stall s .lock)
  else
    accesses s f k a pair fun ts =>
      let c := nextLate s
      (ts.foldl (laneStep a true (fun _ _ => none) (loadValue f.ty) (plainLoad c.1 f a)) { s := c.2 }, 0)

def execLd (f : XForm) (s : State) : Out := load s f .laneUni true

/-- The place in its prologue's working copy that an access of the issuing group reaches (R283). -/
def copyAt (s : State) (va : DWord) (n : Nat) : Option (Prologue × Nat) :=
  match (curGroup s).prologue with
  | none => none
  | some p => if (va - p.addr).toNat + n ≤ 128 && va.toNat % n = 0 then some (p, (va - p.addr).toNat) else none

/-- LDS; a prologue's group reads its working copy (R283). -/
def execLds (f : XForm) (s : State) : Out :=
  let x := curGroup s
  let k := xIssue f (xLen f) none
  match copyAt s (globalAt s x f.a f.b (lu x)) (tyBytes f.ty) with
  | some (p, o) => guarded s f k (completeScalar s x f k (loadValue f.ty (leNat ((p.copy.drop o).take (tyBytes f.ty)))))
  | none => load s f .once false

/-! ## Plain stores -/

/-- The plain bytes of an instruction for each line, highest lane last (R159): line, virtual address of the first lane,
bytes by offset. -/
abbrev LineBytes := List (Nat × DWord × AMap Byte)

/-- A lane's bytes added. -/
def addLine (m : LineBytes) (k : Nat) (va : DWord) (b : List Byte) : LineBytes :=
  let l := lineOf k
  if m.any fun e => e.1 = l then m.map fun e => if e.1 = l then (l, e.2.1, putOver e.2.2 (offsets k b)) else e
  else m ++ [(l, va, offsets k b)]

/-- The bytes that a store to one line of a coherent page sends (R160). -/
def storeCoherent (s : State) (e : Nat × DWord × AMap Byte) : State :=
  let s := sendGather (unforward s (curGroup s).uid e.1 e.2.2) (slotCore s.cur) e.1
  sendStore (keepOwn s (l1Holder s s.cur (128 * e.1)) e.1 e.2.2) s.cur (128 * e.1) e.2.1 (.bytes e.2.2) .sys none

/-- The bytes that a store to one darkroom line writes (R191). -/
def storeDark (s : State) (e : Nat × DWord × AMap Byte) : State :=
  let d := groupDie s.cur
  darkStoreRecord (darkWrite s d e.1 e.2.2) s.cur d (128 * e.1) e.2.1 e.2.2

/-- A plain store of lanes: `data` gives a lane's bytes (R159, R160, R191, R315). -/
def plainStores (s : State) (es : List (Tried × Place)) (data : Nat → List Byte) : State :=
  let coh := es.foldl (fun m e => match e.2.space with
    | .hbm k => if e.2.dark then m else addLine m k e.1.va (data e.1.lane)
    | _ => m) []
  let dark := es.foldl (fun m e => match e.2.space with
    | .hbm k => if e.2.dark then addLine m k e.1.va (data e.1.lane) else m
    | _ => m) []
  let s := dark.foldl storeDark (coh.foldl storeCoherent s)
  es.foldl (fun s e => match e.2.space with
    | .hbm _ => s
    | .host k => hostPut s k (data e.1.lane)
    | .peer ap off => storePeer s s.cur e.1.va ap off (.store (data e.1.lane)) (.bytes (offsets off (data e.1.lane)))) s

/-- The lanes of a store in increasing order (R159): the plain lanes' bytes make one access to each line, after the last of them, but
before an irrevocable lane's access to that line. -/
def storeLanes (s : State) (a : Access) (ts : List Tried) (data : Nat → List Byte) : Got :=
  let send (r : Got) (es : List (Tried × Place)) : Got := { r with s := plainStores r.s es data }
  let lane (r : Got) (t : Tried) : Got := laneStep a false (fun i _ => some (leNat (data i))) (fun _ => 0) (fun r _ => r) r t
  let r := ts.foldl (fun (r : Got × List (Tried × Place)) t =>
    match t.mode, t.at_ with
    | .plain, .ok x => (r.1, r.2 ++ [(t, x)])
    | .irr, .ok x =>
      let p := r.2.partition fun e => sameLine e.2 x
      (lane (send r.1 p.1) t, p.2)
    | _, _ => (lane r.1 t, r.2)) ({ s }, [])
  send r.1 r.2

/-- A store found no room in its L1 for its bytes: every line there has bytes that no home has made visible yet. -/
def noRoom (s t : State) : Bool :=
  (t.stores.drop s.stores.length).any fun u => u.going (lineOf u.addr)
    && (match u.op with | .bytes m => !m.isEmpty && !u.inCache t (storeHolder t u) | _ => false)

/-- ST and STS (R164, R175, R176). A store whose bytes the L1 cannot take waits until a line of it can go, so that the block sees a
core's stores in program order (R6, R160, R263; log entry 6). -/
def store (s : State) (f : XForm) (m : Mode) (inside : Bool) : Out :=
  let x := curGroup s
  let pair := wide f.ty
  let n := tyBytes f.ty
  let k := xIssue f (xLen f) (addrTop f 0 (span pair))
  let data (i : Nat) : DWord := opnd s x pair f.c i
  let a : Access := { uni := uniform m f, inside, need := .write, n, va := globalAt s x f.a f.b }
  let go (ts : List Tried) : Got := { storeLanes s a ts (fun i => leBytes n (data i).toNat) with vals := [] }
  let ts := tryLanes s f a
  if (absentLanes ts).isEmpty && noRoom s (go ts).s then issue s k (stall s .lock)
  else accesses s f k a false fun ts => (go ts, 0)

def execSt (f : XForm) (s : State) : Out := store s f .laneUni true

/-- STS; a prologue's group writes its working copy (R283). -/
def execSts (f : XForm) (s : State) : Out :=
  let x := curGroup s
  let k := xIssue f (xLen f) none
  let n := tyBytes f.ty
  match copyAt s (globalAt s x f.a f.b (lu x)) n with
  | some (p, o) =>
    let b := p.copy.take o ++ leBytes n (opnd s x (wide f.ty) f.c (lu x)).toNat ++ p.copy.drop (o + n)
    guarded s f k (.next (retire s { x with prologue := some { p with copy := b } } k false none))
  | none => store s f .once false

/-! ## The lattice (R49, R156, R163, R164, R205) -/

/-- The lanes of a lattice access: those that lie in the window and are aligned, and the others with DETAIL. -/
def latLanes (s : State) (f : XForm) (uni : Bool) (n : Nat) : List Nat × List (Nat × Nat) :=
  let x := curGroup s
  let b := getBlock s x.block
  let ls := if uni then (if runs x f then [lu x] else []) else lanes (live x f)
  let d (i : Nat) : Nat := latDetail b (latticeAt s x f.a f.b i) n n
  (ls.filter fun i => d i = 0, (ls.filter fun i => d i ≠ 0).map fun i => (i, d i))

/-- LDL and STL: faulting lanes are suppressed and reported, or a uniform form traps at issue (R205, R334, R343, R344);
`go` performs the good lanes. -/
def latticeAccess (s : State) (f : XForm) (k : Issue) (write pair : Bool) (n : Nat)
    (go : List Nat → State × List (Nat × DWord)) : Out :=
  let x := curGroup s
  let uni := uniform .auto f
  let ls := latLanes s f uni n
  let addr (i : Nat) : DWord := BitVec.ofNat 64 (latticeAt s x f.a f.b i)
  let fl := 32 + (if write then 4 else 0)
  issue s k <|
    match uni, ls.2 with
    | true, (i, d) :: _ => trapRec s k (mkRec s s.cur 0x1C i (fl + 2 + irrFlag x i) d (addr i) 0 (maskOf [i])) true
    | _, bad =>
      let r := go ls.1
      let y := putVals r.1 (curGroup r.1) f uni pair r.2
      let push := pushVals r.1 (curGroup r.1) f uni pair r.2
      match bad with
      | [] => finish r.1 y k (pushes f) push 0
      | _ =>
        let m := maskOf (bad.map (·.1))
        let recs := bad.map fun e => mkRec s s.cur 0x1C e.1 (fl + irrFlag x e.1) e.2 (addr e.1) 0 m
        .next (raiseTrap (retire r.1 y k (pushes f) push)
          { cls := .L, code := 0x1C, sw := 0, recs, epc := 0, uniform := false, elems := [] })

def execLdl (f : XForm) (s : State) : Out :=
  let x := curGroup s
  let pair := wide f.ty
  let n := tyBytes f.ty
  latticeAccess s f (xIssue f (xLen f) (topReg [(f.d, span pair), (f.b, 1)])) false pair n fun ls =>
    (readSources s x.uid s.nextId, ls.map fun i => (i, loadValue f.ty (latNat s (getBlock s x.block) (latticeAt s x f.a f.b i) n)))

def execStl (f : XForm) (s : State) : Out :=
  let x := curGroup s
  let pair := wide f.ty
  let n := tyBytes f.ty
  latticeAccess s f (xIssue f (xLen f) (topReg [(f.b, 1), (f.c, span pair)])) true pair n fun ls =>
    (ls.foldl (fun s i =>
      latPut s (getBlock s x.block) (latticeAt s x f.a f.b i) (leBytes n (opnd s x pair f.c i).toNat))
      (readSources s x.uid s.nextId), [])

/-! ## Prefetches and hints (R165, R166) -/

/-- A line of a context brought into a die's L2, and for a group into its L1 too, as leased copies of its page's class (R165); what
does not translate is dropped. The translation is cached, so that a TLBI finds what it brought (R254). -/
def prefetch (s : State) (sp : Nat × Nat) (d : Nat) (l1 : Option Nat) (va : DWord) : State :=
  match placeOf sp.1 (xlat s sp.1 sp.2 va) with
  | none => s
  | some x =>
    match x.space with
    | .hbm k =>
      if x.dark || pteDEV x.entry || requestsStopped s sp.1 || homeBusy s k || poisoned s (k / 128 * 128) 128 then s
      else
        let s := tlbFill s sp.1 sp.2 va
        match l1 with
        | some g => serveLoad s g k x.cls
        | none => if homeDie s k = d then s else homeServe s (l2Holder d) (lineOf k) x.cls
    | _ => s

/-- The lanes of a hint. -/
def hintLanes (x : Group) (f : XForm) : List Nat :=
  if uniform .auto f then (if runs x f then [lu x] else []) else lanes (live x f)

def execPref (f : XForm) (s : State) : Out :=
  let x := curGroup s
  let k := xIssue f (xLen f) (addrTop f 0 0)
  issue s k (complete ((hintLanes x f).foldl (fun s i => prefetch s (groupSpace s s.cur) (groupDie s.cur) (if f.cp = .l2 then none else some s.cur) (globalAt s x f.a f.b i)) s) k)

/-- PFA: each live lane's range joins the core's queue of 256 hints; one that finds it full is dropped (R166). A hint keeps its
context. -/
def execPfa (f : XForm) (s : State) : Out :=
  let x := curGroup s
  let k := xIssue f (xLen f) (addrTop f 0 0)
  let hs := (hintLanes x f).map fun i => (groupSpace s s.cur, (globalAt s x f.a f.b i).toNat, min (opnd s x false f.c i).toNat 65536)
  issue s k (complete (modCore s (slotCore s.cur) fun c => { c with hints := (c.hints ++ hs).take 256 }) k)

/-- The oldest hint of a core is served: its lines come into the die's L2 (R166). -/
def serveHint (s : State) (c : Nat) : State :=
  match (getCore s c).hints with
  | [] => s
  | (sp, va, n) :: r =>
    (List.range ((va % 128 + n + 127) / 128)).foldl
      (fun s i => prefetch s sp (coreDie c) none (BitVec.ofNat 64 (va / 128 * 128 + 128 * i)))
      (modCore s c fun k => { k with hints := r })

/-! ## Later halves (R162, R253 to R255) -/

/-- The lanes of a load that wait for one line: they make one access (R159). -/
def sameAccess (s : State) (l : PLoad) : List PLoad :=
  s.loads.filter fun m => m.uid = l.uid && m.issued = l.issued && m.got = none && m.op = none && !m.peer && lineOf m.addr = lineOf l.addr

/-- A pending load must wait for a lock before it can see the group's own earlier access (R159, R181). -/
def loadWaits (s : State) (l : PLoad) : Bool := ownHeld s l.g l.addr l.size

/-- LOAD_AT_HOME: a load that waits is served, and its value fixed; loads of one group to one line keep their order, and the
lanes of one instruction that touch the line are served together, by one request (R159, R392). -/
def execLoadAtHome (id : Nat) (s : State) : Out :=
  match s.loads.find? fun l => l.id = id with
  | none => .fault .notDue
  | some l =>
    let first := s.loads.find? fun m => m.uid = l.uid && m.got = none && lineOf m.addr = lineOf l.addr
    if l.got.isSome || l.peer || l.op.isSome || (first.map (·.id)) ≠ some id || homeBusy s l.addr || (sameAccess s l).any (loadWaits s) then .fault .notDue
    else
      let s := reroute s l.part l.vers
      match (sameAccess s l).find? fun m => !m.dead && loadPoisoned s m.g m.addr m.size [] with
      | some m =>
        let b := (getGroup s l.g).block
        .next (loseBlock s b (memberOn (getBlock s b) (slotCore l.g)) 6 true m.va (keyPa m.addr))
      | none => .next ((sameAccess s l).foldl performPending s)

/-- LOAD_RESULT: a value that has come back is written to its destination. -/
def execLoadResult (id : Nat) (s : State) : Out :=
  match s.loads.find? fun l => l.id = id with
  | none => .fault .notDue
  | some l => match l.got with
    | none => .fault .notDue
    | some x => .next (giveResult s l x)

/-- Whether a store in flight may be performed now: it is the core's oldest to its line, its line is not locked, and its
home answers (R159, R181, R182, R387). -/
def storeReady (s : State) (t : PStore) : Bool :=
  t.performed.isNone && t.dark.isNone && t.peer.isNone && !t.lost && !storeBlocked t s.stores
    && (getHome s (lineOf t.addr)).lock.isNone && !homeBusy s t.addr

/-- STORE_PERFORMED: a store in flight is applied at its home (R255). -/
def execStorePerformed (id : Nat) (s : State) : Out :=
  match s.stores.find? fun t => t.id = id with
  | none => .fault .notDue
  | some t =>
    match t.op with
    | .bytes _ => if storeReady s t then .next (performStore s (storeHolder s t) t) else .fault .notDue
    | _ => .fault .notDue

/-- LEASE_EXPIRY: a copy whose lease has expired is dropped; bytes that its core has stored stay (R254). -/
def execLeaseExpiry (holder line : Nat) (s : State) : Out :=
  match getCopy s holder line with
  | none => .fault .notDue
  | some c =>
    match c.expiry with
    | none => .fault .notDue
    | some e =>
      let d := if holder < 288 then coreDie holder else holder - 288
      if dieGtc s d < e then .fault .notDue
      else if c.own.isEmpty then .next (dropCopy s holder line)
      else if c.bytes.isEmpty then .fault .notDue
      else .next (setCopy s holder line { c with bytes := [], expiry := some 0 })

end Sys2Proof.Machine
end

