-- ==== Sys2Proof/Machine/Atomics.lean ====
section
/-! DEFINITION. Atomics and CAS (R167 to R172, R205). -/

namespace Sys2Proof.Machine

/-! ## Gathering (R169) -/

/-- A no-return add gathered in the issuing core's update-only line: an update of another type or operation first sends
the line's sums; floating sums are rounded at every update. The line names every group that has updated it and the scope (R172,
R272). An L1 in which no line can go does not gather: the add goes to the home (R6). DESIGN CHOICE: an update of another rounding
mode sends the line's sums as well, as R169 and R88 leave the mode of their combination open (log entry 17). -/
def gatherAdd (s : State) (g k : Nat) (va : DWord) (sc : Sc) (ty : Ty) (fx : Bool) (rm : Rm) (x : DWord) : State :=
  let c := slotCore g
  let l := lineOf k
  let sp := groupSpace s g
  let rm := if tyFloat ty then rm else .rn
  let s := match mapFind (getCore s c).gather l with
    | some h => if h.ty = ty && h.fx = fx && h.rm = rm && (h.part, h.ctx) = sp then s else sendGather s c l
    | none => s
  let s := dropCopies s g l
  let s := if (mapFind (getCore s c).gather l).isSome then s else l1Room (ownRoom s c l) c
  if (mapFind (getCore s c).gather l).isNone && l1Full s c then
    sendStore s g k va (if fx then .atomx x else .atom 0 ty rm x) sc none
  else
    let h : Gather := (mapFind (getCore s c).gather l).getD { part := sp.1, ctx := sp.2, ty, fx, rm, sums := [], va := va - BitVec.ofNat 64 (k % 128) }
    let who := ((getGroup s g).uid, (groupBlock s g).grid, sc)
    let old := mapGet 0 h.sums (k % 128)
    let y := if fx then old + x else atomOp 0 ty rm old x
    modCore s c fun m => { m with gather := mapSet m.gather l { h with
      sums := mapSet h.sums (k % 128) y, whom := if h.whom.contains who then h.whom else h.whom ++ [who] } }

/-! ## One lane -/

/-- What an atomic instruction does in a lane: its operation, and whether it is an add that a combining page gathers. -/
structure LaneAtom where
  op : FabOp
  adds : Bool
  deriving DecidableEq, Repr

/-- The store that carries a no-return atomic to its home. -/
def atomStore : FabOp → StoreOp
  | .atom fn ty rm x => .atom fn ty rm x
  | .atomf fn ty rm x => .atomf fn ty rm x
  | .atomx y => .atomx y
  | .cas _ _ _ => .bytes []
  | .load _ => .bytes []
  | .store b => .bytes (offsets 0 b)

/-- The gathered form of an add. -/
def gatherOp (s : State) (g k : Nat) (va : DWord) (sc : Sc) : FabOp → State
  | .atom _ ty rm x => gatherAdd s g k va sc ty false rm x
  | .atomf _ ty rm x => gatherAdd s g k va sc ty false rm x
  | .atomx y => gatherAdd s g k va sc .fx true .rn y
  | _ => s

/-- One plain atomic of a lane (R168, R169, R172): performed at its home, or sent there without a result. -/
def plainAtomic (late : Bool) (f : XForm) (a : Access) (sc : Sc) (op : Nat → LaneAtom) (r : Got) (e : Tried × Place) : Got :=
  let s := r.s
  let o := (op e.1.lane).op
  let fn := atomFn o
  let val (x : DWord × State) : Got :=
    { r with s := x.2, vals := r.vals ++ [(e.1.lane, loadValue (atomTy o) (extend false (8 * a.n) x.1).toNat)] }
  if r.lost.isSome then r
  else
    match e.2.space with
    | .hbm k =>
      if e.2.dark then
        (if placePoisoned s s.cur e.2 a.n then { r with lost := some (e.1.va, keyPa k) } else val (atomicDark s s.cur k e.1.va a.n fn))
      else if f.sup then
        if pteCMB e.2.entry && (op e.1.lane).adds then { r with s := gatherOp s s.cur k e.1.va sc o }
        else { r with s := sendStore (sendGather s (slotCore s.cur) (lineOf k)) s.cur k e.1.va (atomStore o) sc none }
      else if late || lineWaits s s.cur k || lineHeld s (lineOf k) then
        { r with s := deferLoad s { pendOf s f a e.1 k e.2 (atomTy o) with op := some o, sc } }
      else if atomPoisoned s s.cur k a.n [] then { r with lost := some (e.1.va, keyPa k) }
      else val (atomicAt s s.cur k e.1.va sc a.n fn)
    | .host k => val (atomicHost s k a.n fn)
    | .peer ap off =>
      if f.sup then { r with s := storePeer s s.cur e.1.va ap off o (atomStore o) }
      else
        let id := s.nextId
        let s := deferLoad s { pendOf s f a e.1 (2 ^ 53 + 2 ^ 40 * ap + off) e.2 (atomTy o) with op := some o, peer := true, sc }
        { r with s := sendPeer s (groupSpace s s.cur).1 (groupDie s.cur) ap off o (some id) none }

/-- An atomic instruction of a width: `op` is a lane's operation, `fl` the flags that its conversion raises, none under a zero mask (R76). One
without a destination has no result and pushes none (R168). In a doomed lane, which makes no access, the conversion raises no flag:
DESIGN CHOICE, as R170 converts before the access and R177 says only that none is made (log entry 102). The lanes act in increasing order
(R168), and a plain lane's atomic on a line that a transactional lane also names is not left to a later step (R183). -/
def atomic (s : State) (f : XForm) (k : Issue) (pair : Bool) (n : Nat) (op : Nat → LaneAtom) (fl : Nat → FFlags) : Out :=
  let x := curGroup s
  let a : Access := { uni := uniform .laneUni f, inside := true, need := .atom f.sc, n, va := globalAt s x f.a f.b }
  let ts := tryLanes s { f with sup := false } a
  if readsWait s ts n false || mixedWait s ts then issue s k (stall s .lock)
  else accesses s { f with sup := false } k a pair fun ts =>
    let c := if f.sup then (false, s) else nextLate s
    let fn (i old : Nat) : Option Nat := (atomFn (op i).op (BitVec.ofNat 64 old)).map fun y => y.toNat % 2 ^ (8 * n)
    let plain (r : Got) (e : Tried × Place) : Got := plainAtomic (c.1 && !txnNear ts e) f a (atomScope f.sc) op r e
    let r := ts.foldl (laneStep a true fn (loadValue (atomTy (op 0).op)) plain) { s := c.2 }
    (r, if x.xm = 0 then 0 else (reached_ ts).foldl (fun m e => m ||| fl e.1.lane) 0)

/-- The issue of an atomic whose destination and operand name `d` and `c` registers. -/
def atomIssue (f : XForm) (d c : Nat) : Issue := xIssue f (xLen f) (addrTop f d c)

/-! ## The instructions -/

def execAtom (f : XForm) (s : State) : Out :=
  let x := curGroup s
  let p := wide f.ty
  atomic s f (atomIssue f (span p) (span p)) p (tyBytes f.ty)
    (fun i => { op := .atom f.fn f.ty f.rm (opnd s x p f.c i), adds := f.fn = 0 }) fun _ => 0

def execAtomf (f : XForm) (s : State) : Out :=
  let x := curGroup s
  let p := wide f.ty
  atomic s f (atomIssue f (span p) (span p)) p (tyBytes f.ty)
    (fun i => { op := .atomf f.fn f.ty f.rm (opnd s x p f.c i), adds := false }) fun _ => 0

/-- ATOMX: the lane's value converted to FX64 with the binary point in FN (R74, R170). -/
def atomxValue (f : XForm) (x : DWord) : DWord × FFlags :=
  if f.ty = .fx then (x, 0) else convert f.ty .fx f.rm f.fn.toNat x

def execAtomx (f : XForm) (s : State) : Out :=
  let x := curGroup s
  let p := wide f.ty
  atomic s f (atomIssue f 2 (span p)) true 8
    (fun i => { op := .atomx (atomxValue f (opnd s x p f.c i)).1, adds := true }) fun i => (atomxValue f (opnd s x p f.c i)).2

def execCas (f : XForm) (s : State) : Out :=
  let x := curGroup s
  let p := wide f.ty
  atomic s f (atomIssue f (span p) (span p)) p (tyBytes f.ty)
    (fun i => { op := .cas f.ty (opnd s x p f.d i) (opnd s x p f.c i), adds := false }) fun _ => 0

/-- ATOMIC_AT_HOME: an atomic that waits is performed indivisibly at its line's home, in the order in which it was sent
(R168): one without a result from the stores in flight, one with a result from the pending loads. -/
def execAtomicAtHome (id : Nat) (s : State) : Out :=
  match s.stores.find? fun t => t.id = id with
  | some t =>
    (match t.op with
      | .bytes _ => .fault .notDue
      | _ => if storeReady s t then .next (performStore s (storeHolder s t) t) else .fault .notDue)
  | none =>
    match s.loads.find? fun l => l.id = id with
    | none => .fault .notDue
    | some l =>
      let first := s.loads.find? fun m => m.uid = l.uid && m.got = none && lineOf m.addr = lineOf l.addr
      if l.op.isNone || l.got.isSome || l.peer || (first.map (·.id)) ≠ some id || lineHeld s (lineOf l.addr) then .fault .notDue
      else
        let s := reroute s l.part l.vers
        if l.dead && poisonedNext s l.addr l.size then .next { s with loads := s.loads.filter fun m => m.id ≠ id }
        else if !l.dead && atomPoisoned s l.g l.addr l.size [] then
          let b := (getGroup s l.g).block
          .next (loseBlock s b (memberOn (getBlock s b) (slotCore l.g)) 6 true l.va (keyPa l.addr))
        else .next (performPending s l)

end Sys2Proof.Machine
end

