-- ==== Sys2Proof/Machine/Crypto.lean ====
section
/-! DEFINITION. The digest and the signature check that R330 and R331 name: SHA-384, and ECDSA over the brainpoolP384r1 curve of RFC 5639.
Their definitions are those of the standards, which the spec names and does not repeat (log entry 14). -/

namespace Sys2Proof.Machine

/-! ## SHA-384 -/

/-- The greatest number below 2^`n` whose `k`-th power is at most `x`, bit by bit from the top. -/
def floorRoot (k n x : Nat) : Nat :=
  (List.range n).reverse.foldl (fun r i => if (r + 2 ^ i) ^ k ≤ x then r + 2 ^ i else r) 0

/-- The first `n` primes, as far as they lie below 512. -/
def firstPrimes (n : Nat) : List Nat :=
  (((List.range 512).drop 2).filter fun p => ((List.range 23).drop 2).all fun d => p ≤ d || p % d ≠ 0).take n

/-- The first 64 bits of the fraction of a prime's `k`-th root, which the standard takes its constants from. -/
def rootFraction (k p : Nat) : BitVec 64 := BitVec.ofNat 64 (floorRoot k 70 (p * 2 ^ (64 * k)))

/-- The round constants: the fractions of the cube roots of the first 80 primes. -/
def shaK : List (BitVec 64) := (firstPrimes 80).map (rootFraction 3)

/-- The initial digest: the fractions of the square roots of the 9th to 16th primes. -/
def shaInit : List (BitVec 64) := ((firstPrimes 16).drop 8).map (rootFraction 2)

/-- A number in `n` bytes, the most significant first. -/
def beBytes : Nat → Nat → List Byte
  | 0, _ => []
  | n + 1, x => BitVec.ofNat 8 (x / 2 ^ (8 * n)) :: beBytes n x

/-- The number whose bytes, the most significant first, are a list. -/
def beNat (b : List Byte) : Nat := b.foldl (fun a x => 256 * a + x.toNat) 0

/-- A list cut into pieces of `k`. -/
def chunks {α : Type} (k : Nat) : Nat → List α → List (List α)
  | 0, _ => []
  | _, [] => []
  | n + 1, l => l.take k :: chunks k n (l.drop k)

/-- A message with its padding: a one bit, zeros, and its length in bits as 16 bytes. -/
def shaPad (m : List Byte) : List Byte :=
  m ++ [0x80] ++ List.replicate ((239 - m.length % 128) % 128) 0 ++ beBytes 16 (8 * m.length)

/-- The message schedule, from the last 16 words to `n` more. -/
def shaSchedule : Nat → List (BitVec 64) → List (BitVec 64)
  | 0, w => w
  | n + 1, w =>
    let at_ (i : Nat) : BitVec 64 := w.getD (w.length - i) 0
    let s0 := let x := at_ 15; x.rotateRight 1 ^^^ x.rotateRight 8 ^^^ x >>> 7
    let s1 := let x := at_ 2; x.rotateRight 19 ^^^ x.rotateRight 61 ^^^ x >>> 6
    shaSchedule n (w ++ [at_ 16 + s0 + at_ 7 + s1])

/-- One round of the compression. -/
def shaRound (v : List (BitVec 64)) (kw : BitVec 64 × BitVec 64) : List (BitVec 64) :=
  match v with
  | [a, b, c, d, e, f, g, h] =>
    let s1 := e.rotateRight 14 ^^^ e.rotateRight 18 ^^^ e.rotateRight 41
    let t1 := h + s1 + (e &&& f ^^^ ~~~e &&& g) + kw.1 + kw.2
    let s0 := a.rotateRight 28 ^^^ a.rotateRight 34 ^^^ a.rotateRight 39
    let t2 := s0 + (a &&& b ^^^ a &&& c ^^^ b &&& c)
    [t1 + t2, a, b, c, d + t1, e, f, g]
  | v => v

/-- One block of 128 bytes compressed into a digest. -/
def shaBlock (h : List (BitVec 64)) (b : List Byte) : List (BitVec 64) :=
  let w := shaSchedule 64 ((chunks 8 16 b).map fun x => BitVec.ofNat 64 (beNat x))
  List.zipWith (· + ·) h ((shaK.zip w).foldl shaRound h)

/-- The SHA-384 digest of a byte string: 48 bytes. -/
def sha384 (m : List Byte) : List Byte :=
  let p := shaPad m
  (((chunks 128 (p.length / 128) p).foldl shaBlock shaInit).take 6).flatMap fun x => beBytes 8 x.toNat

/-! ## ECDSA over brainpoolP384r1 -/

/-- The prime of the field, the coefficients of the curve, its generator and its order. -/
def curveP : Nat := 0x8CB91E82A3386D280F5D6F7E50E641DF152F7109ED5456B412B1DA197FB71123ACD3A729901D1A71874700133107EC53
def curveA : Nat := 0x7BC382C63D8C150C3C72080ACE05AFA0C2BEA28E4FB22787139165EFBA91F90F8AA5814A503AD4EB04A8C7DD22CE2826
def curveB : Nat := 0x04A8C7DD22CE28268B39B55416F0447C2FB77DE107DCD2A62E880EA53EEB62D57CB4390295DBC9943AB78696FA504C11
def curveG : Nat × Nat :=
  (0x1D1C64F068CF45FFA2A63A81B7C13F6B8847A3E77EF14FE3DB7FCAFE0CBD10E8E826E03436D646AAEF87B2E247D4AF1E,
   0x8ABE1D7520F9C2A45CB1EB8E95CFD55262B70B29FEEC5864E19C054FF99129280E4646217791811142820341263C5315)
def curveN : Nat := 0x8CB91E82A3386D280F5D6F7E50E641DF152F7109ED5456B31F166E6CAC0425A7CF3AB6AF6B7FC3103B883202E9046565

/-- A power modulo `m`, for exponents below 2^384. -/
def powMod (m x e : Nat) : Nat :=
  (List.range 384).reverse.foldl (fun r i => if e.testBit i then r * r % m * x % m else r * r % m) 1

/-- The inverse modulo a prime. -/
def invMod (m x : Nat) : Nat := powMod m (x % m) (m - 2)

/-- A difference modulo `m`. -/
def subMod (m x y : Nat) : Nat := (x + (m - y % m)) % m

/-- The point on the line of slope `l` through two points of the curve, reflected. -/
def pointOn (l x1 y1 x2 : Nat) : Nat × Nat :=
  let x := subMod curveP (l * l) (x1 + x2)
  (x, subMod curveP (l * subMod curveP x1 x) y1)

/-- The sum of two points of the curve; `none` is the point at infinity. -/
def pointAdd : Option (Nat × Nat) → Option (Nat × Nat) → Option (Nat × Nat)
  | none, q => q
  | p, none => p
  | some (x1, y1), some (x2, y2) =>
    if x1 = x2 then
      if (y1 + y2) % curveP = 0 then none
      else some (pointOn ((3 * x1 * x1 + curveA) * invMod curveP (2 * y1) % curveP) x1 y1 x2)
    else some (pointOn (subMod curveP y2 y1 * invMod curveP (subMod curveP x2 x1) % curveP) x1 y1 x2)

/-- A multiple of a point, for factors below 2^384. -/
def pointMul (k : Nat) (p : Option (Nat × Nat)) : Option (Nat × Nat) :=
  (List.range 384).reverse.foldl (fun r i => if k.testBit i then pointAdd (pointAdd r r) p else pointAdd r r) none

/-- A point of the curve. -/
def onCurve (p : Nat × Nat) : Bool :=
  p.1 < curveP && p.2 < curveP && p.2 * p.2 % curveP = (p.1 * p.1 * p.1 + curveA * p.1 + curveB) % curveP

/-- A signature `r ‖ s` of 96 bytes verifies over a digest under the public key `x ‖ y` of 96 bytes. -/
def ecdsaVerify (key digest sig : List Byte) : Bool :=
  let q := (beNat (key.take 48), beNat (key.drop 48))
  let r := beNat (sig.take 48)
  let s := beNat (sig.drop 48)
  let w := invMod curveN s
  onCurve q && 0 < r && r < curveN && 0 < s && s < curveN
    && (match pointAdd (pointMul (beNat digest * w % curveN) (some curveG)) (pointMul (r * w % curveN) (some q)) with
        | some p => p.1 % curveN = r
        | none => false)

end Sys2Proof.Machine
end

