-- ==== Sys2Proof/Machine/Txn.lean ====
section
/-! DEFINITION. Transactions: TXB, TXE, TXA, TXQ, the commit and its visibility, and the irrevocable token (R173, R174,
R178 to R185, R350, R368). -/

namespace Sys2Proof.Machine

/-! ## TXB (R174, R182) -/

/-- A lane's transaction deepened: beyond depth 15 a speculative lane is doomed and an irrevocable lane aborts (R174,
R182). -/
def deepen (s : State) (g i : Nat) : State :=
  let t := mapGet {} (getGroup s g).txn i
  if t.depth < 15 then modTxn s g i fun t => { t with depth := t.depth + 1 }
  else if t.irr && t.doomed.isNone then abortIrr s g i 10 0
  else doomLane s g i 10 0

/-- The token may go to a lane: it is free, and reserved for no other lane (R174). -/
def tokenFor (s : State) (p uid i : Nat) : Bool :=
  let pt := getPart s p
  pt.tok.isNone && (pt.tokQ.isEmpty || pt.tokQ.head? = some (uid, i))

/-- A candidate lane takes the token or queues for it (R174). -/
def seekToken (s : State) (g i : Nat) : State :=
  let uid := (getGroup s g).uid
  let p := (groupSpace s g).1
  if tokenFor s p uid i then
    modTxn (modPart s p fun pt => { pt with tok := some (uid, i), tokQ := pt.tokQ.filter (· ≠ (uid, i)), resv := none }) g i
      fun t => { t with irr := true }
  else
    let pt := getPart s p
    let s := if pt.tokQ.contains (uid, i) then s
      else modPart s p fun pt => { pt with
        tokQ := pt.tokQ ++ [(uid, i)]
        resv := if pt.tok.isNone && pt.tokQ.isEmpty then some s.gtc.toNat else pt.resv }
    doomLane s g i 5 1

def execTxb (f : XForm) (s : State) : Out :=
  let x := curGroup s
  let k := xIssue f (xLen f) (topReg [(f.a, 1)])
  let limit := match f.b with | .unused => 8 | o => (opnd s x false o 0).toNat
  let ls := lanes (live x f)
  let isNew (i : Nat) : Bool := !(mapGet {} x.txn i).isOpen
  issue s k
    (let s1 := ls.foldl (fun s i =>
        if isNew i then modTxn s s.cur i fun _ => { isOpen := true, depth := 1 } else deepen s s.cur i) s
     let s2 := (ls.filter fun i => isNew i && limit ≤ (opnd s x false f.a i).toNat % 2 ^ 32).foldl
        (fun s i => seekToken s s.cur i) s1
     complete s2 k)

/-! ## The commit (R179, R180) -/

/-- The first read-log entry that differs from the lines' next images (R179). -/
def validate (s : State) (reads : List (Nat × AMap Byte)) : Option Nat :=
  reads.findIdx? fun e => e.2.any fun b => nextByte s (128 * e.1 + b.1) ≠ b.2

/-- The time of visibility of a commit that writes some lines (R179, R180). -/
def commitTime (s : State) (d : Nat) (lines : List Nat) : Nat :=
  lines.foldl (fun t l => max t (max (horizon s l + 4) ((lastVisible (getHome s l)).getD 0))) (dieGtc s d + 4)

/-- A commit's bytes of one line put into a next image that becomes visible at `t` (R179, R180). -/
def commitLine (s : State) (t : Nat) (e : Nat × AMap Byte) : State :=
  let l := e.1
  if homeGone s (128 * l) then
    countUe s (keyPart (128 * l))
  else
    let h := getHome s l
    let next := if lastVisible h = some t then putLast e.2 h.next else h.next ++ [(t, e.2)]
    setHome s l { h with next, cleans := h.cleans ++ willClean s l t e.2 }

/-- The group's core's earlier stores and updates of a line are performed, and every gathered sum of it combined, before a commit
looks at it (R159, R169, R262). -/
def readyLine (g : Nat) (s : State) (l : Nat) : State :=
  settle (combine (flushLine (flushOwn (sendGather s (slotCore g) l) g (128 * l)) g (128 * l)) l) l

/-- A store in flight of a group will write a byte of a line after a commit of the group: a lock of its own has held it back, and the
group's loads find its byte (R159, R182). -/
def laterOwn (s : State) (uid l o : Nat) : Bool :=
  s.stores.any fun t => t.ofUid uid && t.going l && (match t.op with | .bytes m => (mapFind m o).isSome | _ => false)

/-- A lane's write log applied with one time of visibility; the committing group's later loads are forwarded the bytes
until then, and the commit counts as a store that completes then (R179, R180, R187). -/
def applyCommit (s : State) (g : Nat) (writes : List (Nat × AMap Byte)) : State :=
  let s := (writes.map (·.1)).foldl (readyLine g) s
  let t := commitTime s (groupDie g) (writes.map (·.1))
  let s := writes.foldl (fun s e => fill (commitLine s t e) (fillTxe (getGroup s g).uid) e.1 e.2) s
  let s := writes.foldl (fun s e => doneStore (dropCopies s g e.1) g (128 * e.1) 0 t .sys true) s
  modGroup s g fun x =>
    { x with fwd := x.fwd.filter (fun e => dieGtc s (groupDie g) < e.2.1)
        ++ writes.map fun e => (e.1, t, e.2.filter fun b => !laterOwn s x.uid e.1 b.1) }

/-- An irrevocable lane's commit (R182): its bytes, and those of the group's stores that its locks have held back and over which it has
written since, in program order (R159, R181). -/
def commitIrr (s : State) (g : Nat) (t : Txn) : State :=
  let early (l : Nat) : List PStore :=
    let held := heldOwn s (getGroup s g).uid l
    held.filter fun u => held.any fun v => u.id ≤ v.id && t.later.any fun e => e.1 = v.id
  let ws := t.writes.map fun e => (e.1, heldView s (early e.1) t.later e.2)
  let c := commitTime s (groupDie g) (ws.map (·.1))
  let us := (t.writes.flatMap fun e => early e.1)
  let r := applyCommit { s with stores := modWhere s.stores (fun u => us.any (·.id = u.id)) fun u => { u with performed := some c } } g ws
  us.foldl (fun s u => ownDone s (storeHolder s u) (lineOf u.addr) (match u.op with | .bytes m => m | _ => [])) r

/-- The lines of a transaction's logs. -/
def logLines (t : Txn) : List Nat := ((t.reads ++ t.writes).map (·.1)).eraseDups

/-- A lane's commit at its homes (R179, R182, R368): the lines are locked, validated, decided and applied. The state, and
the cause and detail of TXE. DESIGN CHOICE: a commit that meets a line locked by the token holder aborts, as R179 says, and does not
wait, as R181 says (log entry 114). -/
def commitLane (s : State) (g i : Nat) : State × Nat × Nat :=
  let x := getGroup s g
  let t := mapGet {} x.txn i
  match t.doomed with
  | some (c, d) => (s, c, d)
  | none =>
    if t.irr then
      (dropIrr (commitIrr s g t) (groupSpace s g).1 x.uid i t.lines, 0, 0)
    else
      let ls := logLines t
      if ls.any fun l => (getHome s l).lock.isSome then (s, 5, 0)
      else
        let s := ls.foldl (readyLine g) s
        match validate s t.reads with
        | some n => (s, 1, n)
        | none => (applyCommit s g t.writes, 0, 0)

/-- A lane's validation would read poisoned bytes, once the earlier accesses of its core have been performed: the virtual and the
physical address of the first (R362, R375). -/
def commitPoison (s : State) (g : Nat) (t : Txn) : Option (DWord × Nat) :=
  if t.doomed.isSome || t.irr || (logLines t).any fun l => (getHome s l).lock.isSome then none
  else
    let s := (logLines t).foldl (readyLine g) s
    t.reads.findSome? fun e => (e.2.find? fun b => poisonedNext s (128 * e.1 + b.1) 1).map fun b =>
      (mapGet 0 t.vas e.1 + BitVec.ofNat 64 b.1, keyPa (128 * e.1 + b.1))

/-- A commit must wait for a home that does not answer now (R387). -/
def commitBusy (s : State) (t : Txn) : Bool := t.doomed.isNone && (logLines t ++ t.lines).any fun l => homeBusy s (128 * l)

/-- The group's next instruction is a TXE in which a lane is live. -/
def atTxe (s : State) (g lane : Nat) : Bool :=
  let x := getGroup s g
  let sp := groupSpace s g
  match peek s sp.1 sp.2 x.pc with
  | some (.txe f) => (live x f).getLsbD lane
  | _ => false

/-- A lane of a TXE is the next to commit: its own transaction ends here and is undoomed, and every lower live lane's that ends
here has been decided (R179). -/
def commitsNext (s : State) (g lane : Nat) : Bool :=
  let x := getGroup s g
  let ends (i : Nat) : Bool := (mapGet {} x.txn i).isOpen && (mapGet {} x.txn i).depth = 1 && (mapGet {} x.txn i).doomed.isNone
  ends lane && (List.range lane).all fun i => !(atTxe s g i && ends i)

/-- COMMIT: the commit of one lane of a group before its TXE completes, which then reports it: the lanes come in increasing order
(R179), once every earlier load of the group has been performed (R257, R306), but for an atomic that waits for a lock of the group's own (R183). -/
def execCommit (g lane : Nat) (s : State) : Out :=
  let t := mapGet {} (getGroup s g).txn lane
  if !atTxe s g lane || !commitsNext s g lane || !((pendingOf s g).all (ownLocked s g)) || (getGroup s g).status ≠ .ready || commitBusy s t
      || (commitPoison s g t).isSome then .fault .notDue
  else
    let r := commitLane s g lane
    .next (modTxn r.1 g lane fun t => { t with
      doomed := some (r.2.1, r.2.2), irr := false, reads := [], writes := [], lines := [], later := [] })

/-- COMMIT_VISIBILITY: the next image of a committed line becomes visible at its time, which comes at every home at once (R180, R271). -/
def execCommitVisibility (line : Nat) (s : State) : Out :=
  match (getHome s line).next with
  | [] => .fault .notDue
  | (t, _) :: _ => if t ≤ shownGtc s then .next (makeVisible s line) else .fault .notDue

/-! ## TXE (R184) -/

/-- One lane's TXE: the state, and the cause word. -/
def endLane (s : State) (g i : Nat) : State × DWord :=
  let t := mapGet {} (getGroup s g).txn i
  if !t.isOpen then (s, 9)
  else if 1 < t.depth then (modTxn s g i fun t => { t with depth := t.depth - 1 }, 0)
  else
    let r := commitLane s g i
    (modGroup r.1 g fun x => { x with txn := mapDel x.txn i }, BitVec.ofNat 64 (r.2.1 + 256 * r.2.2))

/-- The lanes of a TXE in increasing order, with their cause words. -/
def endLanes (s : State) (g : Nat) : List Nat → State × List (Nat × DWord)
  | [] => (s, [])
  | i :: r =>
    let a := endLane s g i
    let b := endLanes a.1 g r
    (b.1, (i, a.2) :: b.2)

/-- The first lane of a TXE whose validation reads poison, with its addresses, and the state in which the lower lanes have ended
(R179, R375). -/
def txePoison (s : State) (g : Nat) (ls : List Nat) : Option (State × DWord × Nat) :=
  let ends (t : Txn) : Bool := t.isOpen && t.depth = 1
  ls.findSome? fun i =>
    let t := mapGet {} (getGroup s g).txn i
    let u := (endLanes s g (ls.filter (· < i))).1
    if ends t then (commitPoison u g t).map fun a => (u, a) else none

/-- TXE (R184); the block of a lane whose validation reads poison is lost (R375). -/
def execTxe (f : XForm) (s : State) : Out :=
  let x := curGroup s
  let k := xIssue f (xLen f) (topReg [(f.d, 1)])
  let ls := lanes (live x f)
  let commits := ls.filter fun i => (mapGet {} x.txn i).isOpen && (mapGet {} x.txn i).depth = 1
  issue s k <|
    if commits.any fun i => commitBusy s (mapGet {} x.txn i) then stall s .lock
    else
      match txePoison s s.cur ls with
      | some (u, va, pa) =>
        .next (loseBlock u x.block (memberOn (getBlock s x.block) (slotCore s.cur)) 6 true va pa)
      | none =>
        let r := endLanes s s.cur ls
        let r := ({ r.1 with fills := r.1.fills.filter fun e => e.2.1 ≠ fillTxe x.uid }, r.2)
        let y := curGroup r.1
        let cause (i : Nat) : DWord := ((r.2.find? fun e => e.1 = i).map (·.2)).getD 0
        let y := match f.d with | .v n => vPut y n.val false (maskOf ls) cause | _ => y
        let y := match f.a with
          | .p n => pWrite y n.val (maskOf ls) (maskOf ((r.2.filter fun e => e.2 = 0).map (·.1)))
          | _ => y
        .next (retire r.1 y k true (pushVals r.1 x { f with sup := true, d := .unused } false false r.2))

/-! ## TXA and TXQ (R185) -/

def execTxa (f : XForm) (s : State) : Out :=
  let x := curGroup s
  let k := xIssue f (xLen f) none
  let code := (opnd s x false f.a 0).toNat
  issue s k (complete ((lanes (live x f)).foldl (fun s i => doomLane s s.cur i 4 code) s) k)

/-- A lane's status word (R185). DESIGN CHOICE: bit 1 stays 1 for an irrevocable lane that has aborted and given the token back, until
its TXE closes the transaction (log entry 115). -/
def txnStatus (s : State) (x : Group) (i : Nat) : DWord :=
  let t := mapGet {} x.txn i
  let q := (getPart s (groupSpace s s.cur).1).tokQ.contains (x.uid, i)
  BitVec.ofNat 64 ((if t.isOpen then 1 else 0) + (if t.irr then 2 else 0) + (if t.doomed.isSome then 4 else 0)
    + (if q then 8 else 0) + 16 * t.depth + 256 * (((t.doomed.map (·.1)).getD 0) % 256)
    + (if t.irr then 0 else 2 ^ 16 * t.reads.length + 2 ^ 24 * t.writes.length))

def execTxq (f : XForm) (s : State) : Out :=
  let x := curGroup s
  performAt s f (xIssue f (xLen f) (topReg [(f.d, 1)])) .lane false fun i => (txnStatus s x i, 0)

/-! ## The token (R182) -/

/-- TOKEN_RESERVATION_LAPSE: the reservation lapses after 1,000,000 ticks and the head moves to the tail; the next head has
a reservation of its own. -/
def execTokenReservationLapse (part : Nat) (s : State) : Out :=
  let pt := getPart s part
  match pt.resv, pt.tokQ with
  | some t, h :: r =>
    if pt.tok.isNone && t + 1000000 ≤ s.gtc.toNat then
      .next (modPart s part fun pt => { pt with tokQ := r ++ [h], resv := some s.gtc.toNat })
    else .fault .notDue
  | _, _ => .fault .notDue

end Sys2Proof.Machine
end

