-- ==== Sys2Proof/Machine/Sync.lean ====
section
/-! DEFINITION. Fences, flags, monitors, darkroom ranges and the locality query (R187 to R194, R204, R258, R272, R307 to
R311, R385). -/

namespace Sys2Proof.Machine

/-! ## Shared operations -/

/-- Lanes with an open speculative transaction are doomed by an instruction that no transaction supports (R176). -/
def doomLanes (s : State) (m : LaneMask) : State :=
  if hidden s s.cur then s else (lanes m).foldl (fun s i => doomLane s s.cur i 8 2) s

/-- The lanes that a per-lane instruction dooms are its live lanes. -/
def doomLive (s : State) (f : XForm) : State := doomLanes s (live (curGroup s) f)

/-- An instruction that executes once reads its guard at lane L alone, so its live lanes are those of `xm` (R14, R202). It executes
although lane L, or every lane, is doomed: DESIGN CHOICE for MON, RWB, RINV, FLAG, BARI, BARX and BARQ, as R176 says only that such
lanes take no part (log entry 44). Lanes are doomed when the instruction completes, so one that traps or parks has done nothing
(R333). -/
def doomOnce (s : State) : State := doomLanes s (curGroup s).xm

/-- The lanes of `xm` that take no part in such an instruction (R176): those with an open speculative transaction, doomed before or
now. -/
def doomedLanes (s : State) : LaneMask :=
  let x := curGroup s
  if hidden s s.cur then 0
  else maskOf ((lanes x.xm).filter fun i =>
    let t := mapGet {} x.txn i
    t.isOpen && !t.irr)

/-- A release at a scope: at `.die` and wider the core's update-only lines go first (R272); at `.blk` and `.cls` those with updates
of the group, because an atomic is complete there only once it has been performed (R187; log entry 70). -/
def beforeRelease (s : State) (sc : Sc) : State :=
  let s := if scRank .blk ≤ scRank sc then sendGathersOf s fun h => h.ofUid (getGroup s s.cur).uid else s
  if scRank .die ≤ scRank sc then sendAllGathers s (slotCore s.cur) else s

/-- A release that waits at a scope until every earlier store of the group is complete there; at `.sys` a store that was
lost on its way to a target ends it in a fault (R187, R385). -/
def release (s : State) (k : Issue) (sc : Sc) (why : Stall) (go : State → Out) : Out :=
  let s := beforeRelease s sc
  match (if sc = .sys then lostStore s s.cur else none) with
  | some t =>
    uniformFault { s with stores := s.stores.filter fun u => !(u.uid = t.uid && u.lost) } k true false 0x19 1 t.va 0
  | none => if storesComplete s s.cur sc then go s else stall s why

/-- A uniform access's place, or its fault (R344). -/
def uniformPlace (s : State) (k : Issue) (need : Need) (n : Nat) (va : DWord) (go : Place → Out) : Out :=
  let sp := groupSpace s s.cur
  match reach s sp.1 sp.2 need n false va with
  | .error e => uniformFault s k need.writes false e.code e.detail va e.entry
  | .ok x => if placeBusy s s.cur x then stall s .lock else go x

/-! ## FENCE and FLAG (R188, R204, R258) -/

def execFence (f : XForm) (s : State) : Out :=
  let k := xIssue f (xLen f) none
  guarded s f k (release s k f.sc (.fence f.sc) fun s => complete s k)

/-- FLAG: a release and then a store, once (R204). Lanes that are doomed by it take no part (R176), and the store is made although
lane L or every live lane is among them: DESIGN CHOICE (log entry 44). -/
def execFlag (f : XForm) (s : State) : Out :=
  let x := curGroup s
  let k := xIssue f (xLen f) (addrTop f 0 0)
  let va := globalAt s x f.a f.b (lu x)
  let sc := atomScope f.sc
  guarded s f k <|
    uniformPlace s k .write 8 va fun p =>
      release s k sc (.flag sc) fun s =>
        let locked := match p.space with | .hbm j => !p.dark && lineHeld s (lineOf j) | _ => false
        if locked then stall s .lock
        else
          let s := match p.space with | .hbm j => sendGather s (slotCore s.cur) (lineOf j) | _ => s
          complete (storePlace (tlbFill (doomOnce s) (groupSpace s s.cur).1 (groupSpace s s.cur).2 va) (.group s.cur) (groupSpace s s.cur).1 va p
            (leBytes 8 (opnd s x false f.c (lu x)).toNat)) k

/-! ## Monitors (R189) -/

/-- A group's registration as a watcher is dropped. -/
def dropMonitor (s : State) (g : Nat) : State :=
  let x := getGroup s g
  match x.monLine with
  | none => s
  | some l =>
    setHome (setGroup s g { x with monLine := none }) l
      { getHome s l with watchers := (getHome s l).watchers.filter (· ≠ x.uid) }

/-- A group watches a line from now on. -/
def armMonitor (s : State) (g l : Nat) : State :=
  let s := dropMonitor s g
  let s := setHome s l { getHome s l with watchers := (getHome s l).watchers ++ [(getGroup s g).uid] }
  dropCopies (modGroup s g fun x => { x with monLine := some l, monAt := homeGtc s l }) g l

/-- A monitor fault of the issuing group: one record at lane L (R189, R344). -/
def monTrap (s : State) (k : Issue) (why : Nat) (va : DWord) : Out :=
  let l := lu (curGroup s)
  trapRec s k (mkRec s s.cur 0x20 l 2 why va 0 (maskOf [l])) true

def execMon (f : XForm) (s : State) : Out :=
  let x := curGroup s
  let k := xIssue f (xLen f) (addrTop f 0 0)
  let va := globalAt s x f.a f.b (lu x)
  guarded s f k <|
    uniformPlace s k .read 1 va fun p =>
      if p.dark then monTrap s k 0 va
      else
        match p.space with
        | .peer _ _ => monTrap s k 1 va
        | .host _ => monTrap s k 2 va
        | .hbm j =>
          if pteDEV p.entry then uniformFault s k false false 0x1A 2 va p.entry
          else
            let s := armMonitor (settle (combine s (lineOf j)) (lineOf j)) s.cur (lineOf j) |> doomOnce
            completeScalar s (curGroup s) f k ((curGroup s).cMon + 1)

/-- MONITOR_EVICTION: the registration is evicted, and the monitor counter advances (R189). -/
def execMonitorEviction (g : Nat) (s : State) : Out :=
  if (getGroup s g).monLine.isNone || !(getGroup s g).status.live then .fault .notDue
  else .next (bump (dropMonitor s g) g .mon)

/-- A line's registration of the group with an identity, resident, saved or written by CSAVE, is lost, and its monitor counter
advances (R189). -/
def loseMonitor (s : State) (l uid : Nat) : State :=
  let s := setHome s l { getHome s l with watchers := (getHome s l).watchers.filter (· ≠ uid) }
  bumpUid (modUid s uid fun x => { x with monLine := none }) uid .mon

/-- When a registration was made. -/
def monitorTime (s : State) (uid : Nat) : Nat :=
  match slotOfUid s uid with
  | some g => (getGroup s g).monAt
  | none =>
    match s.blocks.findSome? fun e => e.2.saved.findSome? fun x => if x.2.uid = uid then some x.2.monAt else none with
    | some t => t
    | none => (s.csaved.findSome? fun x => if x.2.uid = uid then some x.2.monAt else none).getD 0

/-! ## Darkroom ranges (R190 to R193, R309 to R311) -/

/-- The keys of the darkroom lines of a virtual range, in increasing address order; parts that do not translate and
coherent pages are left out. -/
def darkLines (s : State) (p c : Nat) (va : DWord) (n : Nat) : List Nat :=
  if n = 0 then []
  else
    (List.range ((va.toNat % 128 + n + 127) / 128)).filterMap fun i =>
      match placeOf p (xlat s p c (BitVec.ofNat 64 (va.toNat / 128 * 128 + 128 * i))) with
      | some x => if x.dark then (match x.space with | .hbm k => some (lineOf k) | _ => none) else none
      | none => none

/-- A die's copy of a line is discarded; stores whose bytes no write-back took are lost (R193, R310). -/
def discardDark (s : State) (d l : Nat) : State := dropDark (loseDark s d l []) d l

/-- RWB and RINV: the byte count is checked first (R190), then each darkroom line of the range is acted on. -/
def darkRange (s : State) (f : XForm) (act : State → Nat → State) : Out :=
  let x := curGroup s
  let k := xIssue f (xLen f) none
  let va := globalAt s x f.a f.b (lu x)
  let n := (opnd s x false f.c (lu x)).toNat
  if 2 ^ 32 ≤ n then trapI s k 0x01 3
  else
    guarded s f k <| if requestsStopped s (groupSpace s s.cur).1 then stall s .lock else
      (let s := doomOnce s
       complete ((darkLines s (groupSpace s s.cur).1 (groupSpace s s.cur).2 va n).foldl act s) k)

def execRwb (f : XForm) (s : State) : Out :=
  darkRange s f fun s l => writeBack s (groupDie s.cur) l (some (getGroup s s.cur).uid)
def execRinv (f : XForm) (s : State) : Out := darkRange s f fun s l => discardDark s (groupDie s.cur) l

/-- DARKROOM_MERGE: the stack's merge engine writes a write-back's bytes; the write-backs of one line merge in the order
of their arrival (R308), for which the model takes the order in which they were sent (log entry 69). -/
def execDarkroomMerge (id : Nat) (s : State) : Out :=
  match s.wbs.find? fun w => w.id = id with
  | none => .fault .notDue
  | some w =>
    if ((s.wbs.find? fun v => v.key = w.key).map (·.id)) = some id && !homeBusy s w.key then .next (mergeBack s w) else .fault .notDue

/-! ## LOCQ (R194) -/

/-- The locality word of an address. -/
def locality (s : State) (g : Nat) (va : DWord) : DWord :=
  let sp := groupSpace s g
  match xlat s sp.1 sp.2 va with
  | .ok pa e _ =>
    let drk := if pteDRK e then 2 else 0
    BitVec.ofNat 64 (match space sp.1 pa with
      | .hbm k => 1 + drk + 8 * homeDie s k + 64 * (Config.slice (lineOf k)).toNat + 2048 * (homeStack s k % 3)
          + 8192 * (pa / 128 % 4)
      | .peer _ _ => 1 + drk + 4
      | .host _ => 1 + drk + 32768)
  | _ => 0

/-- Whether an instruction with a global address executes once: its address operands are all scalar, whatever its destination
(R194). -/
def addrMode (f : XForm) : Mode :=
  if f.uni || !(perLane f.a || perLane f.b || isLatch f.a || isLatch f.b) then .once else .lane

/-- LOCQ: uniform when its address operands are all scalar, and then one result in every lane of `xm`. -/
def execLocq (f : XForm) (s : State) : Out :=
  let x := curGroup s
  performAt s f (xIssue f (xLen f) (addrTop f 1 0)) (addrMode f) false fun i => (locality s s.cur (globalAt s x f.a f.b i), 0)

end Sys2Proof.Machine
end

