-- ==== Sys2Proof/Machine/Copy.lean ====
section
/-! DEFINITION. Copies, batches and barrier objects (R195 to R203, R205, R236, R262 to R270, R349, R367, R372). -/

namespace Sys2Proof.Machine

/-! ## CPY (R195, R196, R198) -/

/-- The fields of the literal of CPY (R195). -/
def cpyLen (w : DWord) : Nat := w.toNat % 2 ^ 17
def cpyOut (w : DWord) : Bool := w.getLsbD 17
def cpyBar (w : DWord) : Option Nat := if w.getLsbD 18 then none else some (w.toNat / 2 ^ 19 % 2 ^ 18 * 16)

/-- The window address of the lattice side of a copy in a lane (R195). -/
def cpyLat (s : State) (x : Group) (f : XForm) (i : Nat) : Nat := (opnd s x false f.d i).toNat % 2 ^ 32 % 2 ^ 22

/-- The channel that the copies of a group use: the block's channel (g mod k) on its core (R198). In a gang
k and the grant count the channels on the group's own core: DESIGN CHOICE, as R198 does not say which member's (log entry 96). -/
def groupChan (s : State) (g : Nat) : Option Nat :=
  let x := getGroup s g
  let cs := blockChans (getBlock s x.block) (slotCore g)
  cs[x.gid % cs.length]?

/-- The records of a channel's ring. -/
def ringOf (s : State) (chan : Nat) : List Nat := (getCore s (chan / 4)).rings.getD (chan % 4) []

/-- A record for one lane's element deposited in a channel, and the element added to the group's open copies (R196). -/
def deposit (s : State) (chan : Nat) (e : Elem) : State :=
  let n := fresh s
  let s := modCore (setElem n.2 n.1 e) (chan / 4) fun c =>
    { c with rings := c.rings.set (chan % 4) (c.rings.getD (chan % 4) [] ++ [n.1]) }
  modGroup s e.g fun x => { x with openCopies := x.openCopies ++ [n.1] }

/-- CPY (R195 to R199, R205). Without a channel and with a bad barrier object it traps whatever its guard reads: DESIGN CHOICE, as
R335 leaves that to each entry, and CPY's does not say. A lattice fault of a CPY whose operands are all scalar, and that of its barrier
object, at lane L (R205), is recorded as that of a uniform access, with FLAGS[1] set: DESIGN CHOICE, as R344 does not name CPY (log
entry 79). The group's update-only lines are sent before, so that their sums are performed before the copies (R262), and the lattice
sources of its earlier copies are read before the records are deposited (R23). -/
def execCpy (f : XForm) (s : State) : Out :=
  let x := curGroup s
  let b := getBlock s x.block
  let uni := uniform .auto f
  let w : DWord := match f.c with | .imm w => w | _ => 0
  let k : Issue := { xIssue f (xLen f) (topReg [(f.d, 1), (f.a, 2), (f.b, 1)]) with full := true }
  let sp := groupSpace s s.cur
  issue s k <|
    match groupChan s s.cur with
    | none => trapI s k 0x21 0
    | some ch =>
      match (match cpyBar w with | some a => if barOk b a then none else some a | none => none) with
      | some a =>
        trapRec s k (mkRec s s.cur 0x1C (lu x) (34 + irrFlag x (lu x)) (latDetail b a 16 16) (BitVec.ofNat 64 a) 0 (maskOf [lu x])) true
      | none =>
        let ls := (if uni then (if runs x f then [lu x] else []) else lanes (live x f)).filter fun i =>
          !(mapGet ({} : Txn) x.txn i).isOpen || hidden s s.cur
        let detail (i : Nat) : Nat :=
          (if inWindow b (cpyLat s x f i) (cpyLen w) then 0 else 1) + (if cpyLat s x f i % 8 = 0 then 0 else 2)
        let good := ls.filter fun i => detail i = 0
        let bad := ls.filter fun i => detail i ≠ 0
        let fl := 32 + (if cpyOut w then 0 else 4)
        let addr (i : Nat) : DWord := BitVec.ofNat 64 (cpyLat s x f i)
        match uni, bad with
        | true, i :: _ => trapRec s k (mkRec s s.cur 0x1C i (fl + 2 + irrFlag x i) (detail i) (addr i) 0 (maskOf [i])) true
        | _, _ =>
          if 128 < (ringOf s ch).length + good.length then stall s .ring
          else
            let s := sendGathersOf (doomLive s f) fun h => h.ofUid x.uid
            let n := s.nextId
            let s := readSources s x.uid n
            let m := maskOf bad
            let recs := bad.map fun i => mkRec s s.cur 0x1C i (fl + irrFlag x i) (detail i) (addr i) 0 m
            let word := (plainRec s s.cur 0 0).word
            let elem (i : Nat) : Elem :=
              { g := s.cur, gid := x.gid, uid := x.uid, grid := b.grid, block := x.block, cpy := n, lane := i, toLat := !cpyOut w,
                glob := globalAt s x f.a f.b i, lat := cpyLat s x f i, len := cpyLen w, bar := cpyBar w,
                core := slotCore s.cur, chan := ch, pc := x.pc, word, part := sp.1, ctx := sp.2 }
            let s := retire (good.foldl (fun s i => deposit s ch (elem i)) s)
              (curGroup (good.foldl (fun s i => deposit s ch (elem i)) s)) k false none
            match recs with
            | [] => .next s
            | _ => .next (raiseTrap s { cls := .L, code := 0x1C, sw := 0, recs, epc := 0, uniform := false, elems := [] })

/-! ## Pieces (R197) -/

/-- The pieces of an element: up to 128 bytes each. -/
def pieces (e : Elem) : List Nat := List.range ((e.len + 127) / 128)
/-- The bytes of a piece. -/
def pieceLen (e : Elem) (k : Nat) : Nat := min 128 (e.len - 128 * k)
/-- A piece's parts of one line each: the offset in the element and the length. -/
def pieceParts (e : Elem) (k : Nat) : List (Nat × Nat) :=
  let n := pieceLen e k
  let a := min n (128 - (e.glob + BitVec.ofNat 64 (128 * k)).toNat % 128)
  if a < n then [(128 * k, a), (128 * k + a, n - a)] else [(128 * k, n)]

/-- What the engine meets at a part of an element: the code, the address and the deciding entry of a fault of its translation or
protection (R367), or the place. -/
def partPlace (s : State) (e : Elem) (off : Nat) : Except (Nat × DWord × DWord) Place :=
  let va := e.glob + BitVec.ofNat 64 off
  match xlat s e.part e.ctx va with
  | .nonCanonical => .error (0x19, va, 0)
  | .absent _ t => .error (if va.toNat % 8 = 0 then 0x10 else 0x18, va, if va.toNat % 8 = 0 then t else 0)
  | .bad t => .error (if va.toNat % 8 = 0 then 0x19 else 0x18, va, if va.toNat % 8 = 0 then t else 0)
  | .ok pa t l =>
    if va.toNat % 8 ≠ 0 then .error (0x18, va, 0)
    else if pteRO t && !e.toLat then .error (0x1A, va, t)
    else .ok { space := space e.part pa, entry := t, level := l }

/-- A part of a source is poisoned at its home, the line's partial sums combined and its images shown that are due (R367, R375). -/
def partPoisoned (s : State) (e : Elem) (x : Place) (n : Nat) : Bool :=
  match x.space with
  | .hbm k => e.toLat && poisoned (settle (combine s (lineOf k)) (lineOf k)) k n
  | _ => false

/-- The first fault of a piece. -/
def pieceFault (s : State) (e : Elem) (k : Nat) : Option (Nat × DWord × DWord) :=
  (pieceParts e k).findSome? fun p => match partPlace s e p.1 with
    | .error x => some x
    | .ok x => if partPoisoned s e x p.2 then some (0x3F, e.glob + BitVec.ofNat 64 p.1, 0) else none

/-- The pieces that the engine has not yet moved. -/
def unmoved (e : Elem) : List Nat := (pieces e).filter fun k => !e.landed.contains k && !(e.sent.any fun p => p.1 = k)

/-- A channel starts its elements in the order of their deposit: every earlier record of the ring has been started (R198). -/
def mayStart (s : State) (i : Nat) (e : Elem) : Bool :=
  ((ringOf s e.chan).takeWhile (· ≠ i)).all fun j =>
    match getElem s j with | some d => d.begun || d.stopped || d.done | none => true

/-- A copy engine's read finds a store that has been performed: the image that shows its bytes is visible, or would be with the next
read of the line (R180, R262). -/
def shownAtHome (s : State) (t : PStore) : Bool :=
  match t.performed with
  | none => false
  | some c => (getHome s (lineOf t.addr)).next.all fun e => e.1 ≤ shownGtc s || c < e.1

/-- A store of the element's group before it has come where the element's piece must find it (R262 note 1): it has been performed,
and for a source in global memory it is visible. What goes to a darkroom page or to a peer is none of these. -/
def beforePiece (s : State) (i : Nat) (e : Elem) (t : PStore) : Bool :=
  !t.ofUid e.uid || i ≤ t.id || t.dark.isSome || t.peer.isSome || t.lost || (if e.toLat then shownAtHome s t else t.performed.isSome)

/-- The channel may start the element, every earlier store and atomic of the element's group stands where the piece must find it,
no part's line is locked, and every home answers. A source at a peer waits for the group's earlier stores to peers and for the die's
requests to it (R326). -/
def mayMove (s : State) (i : Nat) (e : Elem) (k : Nat) : Bool :=
  mayStart s i e && !requestsStopped s e.part && s.stores.all (beforePiece s i e)
    && (pieceParts e k).all fun p => match partPlace s e p.1 with
      | .ok x => (match x.space with
          | .hbm a => !homeBusy s a && (e.toLat || x.dark || (getHome s (lineOf a)).lock.isNone)
          | .peer a _ => !e.toLat || (!peerLeft s e.uid i && peerIdle s e.part (coreDie e.core) a)
          | .host _ => true)
      | .error _ => true

/-- A piece has been landed: its barrier object counts it down, and an element whose every piece has landed completes: its
record is free and its batch counts it (R197 to R199, R202). -/
def landPiece (s : State) (i : Nat) (e : Elem) (k : Nat) : State :=
  let s := readSources s e.uid e.cpy
  let e := { e with landed := e.landed ++ [k], sent := e.sent.filter fun p => p.1 ≠ k }
  let done := (pieces e).all e.landed.contains
  let s := setElem s i { e with done }
  let s := match e.bar with
    | some a => barLand s e.block a (pieceLen e k)
    | none => s
  if done then
    let s := freeRecord s i e
    countBatches s e.uid (batchesOf s e.uid)
  else s

/-- The source bytes of a part of a piece in global memory, at their home and never from a leased or a darkroom copy (R197, R372),
its partial sums combined (R169); none while a peer cannot answer (R326). -/
def partRead (s : State) (e : Elem) (p : Nat × Nat) : Option (List Byte × State) :=
  match partPlace s e p.1 with
  | .error _ => some ([], s)
  | .ok x =>
    match x.space with
    | .hbm a =>
      let s := settle (combine s (lineOf a)) (lineOf a)
      some (memBytes s.mem a p.2, s)
    | .host a => some (memBytes s.mem a p.2, s)
    | .peer a o => peerRound s e.part (coreDie e.core) a o p.2

/-- The source bytes of a piece, part by part. -/
def partsRead (s : State) (e : Elem) : List (Nat × Nat) → Option (List Byte × State)
  | [] => some ([], s)
  | p :: r =>
    match partRead s e p with
    | none => none
    | some b => (partsRead b.2 e r).map fun c => (b.1 ++ c.1, c.2)

/-- The source bytes of a part in the lattice. -/
def partSource (s : State) (e : Elem) (p : Nat × Nat) : List Byte :=
  overlay e.early p.1 (latBytes s (getBlock s e.block) (e.lat + p.1) p.2)

/-- A part of a piece performed at a global destination, as a store of the element's group, with the number of the store
(R187, R197, R372). -/
def sendPart (s : State) (e : Elem) (p : Nat × Nat) : Nat × State :=
  let va := e.glob + BitVec.ofNat 64 p.1
  let b := partSource s e p
  let t (key : Nat) (c : Option Nat) (peer : Option Nat) : PStore :=
    { id := s.nextId, uid := e.uid, grid := e.grid, core := e.core, addr := key, va, op := .bytes [], peer, performed := c,
      cpy := e.cpy, life := (getDie s (coreDie e.core)).life, vers := partVers s (keyPart key) }
  let add (s : State) (u : PStore) : State := { s with nextId := s.nextId + 1, stores := s.stores ++ [u] }
  match partPlace s e p.1 with
  | .error _ => (0, s)
  | .ok x =>
    match x.space with
    | .hbm k =>
      if x.dark then
        (s.nextId, addWriteBack (add s (t k none none))
          { id := 0, die := coreDie e.core, key := 128 * lineOf k, bytes := offsets k b, stores := [s.nextId], cpy := e.cpy })
      else
        let s := settle (combine s (lineOf k)) (lineOf k)
        (s.nextId, add (fill (homeWrite s (lineOf k) (offsets k b)) (fillCpy e.cpy) (lineOf k) (offsets k b))
          (t k (some (completion s (lineOf k))) none))
    | .host k => (s.nextId, add (hostPut s k b) (t k (some 0) none))
    | .peer a o =>
      (s.nextId, sendPeer (add s (t (2 ^ 53 + 2 ^ 40 * a + o) none (some a))) e.part (coreDie e.core) a o (.store b) none
        (some s.nextId))

/-- A piece moved towards a global destination. -/
def sendPiece (s : State) (i : Nat) (e : Elem) (k : Nat) : State :=
  let r := (pieceParts e k).foldl (fun r p => let q := sendPart r.2 e p; (r.1 ++ [(k, q.1)], q.2)) ([], s)
  setElem r.2 i { e with sent := e.sent ++ r.1 }

/-- A store that carries a piece is complete: performed, with its completion time passed; acknowledged by a peer (R187,
R197). -/
def pieceStored (s : State) (e : Elem) (id : Nat) : Bool :=
  match s.stores.find? fun t => t.id = id with
  | none => true
  | some t => match t.performed with
    | some _ => t.peer.isSome || storePast s (coreDie e.core) t
    | none => t.lost

/-- COPY_LANDING: a piece is moved: a lattice destination lands at once; a global destination is performed, and lands with a
later step, once its stores are complete (R197). -/
def execCopyLanding (elem piece : Nat) (s : State) : Out :=
  match getElem s elem with
  | none => .fault .notDue
  | some e =>
    if e.done || e.stopped || !(pieces e).contains piece || e.landed.contains piece then .fault .notDue
    else if e.sent.any fun p => p.1 = piece then
      if (e.sent.filter fun p => p.1 = piece).all fun p => pieceStored s e p.2 then .next (landPiece s elem e piece)
      else .fault .notDue
    else if (pieceFault s e piece).isSome || !mayMove s elem e piece then .fault .notDue
    else if e.toLat then
      match partsRead s e (pieceParts e piece) with
      | none => .fault .notDue
      | some b =>
        let s := readSources b.2 e.uid e.cpy
        .next (landPiece (latPut s (getBlock s e.block) (e.lat + 128 * piece) b.1) elem e piece)
    else .next (sendPiece s elem e piece)

/-! ## Faults of elements (R349, R367) -/

/-- A class A trap with one more record, of an element of a CPY: a lane keeps the record of its latest fault, and the records of one CPY
name its faulting lanes and carry one time (R338, R404). -/
def addRec (s : State) (p : PendTrap) (r : Rec) (i : Nat) (e : Elem) : PendTrap :=
  let latest (l : Nat) : Option Elem := (p.elems.filterMap (getElem s)).reverse.find? fun d => d.lane = l
  let mine (q : Rec) : Bool := q.lane = r.lane || (match latest q.lane with | some d => d.cpy = e.cpy | none => false)
  let recs := (p.recs.filter fun q => q.lane ≠ r.lane) ++ [r]
  let m := maskOf ((recs.filter mine).map (·.lane))
  { p with recs := recs.map fun q => if mine q then { q with mask := m, gtc := r.gtc } else q, elems := p.elems ++ [i] }

/-- A group with a class A trap waiting; the group wakes from a WAIT on its batches or on the element's barrier, and the
WAIT is the instruction at which it is stopped (R333, R349). -/
def withElemTrap (s : State) (x : Group) (e : Elem) (r : Rec) (i : Nat) : Group :=
  let p : PendTrap := { cls := .A, code := 0x22, sw := 0, recs := [], epc := 0, uniform := false, elems := [] }
  let old := (x.pend.find? fun q => q.cls = .A).getD p
  let wakes : Bool := match x.status with
    | .asleep .batch _ _ _ _ => true
    | .asleep .bar o _ _ _ => e.bar = some o
    | _ => false
  { x with
    pend := (x.pend.filter fun q => q.cls ≠ .A) ++ [addRec s old r i e]
    status := if wakes then .ready else x.status }

/-- What the group of an element is now: resident, saved with its block or written by CSAVE, unless it has ended or the element's
lane has exited (R349). -/
def elemGroup (s : State) (e : Elem) : Option Group :=
  let x : Option Group := match slotOfUid s e.uid with
    | some g => some (getGroup s g)
    | none => ((getBlock s e.block).saved.map (·.2) ++ s.csaved.map (·.2)).find? fun x => x.uid = e.uid
  x.filter fun x => x.status ≠ .ended && x.status ≠ .free && !x.exited.getLsbD e.lane

/-- The record of a faulting element (R338, R367). -/
def elemRec (s : State) (e : Elem) (code : Nat) (va entry : DWord) : Rec :=
  { pc := e.pc, code := 0x22, lane := e.lane
    flags := 9 + (if e.toLat then 0 else 4) + (match elemGroup s e with | some x => irrFlag x e.lane | none => 0)
    detail := BitVec.ofNat 32 ((if e.toLat then 0 else 1) + 256 * code), addr := va, entry, mask := maskOf [e.lane],
    gtc := BitVec.ofNat 64 (dieGtc s (coreDie e.core)), word := e.word }

/-- The fault that the engine meets at the pieces of an element that it has not moved; what it has sent lands first (R367), and it
reads poison only where it may move the piece (R262, R375). -/
def elemFault (s : State) (i : Nat) (e : Elem) : Option (Nat × DWord × DWord) :=
  if e.done || e.stopped || !e.sent.isEmpty || requestsStopped s e.part || !mayStart s i e then none
  else (unmoved e).findSome? fun k => (pieceFault s e k).filter fun x => x.1 ≠ 0x3F || mayMove s i e k

/-- COPY_ELEMENT_FAULT: the engine meets a fault: the element stops, its lane's record is written, and the trap waits for
the group's next boundary; only a notice is written if the group has ended or the lane has exited (R349, R367). -/
def execCopyElementFault (elem : Nat) (s : State) : Out :=
  match getElem s elem with
  | none => .fault .notDue
  | some e =>
    match elemFault s elem e with
    | none => .fault .notDue
    | some (code, va, entry) =>
      let r := elemRec s e code va entry
      let s := setElem s elem { e with stopped := true, orphan := (elemGroup s e).isNone }
      match elemGroup s e with
      | none => .next (postNotice s e.uid (coreDie e.core) e.part e.ctx (recOf e.g e.gid 0 r))
      | some _ =>
        let s := match slotOfUid s e.uid with
          | some g => if (getCtx s e.part e.ctx).trap.recb = 0 then s else (writeRecords s g (privFlag s g) [r] false).getD s
          | none => s
        .next (modUid s e.uid fun x => withElemTrap s x e r elem)

/-! ## SEAL (R199) -/

def execSeal (f : XForm) (s : State) : Out :=
  let x := curGroup s
  let k := xIssue f (xLen f) none
  guarded s f k <|
    if 32 ≤ batchesLeft s true x.batches then stall s .seal
    else
      let n := x.batchSeq + 1
      let x := { x with batchSeq := n, batches := x.batches ++ [{ no := n, elems := x.openCopies }], openCopies := [] }
      match completeScalar s x f k (BitVec.ofNat 64 n) with
      | .next s => .next (countBatches s x.uid (batchesOf s x.uid))
      | o => o

/-! ## Barrier objects (R200 to R203) -/

/-- The object that a barrier instruction names: a byte address, or an immediate in units of 16 (R201). -/
def barObj (s : State) (x : Group) (o : Operand) : Nat :=
  match o with
  | .imm n => 16 * n.toNat % 2 ^ 22
  | _ => (opnd s x false o (lu x)).toNat % 2 ^ 22

/-- A barrier instruction on its object, or the lattice-address fault: one record at lane L, as of a uniform access (R202, R205, R401;
log entry 79). -/
def barrier (s : State) (f : XForm) (go : State → Issue → Nat → Out) : Out :=
  let x := curGroup s
  let k := xIssue f (xLen f) none
  let a := barObj s x f.a
  guarded s f k <|
    if barOk (getBlock s x.block) a then go s k a
    else
      trapRec s k
        (mkRec s s.cur 0x1C (lu x) (34 + irrFlag x (lu x)) (latDetail (getBlock s x.block) a 16 16) (BitVec.ofNat 64 a) 0 (maskOf [lu x])) true

/-- A barrier instruction acts: lanes in a transaction are doomed, and the lattice sources of earlier copies have been read (R23,
R176). -/
def barActs (s : State) : State := readSources (doomOnce s) (curGroup s).uid s.nextId

def execBari (f : XForm) (s : State) : Out :=
  barrier s f fun s k a =>
    let n := (opnd s (curGroup s) false f.b 0).toNat
    if n = 0 || 65535 < n then trapI s k 0x23 1
    else
      let w := BitVec.ofNat 32 n
      let s := barActs s
      complete (barWrite s (getBlock s (curGroup s).block) a { arv := w, exp := w, byt := 0, ph := 0 }) k

/-- BARA: the lanes of `xm` that no transaction keeps out arrive, once the group's earlier stores are complete at `.blk`
(R202, R203). -/
def execBara (f : XForm) (s : State) : Out :=
  barrier s f fun s k a =>
    let x := curGroup s
    let n := laneCount (x.xm &&& ~~~(doomedLanes s))
    let o := barRead s (getBlock s x.block) a
    if o.arv.toNat < n then trapI s k 0x23 2
    else
      release (setCur s { x with arriving := some a }) k .blk .bara fun s =>
        let s := barActs s
        match completeScalar s { curGroup s with arriving := none } f k ((o.ph + 1).setWidth 64) with
        | .next s => .next (barTest s x.block a { o with arv := o.arv - BitVec.ofNat 32 n })
        | r => r

def execBarx (f : XForm) (s : State) : Out :=
  barrier s f fun s k a =>
    let s := barActs s
    let x := curGroup s
    let o := barRead s (getBlock s x.block) a
    complete (barTest s x.block a { o with byt := o.byt + (opnd s x false f.b 0).setWidth 32 }) k

def execBarq (f : XForm) (s : State) : Out :=
  barrier s f fun s k a =>
    let s := barActs s
    let o := barRead s (getBlock s (curGroup s).block) a
    completeScalar s (curGroup s) f k
      (BitVec.ofNat 64 (o.ph.toNat + o.arv.toNat * 2 ^ 32 + (if o.byt = 0 then 0 else 2 ^ 48) + (if o.byt.msb then 2 ^ 49 else 0)))

end Sys2Proof.Machine
end

