-- ==== Sys2Proof/Machine/Claims.lean ====
section
/-! DEFINITION. Claims: CLAQ, CLRL and CLQ (R234 to R237, R284 to R290, R354). -/

namespace Sys2Proof.Machine

/-- A claim instruction: a request word or selector that is reserved traps as illegal whatever the guard reads (R234,
R335). -/
def claiming (s : State) (f : XForm) (reserved : DWord → Bool) (go : Issue → DWord → Out) : Out :=
  let k := xIssue f (xLen f) none
  let w := opnd s (curGroup s) false f.a 0
  if reserved w then trapI s k 0x01 3 else guarded s f k (go k w)

/-- Bits [63:20] of a request word are zero (R234). -/
def wordReserved (w : DWord) : Bool := w.toNat / 2 ^ 20 ≠ 0

/-- The kinds at fault, as bits [27:24] of DETAIL (R334). -/
def kindBits (reg sqr mxe cpc : Bool) : Nat :=
  (if reg then 2 ^ 24 else 0) + (if sqr then 2 ^ 25 else 0) + (if mxe then 2 ^ 26 else 0) + (if cpc then 2 ^ 27 else 0)

/-- A group of a ring whose registers never change: a loader or a storer (R36, R39). -/
def isShadow (x : Group) : Bool := x.role = .loader || x.role = .storer

/-- The greatest range of a group in registers (R39, R285). -/
def rangeMax (s : State) (g : Nat) : Nat :=
  if isShadow (getGroup s g) then (getGroup s g).range else 8 * (groupGrid s g).hdr.regm

/-- A request submitted to the Proofer: granted now, or deferred at the tail of its pool's queue (R235, R289). -/
def submit (s : State) (g : Nat) (w : DWord) : State :=
  let x := getGroup s g
  let c := slotCore g
  match blockPool s x.block c with
  | none => s
  | some p =>
    match claimantIx p x.block with
    | none => s
    | some i =>
      if proofTest p i (wordAmt w) then applyGrant s g (wordAmt w)
      else
        modPool (modGroup s g fun y => { y with deferred := some w }) c p.owner fun p =>
          { p with queue := p.queue ++ [.claim x.uid w] }

def execClaq (f : XForm) (s : State) : Out :=
  claiming s f wordReserved fun k w =>
    let x := curGroup s
    let q := wordAmt w
    let c := blockClaim s x.block (slotCore s.cur)
    let reg := rangeMax s s.cur < x.range + 8 * q.reg
    let sqr := c.max.sqr < c.hold.sqr + q.sqr
    let mxe := c.max.mxe < c.hold.mxe + q.mxe
    let cpc := c.max.cpc < c.hold.cpc + q.cpc
    if x.deferred.isSome then stall s .claq
    else if reg || sqr || mxe || cpc then trapI s k 0x2A (w.toNat + kindBits reg sqr mxe cpc)
    else
      match completeScalar s x f k (x.cGrant + 1) with
      | .next t => .next (submit t t.cur w)
      | o => o

/-! ## CLRL (R236) -/

/-- The window slots of a member that CLRL releases: its highest-numbered ones. -/
def releasedSlots (b : Block) (m n : Nat) : List Nat :=
  let k := (b.sqrs.getD m []).length
  (List.range n).map (k - n + ·)

/-- The member and window slot of a window address (R47). -/
def slotAt (a : Nat) : Nat × Nat := (a / 2 ^ 20 % 4, a / 2 ^ 13 % 128)

/-- A range of the window touches slots of a member. -/
def touches (m : Nat) (slots : List Nat) (a n : Nat) : Bool :=
  a / 2 ^ 20 % 4 = m && slots.any fun k => a % 2 ^ 20 / 2 ^ 13 ≤ k && k ≤ (a % 2 ^ 20 + n - 1) / 2 ^ 13

/-- A copy element in flight of a block uses released squares with its lattice side or its barrier object. -/
def slotsBusy (s : State) (b m : Nat) (slots : List Nat) : Bool :=
  s.elems.any fun e => e.2.block = b && !e.2.done && !e.2.orphan &&
    (touches m slots e.2.lat e.2.len || (match e.2.bar with | some a => touches m slots a 16 | none => false))

/-- The channels that CLRL releases: the block's highest-numbered ones on the core. -/
def releasedChans (b : Block) (c n : Nat) : List Nat := (blockChans b c).drop ((blockChans b c).length - n)

/-- A BARA of the block that has issued and has not been counted is on an object in a released square (R236). -/
def barasWait (s : State) (b m : Nat) (slots : List Nat) : Bool :=
  (blockMembers s b).any fun x => match x.arriving with | some a => touches m slots a 16 | none => false

/-- What CLRL waits for (R236): copies that use a released square, arrivals there that are not counted, records in released
rings, and the block's matrix instructions when it frees the token. -/
def clrlWaits (s : State) (g : Nat) (q : Amt) : Bool :=
  let x := getGroup s g
  let b := getBlock s x.block
  let c := slotCore g
  slotsBusy s x.block x.member (releasedSlots b x.member q.sqr)
    || barasWait s x.block x.member (releasedSlots b x.member q.sqr)
    || ((releasedChans b c q.cpc).any fun h => (ringOf s h).any fun i =>
      match getElem s i with | some e => e.block = x.block | none => false)
    || (q.mxe = 1 && (getCore s c).token = some x.block && (getCore s c).mxq.any fun o => o.block = x.block)

/-- The lattice-address trap that a WAIT takes whose object has gone (R236, R334). -/
def goneTrap (s : State) (g obj : Nat) : PendTrap :=
  { cls := .I, code := 0x1C, sw := 0, recs := [mkRec s g 0x1C 255 32 1 (BitVec.ofNat 64 obj) 0 0], epc := (getGroup s g).pc,
    uniform := false, elems := [] }

/-- The groups of a block that sleep on an object outside the window wake at their WAIT and take the lattice-address fault there
(R236). -/
def wakeOutside (s : State) (bi : Nat) : State :=
  (getBlock s bi).groups.foldl (fun s g =>
    match (getGroup s g).status with
    | .asleep .bar o _ _ _ =>
      if barOk (getBlock s bi) o then s
      else modGroup s g fun x => { x with status := .ready, pend := x.pend ++ [goneTrap s g o] }
    | _ => s) s

/-- The engine grant of a block on a core returns: its token, requests, rows and window end (R226, R236, R357). DESIGN CHOICE for a CLRL:
R236 says that the token is given up and the rows are lost, and leaves open what becomes of the window, of a queued request for the
token and of rows that are spilled; all three end with the grant (log entry 118). -/
def dropEngine (s : State) (bi c : Nat) : State :=
  let m := memberOn (getBlock s bi) c
  let s := modCore (freeToken s bi c) c fun k => { k with tokenQ := k.tokenQ.filter (· ≠ bi) }
  modBlock s bi fun b =>
    { b with mxe := b.mxe.set m false, win := b.win.set m none, spilled := b.spilled.set m false
             spillFault := b.spillFault.filter (·.1 ≠ c) }

/-- CLRL's effect once it waits for nothing: the amounts return, and the Proofer walks (R236, R289). -/
def giveBack (s : State) (g : Nat) (q : Amt) : State :=
  let x := getGroup s g
  let c := slotCore g
  let b := getBlock s x.block
  let s := if q.mxe = 1 then dropEngine s x.block c else s
  let s := modBlock s x.block fun y =>
    { y with
      sqrs := y.sqrs.set x.member ((y.sqrs.getD x.member []).take ((y.sqrs.getD x.member []).length - q.sqr))
      chans := y.chans.filter fun h => !(releasedChans b c q.cpc).contains h }
  let r := x.range - 8 * q.reg
  let s := modGroup s g fun y => { y with range := r, v := y.v.filter fun e => e.1 < r }
  let s := modHold (wakeOutside s x.block) x.block c (·.sub q)
  walkPool s c (poolOwner s b.grid)

def execClrl (f : XForm) (s : State) : Out :=
  claiming s f wordReserved fun k w =>
    let x := curGroup s
    let q := wordAmt w
    let c := blockClaim s x.block (slotCore s.cur)
    let reg := q.reg ≠ 0 && (isShadow x || x.range < 8 * q.reg + 8)
    let sqr := c.hold.sqr < q.sqr
    let mxe := c.hold.mxe < q.mxe
    let cpc := c.hold.cpc < q.cpc
    if reg || sqr || mxe || cpc then trapI s k 0x2A (w.toNat + 2 ^ 20 + kindBits reg sqr mxe cpc)
    else if clrlWaits s s.cur q then stall s .clrl
    else
      match complete s k with
      | .next t => .next (giveBack t t.cur q)
      | o => o

/-! ## CLQ (R237) -/

/-- The word of amounts that CLQ writes (R237). -/
def amountsWord (grp : Nat) (a : Amt) : Nat := grp * 2 ^ 40 + a.cpc * 2 ^ 25 + a.mxe * 2 ^ 24 + a.sqr * 2 ^ 16 + a.reg

/-- The word that CLQ writes for a selector (R237). -/
def clqWord (s : State) (g sel : Nat) : Nat :=
  let x := getGroup s g
  let c := slotCore g
  let cl := blockClaim s x.block c
  if sel = 0 then amountsWord (x.range / 8) cl.hold
  else if sel = 1 then amountsWord (groupGrid s g).hdr.regm cl.max
  else if sel = 2 then
    amountsWord 0 (match blockPool s x.block c with | some p => p.avail | none => {})
  else if sel = 3 then (match x.deferred with | some w => 2 ^ 63 + w.toNat % 2 ^ 20 | none => 0)
  else
    match ((getBlock s x.block).sqrs.getD x.member [])[sel - 0x100]? with
    | some q => 2 ^ 63 + 32 * q + q % 32
    | none => 0

def execClq (f : XForm) (s : State) : Out :=
  claiming s f (fun w => !selectorOk w) fun k w =>
    completeScalar s (curGroup s) f k (BitVec.ofNat 64 (clqWord s s.cur w.toNat))

end Sys2Proof.Machine
end

