-- ==== Sys2Proof/Machine/Lanes.lean ====
section
/-! DEFINITION. Instructions across lanes and threads: RED, SCAN, TOPKI, SIEVE and its exchange (R84, R85, R229 to R233,
R303). -/

namespace Sys2Proof.Machine

/-! ## The fixed tree (R84, R85) -/

/-- A node of the tree: its value and the flags of the operations under it. -/
abbrev Node := DWord × FFlags

/-- One operation of the tree (R84); FN is add, min, max, and, or, xor. -/
def treeOp (fn : Nat) (t : Ty) (rm : Rm) (a b : DWord) : Node :=
  let w := tyBits t
  if tyFloat t then
    if fn = 0 then roundF rm (fmtOf t) (xAdd rm (fval (fmtOf t) a) (fval (fmtOf t) b)) else fMinMax (fn = 2) (fmtOf t) a b
  else
    let sg := tySigned t
    (extend false w (if fn = 0 then a + b
      else if fn = 1 then iMin sg w a b 0
      else if fn = 2 then iMax sg w a b 0
      else if fn = 3 then a &&& b
      else if fn = 4 then a ||| b
      else a ^^^ b), 0)

/-- The identity of an operation, in a lane that is not live (R84). -/
def treeUnit (fn : Nat) (t : Ty) : DWord :=
  if tyFloat t then (if fn = 0 then zeroBits (fmtOf t) true else infBits (fmtOf t) (fn = 2))
  else if fn = 1 then wrap (tyBits t) (tyRange t).2
  else if fn = 2 then wrap (tyBits t) (tyRange t).1
  else if fn = 3 then wrap (tyBits t) (-1)
  else 0

/-- Two nodes combined. -/
def joinNodes (fn : Nat) (t : Ty) (rm : Rm) (a b : Node) : Node :=
  let r := treeOp fn t rm a.1 b.1
  (r.1, a.2 ||| b.2 ||| r.2)

/-- The next level of the tree from one level. -/
def pairUp (op : Node → Node → Node) : List Node → List Node
  | a :: b :: r => op a b :: pairUp op r
  | r => r

/-- The levels of the tree from level 0 up. -/
def treeLevels (op : Node → Node → Node) (l : List Node) : Nat → List (List Node)
  | 0 => [l]
  | n + 1 => l :: treeLevels op (pairUp op l) n

/-- The levels of the tree over an instruction's source. -/
def treeOf (s : State) (g : Group) (f : XForm) : List (List Node) :=
  let m := live g f
  let fn := f.fn.toNat
  treeLevels (joinNodes fn f.ty f.rm)
    ((List.range 128).map fun i =>
      (if m.getLsbD i then extend false (tyBits f.ty) (opnd s g (wide f.ty) f.a i) else treeUnit fn f.ty, 0)) 7

/-- Node (l, i). -/
def treeNode (t : List (List Node)) (l i : Nat) : Node := (t.getD l []).getD i (0, 0)

/-- The whole nodes that cover lanes `from` to `from + n − 1`, largest first, from bit `l` of `n` down (R85). -/
def prefixNodes (t : List (List Node)) (start n : Nat) : Nat → List Node
  | 0 => []
  | l + 1 =>
    if n / 2 ^ l % 2 = 1 then treeNode t l (start / 2 ^ l) :: prefixNodes t (start + 2 ^ l) n l else prefixNodes t start n l

/-- The combination of lanes 0 to `i` (R85). With one node there is no operation, and the node's bits are delivered as they are, a
NaN's too, without a flag: DESIGN CHOICE, as R70 and R71 speak of operations and R85 gives lane 0 none (log entry 101). -/
def prefixOf (op : Node → Node → Node) (t : List (List Node)) (i : Nat) : Node :=
  match prefixNodes t 0 (i + 1) 8 with
  | [] => (0, 0)
  | a :: r => r.foldl op a

/-- RED and SCAN (R230): a value per live lane from the tree. -/
def overTree (s : State) (f : XForm) (x : List (List Node) → Nat → Node) : Out :=
  let t := treeOf s (curGroup s) f
  performAt s f (xIssue f 12 (typedTop f)) .lane (wide f.ty) (x t)

def execRed (f : XForm) (s : State) : Out := overTree s f fun t _ => treeNode t 7 0
def execScan (f : XForm) (s : State) : Out := overTree s f (prefixOf (joinNodes f.fn.toNat f.ty f.rm))

/-! ## TOPKI (R231) -/

/-- A score ranks above another at a type; false when either is a NaN. -/
def scoreAbove (t : Ty) (x y : DWord) : Bool :=
  if tyFloat t then
    let a := fval (fmtOf t) x
    let b := fval (fmtOf t) y
    (nanOf [a, b]).isNone && ltVal b a
  else toSN (tySigned t) (tyBits t) y < toSN (tySigned t) (tyBits t) x

/-- Two scores are equal; false when either is a NaN. -/
def scoreSame (t : Ty) (x y : DWord) : Bool :=
  if tyFloat t then
    let a := fval (fmtOf t) x
    let b := fval (fmtOf t) y
    (nanOf [a, b]).isNone && eqVal a b
  else extend false (tyBits t) x = extend false (tyBits t) y

/-- Candidate (x, c) ranks before entry (y, e) (R231). -/
def ranksBefore (t : Ty) (x : DWord) (c : Nat) (y : DWord) (e : Nat) : Bool :=
  scoreAbove t x y || (scoreSame t x y && c < e)

/-- A lane's list with a candidate put in its place: scores and ids, best first. -/
def topInsert (t : Ty) (l : List (DWord × Nat)) (x : DWord) (c : Nat) : List (DWord × Nat) :=
  let pos := (l.filter fun e => !ranksBefore t x c e.1 e.2).length
  if pos < l.length then
    l.take pos ++ ((x, c) :: ((l.drop pos).map fun e => (extend false (tyBits t) e.1, e.2))).take (l.length - pos)
  else l

def execTopki (f : XForm) (s : State) : Out :=
  let g := curGroup s
  let t := fltTy f
  let n := match f.c with | .imm x => x.toNat | _ => 1
  let d := match f.d with | .v r => r.val | _ => 0
  let k := xIssue f 12 (topReg [(f.d, 2 * n), (f.a, 1), (f.b, 1)])
  let m := live g f
  let list (i : Nat) : List (DWord × Nat) :=
    topInsert t ((List.range n).map fun j => ((vRead g (d + j) i).setWidth 64, (vRead g (d + n + j) i).toNat))
      (extend false (tyBits t) (opnd s g false f.a i)) ((opnd s g false f.b i).toNat % 2 ^ 32)
  let put (y : Group) (j : Nat) : Group :=
    vWrite (vWrite y (d + j) m fun i => ((list i).getD j (0, 0)).1.setWidth 32) (d + n + j) m fun i =>
      BitVec.ofNat 32 ((list i).getD j (0, 0)).2
  issue s k (.next (retire s ((List.range n).foldl put g) k true (pushOf s g f false fun i => ((list i).getD 0 (0, 0)).1)))

/-! ## SIEVE (R232, R233, R303) -/

/-- The groups of a block that a SIEVE regroups, in increasing `sy.gid`: every group of the block, shadow groups of rings among them
(R39, R232). -/
def sieveGroups (s : State) (b : Nat) : List Nat := (getBlock s b).groups

/-- The Sieve fault of one group at its SIEVE (R252). -/
def sieveTrap (s : State) (g detail : Nat) : State :=
  let s := modGroup s g fun x => { x with status := .ready, sieve := none, owedSieve := none }
  takeTrap s g { cls := .I, code := 0x2B, sw := 0, recs := [plainRec s g 0x2B detail], epc := (getGroup s g).pc,
                 uniform := false, elems := [] }

/-- The Sieve fault in every group of the block: a group that has arrived takes it now, another, also one that CSAVE has taken off,
when it issues its SIEVE. -/
def sieveFault (s : State) (b cur detail : Nat) : State :=
  let s := { s with csaved := s.csaved.map fun x => (x.1, if x.1.block = b then { x.2 with owedSieve := some detail } else x.2) }
  (sieveGroups s b).foldl (fun s g =>
    match (getGroup s g).status with
    | .sieve _ => sieveTrap s g detail
    | .ended => s
    | .free => s
    | _ => if g = cur then sieveTrap s g detail else modGroup s g fun x => { x with owedSieve := some detail }) s

/-- The condition of the Sieve fault that a group finds at issue (R334). -/
def sieveBad (s : State) (g : Nat) : Option Nat :=
  let x := getGroup s g
  match x.owedSieve with
  | some d => some d
  | none =>
    if (sieveGroups s x.block).any fun i => (getGroup s i).status = .ended then some 0
    else if x.txn.any fun e => e.2.isOpen then some 1
    else if (match x.call with | c :: _ => c.depth.toNat | [] => 0) < depthD x then some 2
    else none

/-- The packed word's fields: cap, first register, count (R232). -/
def sieveCap (w : DWord) : Nat := w.toNat % 2 ^ 16
def sieveFirst (w : DWord) : Nat := w.toNat / 2 ^ 16 % 512
def sieveCount (w : DWord) : Nat := w.toNat / 2 ^ 25 % 64 + 1

/-- The vector register that an operand names. -/
def vNum (o : Operand) : Nat := match o with | .v n => n.val | _ => 512

/-- SIEVE: the group arrives and sleeps, its update-only lines being sent, because its atomics are complete at `.blk` once they have
been performed (R232, R303; log entry 70). -/
def execSieve (f : XForm) (s : State) : Out :=
  let x := curGroup s
  let w := opnd s x false f.c 0
  let k : Issue :=
    { xIssue f (xLen f) (topReg [(f.d, 1), (f.a, 1), (f.b, 1), (.v (Fin.ofNat 512 (sieveFirst w)), sieveCount w)]) with full := true }
  if 2 ^ 31 ≤ w.toNat then trapI s k 0x01 3
  else
    issue s k <|
      match sieveBad s s.cur with
      | some d => if x.owedSieve.isSome then .next (sieveTrap s s.cur d) else .next (sieveFault s x.block s.cur d)
      | none =>
        .next (setCur (sendGathersOf s fun h => h.ofUid x.uid) { unchained x with
          status := .sieve (x.pc + BitVec.ofNat 64 k.len)
          sieve := some { ty := fltTy f, packed := w, d := vNum f.d, key := vNum f.a, weight := vNum f.b, lanes := live x f } })

/-- A thread that takes part: its group's place, its lane, its key, its weight and its `sy.tid`. -/
structure SieveThread where
  at_ : Nat
  lane : Nat
  key : Nat
  weight : DWord
  tid : Nat
  deriving DecidableEq, Repr

/-- The `sy.tid` of a lane: its thread's first place in the block, unless a SIEVE has moved it (R233). -/
def tidOf (x : Group) (lane : Nat) : Nat := (mapGet (BitVec.ofNat 32 (128 * x.gid + lane)) x.tid lane).toNat

/-- A thread ranks before another of its key (R232). -/
def sieveBefore (t : Ty) (a b : SieveThread) : Bool :=
  let nan (y : SieveThread) : Bool := tyFloat t && (nanOf [fval (fmtOf t) y.weight]).isSome
  if nan a && nan b then a.tid < b.tid
  else if nan a then false
  else if nan b then true
  else scoreAbove t a.weight b.weight || (scoreSame t a.weight b.weight && a.tid < b.tid)

/-- A list with an element put in its place by an order. -/
def insertBy {α : Type} (lt : α → α → Bool) (x : α) : List α → List α
  | [] => [x]
  | y :: r => if lt x y then x :: y :: r else y :: insertBy lt x r
/-- A list sorted by an order. -/
def sortBy {α : Type} (lt : α → α → Bool) (l : List α) : List α := l.foldl (fun r x => insertBy lt x r) []

/-- The threads of one run with the status word of each (R233). -/
def keyRun (t : Ty) (cap : Nat) (l : List SieveThread) : List (SieveThread × Nat) × List (SieveThread × Nat) :=
  let o := (sortBy (sieveBefore t) l).zipIdx
  let ok (i : Nat) : Bool := cap = 0 || i < cap
  ((o.filter fun e => ok e.2).map (fun e => (e.1, e.2 % 2 ^ 16 + 2 ^ 16)),
    (o.filter fun e => !ok e.2).map (fun e => (e.1, e.2 % 2 ^ 16 + 2 ^ 17)))

/-- The runs of a SIEVE (R232). -/
def sieveRuns (t : Ty) (cap : Nat) (l : List SieveThread) : List (List (SieveThread × Nat)) :=
  let keyed := l.filter fun y => y.key ≠ 2 ^ 32 - 1
  let keys := sortBy (fun a b => decide (a < b)) (keyed.map (·.key)).eraseDups
  let rs := keys.map fun k => keyRun t cap (keyed.filter fun y => y.key = k)
  let rest := sortBy (fun a b => decide (a.1.tid < b.1.tid))
    (rs.flatMap (·.2) ++ (l.filter fun y => y.key = 2 ^ 32 - 1).map fun y => (y, 2 ^ 18))
  rs.map (·.1) ++ [rest]

/-- Whole groups of slots that hold at least `n` threads, from the front of a list of groups, and the groups after them. -/
def takeGroups : Nat → List (List Nat) → List Nat × List (List Nat)
  | 0, gs => ([], gs)
  | _, [] => ([], [])
  | n + 1, g :: gs =>
    let r := takeGroups (n + 1 - g.length) gs
    (g ++ r.1, r.2)

/-- The slots of the runs in groups of slots: each run starts a fresh group while there is one; what finds none fills the free
lanes in order (R232). The result lists (slot, thread with status). -/
def sieveSlots : List (List Nat) → List (List (SieveThread × Nat)) → List (Nat × SieveThread × Nat) × List (SieveThread × Nat)
  | _, [] => ([], [])
  | gs, r :: rs =>
    let t := takeGroups r.length gs
    let rest := sieveSlots t.2 rs
    (t.1.zip r ++ rest.1, r.drop t.1.length ++ rest.2)

/-- Every slot of the exchange with its new thread. -/
def sievePlan (gs : List (List Nat)) (runs : List (List (SieveThread × Nat))) : List (Nat × SieveThread × Nat) :=
  let p := sieveSlots gs runs
  let free := gs.flatten.filter fun i => !(p.1.map (·.1)).contains i
  p.1 ++ free.zip p.2

/-- The threads of a block as they stand. -/
def sieveThreads (s : State) (gs : List Nat) : List SieveThread :=
  gs.zipIdx.flatMap fun e =>
    let x := getGroup s e.1
    match x.sieve with
    | none => []
    | some a => (lanes a.lanes).map fun i =>
        { at_ := e.2, lane := i, key := (vRead x a.key i).toNat, weight := (vRead x a.weight i).setWidth 64, tid := tidOf x i }

/-- The lanes of a group that its SIEVE is live in: the threads and slots that take part (R14, R230; log entry 72). -/
def sieveLanes (x : Group) : LaneMask := match x.sieve with | some a => a.lanes | none => 0

/-- The slots of the exchange, group by group. -/
def sieveGrid (s : State) (gs : List Nat) : List (List Nat) :=
  gs.zipIdx.map fun e => (lanes (sieveLanes (getGroup s e.1))).map fun i => 128 * e.2 + i

/-- The exchange (R232, R233): every group of the block has arrived; threads move to their slots and all go on. -/
def sieveMove (s : State) (gs : List Nat) (a : SieveArrival) : State :=
  let plan := sievePlan (sieveGrid s gs) (sieveRuns a.ty (sieveCap a.packed) (sieveThreads s gs))
  let from_ (e i : Nat) : SieveThread × Nat :=
    ((plan.find? fun p => p.1 = 128 * e + i).map (·.2)).getD
      ({ at_ := e, lane := i, key := 0, weight := 0, tid := tidOf (getGroup s (gs.getD e 0)) i }, 0)
  gs.zipIdx.foldl (fun t e =>
    let x := getGroup s e.1
    let m := sieveLanes x
    let src (i : Nat) : Group := getGroup s (gs.getD (from_ e.2 i).1.at_ 0)
    let y := (List.range (sieveCount a.packed)).foldl
      (fun y r => vWrite y (sieveFirst a.packed + r) m fun i =>
        vRead (src i) (sieveFirst a.packed + r) (from_ e.2 i).1.lane) x
    let y := match x.sieve with
      | some b => if b.d < 512 then vWrite y b.d m fun i => BitVec.ofNat 32 (from_ e.2 i).2 else y
      | none => y
    setGroup t e.1 { y with
      tid := (List.range 128).map fun i => (i, BitVec.ofNat 32 (from_ e.2 i).1.tid)
      sieve := none, owedSieve := none, status := .ready
      pc := match x.status with | .sieve r => r | _ => x.pc }) s

/-- SIEVE_EXCHANGE: once every group that has not ended has arrived and every earlier store is complete at `.blk`, copy
elements apart, the threads move, or every group takes the Sieve fault (R232, R252, R303). A group that CSAVE has taken off has
not arrived. -/
def execSieveExchange (blk : Nat) (s : State) : Out :=
  let gs := (sieveGroups s blk).filter fun g => (getGroup s g).status.live
  let arr := gs.filterMap fun g => (getGroup s g).sieve
  match arr with
  | [] => .fault .notDue
  | a :: r =>
    if !(gs.all fun g => (getGroup s g).sieve.isSome) || !(getBlock s blk).away.isEmpty then .fault .notDue
    else if gs.length < (sieveGroups s blk).length then .next (sieveFault s blk (2 ^ 20) 0)
    else if r.any fun b => b.ty ≠ a.ty || b.packed ≠ a.packed then .next (sieveFault s blk (2 ^ 20) 3)
    else if gs.all fun g => ownComplete s g .blk then .next (sieveMove s gs a)
    else .fault .notDue

end Sys2Proof.Machine
end

