-- ==== Sys2Proof/Machine/Ranges.lean ====
section
/-! DEFINITION. Uniform accesses to a range of bytes by the issuing group: the record read of SPAWN, the adapter reads of
MXG, CSAVE and CREST (R219, R239, R251, R344). -/

namespace Sys2Proof.Machine

/-- What reading a range comes to: its bytes, a fault at an address, poison read, or a home that does not answer. -/
inductive Ranged where
  | ok (b : List Byte) (s : State)
  | fault (va : DWord) (f : AccFault)
  | lost (va : DWord) (pa : Nat)
  | busy

/-- The bytes of one place as the group loads them (R160, R191, R315); none while a request to a peer cannot be answered (R326). -/
def placeLoad (s : State) (g : Nat) (x : Place) (n : Nat) : Option (List Byte × State) :=
  match x.space with
  | .hbm k =>
    some (if x.dark then darkLoad s (groupDie g) k n else cohLoad s g x.cls k n)
  | .host k => some (memBytes s.mem k n, s)
  | .peer a o => peerRound s (groupSpace s g).1 (groupDie g) a o n

/-- A read of the group must wait for its own access to the bytes, which a lock holds back or which is on its way to a peer (R159,
R181, R326). -/
def atomicHeld (s : State) (g : Nat) (x : Place) (n : Nat) : Bool :=
  match x.space with
  | .hbm k => !x.dark && ownHeld s g k n
  | .peer _ _ => peerLeft s (getGroup s g).uid s.nextId
  | .host _ => false

/-- A range read by the issuing group, line by line; its address is a multiple of `al`. -/
def rangeRead (s : State) (al : Nat) (va : DWord) : Nat → Nat → Ranged
  | _, 0 => .ok [] s
  | 0, _ => .ok [] s
  | fuel + 1, n =>
    let sp := groupSpace s s.cur
    let k := inLine va.toNat n
    match reach s sp.1 sp.2 .read al false va with
    | .error e => .fault va e
    | .ok x =>
      if placeBusy s s.cur x || atomicHeld s s.cur x k then .busy
      else if placePoisoned s s.cur x k then .lost va (match x.space with | .hbm a => keyPa a | _ => 0)
      else
        match placeLoad s s.cur x k with
        | none => .busy
        | some b =>
          match rangeRead (tlbFill b.2 sp.1 sp.2 va) al (va + BitVec.ofNat 64 k) fuel (n - k) with
          | .ok r t => .ok (b.1 ++ r) t
          | y => y

/-- The faults of reaching a range, whose address is a multiple of `al`, line by line. -/
def partFaults (s : State) (need : Need) (al : Nat) (va : DWord) (n : Nat) : List (DWord × AccFault) :=
  let sp := groupSpace s s.cur
  (lineParts va n).filterMap fun p => match reach s sp.1 sp.2 need al false p.1 with
    | .error e => some (p.1, e)
    | .ok _ => none

/-- The place of a fault in the order of R335: restartable, non-canonical, misaligned, out of range, protection, scope. -/
def AccFault.rank (e : AccFault) : Nat :=
  if e.code = 0x10 then 0
  else if e.code = 0x19 then (if e.detail = 0 then 1 else 3)
  else if e.code = 0x18 then 2
  else if e.code = 0x1A then 4
  else 5

/-- The fault that an instruction takes of several of one lane: the first in the order of R335, at its first address. -/
def firstFault : List (DWord × AccFault) → Option (DWord × AccFault)
  | [] => none
  | e :: r =>
    match firstFault r with
    | none => some e
    | some d => if d.2.rank < e.2.rank then some d else some e

/-- A range of `n` bytes read by the issuing group. -/
def readRange (s : State) (al : Nat) (va : DWord) (n : Nat) : Ranged :=
  match firstFault (partFaults s .read al va n) with
  | some e => .fault e.1 e.2
  | none => rangeRead s al va (n / 128 + 2) n

/-- The fault of writing a range, whose address is a multiple of `al`. -/
def rangeFault (s : State) (al : Nat) (va : DWord) (n : Nat) : Option (DWord × AccFault) := firstFault (partFaults s .write al va n)

/-- An instruction that goes on with the bytes of a range, or takes the fault of a uniform load (R344). -/
def withRange (s : State) (k : Issue) (al : Nat) (va : DWord) (n : Nat) (go : State → List Byte → Out) : Out :=
  match readRange s al va n with
  | .ok b t => go t b
  | .fault a e => uniformFault s k false false e.code e.detail a e.entry
  | .lost a pa =>
    let b := (curGroup s).block
    .next (loseBlock s b (memberOn (getBlock s b) (slotCore s.cur)) 6 true a pa)
  | .busy => stall s .lock

/-- An instruction that writes a range, or takes the fault of a uniform store before any byte is written (R344). -/
def withWrite (s : State) (k : Issue) (al : Nat) (va : DWord) (b : List Byte) (go : State → Out) : Out :=
  let sp := groupSpace s s.cur
  match rangeFault s al va b.length with
  | some (a, e) => uniformFault s k true false e.code e.detail a e.entry
  | none => go ((ctxWrite s sp.1 sp.2 (.group s.cur) va b).getD s)

end Sys2Proof.Machine
end

