-- ==== Sys2Proof/Machine/Tasks.lean ====
section
/-! DEFINITION. Tasks: child grids, queues, queue windows and work lists (R35 to R38, R238 to R243, R281, R282, R363, R364). -/

namespace Sys2Proof.Machine

/-! ## SPAWN and AWAIT (R239) -/

/-- SPAWN: the child grid record joins the die's pending pool once the group's stores are complete at `.prt`. -/
def execSpawn (f : XForm) (s : State) : Out :=
  let x := curGroup s
  let k := xIssue f (xLen f) (addrTop f 0 0)
  let va := globalAt s x f.a f.b (lu x)
  let d := groupDie s.cur
  guarded s f k <|
    release s k .prt .release fun s =>
      if 4096 ≤ (getDie s d).pool.length then stall s .full
      else
        withRange s k 64 va 128 fun s b =>
          let x := curGroup s
          let s := modDie s d fun y => { y with pool := y.pool ++ [(x.uid, (groupBlock s s.cur).grid, va, b)] }
          completeScalar s { x with spawned := x.spawned + 1 } f k (BitVec.ofNat 64 (x.spawned + 1))

/-- AWAIT: a WAIT on `ev.join` for the children spawned so far. -/
def execAwait (f : XForm) (s : State) : Out :=
  let x := curGroup s
  let k := ctlIssue f (xLen f)
  let resume := match f.c with | .imm _ => labelAt x f.c | _ => x.pc + BitVec.ofNat 64 k.len
  guarded s f k (waitOn s x .join 0 (BitVec.ofNat 64 x.spawned) resume true)

/-! ## Queues (R240, R241, R281, R282) -/

/-- The first tick boundary of a queue after an append (R282). -/
def boundary (q : Queue) (t : Nat) : Nat := t + 1 + (q.phs + q.per - (t + 1) % q.per) % q.per
/-- How many gated entries of a queue have reached their boundary on the die that serves it (R282). -/
def reachedDue (s : State) (q : Queue) : Nat := (q.due.filter fun t => boundary q t ≤ dieGtc s q.die).length
/-- The entries of a queue that can be popped: those in its ring that the tick gate has released (R282). -/
def ready (s : State) (q : Queue) : Nat := (q.tail - q.head).toNat - (q.due.length - reachedDue s q)
/-- The ring address of the entry with a count (R316). -/
def slotVa (q : Queue) (i : Word) : DWord := q.base + BitVec.ofNat 64 (32 * (i.toNat % 2 ^ q.lcap))
/-- A queue that holds its capacity (R316). -/
def queueFull (q : Queue) : Bool := 2 ^ q.lcap ≤ (q.tail - q.head).toNat

/-- A group that sleeps on a persistent queue's event. -/
def sleepsOn (s : State) (q : QRef) (x : Group) : Bool :=
  let r := getGrid s (getBlock s x.block).grid
  r.lrec.flags.getLsbD 5 && gridQueue r = q && (match x.status with | .asleep .queue _ _ _ _ => true | _ => false)

/-- The resident groups that sleep on a queue's event: the tick of each WAIT and the identity. -/
def residentSleepers (s : State) (q : QRef) : List (Nat × Nat) :=
  (s.groups.filter fun e => sleepsOn s q e.2).map fun e => (e.2.issued, e.2.uid)

/-- Every group that sleeps on a queue's event, resident or saved. -/
def sleepers (s : State) (q : QRef) : List (Nat × Nat) :=
  residentSleepers s q
    ++ s.blocks.flatMap fun e => (e.2.saved.filter fun x => sleepsOn s q x.2).map fun x => (x.2.issued, x.2.uid)

/-- The `ev.queue` counter of the resident group that has slept longest on a queue's event advances; with none resident, that of the
saved group that has, whose counts go on (R35, R161, R241). -/
def wakeLongest (s : State) (q : QRef) : State :=
  match (if (residentSleepers s q).isEmpty then sleepers s q else residentSleepers s q) with
  | [] => s
  | a :: r => bumpUid s (r.foldl (fun m e => if e.1 < m.1 then e else m) a).2 .queue

/-- The `ev.queue` counter of every group that waits on a queue advances (R241). -/
def wakeQueue (s : State) (q : QRef) : State := (sleepers s q).foldl (fun s e => bumpUid s e.2 .queue) s

/-- An entry appended to the tail of a device queue (R240, R282). -/
def appendEntry (s : State) (q : QRef) (b : List Byte) : State :=
  let x := getQueue s q
  let s := (ctxWrite s q.part q.ctx (.die x.die) (slotVa x x.tail) b).getD s
  let s := modQueue s q fun y =>
    { y with tail := y.tail + 1, due := if y.per = 0 then y.due else y.due ++ [dieGtc s y.die] }
  wakeLongest s q

/-- A queue lets go the entries whose boundary has come: each is handed to the group that has slept longest on the queue
(R241, R282). -/
def releaseDue (s : State) (q : QRef) : State :=
  let n := reachedDue s (getQueue s q)
  if n = 0 then s else (List.range n).foldl (fun s _ => wakeLongest s q) (modQueue s q fun y => { y with due := y.due.drop n })

/-- The entry at the head of a queue and the queue without it: an entry that came back first (R360). -/
def takeEntry (s : State) (q : QRef) : Option ((List Byte × Bool) × State) :=
  let s := releaseDue s q
  let x := getQueue s q
  match x.front with
  | e :: r => some (e, modQueue s q fun y => { y with front := r })
  | [] =>
    if ready s x = 0 then none
    else
      let b := (ctxBytes s q.part q.ctx (slotVa x x.head) 32).getD (peerBytes s.tick 0 x.head.toNat 32)
      let s := askRange s q.part x.die (tableXlat s q.part q.ctx) (slotVa x x.head) 32
      some ((b, false), modQueue s q fun y => { y with head := y.head + 1 })

/-- The queue named by an instruction of the issuing group's context. Of a number above 255, which R240 does not speak of, the low 8
bits count: DESIGN CHOICE (log entry 85). -/
def deviceQueue (s : State) (n : Nat) : QRef :=
  let sp := groupSpace s s.cur
  { part := sp.1, ctx := sp.2, host := false, q := n % 256 }

/-- The 32 bytes of an entry in eight registers of a lane (R240). -/
def entryRegs (x : Group) (d lane : Nat) (b : List Byte) : Group :=
  (List.range 8).foldl (fun x m => vWrite x (d + m) (maskOf [lane]) fun _ => BitVec.ofNat 32 (leNat ((b.drop (4 * m)).take 4))) x

/-- What an instruction pushes whose result reaches some lanes only: the other lanes of the latch hold what no instruction
wrote (R41; log entry 19). -/
def pushGot (s : State) (x : Group) (f : XForm) (vals : List (Nat × DWord)) : Option Latch :=
  if !pushes f || live x f = 0 then none
  else
    some (.lanes ((List.range 128).map fun i =>
      match vals.find? fun e => e.1 = i with
      | some e => e.2
      | none => Config.latchLane s.tick i))

/-- One lane of QPOP: its registers and its bit of the predicate (R240). -/
def popLane (q : QRef) (o : Operand) (r : State × List (Nat × DWord)) (lane : Nat) : State × List (Nat × DWord) :=
  match takeEntry r.1 q with
  | none => r
  | some (e, s) =>
    let x := curGroup s
    let s := modBlock s x.block fun b =>
      { b with popped := (b.popped.filter fun p => !(p.uid = x.uid && p.lane = lane)) ++
          [{ uid := x.uid, lane, entry := e.1, retry := e.2 }] }
    (match o with | .v n => setCur s (entryRegs (curGroup s) n.val lane e.1) | _ => s,
      r.2 ++ [(lane, BitVec.ofNat 64 (leNat (e.1.take 4)))])

/-- The predicate operand of a task instruction. -/
def predNum (o : Operand) : Nat := match o with | .p n => n.val | _ => 0

/-- The highest register of an instruction that names eight registers from an operand on. -/
def eightTop (o : Operand) : Option Nat := topReg [(o, 8)]

/-- QPOP (R240). With no live lane it leaves `sy.qph` and `sy.qcl` as they are: DESIGN CHOICE, as R240 does not say (log entry 86). -/
def execQpop (f : XForm) (s : State) : Out :=
  let x := curGroup s
  let r := groupGrid s s.cur
  let q := gridQueue r
  let k := xIssue f (xLen f) (eightTop f.d)
  issue s k <|
    if live x f = 0 then complete s k
    else if !r.lrec.flags.getLsbD 5 then trapI s k 0x2F (q.q + 2 * 256)
    else if !(getQueue s q).installed then trapI s k 0x2F q.q
    else
      let t := (lanes (live x f)).foldl (popLane q f.d) (s, [])
      let y := curGroup t.1
      let z := getQueue t.1 q
      let y := { pWrite y (predNum f.c) (live x f) (maskOf (t.2.map (·.1))) with
        qph := y.cQueue + 1, qcl := z.closed && z.head = z.tail && z.front.isEmpty }
      .next (retire t.1 y k (pushes f) (pushGot s x f t.2))

/-- The bytes of eight registers of a lane. -/
def regBytes (x : Group) (a lane : Nat) : List Byte := (List.range 8).flatMap fun m => leBytes 4 (vRead x (a + m) lane).toNat

/-- QPUSH's lanes appended until the queue is full; the lanes that are left. -/
def pushLanes (q : QRef) (a : Nat) : State → List Nat → State × List Nat
  | s, [] => (s, [])
  | s, i :: r => if queueFull (getQueue s q) then (s, i :: r) else pushLanes q a (appendEntry s q (regBytes (curGroup s) a i)) r

/-- QPUSH (R240): the lanes are appended in order; the group stalls with the lanes that are left while the queue is full. One
that has appended a lane goes on to its end (R364). -/
def execQpush (f : XForm) (s : State) : Out :=
  let x := curGroup s
  let q := deviceQueue s (opnd s x false f.b (lu x)).toNat
  let k := xIssue f (xLen f) (eightTop f.a)
  issue s k <|
    if live x f = 0 then complete s k
    else if x.pushed = 0 && !(getQueue s q).installed then trapI s k 0x2F q.q
    else if x.pushed = 0 && (getQueue s q).closed then trapI s k 0x2F (q.q + 256)
    else
      let ls := (lanes (live x f)).filter fun i => x.pushed ≤ i
      let go (s : State) : Out :=
        let r := pushLanes q (vNum f.a) s ls
        match r.2 with
        | [] => .next (retire r.1 { curGroup r.1 with pushed := 0 } k false none)
        | i :: _ => stall (setCur r.1 { curGroup r.1 with pushed := if r.2 = ls then x.pushed else i }) .full
      if x.pushed = 0 then release s k .prt .release go else go s

/-- TICK_BOUNDARY: a tick-gated queue releases the entries whose first boundary has come; groups that sleep on the queue are
handed them (R35, R282). -/
def execTickBoundary (q : QRef) (s : State) : Out :=
  let x := getQueue s q
  if x.per = 0 || reachedDue s x = 0 then .fault .notDue else .next (releaseDue s q)

/-! ## Queue windows (R36, R242) -/

/-- The ring of the issuing group. -/
def groupRing (s : State) (x : Group) : Option Ring := (getBlock s x.block).rings[x.ring]?
/-- The state with the ring of a group changed. -/
def modRing (s : State) (x : Group) (f : Ring → Ring) : State :=
  modBlock s x.block fun b => { b with rings := b.rings.modify x.ring f }

/-- A role halts at a stop token, before the instruction (R242, R297). -/
def halt (s : State) (x : Group) (f : Ring → Ring) : Out := stall (modRing s x f) .halted

/-- A grid whose rings drain by stop tokens (R297). -/
def draining (s : State) (g : Nat) : Bool := (groupGrid s g).status = .draining

/-- A count of QWPUT or QWGET beyond half of the group's window is an illegal instruction (R242, R335). -/
def countBad (s : State) (x : Group) (m : Nat) : Bool := match groupRing s x with | some rg => rg.slots < m | none => false

/-- Registers as a window holds them: zero in lanes that are not live (R242). -/
def windowRegs (x : Group) (f : XForm) (a m : Nat) : List VReg :=
  (List.range m).map fun i => Vector.ofFn fun l => if (live x f).getLsbD l.val then (vReg x (a + i))[l] else 0

def execQwput (f : XForm) (s : State) : Out :=
  let x := curGroup s
  let m := (opnd s x false f.b 0).toNat
  let k := xIssue f (xLen f) (topReg [(f.a, m)])
  let put (rg : Ring) : Ring :=
    if x.role = .loader then { rg with ringL := rg.ringL ++ windowRegs x f (vNum f.a) m, putsL := rg.putsL + m }
    else { rg with ringS := rg.ringS ++ windowRegs x f (vNum f.a) m, putsS := rg.putsS + m }
  if countBad s x m then trapI s k 0x01 3 else
  guarded s f k <|
    match groupRing s x with
    | none => trapI s k 0x2C 0
    | some rg =>
      if x.role = .none || x.role = .storer then trapI s k 0x2C 0
      else if x.role = .loader && draining s s.cur && !rg.hard then halt s x fun r => { r with haltL := true, stopL := true }
      else if rg.slots < (if x.role = .loader then rg.ringL.length else rg.ringS.length) + m then stall s .window
      else complete (modRing s x put) k

def execQwget (f : XForm) (s : State) : Out :=
  let x := curGroup s
  let m := (opnd s x false f.b 0).toNat
  let k := xIssue f (xLen f) (topReg [(f.d, m)])
  if countBad s x m then trapI s k 0x01 3 else
  guarded s f k <|
    match groupRing s x with
    | none => trapI s k 0x2C 0
    | some rg =>
      if x.role = .none || x.role = .loader then trapI s k 0x2C 0
      else
        let from_ := if x.role = .computer then rg.ringL else rg.ringS
        if from_.length < m then
          if x.role = .computer && rg.stopL then halt s x fun r => { r with haltC := true, stopS := true }
          else if x.role = .storer && rg.stopS then halt s x fun r => { r with haltS := true }
          else stall s .window
        else
          let first : VReg := from_.headD vZero
          let y := match f.d with
            | .v n => ((from_.take m).zipIdx).foldl (fun y e => vWrite y (n.val + e.2) (live x f) fun i => e.1[i]?.getD 0) x
            | _ => x
          let s := modRing s x fun r =>
            if x.role = .computer then { r with ringL := r.ringL.drop m } else { r with ringS := r.ringS.drop m }
          .next (retire s y k (pushes f) (pushGot s x f ((lanes (live x f)).map fun i => (i, (first[i]?.getD 0).setWidth 64))))

/-! ## Work lists (R38, R243) -/

/-- The items of a partition's compaction unit, in lists and in flight (R243). -/
def itemCount (p : Partition) : Nat := p.flying.length + p.lists.foldl (fun n e => n + e.2.length) 0

/-- WLAPP (R243). The core is one value for the group, so a core outside the launch is a trap that concerns no lane (R401). -/
def execWlapp (f : XForm) (s : State) : Out :=
  let x := curGroup s
  let i := (groupBlock s s.cur).grid
  let p := (groupSpace s s.cur).1
  let ls := lanes (live x f)
  let k := xIssue f (xLen f) (topReg [(f.a, 1), (f.b, 1)])
  let core (l : Nat) : Nat := (opnd s x false f.a l).toNat
  let bad := ls.filter fun l => !(gridCores s i).contains (core l)
  issue s k <|
    if ls.isEmpty then complete s k
    else if !bad.isEmpty then trapI s k 0x2D 0
    else if 2 ^ 22 < itemCount (getPart s p) + ls.length then trapI s k 0x2D 1
    else
      let s := setCur s { x with idle := false }
      release s k .prt .release fun s =>
        complete (modPart s p fun pt =>
          { pt with flying := pt.flying ++ ls.map fun l => (i, core l, (opnd s x false f.b l).setWidth 32) }) k

/-- The groups of a launch on a core, saved ones as well, cease to be idle, and their queue counters advance (R38, R243). -/
def itemArrived (s : State) (i c : Nat) : State :=
  (getGrid s i).live.foldl (fun s b =>
    let x := getBlock s b
    modMembers s b fun y => if x.cores[y.member]? = some c then queueBump { y with idle := false } else y) s

/-- ITEM_IN_LIST: the oldest append in flight reaches its launch's list on its core (R243; log entry 87). A core that runs no group of
the launch any more has its items discarded when the launch has lost a block (R361). -/
def execItemInList (part : Nat) (s : State) : Out :=
  match (getPart s part).flying with
  | [] => .fault .notDue
  | (i, c, w) :: r =>
    let s := modPart s part fun p => { p with flying := r, lists := mapMod [] p.lists (listKey i c) fun l => l ++ [w] }
    .next (testQuiet (discardItems (itemArrived s i c) i c) i)

def execWlpop (f : XForm) (s : State) : Out :=
  let x := curGroup s
  let i := (groupBlock s s.cur).grid
  let c := listKey i (slotCore s.cur)
  let p := (groupSpace s s.cur).1
  let k := xIssue f (xLen f) (topReg [(f.d, 1)])
  let got := (lanes (live x f)).zip (mapGet [] (getPart s p).lists c)
  let y := match f.d with
    | .v n => got.foldl (fun y e => vWrite y n.val (maskOf [e.1]) fun _ => e.2) x
    | _ => x
  let y := pWrite y (predNum f.c) (live x f) (maskOf (got.map (·.1)))
  issue s k <|
    let s := modPart s p fun pt => { pt with lists := mapMod [] pt.lists c fun l => l.drop got.length }
    .next (testQuiet (retire s y k (pushes f) (pushGot s x f (got.map fun e => (e.1, e.2.setWidth 64)))) i)

def execTerm (f : XForm) (s : State) : Out :=
  let x := curGroup s
  let k := ctlIssue f (xLen f)
  guarded s f k <|
    match completeScalar s { x with idle := true } f k (x.cQueue + 1) with
    | .next t => .next (testQuiet t (groupBlock t t.cur).grid)
    | o => o

end Sys2Proof.Machine
end

