-- ==== Sys2Proof/Machine/System.lean ====
section
/-! DEFINITION. System instructions: system registers, RFT, TLBI, ICINV and whole groups (R244 to R251, R340 to R342, R372). -/

namespace Sys2Proof.Machine

/-! ## System registers (R75, R244, R246, R340) -/

/-- The extent of a level of a launch; 1 for a level that it lacks (R278). -/
def extentOf (r : LRec) (n : Nat) : Nat := if 2 ≤ n && n < r.nlvl then r.ext.getD (n - 2) 1 else 1

/-- Blocks in one unit of a level from 2 on: the product of the extents of levels 3 to n (R32, R278). -/
def unitBlocks (r : LRec) (n : Nat) : Nat := (List.range (n - 2)).foldl (fun p i => p * extentOf r (3 + i)) 1

/-- A block's index within its parent unit at a level (R34): its unit of level n, counted within the unit of level n + 1 that holds it.
DESIGN CHOICE: R34 does not say which unit is the parent (log entry 94). -/
def levelIndex (r : LRec) (bid n : Nat) : Nat := bid / unitBlocks r n % extentOf r (n + 1)

/-- What a system register of a group holds in a lane (R246). -/
def syRead (s : State) (g n lane : Nat) : DWord :=
  let x := getGroup s g
  let b := getBlock s x.block
  let r := getGrid s b.grid
  let c := slotCore g
  match n with
  | 0 => BitVec.ofNat 64 lane
  | 1 => BitVec.ofNat 64 (tidOf x lane)
  | 2 => BitVec.ofNat 64 x.gid
  | 3 => BitVec.ofNat 64 b.bid
  | 4 => BitVec.ofNat 64 c
  | 5 => BitVec.ofNat 64 (coreDie c)
  | 6 => BitVec.ofNat 64 (dieGtc s (coreDie c))
  | 7 => mapGet 0 s.cyc (coreDie c)
  | 8 => r.lrec.karg
  | 9 => x.fpflags
  | 10 => x.stk
  | 11 => accsv s x.block x.member
  | 12 => BitVec.ofNat 64 x.prio
  | 13 => x.mark.setWidth 64
  | 20 => x.qph
  | 21 => if x.qcl then 1 else 0
  | 22 => if r.term then 1 else 0
  | 23 => BitVec.ofNat 64 (groupSpace s g).2
  | 24 => if privileged s g then 1 else 0
  | 25 => x.epc
  | 26 => x.ecause
  | 27 => x.erec
  | 28 => x.exm0
  | 29 => x.exm1
  | 30 => BitVec.ofNat 64 (b.groups.length + b.away.length)
  | 31 => BitVec.ofNat 64 r.blocks
  | m => if 14 ≤ m && m ≤ 19 then BitVec.ofNat 64 (levelIndex r.lrec b.bid (m - 12)) else 0

/-- The bits of `sy.ecause` that hold something (R340). -/
def ecauseMask : DWord := 0x80000FFFFFFFF0FF#64

/-- A group with a writable system register written (R75, R246, R340); `sy.mode` keeps its value. -/
def syWrite (x : Group) (n : Nat) (v : DWord) : Group :=
  match n with
  | 9 => { x with fpflags := v &&& fpMask }
  | 25 => { x with epc := v }
  | 26 => { x with ecause := v &&& ecauseMask }
  | 27 => { x with erec := v }
  | 28 => { x with exm0 := v }
  | 29 => { x with exm1 := v }
  | _ => x

/-- A write of an operand that needs privileged mode (R244, R246). -/
def privWrite : Operand → Bool
  | .sy n => syAccess n.val = .priv || syAccess n.val = .mode
  | _ => false

/-- What MOVS reads in a lane, or once for the group: the bits of its source (R247). In `movs vD, xm` each lane gets its own bit of `xm`, and
a system register gets the low 64 bits of `xm`, another system register's value, or lane L's bit of a predicate: DESIGN CHOICE, as R247
names no such source (log entry 107). -/
def movsSource (s : State) (x : Group) (once : Bool) (o : Operand) (lane : Nat) : DWord :=
  match o with
  | .sy n => syRead s s.cur n.val lane
  | .xm => if once then x.xm.extractLsb' 0 64 else if x.xm.getLsbD lane then 1 else 0
  | o => opnd s x false o lane

/-- The mask that MOVS puts into `xm`: a pair of scalars, or the bits of a predicate or a system register (R247; log entry
38). -/
def movsMask (s : State) (x : Group) (o : Operand) : LaneMask :=
  match o with
  | .s n => (sRead (hidden s s.cur) x (n.val + 1) ++ sRead (hidden s s.cur) x n.val : BitVec 128)
  | .p n => pRead x n.val
  | .xm => x.xm
  | o => (movsSource s x true o (lu x)).setWidth 128

/-- MOVS (R247). A result of 128 bits, that of `xm`, pushes its lanes 0 to 63: DESIGN CHOICE, as R41 gives a latch 64 bits and R247 names
no part (log entry 97). -/
def execMovs (f : XForm) (s : State) : Out :=
  let x := curGroup s
  let k := { xIssue f (xLen f) (topReg [(f.d, 1), (f.a, 1)]) with priv := privWrite f.d }
  let v := movsSource s x true f.a (lu x)
  let m := movsMask s x f.a &&& ~~~x.exited
  let once (go : Out) : Out := issue s k (if runs x f then go else complete s k)
  match f.d, f.a with
  | .sy n, _ => once (.next (retire s (syWrite x n.val v) k true (some (.scalar v))))
  | .xm, _ => once (.next (retire s { x with xm := m } k true (some (.scalar (m.extractLsb' 0 64)))))
  | .s n, .xm =>
    once (completeScalar s (sWrite (hidden s s.cur) x (n.val + 1) (x.xm.extractLsb' 64 64)) f k (x.xm.extractLsb' 0 64))
  | _, _ => performAt s f k .auto false fun i => (movsSource s x (uniform .auto f) f.a i, 0)

/-- A privileged instruction that executes once (R244, R335). -/
def privOnce (s : State) (f : XForm) (go : Issue → Out) : Out :=
  let k := { xIssue f (xLen f) (addrTop f 0 0) with priv := true }
  guarded s f k (go k)

/-- A resident slot of the issuing core, or the slot fault (R248, R251, R334). -/
def withSlot (s : State) (k : Issue) (n : DWord) (ok : Group → Bool) (go : Nat → Out) : Out :=
  if n.toNat < 96 && ok (getGroup s (slotKey (slotCore s.cur) n.toNat)) then go (slotKey (slotCore s.cur) n.toNat)
  else trapI s k 0x2E n.toNat

/-- A parked group (R248, R251). -/
def isParked (x : Group) : Bool := match x.status with | .parked _ => true | _ => false

/-- MOVW (R248). DESIGN CHOICE: the register changes at once, so a MOVW read or a CSAVE of the parked group made before it next issues
shows the value written; the rule says when a write takes effect, not what such a read gives (log entry 119). -/
def execMovw (f : XForm) (s : State) : Out :=
  let x := curGroup s
  privOnce s f fun k =>
    withSlot s k (opnd s x false f.a 0) isParked fun g =>
      match f.d, f.b with
      | .sy n, b =>
        let v := opnd s x false b 0
        match complete s k with
        | .next t => .next (modGroup t g fun y => syWrite y n.val v)
        | o => o
      | _, .sy n => completeScalar s x f k (syRead s g n.val (lu (getGroup s g)))
      | _, _ => complete s k

/-! ## RFT (R342) -/

def execRft (f : XForm) (s : State) : Out :=
  privOnce s f fun k =>
    match rftFault s with
    | some e => stackTrap s k e
    | none => .next (returnFromTrap s)

/-! ## TLBI and ICINV (R250, R366, R372) -/

/-- The entries of a context that a TLBI removes: those of the page that holds an address, or all. -/
def tlbiHits (p c : Nat) (va : DWord) (whole : Bool) (t : TlbEntry) : Bool :=
  t.part = p && t.ctx = c && (whole || t.page = pageBase t.level va)

/-- The lines of the page of a cached translation, as a test of a line's key. -/
def pageLine (t : TlbEntry) (l : Nat) : Bool :=
  let lo := memKey t.part (t.entry.toNat / 2 ^ 16 % 2 ^ 32 * 2 ^ 16)
  lo ≤ 128 * l && 128 * l < lo + 2 ^ levelShift t.level

/-- The copies of a page go: the dirty bytes of a darkroom page's copies are written back first (R372), and the copies of a
class 4 page's lines are discarded (R254). -/
def dropPage (s : State) (t : TlbEntry) : State :=
  if pteDRK t.entry then
    let ls := s.dark.flatMap fun d => (d.2.filter fun e => pageLine t e.1).map fun e => (d.1, e.1)
    ls.foldl (fun s e => dropDark (writeBack s e.1 e.2 none) e.1 e.2) s
  else if pteLSC t.entry = 4 then
    { s with copies := s.copies.map fun e =>
        (e.1, e.2.map fun c => if pageLine t c.1 then (c.1, { c.2 with bytes := [], expiry := some 0 }) else c) }
  else s

/-- Translations removed from every translation cache of a partition (R250). -/
def invalidate (s : State) (hit : TlbEntry → Bool) : State :=
  (s.tlb.filter hit).foldl dropPage { s with tlb := s.tlb.filter fun t => !hit t }

/-- An access of a context that has not been performed, at an address that passes a test, or a write-back that has not
merged (R250, R366, R372). -/
def accessesLeft (s : State) (p : Nat) (c : Option Nat) (hit : DWord → Bool) : Bool :=
  let mine (i : Nat) : Bool := (getGrid s i).part = p && (c = none || some (getGrid s i).ctx = c)
  (s.stores.any fun t => mine t.grid && t.performed.isNone && t.dark.isNone && !t.lost && hit t.va)
    || (s.loads.any fun l => l.part = p && (c = none || some l.ctx = c) && l.got.isNone && hit l.va)
    || s.wbs.any fun w => keyPart w.key = p

/-- A page or a range of a context has been invalidated: the groups that it parked replay (R345, R366). -/
def countTlbi (s : State) (p c : Nat) : State := modCtx s p c fun x => { x with tlbi := x.tlbi + 1 }

/-- Whether two addresses lie in one page of a translation that a context's tables give for the first. -/
def samePage (s : State) (p c : Nat) (va w : DWord) : Bool :=
  match tableXlat s p c va with
  | .ok _ _ l => pageBase l va = pageBase l w
  | .absent l _ => pageBase (max l 1) va = pageBase (max l 1) w
  | _ => va.toNat / 65536 = w.toNat / 65536

/-- The numbers of the accesses of a context, at addresses that pass a test, that have not been performed, and of the
write-backs of its partition that have not merged (R250, R372). -/
def accessIds (s : State) (p c : Nat) (hit : DWord → Bool) : List Nat :=
  let mine (i : Nat) : Bool := (getGrid s i).part = p && (getGrid s i).ctx = c
  ((s.stores.filter fun t => mine t.grid && t.performed.isNone && t.dark.isNone && !t.lost && hit t.va).map (·.id))
    ++ ((s.loads.filter fun l => (l.part, l.ctx) = (p, c) && l.got.isNone && hit l.va).map (·.id))
    ++ (s.wbs.filter fun w => keyPart w.key = p).map (·.id)

/-- Some access or write-back of a list is still to be performed. -/
def idsLeft (s : State) (ids : List Nat) : Bool :=
  (s.stores.any fun t => t.performed.isNone && !t.lost && ids.contains t.id)
    || (s.loads.any fun l => l.got.isNone && ids.contains l.id) || s.wbs.any fun w => ids.contains w.id

/-- An address of a context lies in the page that a TLBI names, or in the page of an entry that it removes. -/
def tlbiReaches (s : State) (p c : Nat) (va : DWord) (whole : Bool) (gone : List TlbEntry) (w : DWord) : Bool :=
  whole || gone.any (fun t => t.page = pageBase t.level w) || samePage s p c va w

/-- The update-only lines of a context at addresses that pass a test are sent to their homes: their updates were translated (R169,
R250). -/
def sendUpdates (s : State) (p c : Nat) (hit : DWord → Bool) : State :=
  sendGathersOf s fun h => h.part = p && h.ctx = c && hit h.va

/-- A TLBI issues or goes on: the state without the translations that it removes, with the accesses that it waits for, those that
stood when it first issued and that had been translated through what it removes, and the write-backs that it has sent; and the
entries removed, whose pages' copies go again when it goes on, because such an access may have made one (R250, R254). -/
def tlbiStart (s : State) (p c : Nat) (va : DWord) (whole : Bool) : State × List Nat × List TlbEntry :=
  let gone := s.tlb.filter (tlbiHits p c va whole)
  let t := invalidate s (tlbiHits p c va whole)
  match (curGroup s).tlbiWait.filter fun t => t.1 = (curGroup s).pc with
  | some w => (w.2.2.foldl dropPage t, w.2)
  | none =>
    let t := sendUpdates t p c (tlbiReaches s p c va whole gone)
    (t, accessIds t p c (tlbiReaches s p c va whole gone), gone)

def execTlbi (f : XForm) (s : State) : Out :=
  let x := curGroup s
  let p := (groupSpace s s.cur).1
  let c := (opnd s x false f.a 0).toNat
  let va := opnd s x false f.b 0
  let whole := opnd s x false f.c 0 = 1
  privOnce s f fun k =>
    let r := tlbiStart s p c va whole
    if idsLeft r.1 r.2.1 then stall (setCur r.1 { curGroup r.1 with tlbiWait := some ((curGroup r.1).pc, r.2) }) .tlbi
    else
      let s := setCur r.1 { curGroup r.1 with tlbiWait := none }
      if (mapFind (getPart s p).ctxs c).isSome then complete (countTlbi s p c) k else complete s k

/-- The instruction words of a virtual range are fetched with their new contents from now on (R93, R250). -/
def dropStaleWords (s : State) (p c : Nat) (va : DWord) (n : Nat) : State :=
  (List.range (n / 65536 + 2)).foldl (fun s i =>
    let base := va.toNat / 65536 * 65536 + 65536 * i
    match placeOf p (xlat s p c (BitVec.ofNat 64 base)) with
    | some x =>
      (match wordKey s p x with
        | some k => { s with stale := s.stale.filter fun e =>
            !(k ≤ e.1 && e.1 < k + 65536 && va.toNat < base + (e.1 - k) + 4 && base + (e.1 - k) < va.toNat + n) }
        | none => s)
    | none => s) s

/-- ICINV: once for a scalar address, and else for the range of each live lane (R13, R250). -/
def execIcinv (f : XForm) (s : State) : Out :=
  let x := curGroup s
  let k := xIssue f (xLen f) (addrTop f 0 0)
  let sp := groupSpace s s.cur
  let n := (opnd s x false f.c 0).toNat
  let ls := if uniform .auto f then (if runs x f then [lu x] else []) else lanes (live x f)
  issue s k <|
    if ls.isEmpty then complete s k
    else
      release s k .prt .release fun s =>
        complete (ls.foldl (fun s i => dropStaleWords s sp.1 sp.2 (globalAt s x f.a f.b i) n) s) k

/-! ## Whole groups (R251) -/

/-- GSTOP: the group in a slot is asked to park, and GSTOP completes when it is parked. -/
def execGstop (f : XForm) (s : State) : Out :=
  privOnce s f fun k =>
    withSlot s k (opnd s (curGroup s) false f.a 0) (·.status.live) fun g =>
      if isParked (getGroup s g) then complete s k
      else stall (modGroup s g fun x => { x with stopAsked := true }) .gstop

/-- Speculative transactions of a group that is saved are doomed with cause 6 (R186). -/
def doomSaved (x : Group) : Group := doomAll x 6 0

/-- The bytes of a group's record (R251). The 160 bytes at 0x060 and what they stand for are open (log entry 27). -/
def groupRecord (x : Group) : List Byte :=
  leBytes 8 x.pc.toNat ++ leBytes 16 x.xm.toNat ++ leBytes 8 x.fpflags.toNat
    ++ leBytes 2 (x.range / 8) ++ leBytes 1 x.prio ++ leBytes 1 0 ++ leBytes 2 x.mark.toNat
    ++ leBytes 1 x.div.length ++ leBytes 1 x.call.length
    ++ leBytes 8 x.cGrant.toNat ++ leBytes 8 x.cMon.toNat ++ leBytes 8 x.cBatch.toNat ++ leBytes 8 x.cJoin.toNat
    ++ leBytes 8 x.cQueue.toNat ++ leBytes 8 x.cToken.toNat
    ++ leBytes 8 (match x.monLine with | some l => keyPa (128 * l) | none => 0)
    ++ (List.range 160).map (Config.saveByte x.uid)
    ++ (List.range 16).flatMap (fun i => leBytes 16 (pRead x i).toNat)
    ++ (List.range 96).flatMap (fun i => leBytes 8 (sRead false x i).toNat)
    ++ padTo 1024 (x.div.reverse.flatMap divBytes) ++ padTo 256 (x.call.reverse.flatMap callBytes)
    ++ (List.range x.range).flatMap fun i => (List.range 128).flatMap fun l => leBytes 4 (vRead x i l).toNat

/-- An event counter that a record gives, with what has been added since it was written (R161). -/
def counterOf (b : List Byte) (o : Nat) (was now : DWord) : DWord := BitVec.ofNat 64 (recNat b o 8) + (now - was)

/-- The group that a record describes: `was` is the group when CSAVE wrote it, `now` the same with later events. -/
def loadRecord (b : List Byte) (was now : Group) : Group :=
  let nd := recNat b 0x026 1
  let nc := recNat b 0x027 1
  let y := if was.pc = BitVec.ofNat 64 (recNat b 0 8) then now else unchained { now with pc := BitVec.ofNat 64 (recNat b 0 8) }
  { y with
    pc := BitVec.ofNat 64 (recNat b 0 8), xm := BitVec.ofNat 128 (recNat b 8 16), fpflags := BitVec.ofNat 64 (recNat b 0x018 8) &&& fpMask
    range := 8 * recNat b 0x020 2, prio := recNat b 0x022 1, mark := BitVec.ofNat 16 (recNat b 0x024 2)
    cGrant := counterOf b 0x028 was.cGrant now.cGrant, cMon := counterOf b 0x030 was.cMon now.cMon
    cBatch := counterOf b 0x038 was.cBatch now.cBatch, cJoin := counterOf b 0x040 was.cJoin now.cJoin
    cQueue := counterOf b 0x048 was.cQueue now.cQueue, cToken := counterOf b 0x050 was.cToken now.cToken
    p := (List.range 15).map fun i => (i + 1, BitVec.ofNat 128 (recNat b (0x100 + 16 * (i + 1)) 16))
    s := (List.range 95).map fun i => (i + 1, BitVec.ofNat 64 (recNat b (0x200 + 8 * (i + 1)) 8))
    div := ((List.range nd).map fun i => divOf 0 ((b.drop (0x500 + 32 * i)).take 32)).reverse
    call := ((List.range nc).map fun i => callOf ((b.drop (0x900 + 16 * i)).take 16)).reverse
    v := (List.range (8 * recNat b 0x020 2)).map fun i =>
      (i, Vector.ofFn fun (l : Fin 128) => BitVec.ofNat 32 (recNat b (0xA00 + 512 * i + 4 * l.val) 4)) }

/-- A group that is parked may be written: its results are written, no handler runs in it, no trap waits, no lane of it holds the
token, and its matrix instructions have retired (R161, R186, R228, R341). -/
def mayLeave (s : State) (g : Nat) : Bool :=
  let x := getGroup s g
  (pendingOf s g).isEmpty && !hidden s g && x.held.isNone
    && (x.txn.all fun t => !(t.2.isOpen && t.2.irr && t.2.doomed = none))
    && (getCore s (slotCore g)).mxq.all fun o => o.uid ≠ x.uid || !o.counted

/-- A group as CSAVE and a save write it: off its slot and without latches (R44), its speculative transactions doomed (R186). One
that an absent page has stopped at a fetch keeps what shows whether it stands inside a latch chain (log entry 41). -/
def leaving (x : Group) : Group :=
  if x.status = .parked .pageFault then doomSaved x else unchained (doomSaved x)

/-- What a group counts for in its block's holding and maximum of registers, in units of 8 (R39, R285). -/
def groupUnits (h : KHdr) (y : Group) : Nat × Nat :=
  match y.role with
  | .none => (y.range / 8, h.regm)
  | .computer => (y.range / 8 + h.qwin, h.regm + h.qwin)
  | _ => (h.shrg, h.shrg)

/-- A claimant's registers changed in holding and maximum. -/
def modClaim (s : State) (b c : Nat) (f : Nat → Nat → Nat) (u : Nat × Nat) : State :=
  modPool s c (poolOwner s (getBlock s b).grid) fun p =>
    { p with claimants := modWhere p.claimants (fun x => x.block = some b) fun x =>
      { x with hold := { x.hold with reg := f x.hold.reg u.1 }, max := { x.max with reg := f x.max.reg u.2 } } }

/-- A group that CREST has loaded: on another core of its block than the one that it left, its registers count there (R251, R285; log
entry 88) and its deferred request joins the tail of that core's queue. The walks have passed over the request while the group was
away, so it is tested now: R290 promises its grant, and R251 and R289 do not say when (log entry 108, DEDUCED). -/
def moveGroup (s : State) (b c d : Nat) (y : Group) : State :=
  let o := poolOwner s (getBlock s b).grid
  if c = d then walkPool s c o
  else
    let u := groupUnits (getGrid s (getBlock s b).grid).hdr y
    let s := modClaim (modClaim s b c (· - ·) u) b d (· + ·) u
    match y.deferred with
    | none => walkPool s c o
    | some w =>
      let s := modPool s c o fun p => { p with queue := p.queue.erase (.claim y.uid w) }
      walkPool (walkPool (modPool s d o fun p => { p with queue := p.queue ++ [.claim y.uid w] }) c o) d o

/-- The token of a block on several cores passes on at CSAVE, unless the save area cannot be written (R228, R251, R358; log entry 88). -/
def csaveToken (s : State) (b c : Nat) : State :=
  match (if (getCore s c).token = some b then saveFault s b (memberOn (getBlock s b) c) true else none) with
  | some va => abandonSpill s b c va
  | none => saveToken s b c

/-- CSAVE: the parked group of a slot is written to memory and its slot is free. A block on several cores that holds the token there
passes it on, and its window rows go to its save area, because the group may come back on another core (R228, R251; log entry 88). -/
def execCsave (f : XForm) (s : State) : Out :=
  let x := curGroup s
  let va := globalAt s x f.a f.b (lu x)
  privOnce s f fun k =>
    withSlot s k (opnd s x false f.c 0) isParked fun g =>
      let y := leaving (getGroup s g)
      if !mayLeave s g then stall s .gstop else
      withWrite s k 64 va (groupRecord y) fun s =>
        let y : Group := { y with
          status := if y.status = .parked .pageFault || y.status = .parked .forGood then y.status else .ready, stopAsked := false, phaseIssues := 0 }
        let s := { setGroup (owePhase s g) g {} with csaved := s.csaved ++ [(y, y)] }
        let s := modBlock s y.block fun b => { b with groups := b.groups.filter (· ≠ g), away := b.away ++ [y.uid] }
        complete (if isGang (getBlock s y.block) then csaveToken s y.block (slotCore g) else s) k

/-- A slot put among a block's groups in the order of their indices. -/
def insertGid (s : State) (g : Nat) : List Nat → List Nat
  | [] => [g]
  | h :: r => if (getGroup s g).gid ≤ (getGroup s h).gid then g :: h :: r else h :: insertGid s g r

/-- A block with one of its groups loaded into a slot: in its place among the groups, and in its role of a ring (R36, R251). -/
def blockWith (s : State) (g : Nat) (b : Block) : Block :=
  let y := getGroup s g
  { b with
    groups := insertGid s g b.groups, away := b.away.filter (· ≠ y.uid)
    rings := b.rings.modify y.ring fun r => match y.role with
      | .computer => { r with computer := g }
      | .loader => { r with loader := g }
      | .storer => { r with storer := g }
      | .none => r }

/-- The member of a block on a core that a group is loaded on; a core of no member leaves the group its own (R251). -/
def memberFor (b : Block) (c m : Nat) : Nat := if b.cores.contains c then memberOn b c else m

/-- CREST: a record is loaded into a free slot, and the group is ready; one that an absent page had parked replays (R345), and one that
is parked for good stays so, since R347 lists what ends that park (log entry 120). -/
def execCrest (f : XForm) (s : State) : Out :=
  let x := curGroup s
  let va := globalAt s x f.a f.b (lu x)
  privOnce s f fun k =>
    withSlot s k (opnd s x false f.c 0) (fun y => y.status = .free) fun g =>
      withRange s k 1 va 0xA00 fun s h =>
        withRange s k 1 (va + 0xA00) (4096 * recNat h 0x020 2) fun s r =>
          let mine (e : Group × Group) : Bool := (List.range 160).map (Config.saveByte e.1.uid) = (h.drop 0x060).take 160
          let old := s.csaved.find? mine
          let n := fresh s
          let new : Group := { uid := n.1, block := Config.foreignBlock s.tick }
          let y := match old with
            | some e => loadRecord (h ++ r) e.1 e.2
            | none => loadRecord (h ++ r) new new
          let s := match old with
            | some e => { s with csaved := s.csaved.filter fun z => z.1.uid ≠ e.1.uid }
            | none => n.2
          let b := getBlock s y.block
          let s := setGroup s g
            { y with status := if y.status = .parked .forGood then y.status else .ready, stopAsked := false, member := memberFor b (slotCore s.cur) y.member }
          let s := setBlock s y.block (blockWith s g b)
          let s := if b.cores.contains (slotCore s.cur) then
              moveGroup s y.block (b.cores.getD y.member 0) (slotCore s.cur) y else s
          complete (if y.status = .parked .pageFault then replay s g else s) k

/-- Whether a group that is to be parked has come to an instruction boundary at which it may be (R44, R161, R186, R228, R341): it
may leave its slot, no latch chain or append is half done, and no trap waits. A stalled group stands at its instruction, and so
does one that sleeps in WAIT, AWAIT or a matrix instruction of a spilled holder; a group that waits for its tile flag has not
started (R280). -/
def atBoundary (s : State) (g : Nat) : Bool :=
  let x := getGroup s g
  let calm := match x.status with
    | .ready => true
    | .asleep _ _ _ _ _ => true
    | .stalled why => why ≠ .halted && why ≠ .tile
    | .spilled => true
    | _ => false
  calm && mayLeave s g && x.pushed = 0 && x.pend.isEmpty && !chainGoesOn s g

/-- A ring is drained: its storer has halted at the stop token (R297). -/
def ringDone (r : Ring) : Bool := r.haltS || r.hard

/-- A group that something asks to park (R251, R294, R297): GSTOP, or the save of its block, which reaches a group of a ring
once the ring is drained or hard-saved and leaves asleep a group that sleeps or waits for its tile flag (R134, R280). -/
def asked (s : State) (g : Nat) : Bool :=
  let x := getGroup s g
  let b := getBlock s x.block
  let sleeps := match x.status with | .asleep _ _ _ _ _ => true | .stalled why => why = .tile | _ => false
  x.stopAsked || (b.status = .saving && !sleeps
    && (x.role = .none || match b.rings[x.ring]? with | some r => ringDone r | none => true))

/-- GROUP_PARK: a group that is asked to park has come to a boundary (R251, R294). -/
def execGroupPark (g : Nat) (s : State) : Out :=
  if asked s g && atBoundary s g then
    .next (modGroup s g fun x => { unchained x with status := .parked .stopped, stopAsked := false })
  else .fault .notDue

end Sys2Proof.Machine
end

