-- ==== Sys2Proof/Machine/Front.lean ====
section
/-! DEFINITION. The front end's commands as such: the entry at the head of a command queue, when it may begin, the checks that
every command shares, and completion (R275, R281, R282, R316 to R319, R364, R376, R377). -/

namespace Sys2Proof.Machine

/-! ## What the front end reads and writes for a command -/

/-- A VERSION while context 0 has no root table: its block and its completion record stand at bus addresses, as the ring does. DEDUCED
(log entry 30): R321 has a VERSION complete before any other command but LOG is accepted, and so before MAP 0; every other operand is
then out of range (R407). -/
def busMode (s : State) (q : QRef) (e : CmdEntry) : Bool :=
  e.op = 9 && q.host && q.ctx = 0 && q.q = 0 && (mapFind (getPart s q.part).ctxs 0).isNone

/-- Bytes of an operand, in the queue's context. -/
def cmdBytes (s : State) (q : QRef) (va : DWord) (n : Nat) : Option (List Byte) := ctxBytes s q.part q.ctx va n

/-- The version block of a VERSION (R321). -/
def versionBlock (s : State) (q : QRef) (e : CmdEntry) : Option (List Byte) :=
  if busMode s q e then (if e.addr.toNat + 8 ≤ 2 ^ 47 then some (memBytes s.mem (hostKey e.addr.toNat) 8) else none)
  else cmdBytes s q e.addr 8

/-- What stores of the front end have come to: the state, the latest completion time at the homes, the requests that have left
over the fabric, and the stores that a held line keeps waiting (R181). -/
structure Stored where
  s : State
  till : Nat := 0
  sent : List Nat := []

/-- Bytes within one line that the front end of a die stores at a place (R253, R372). -/
def putPlace (r : Stored) (p d : Nat) (x : Place) (bytes : List Byte) : Stored :=
  let s := r.s
  match x.space with
  | .hbm k =>
    let l := lineOf k
    let s := settle (combine s l) l
    if x.dark && !homeBusy s k then { r with s := darkPut s l (offsets k bytes), till := max r.till (homeGtc s l + 4) }
    else if lineHeld s l then
      { r with s := addStore s (deviceStore d (128 * l) 0 (offsets k bytes)), sent := r.sent ++ [s.nextId] }
    else { r with s := homeWrite s l (offsets k bytes), till := max r.till (completion s l) }
  | .host k => { r with s := hostPut s k bytes }
  | .peer a o => { r with s := sendPeer s p d a o (.store bytes) none none, sent := r.sent ++ [s.nextId] }

/-- Bytes of a virtual range that the front end stores, line by line; none when a part does not translate or is read-only. -/
def putRange (r : Stored) (p c d : Nat) (va : DWord) : Nat → List Byte → Option Stored
  | _, [] => some r
  | 0, _ => none
  | fuel + 1, bytes =>
    let k := inLine va.toNat bytes.length
    match placeOf p (tableXlat r.s p c va) with
    | none => none
    | some x =>
      if pteRO x.entry then none
      else putRange (putPlace r p d x (bytes.take k)) p c d (va + BitVec.ofNat 64 k) fuel (bytes.drop k)

/-- Bytes of an operand that the front end stores, in the queue's context. -/
def cmdStore (s : State) (q : QRef) (va : DWord) (bytes : List Byte) : Option Stored :=
  putRange { s } q.part q.ctx (getQueue s q).die va (bytes.length / 128 + 2) bytes

/-- The completion record of a command (R317): none where CPL is no multiple of 16 or does not translate. -/
def recordStore (s : State) (q : QRef) (e : CmdEntry) (bytes : List Byte) : Option Stored :=
  if e.cpl.toNat % 16 ≠ 0 then none
  else if busMode s q e then
    (if e.cpl.toNat + bytes.length ≤ 2 ^ 47 then some { s := hostPut s (hostKey e.cpl.toNat) bytes } else none)
  else cmdStore s q e.cpl bytes

/-- Requests over the fabric of which none is left unacknowledged, and stores that are complete for a die. -/
def acked (s : State) (d : Nat) (ids : List Nat) : Bool :=
  (s.sent.all fun x => !ids.contains x.id) && s.stores.all fun t => !ids.contains t.id || t.lost || storePast s d t

/-! ## Completion (R319, R376, R377) -/

/-- What has been stored is complete for a die: the completion time has passed, and every target has acknowledged (R187). -/
def storedPast (s : State) (d : Nat) (t : Nat × List Nat) : Bool := (t.1 = 0 || timePast s d t.1) && acked s d t.2

/-- A vector of a function that is raised after a completion record: at once, or once the record is complete at `.sys` (R319; log entry
122). -/
def raiseAfter (r : Stored) (fn d vec : Nat) : State :=
  if vec = 0 || storedPast r.s d (r.till, r.sent) then raiseVector r.s fn vec
  else modPart r.s fn fun p => { p with raising := p.raising ++ [(d, vec, r.till, r.sent)] }

/-- A command completes on a function: its record, the log entries of a status that is not 0 and of a record that cannot be written,
and the vector (R319, R376, R377). -/
def finishOn (s : State) (q : QRef) (e : CmdEntry) (status result fn vec : Nat) : State :=
  let x := getQueue s q
  let s :=
    if status = 0 then s
    else logEvent s fn 1 x.die q.ctx (BitVec.ofNat 64 (status + e.tag.toNat * 2 ^ 32)) (BitVec.ofNat 64 result)
  let rec_ := leBytes 4 status ++ leBytes 4 e.tag.toNat ++ leBytes 8 result
  if e.cpl = 0 then raiseVector s fn vec
  else
    match recordStore s q e rec_ with
    | some r => raiseAfter r fn x.die vec
    | none => raiseVector (logEvent s fn 2 x.die q.ctx e.cpl (e.tag.setWidth 64)) fn vec

/-- A command's completion: its record, its log entry when the status is not 0, and the queue's vector. -/
def finishCmd (s : State) (q : QRef) (e : CmdEntry) (status result : Nat) : State :=
  finishOn s q e status result q.part (getQueue s q).vec

/-- A command that goes on after it has begun. -/
def startCmd (s : State) (q : QRef) (e : CmdEntry) (r : Running) : State :=
  modQueue s q fun x => { x with busy := x.busy ++ [(e, r)], begun := true }

/-- A command that had begun completes; the read that has satisfied a WAIT at a peer was a request (R326, R382). -/
def endCmd (s : State) (q : QRef) (e : CmdEntry) (r : Running) (status result : Nat) : State :=
  let s := match r with
    | .wait va _ => askRange s q.part (getQueue s q).die (tableXlat s q.part q.ctx) va 8
    | _ => s
  let s := modQueue s q fun x =>
    { x with busy := x.busy.erase (e, r), begun := x.begun && x.busy.getLast? ≠ some (e, r) }
  finishCmd s q e status result

/-- What a begun command waits for is replaced. -/
def changeCmd (s : State) (q : QRef) (e : CmdEntry) (r r' : Running) : State :=
  modQueue s q fun x => { x with busy := x.busy.map fun y => if y = (e, r) then (e, r') else y }

/-- The first command of a queue that waits for something that passes a test. -/
def busyWith (s : State) (q : QRef) (p : Running → Bool) : Option (CmdEntry × Running) :=
  (getQueue s q).busy.find? fun x => p x.2

/-- The queue and command, of any partition, that waits for something that passes a test. -/
def commandWith (s : State) (p : Running → Bool) : Option (QRef × CmdEntry × Running) :=
  s.parts.findSome? fun e => e.2.queues.findSome? fun x => (x.2.busy.find? fun y => p y.2).map fun y => (x.1, y.1, y.2)

/-- A command whose stores must be complete at `.sys` before its record is written (R319): it completes now or waits. -/
def afterStores (r : Stored) (q : QRef) (e : CmdEntry) (status result : Nat) : State :=
  if r.sent.isEmpty && (r.till = 0 || timePast r.s (getQueue r.s q).die r.till) then finishCmd r.s q e status result
  else startCmd r.s q e (.stores status result r.till r.sent)

/-- The stores in flight of some groups and grids that a release at `.sys` waits for (R187, R310). -/
def storesOf (s : State) (uids grids : List Nat) : List Nat :=
  (s.stores.filter fun t => (uids.any t.ofUid || grids.any t.ofGrid) && !t.lost && !(t.dark.isSome && !t.covered)).map (·.id)

/-- A command that had begun completes once what it has stored is complete at `.sys`, because its record is a release of that (R275,
R319): now, or with a later step. -/
def endReleased (s : State) (q : QRef) (e : CmdEntry) (r : Running) (status result till : Nat) (ids : List Nat) : State :=
  if (till = 0 || timePast s (getQueue s q).die till) && acked s (getQueue s q).die ids then endCmd s q e r status result
  else changeCmd s q e r (.stores status result till ids)

/-! ## The entry at the head (R316, R317, R364) -/

/-- The fields of an entry of 32 bytes (R317). -/
def entryOf (b : List Byte) : CmdEntry :=
  { op := BitVec.ofNat 8 (recNat b 0 1), sub := BitVec.ofNat 8 (recNat b 1 1), rsv := BitVec.ofNat 16 (recNat b 2 2)
    tag := BitVec.ofNat 32 (recNat b 4 4), addr := BitVec.ofNat 64 (recNat b 8 8), val := BitVec.ofNat 64 (recNat b 16 8)
    cpl := BitVec.ofNat 64 (recNat b 24 8) }

/-- A front end serves a queue: its die works (R390). -/
def served (s : State) (q : QRef) : Bool :=
  let x := getQueue s q
  x.installed && !x.closed && x.kind = 0 && (getDie s x.die).status = .up

/-- The entry that stands in a queue at a count; the admin queue's ring stands at a bus address (R313). -/
def entryAt (s : State) (q : QRef) (i : Word) : Except DWord CmdEntry :=
  let x := getQueue s q
  let va := slotVa x i
  let bytes :=
    if q.host && q.ctx = 0 && q.q = 0 then
      (if va.toNat + 32 ≤ 2 ^ 47 then some (memBytes s.mem (hostKey va.toNat) 32) else none)
    else ctxBytes s q.part q.ctx va 32
  match bytes with
  | some b => .ok (entryOf b)
  | none => .error va

/-- The entry at the head of a command queue, if one has been covered by a doorbell and released by the tick gate: the entry,
or the address at which it cannot be read. A home that is resetting lets the front end wait (R387), and so does an earlier request of its die to the peer that holds the ring
(R326, R383). -/
def headEntry (s : State) (q : QRef) : Option (Except DWord CmdEntry) :=
  let x := getQueue s q
  let tr := tableXlat s q.part q.ctx
  let busy : Bool := !(q.host && q.ctx = 0 && q.q = 0)
    && (farBusy s q.part (tr (slotVa x x.head)) || !idleRange s q.part x.die tr (slotVa x x.head) 32)
  if served s q && 0 < ready s (getQueue s q) && !busy then some (entryAt s q (getQueue s q).head) else none

/-- Opcode and N of the commands that exist (R318). -/
def assigned (op n : Nat) : Bool :=
  if op = 1 then n ≤ 8 || n = 0x80 || n = 0x81
  else if op = 5 then n ≤ 5
  else if op = 6 then n ≤ 3
  else if op = 7 then n = 1 || n = 2
  else if op = 10 then n ≤ 2
  else (op ∈ [2, 3, 4, 8, 9, 11]) && n = 0

/-- A device command entry: 1, 2 or 3, with nothing else in its command word (R281, R317). -/
def deviceEntry (e : CmdEntry) : Bool := (e.op = 1 || e.op = 2 || e.op = 3) && e.sub = 0 && e.rsv = 0

/-- Every block of a grid has started, and its command launches no further run of it (R276, R280, R283). -/
def allStarted (s : State) (i : Nat) : Bool :=
  let r := getGrid s i
  r.rerun.isNone && (r.status = .done || (r.next = r.blocks && r.tiles.isEmpty))

/-- A command is a dependent launch without a prologue, which does not wait for the command before it (R275, R280, R283). -/
def isDependent (s : State) (q : QRef) (e : CmdEntry) : Bool :=
  let one (va : DWord) : Bool :=
    match ctxNat s q.part q.ctx (va + 0x10) 4, ctxNat s q.part q.ctx (va + 0x60) 8 with
    | some f, some p => f.testBit 6 && p = 0
    | _, _ => false
  e.op = 1 && (if e.sub.toNat ≤ 1 then one e.addr
    else e.sub.toNat ≤ 8 && (List.range e.sub.toNat).all fun i =>
      match ctxNat s q.part q.ctx (e.addr + BitVec.ofNat 64 (8 * i)) 8 with
      | some a => one (BitVec.ofNat 64 a)
      | none => false)

/-- A command that reads memory for its operands when it begins (R318). -/
def readsMemory (e : CmdEntry) : Bool :=
  (e.op = 1 && e.sub.toNat ≤ 8) || e.op = 4 || e.op = 5 || e.op = 8 || e.op = 9 || (e.op = 10 && e.sub = 2)

/-- The bits of VAL that a command names; MAP 1, 2 and 4 and UNMAP 2 on the admin queue also name a context (R318). -/
def valMask (q : QRef) (op n : Nat) : Nat :=
  let ctx := if q.host && q.ctx = 0 && q.q = 0 then 0x3F * 2 ^ 56 else 0
  if op = 1 then (if n = 0x80 then 2 ^ 64 - 1 else 0)
  else if op = 2 || op = 3 || op = 11 then 2 ^ 64 - 1
  else if op = 5 then
    (if n = 0 || n = 3 then 0x3F else if n = 1 then 0xFFF0FFF + ctx else if n = 5 then 2 ^ 64 - 1 else ctx)
  else if op = 6 then (if n = 0 then 2 ^ 64 - 1 else if n = 2 then 0x1FF + ctx else 0x3F)
  else if op = 7 then 0xF
  else if op = 8 then 0xFFFF
  else if op = 10 && n = 0 then 0x3F
  else 0

/-- Commands that only the admin queue takes (R318). -/
def adminOnly (op n : Nat) : Bool :=
  (op = 5 && (n = 0 || n = 3 || n = 5)) || (op = 6 && (n = 1 || n = 3)) || (7 ≤ op && op ≤ 10)

/-- The status and result of a command that is malformed, not negotiated, or on the wrong queue (R312, R321, R376; log
entry 31 on the order of the tests). -/
def commandFault (s : State) (q : QRef) (e : CmdEntry) : Option (Nat × Nat) :=
  let admin := q.host && q.ctx = 0 && q.q = 0
  let pt := getPart s q.part
  let early := e.op = 9 || e.op = 11
  if !assigned e.op.toNat e.sub.toNat then some (4, 1)
  else if e.rsv ≠ 0 || (e.val.toNat &&& valMask q e.op.toNat e.sub.toNat) ≠ e.val.toNat
      || (!q.host && (e.tag ≠ 0 || e.cpl ≠ 0)) then some (4, 2)
  else if !pt.live && !early then some (4, 1)
  else if admin && pt.negotiated.isNone && !early then some (5, 0)
  else if adminOnly e.op.toNat e.sub.toNat && !admin then some (4, 4)
  else none

/-- The context that a command acts on: the one that VAL names on the admin queue, else the queue's own (R318). -/
def targetCtx (q : QRef) (e : CmdEntry) : Nat :=
  if q.host && q.ctx = 0 && q.q = 0 then e.val.toNat / 2 ^ 56 % 64 else q.ctx

/-- What a command reads in memory as it begins: how an address is translated, the address, and the bytes (R277, R300, R318). The headers
of its records are among them when `hdrs` says so. -/
def commandReads (s : State) (q : QRef) (e : CmdEntry) (hdrs : Bool) : List ((DWord → Xlat) × DWord × Nat) :=
  let n := e.sub.toNat
  let own := tableXlat s q.part q.ctx
  let target := tableXlat s q.part (targetCtx q e)
  let phys (va : DWord) : Xlat := .ok va.toNat 0 0
  let recs (l : List DWord) : List ((DWord → Xlat) × DWord × Nat) := l.flatMap fun va =>
    (own, va, 128) :: (if hdrs then ((ctxNat s q.part q.ctx va 8).map fun h => (own, BitVec.ofNat 64 h, 64)).toList else [])
  match e.op.toNat with
  | 1 =>
    if n ≤ 1 then recs [e.addr]
    else if 8 < n then []
    else (own, e.addr, 8 * n) :: recs ((List.range n).filterMap fun i =>
      (ctxNat s q.part q.ctx (e.addr + BitVec.ofNat 64 (8 * i)) 8).map (BitVec.ofNat 64))
  | 3 => [(own, e.addr, 8)]
  | 4 => [(own, e.addr, 32)]
  | 5 => if n = 1 || n = 4 then [(target, e.addr, 32)] else if n = 3 then [(phys, e.addr, 16)] else []
  | 8 => [(own, e.addr, e.val.toNat)]
  | 9 => if busMode s q e then [] else [(own, e.addr, 8)]
  | 10 => if n = 2 then [(phys, e.addr, 256)] else []
  | _ => []

/-- The requests that bring the entry at the head of a queue from a peer (R326, R382; log entry 110). -/
def askEntry (s : State) (q : QRef) : State :=
  let x := getQueue s q
  if q.host && q.ctx = 0 && q.q = 0 then s else askRange s q.part x.die (tableXlat s q.part q.ctx) (slotVa x x.head) 32

/-- The same, and those for what its command reads as it begins. -/
def askHead (s : State) (q : QRef) : State :=
  let t := askEntry s q
  match entryAt s q (getQueue s q).head with
  | .ok e =>
    if (commandFault s q e).isSome then t
    else (commandReads s q e false).foldl (fun t r => askRange t q.part (getQueue s q).die r.1 r.2.1 r.2.2) t
  | .error _ => t

/-- A queue's next command may begin: every command before it has completed, or the command is a dependent launch and the one begun last
has completed or started every block (R275, R280, R283). A command that reads memory waits while a die of its partition resets (R387; log
entry 93), and none begins while the requests of its partition are stopped (R391), a change of it is being made (R322) or a function reset of it goes on. -/
def mayBegin (s : State) (q : QRef) (e : CmdEntry) : Bool :=
  let x := getQueue s q
  !(readsMemory e && partResetting s q.part)
    && ((commandReads s q e true).all fun r => idleRange s q.part x.die r.1 r.2.1 r.2.2) && !requestsStopped s q.part && (getPart s q.part).making.isNone && !(getPart s q.part).leaving
    && (x.busy.isEmpty || (isDependent s q e && (!x.begun || match x.busy.getLast? with
      | some (_, .grids ids) => ids.all (allStarted s)
      | _ => false)))

/-- The head of a queue advances past an entry (R316), which its tick gate has let go (R282); the firmware restarts its watchdog
(R397). -/
def passHead (s : State) (q : QRef) : State :=
  modQueue (modDie s (getQueue s q).die fun d => { d with dogAt := hubGtc s }) q fun x => { x with head := x.head + 1, due := x.due.drop (reachedDue s x) }

/-- The head of a queue advances past the entry of a command that begins, which has been read. -/
def advanceHead (s : State) (q : QRef) : State := passHead (askHead s q) q

/-- A command begins: it stands at the head of its queue, and its head advances; a command that a shared check refuses
completes at once, and otherwise `go` carries it out. -/
def beginCmd (s : State) (q : QRef) (e : CmdEntry) (op : Nat) (subs : Nat → Bool) (go : State → State) : Out :=
  let mine : Bool := match headEntry s q with
    | some (.ok h) => h = e && (q.host || deviceEntry e)
    | _ => false
  if mine && e.op.toNat = op && subs e.sub.toNat && mayBegin s q e then
    let t := advanceHead s q
    .next (match commandFault s q e with
      | some (st, r) => finishCmd t q e st r
      | none => go t)
  else .fault .notDue

/-- What a front end does with a head entry that is no command (R364, R376): one that cannot be read is skipped and logged, a
device entry with a reserved CMD is skipped and logged, and a command that does not exist completes as malformed. It asks for no entry
while the requests of its partition are stopped (R391). -/
def serveBad (s : State) (q : QRef) : Option State :=
  let x := getQueue s q
  match (if requestsStopped s q.part || (getPart s q.part).leaving then none else headEntry s q) with
  | none => none
  | some (.error va) =>
    if !x.busy.isEmpty then none
    else
      let t := logEvent (passHead (askEntry s q) q) q.part 1 x.die q.ctx 7 va
      some (raiseVector t q.part x.vec)
  | some (.ok e) =>
    if !x.busy.isEmpty then none
    else if !q.host && !deviceEntry e then
      some (logEvent (passHead (askEntry s q) q) q.part 3 x.die q.ctx (BitVec.ofNat 64 q.q) (x.head.setWidth 64))
    else if q.host && !assigned e.op.toNat e.sub.toNat then some (finishCmd (passHead (askEntry s q) q) q e 4 1)
    else none

/-- A context exists (R318). -/
def ctxExists (s : State) (p c : Nat) : Bool := (mapFind (getPart s p).ctxs c).isSome

end Sys2Proof.Machine
end

