-- ==== Sys2Proof/Machine/Attest.lean ====
section
/-! DEFINITION. The SPDM responder, over Safelight and through ATTEST (R331). What its answers report is stated; the
bytes of the messages are open (log entry 13). -/

namespace Sys2Proof.Machine

/-- The responder of a port. -/
def getSpdm (s : State) : SpdmPort → Spdm
  | .safelight => s.hub.spdmS
  | .attest => s.hub.spdmA

/-- The state with the responder of a port replaced. -/
def setSpdm (s : State) (p : SpdmPort) (x : Spdm) : State :=
  match p with
  | .safelight => { s with hub := { s.hub with spdmS := x } }
  | .attest => { s with hub := { s.hub with spdmA := x } }

/-- A request that the connection has come far enough for is answered, and the connection goes on to a stage; any other is
answered as unsupported (R331). -/
def respond (s : State) (p : SpdmPort) (need : Nat) (ok : Bool) (next : Nat) (m : SpdmMsg) : State :=
  let x := getSpdm s p
  if need ≤ x.stage && ok then setSpdm s p { stage := next, last := m } else setSpdm s p { x with last := .unsupported }

/-- The bytes of an answer to a kind of request at this step, which reports some contents. -/
def answerBytes (s : State) (kind : Nat) (x : List Byte) : List Byte := Config.spdmBytes kind s.tick x

/-- The key-slot digests, the revocations and the rollback counter (R330, R331). -/
def fuseBytes (m : Module) : List Byte := m.keys.flatten ++ m.revoked.flatMap (leBytes 1) ++ leBytes 8 m.rollback

/-- The partition masks, the interleave and region tables' versions and the aperture entries in effect; the interleave of a
partition follows from its quarters (R322, R331). -/
def tableBytes (s : State) : List Byte :=
  (s.parts.filter fun e => e.2.live).flatMap fun e =>
    leBytes 1 e.1 ++ leBytes 1 e.2.mask.toNat ++ leBytes 1 e.2.inter.ver.toNat ++ leBytes 1 e.2.region.ver.toNat
      ++ e.2.aps.flatMap fun a => leBytes 1 a.1 ++ leBytes 2 a.2.module ++ leBytes 1 a.2.fn
        ++ leBytes 1 ((if a.2.valid then 1 else 0) + (if a.2.inbound then 2 else 0))

/-- The measurement with an index, as a digest by the base hash; 3 is zero when no patch is applied (R331; log entry 13). -/
def measurement (s : State) (i : Nat) : List Byte :=
  match i with
  | 1 => sha384 (Config.rom 0)
  | 2 => sha384 (Config.rom 1)
  | 3 => (match s.hub.installed with | some b => sha384 b | none => List.replicate 48 0)
  | 4 => sha384 (fuseBytes s.hub)
  | _ => sha384 (tableBytes s)

/-- The measurements that a request names: none for index 0, which asks for their number, and all five for 0xFF. -/
def measured (s : State) (index : Nat) : List (List Byte) :=
  if index = 0 then [] else if index = 255 then (List.range 5).map fun i => measurement s (i + 1) else [measurement s index]

/-- SPDM 1.3 GET_VERSION begins a connection. -/
def spdmVersion (p : SpdmPort) (s : State) : State := respond s p 0 true 1 (.version (answerBytes s 1 []))
def spdmCapabilities (p : SpdmPort) (s : State) : State := respond s p 1 true 2 (.capabilities (answerBytes s 2 []))
/-- The algorithms: SHA-384, no base asymmetric algorithm, and ECDSA over brainpoolP384r1 in the extended list (R331). -/
def spdmAlgorithms (p : SpdmPort) (s : State) : State :=
  respond s p 2 true 3 (.algorithms [.sha384] [] [.ecdsaBrainpoolP384r1] (answerBytes s 3 []))
/-- The digest of the chain in slot 0 (R331). -/
def spdmDigests (p : SpdmPort) (s : State) : State :=
  respond s p 3 true 3 (.digests (answerBytes s 4 (sha384 Config.certChain)))
/-- A part of the chain that stands in slot 0 (R331). -/
def spdmCertificate (p : SpdmPort) (slot off len : Nat) (s : State) : State :=
  respond s p 3 (slot = 0) 3 (.certificate slot off (answerBytes s 5 ((Config.certChain.drop off).take len)))
def spdmChallenge (p : SpdmPort) (slot : Nat) (nonce : List Byte) (s : State) : State :=
  respond s p 3 (slot = 0) 3 (.challengeAuth slot (answerBytes s 6 (nonce ++ (measured s 255).flatten)))
/-- The measurements have indices 1 to 5 (R331); 0 asks for their number and 0xFF for all of them. -/
def spdmMeasurements (p : SpdmPort) (index : Nat) (s : State) : State :=
  respond s p 3 (index ≤ 5 || index = 255) 3 (.measurements index (measured s index) (answerBytes s 7 (measured s index).flatten))

def execSpdmGetVersion (port : SpdmPort) (s : State) : Out := .next (spdmVersion port s)
def execGetCapabilities (port : SpdmPort) (s : State) : Out := .next (spdmCapabilities port s)
def execNegotiateAlgorithms (port : SpdmPort) (s : State) : Out := .next (spdmAlgorithms port s)
def execGetDigests (port : SpdmPort) (s : State) : Out := .next (spdmDigests port s)
def execGetCertificate (port : SpdmPort) (slot off len : Nat) (s : State) : Out := .next (spdmCertificate port slot off len s)
def execChallenge (port : SpdmPort) (slot : Nat) (nonce : List Byte) (s : State) : Out := .next (spdmChallenge port slot nonce s)
def execGetMeasurements (port : SpdmPort) (index : Nat) (s : State) : Out := .next (spdmMeasurements port index s)

/-- A request message: its code and parameters, as SPDM 1.3 lays them out (log entry 13). -/
def spdmRequest (b : List Byte) (s : State) : State :=
  let code := recNat b 1 1
  let p1 := recNat b 2 1
  let p2 := recNat b 3 1
  if b.length < 4 then respond s .attest 9 false 0 .unsupported
  else if code = 0x84 then spdmVersion .attest s
  else if code = 0xE1 then spdmCapabilities .attest s
  else if code = 0xE3 then spdmAlgorithms .attest s
  else if code = 0x81 then spdmDigests .attest s
  else if code = 0x82 then spdmCertificate .attest p1 (recNat b 4 2) (recNat b 6 2) s
  else if code = 0x83 then spdmChallenge .attest p1 ((b.drop 4).take 32) s
  else if code = 0xE0 then spdmMeasurements .attest p2 s
  else respond s .attest 9 false 0 .unsupported

/-- The bytes of the last answer of the ATTEST port. -/
def lastAnswer (s : State) : List Byte :=
  match (getSpdm s .attest).last with
  | .none => []
  | .version b => b
  | .capabilities b => b
  | .algorithms _ _ _ b => b
  | .digests b => b
  | .certificate _ _ b => b
  | .challengeAuth _ b => b
  | .measurements _ _ b => b
  | .unsupported => answerBytes s 0 []

end Sys2Proof.Machine
end

