-- ==== Sys2Proof/Machine/Launch.lean ====
section
/-! DEFINITION. From a launch record to running groups and to the grid's end: headers and records, refusals, placement,
prologues, dependent launches, child grids and completion (R30 to R37, R112, R113, R275 to R287, R300, R302, R352, R353, R363,
R400). -/

namespace Sys2Proof.Machine

/-! ## Headers and records (R112, R277) -/

/-- The fields of a kernel header at an address; the entry point follows it (R110, R112). -/
def hdrOf (va : DWord) (b : List Byte) : KHdr :=
  let fl := recNat b 8 4
  { entry := va + 64, cls := fl % 4, remove := fl.testBit 2, order := fl.testBit 3, fuse := fl.testBit 4, roles := fl.testBit 5
    regi := recNat b 0x0C 2, regm := recNat b 0x0E 2, sqi := recNat b 0x10 1, sqm := recNat b 0x11 1, mxem := recNat b 0x12 1
    cpcm := recNat b 0x13 1, qwin := recNat b 0x14 1, shrg := recNat b 0x15 1, stk := recNat b 0x18 4, accs := recNat b 0x1C 4
    ldoff := BitVec.ofNat 32 (recNat b 0x20 4), sroff := BitVec.ofNat 32 (recNat b 0x24 4), lvl := (b.drop 0x28).take 6 }

/-- The fields of a launch record (R277). -/
def lrecOf (b : List Byte) : LRec :=
  { khdr := BitVec.ofNat 64 (recNat b 0 8), karg := BitVec.ofNat 64 (recNat b 8 8), flags := BitVec.ofNat 32 (recNat b 0x10 4)
    nlvl := recNat b 0x14 1, gang := recNat b 0x15 1, lease := recNat b 0x16 2, lvl := (b.drop 0x18).take 6
    ext := (List.range 6).map fun i => recNat b (0x20 + 4 * i) 4
    preg := recNat b 0x38 2, psqr := recNat b 0x3A 1, pmxe := recNat b 0x3B 1, pcpc := recNat b 0x3C 1, qnum := recNat b 0x3D 1
    stkb := BitVec.ofNat 64 (recNat b 0x40 8), accb := BitVec.ofNat 64 (recNat b 0x48 8), tfa := BitVec.ofNat 64 (recNat b 0x50 8)
    tmap := BitVec.ofNat 64 (recNat b 0x58 8), prolog := BitVec.ofNat 64 (recNat b 0x60 8) }

/-- The byte of a level, from 2 on. -/
def lvlByte (l : List Byte) (n : Nat) : Nat := (l.getD (n - 2) 0).toNat
/-- The domain and the scope of a level byte (R112). -/
def lvlDom (x : Nat) : Nat := x / 16 % 8
def lvlScope (x : Nat) : Nat := x % 8

/-- A header's bytes break R112 (R113). A level byte that is present with scope code 0 is taken as out of range: DESIGN CHOICE, as
R112 says only that the scope is coded as SC, whose code 0 is no scope of a level (log entry 73). -/
def headerBad (b : List Byte) : Bool :=
  let h := hdrOf 0 b
  let bad (x : Nat) : Bool := x ≠ 0 && (x < 128 || x.testBit 3 || 5 < lvlDom x || lvlScope x = 0 || lvlScope x = 7)
  recNat b 0 4 ≠ 0x484B4E58 || recNat b 4 2 ≠ 1 || recNat b 6 2 ≠ 64 || h.cls = 3 || recNat b 8 4 / 64 ≠ 0
    || h.regi = 0 || h.regm < h.regi || 64 < h.regm || h.sqm < h.sqi || 128 < h.sqm || 1 < h.mxem || 4 < h.cpcm
    || recNat b 0x16 2 ≠ 0 || recNat b 0x2E 18 ≠ 0 || h.stk % 64 ≠ 0
    || (if h.roles then h.qwin < 2 || 16 < h.qwin || h.shrg < 2 || 8 < h.shrg || h.ldoff.toNat % 4 ≠ 0 || h.sroff.toNat % 4 ≠ 0
        else h.qwin ≠ 0 || h.shrg ≠ 0 || h.ldoff ≠ 0 || h.sroff ≠ 0)
    || (List.range 6).any fun i => bad (lvlByte h.lvl (i + 2))

/-- A record's field is out of range, or a reserved field is not zero (R277, R352 WHY 2). -/
def recordBad (b : List Byte) : Bool :=
  let r := lrecOf b
  let fl := r.flags.toNat
  let bad (x : Nat) : Bool := x.testBit 3 || 5 < lvlDom x || lvlScope x = 7
  r.khdr.toNat % 64 ≠ 0 || fl / 128 ≠ 0 || fl / 8 % 4 = 3 || r.nlvl < 2 || 8 < r.nlvl || r.gang = 1 || 4 < r.gang
    || recNat b 0x1E 2 ≠ 0 || recNat b 0x3E 2 ≠ 0 || recNat b 0x6A 22 ≠ 0 || r.prolog.toNat % 4 ≠ 0
    || (r.qnum ≠ 0 && !fl.testBit 5) || ((r.tfa ≠ 0 || r.tmap ≠ 0) && !fl.testBit 6)
    || (List.range 6).any fun i => bad (lvlByte r.lvl (i + 2))

/-- The groups of a block that the launch names: the extent of level 2 (R278). -/
def namedGroups (r : LRec) : Nat := if r.nlvl ≤ 2 then 1 else r.ext.getD 0 1

/-- The width of a domain, from core or gang to partition (R32), and the code of its default scope (R33). -/
def domRank (d : Nat) : Nat := d - 1
def domScope (d : Nat) : Nat := if d ≤ 1 then 2 else if d = 2 then 3 else if d = 3 then 4 else 5

/-- A level's byte or extent breaks R32, R33 or R278. -/
def levelBad (h : KHdr) (r : LRec) (n : Nat) : Bool :=
  let x := lvlByte r.lvl n
  let y := lvlByte h.lvl n
  if r.nlvl ≤ n then x ≠ 0 || y ≠ 0
  else
    x < 128 || (y ≠ 0 && y ≠ x) || (n = 2) ≠ (lvlDom x ≤ 1) || lvlScope x < domScope (lvlDom x)
      || (2 < n && domRank (lvlDom x) < domRank (lvlDom (lvlByte r.lvl (n - 1)))) || r.ext.getD (n - 2) 0 = 0

/-- The level binding is refused (R278, R352 WHY 3). With roles, the block's groups count the two shadow groups of every
computer group (R30, R36; log entry 32). -/
def levelsBad (h : KHdr) (r : LRec) : Bool :=
  let n := namedGroups r
  ((List.range 6).any fun i => levelBad h r (i + 2)) || 24 < (if h.roles then 3 * n else n) || n < r.gang
    || ((2 < r.nlvl && lvlDom (lvlByte r.lvl 2) = 1) ≠ (r.gang ≠ 0))

/-- The blocks of a grid (R278). -/
def blockCount (r : LRec) : Nat := unitBlocks r (r.nlvl - 1)

/-! ## Amounts (R39, R284, R285) -/

/-- The computer groups of a block on a member: groups are dealt in turn (R30). -/
def memberGroups (r : LRec) (m : Nat) : Nat :=
  if r.gang = 0 then namedGroups r else (namedGroups r + r.gang - 1 - m) / r.gang

/-- Register units of a block on a member when each computer group has some units (R285). -/
def memberRegs (h : KHdr) (r : LRec) (m each : Nat) : Nat :=
  memberGroups r m * (each + if h.roles then 2 * h.shrg + h.qwin else 0)

/-- The initial request of a block on a member (R286). -/
def initialAmt (h : KHdr) (r : LRec) (m : Nat) : Amt := { reg := memberRegs h r m h.regi, sqr := h.sqi }
/-- The maximum of a block on a member (R285). -/
def maxAmt (h : KHdr) (r : LRec) (m : Nat) : Amt :=
  { reg := memberRegs h r m h.regm, sqr := h.sqm, mxe := h.mxem, cpc := h.cpcm }

/-- The per-core totals (R284). -/
def coreTotal : Amt := { reg := 512, sqr := 128, mxe := 1, cpc := 4 }
/-- The pool fields of a record. -/
def poolFields (r : LRec) : Amt := { reg := r.preg, sqr := r.psqr, mxe := r.pmxe, cpc := r.pcpc }
/-- The launch carves pools (R284). -/
def carves (r : LRec) : Bool := poolFields r ≠ {}
/-- The totals of the pool that a launch's blocks use. -/
def poolTotal (r : LRec) : Amt := if carves r then poolFields r else coreTotal
/-- What a carve takes from the common pool: the engine is never carved (R284). -/
def carveAmt (r : LRec) : Amt := { poolFields r with mxe := 0 }

/-! ## Refusals (R352) -/

/-- The first of the reasons 1, 2, 3, 4, 6 and 7 of a record in a context, given the record's and the header's bytes;
`aligned` says that the record stands at a multiple of 64. -/
def whyOf (s : State) (p c : Nat) (aligned : Bool) (b hb : List Byte) : Except Nat (LRec × KHdr) :=
  let r := lrecOf b
  let h := hdrOf r.khdr hb
  let q : QRef := { part := p, ctx := c, host := false, q := r.qnum }
  if headerBad hb then .error 1
  else if !aligned || recordBad b then .error 2
  else if levelsBad h r then .error 3
  else if !((maxAmt h r 0).le (poolTotal r)) || !((poolFields r).le coreTotal) then .error 4
  else if r.flags.getLsbD 5 && !((getQueue s q).installed && (getQueue s q).kind = 1) then .error 6
  else if r.flags.getLsbD 6 && (r.tfa = 0 || r.tmap = 0 || r.tfa.toNat % 8 ≠ 0 || r.tmap.toNat % 8 ≠ 0) then .error 7
  else .ok (r, h)

/-- A record's bytes checked, its header read in the context. -/
def checkBytes (s : State) (p c : Nat) (aligned : Bool) (b : List Byte) : Except Nat (LRec × KHdr) :=
  match ctxBytes s p c (lrecOf b).khdr 64 with
  | none => .error 8
  | some hb => whyOf s p c aligned b hb

/-- A launch record as it stands in memory: whether it stands at a multiple of 64, and its bytes; none where it cannot be read. -/
def recordAt (s : State) (p c : Nat) (va : DWord) : Option (Bool × List Byte) :=
  (ctxBytes s p c va 128).map fun b => (va.toNat % 64 = 0, b)

/-- A record of a command checked. -/
def checkRecord (s : State) (p c : Nat) : Option (Bool × List Byte) → Except Nat (LRec × KHdr)
  | none => .error 8
  | some x => checkBytes s p c x.1 x.2

/-- The checks of a command's records, in their order: the records, or WHY and REC as RESULT. -/
def checkAll : List (Except Nat (LRec × KHdr)) → Nat → Except Nat (List (LRec × KHdr))
  | [], _ => .ok []
  | .error w :: _, i => .error (w + 256 * i)
  | .ok x :: r, i =>
    match checkAll r (i + 1) with
    | .error w => .error w
    | .ok l => .ok (x :: l)

/-- How a command launches: alone, on one core (R400), or jointly (R300). -/
inductive LaunchMode where
  | single | pinned | joint
  deriving DecidableEq, Repr

/-- Reason 5 of a command whose records have no other (R352). -/
def jointFault (m : LaunchMode) (l : List (LRec × KHdr)) : Option Nat :=
  let first := (l.headD ({}, {})).1
  match m with
  | .single => none
  | .pinned => if !carves first || first.gang ≠ 0 then some 5 else none
  | .joint => (l.findIdx? fun x => poolFields x.1 ≠ poolFields first || x.1.gang ≠ 0).map (5 + 256 * ·)

/-! ## Grids -/

/-- A grid's key is its identifier with its partition above it. -/
def gridKey (p n : Nat) : Nat := 2 ^ 48 * p + n
/-- The identifier of a grid within its partition (R319; log entry 33). -/
def gridId (i : Nat) : Nat := i % 2 ^ 48

/-- The grids of a command, with consecutive identifiers, none of their blocks placed (R319). -/
def makeGrids (s : State) (p c d : Nat) (m : LaunchMode) (q : Option QRef) (l : List (LRec × KHdr)) : State × List Nat :=
  let n := mapGet 1 s.gridSeq p
  let ids := (List.range l.length).map fun k => gridKey p (n + k)
  let mk (x : LRec × KHdr) : Grid :=
    { status := .running, part := p, ctx := c, hdr := x.2, lrec := x.1, blocks := blockCount x.1
      pinned := m = .pinned || (m = .joint && carves x.1), joint := if m = .joint then ids else [], q, die := d }
  ((l.zip ids).foldl (fun s e => setGrid s e.2 (mk e.1)) { s with gridSeq := mapSet s.gridSeq p (n + l.length) }, ids)

/-- The requests for the headers of records that lie at a peer (R326, R382). -/
def askHeaders (s : State) (p c d : Nat) (rs : List (LRec × KHdr)) : State :=
  rs.foldl (fun s r => askRange s p d (tableXlat s p c) r.1.khdr 64) s

/-- Records that have been checked one by one are launched, or the whole command is refused (R352). -/
def launchChecked (s : State) (p c d : Nat) (m : LaunchMode) (q : Option QRef) (l : List (Except Nat (LRec × KHdr))) :
    Except Nat (State × List Nat) :=
  match checkAll l 0 with
  | .error w => .error (if m = .joint then w else w % 256)
  | .ok rs =>
    match jointFault m rs with
    | some w => .error w
    | none => .ok (makeGrids (askHeaders s p c d rs) p c d m q rs)

/-! ## Placement (R34, R284 to R287) -/

/-- Which instance of a domain a core lies in (R33). -/
def domInstance (dom c : Nat) : Nat :=
  if dom = 2 then coreCluster c else if dom = 3 then coreDie c else if dom = 4 then dieQuarter (coreDie c) else 0

/-- The core lies within the domain instance of every unit that the block belongs to and that has a block placed (R34). -/
def instancesOk (s : State) (i bid c : Nat) : Bool :=
  let r := (getGrid s i).lrec
  (List.range (r.nlvl - 3)).all fun k =>
    let n := k + 3
    s.blocks.all fun e => e.2.grid ≠ i || e.2.bid / unitBlocks r n ≠ bid / unitBlocks r n
      || domInstance (lvlDom (lvlByte r.lvl n)) (e.2.cores.headD 0) = domInstance (lvlDom (lvlByte r.lvl n)) c

/-- The dies of the launch's class (R279). -/
def classDies (s : State) (i : Nat) : List Nat :=
  let g := getGrid s i
  let k := if g.lrec.flags.toNat % 4 ≠ 0 then g.lrec.flags.toNat % 4 else if g.hdr.cls = 0 then 3 else g.hdr.cls
  (maskDies (getPart s g.part).mask).filter fun d => if k = 1 then d < 4 else if k = 2 then 4 ≤ d else true

/-- The free slots of a core. -/
def freeSlots (s : State) (c : Nat) : List Nat := (List.range 96).filter fun i => (getGroup s (slotKey c i)).status = .free

/-- Slots for `n` takings of `each` slots of one sub-core, the search starting at the core's pointer: the slots of each taking
and the pointer after them (R286, R287). -/
def pickSlots (free : List Nat) (ptr each : Nat) : Nat → Option (List (List Nat) × Nat)
  | 0 => some ([], ptr)
  | n + 1 =>
    let on (k : Nat) : List Nat := free.filter fun i => i % 6 = (ptr + k) % 6
    match (List.range 6).find? fun k => each ≤ (on k).length with
    | none => none
    | some k =>
      let got := (on k).take each
      match pickSlots (free.filter fun i => !got.contains i) ((ptr + k + 1) % 6) each n with
      | none => none
      | some (r, p) => some (got :: r, p)

/-- The claimant that a block of a grid would be on a member. -/
def newClaimant (g : Grid) (i b bid m : Nat) : Claimant :=
  { block := some b, grid := i, bid, order := g.lrec.flags.getLsbD 2 || g.hdr.order, max := maxAmt g.hdr g.lrec m }

/-- A claimant that holds nothing is added to a pool and its request is tested (R288). -/
def admits (p : Pool) (c : Claimant) (q : Amt) : Bool :=
  p.claimants.length < 32 && proofTest { p with claimants := p.claimants ++ [c] } p.claimants.length q

/-- The common pool of a core. -/
def commonPool (s : State) (c : Nat) : Pool := (getPool s c none).getD {}

/-- A member's pool and the carve it would need let the block in (R284, R286). -/
def poolAdmits (s : State) (i bid m c : Nat) : Bool :=
  let g := getGrid s i
  let o := poolOwner s i
  let cl := newClaimant g i 0 bid m
  let q := initialAmt g.hdr g.lrec m
  match getPool s c o with
  | some p => admits p cl q
  | none =>
    admits (commonPool s c) { carve := o, grid := i, max := carveAmt g.lrec } (carveAmt g.lrec)
      && admits { owner := o, total := poolTotal g.lrec } cl q

/-- The members of a block whose leader would be a core: the cores of one cluster from it on (R30, R286). -/
def membersFrom (g : Grid) (c : Nat) : List Nat := (List.range (max g.lrec.gang 1)).map (c + ·)

/-- Whether a block may be placed with a core as its leader (R286). -/
def eligible (s : State) (i bid c : Nat) : Bool :=
  let g := getGrid s i
  let ms := membersFrom g c
  (classDies s i).contains (coreDie c) && (g.core.isNone || g.core = some c) && instancesOk s i bid c
    && (List.range ms.length).all fun m =>
      let k := c + m
      coreCluster k = coreCluster c && (getCore s k).placed && !isFirmwareCore s k && (getDie s (coreDie k)).status = .up
        && (pickSlots (freeSlots s k) (getCore s k).subPtr (if g.hdr.roles then 3 else 1) (memberGroups g.lrec m)).isSome
        && poolAdmits s i bid m k

/-- The eligible core with the most free slots; ties go to the lowest core (R286). For a gang the slots of all its members count, and ties go
to the lowest leader: DESIGN CHOICE, as R286 ranks cores (log entry 109). -/
def chooseCore (s : State) (i bid : Nat) : Option Nat :=
  let room (c : Nat) : Nat := (membersFrom (getGrid s i) c).foldl (fun n k => n + (freeSlots s k).length) 0
  (((classDies s i).flatMap dieCores).filter (eligible s i bid)).foldl (fun best c =>
    match best with
    | none => some c
    | some b => if room b < room c || (room b = room c && c < b) then some c else best) none

/-- A member's pool is carved if it has to be (R284), and the block becomes a claimant with its initial request granted. -/
def admitBlock (s : State) (i b bid m c : Nat) : State :=
  let g := getGrid s i
  let o := poolOwner s i
  let s :=
    if (getPool s c o).isSome then s
    else
      let s := modPool s c none fun p =>
        { p with claimants := p.claimants ++ [{ carve := o, grid := i, hold := carveAmt g.lrec, max := carveAmt g.lrec }] }
      modCore s c fun k => { k with pools := k.pools ++ [{ owner := o, total := poolTotal g.lrec }] }
  modPool s c o fun p =>
    { p with claimants := p.claimants ++ [{ newClaimant g i b bid m with hold := initialAmt g.hdr g.lrec m }] }

/-- A group that starts in a slot (R40, R277, R287, R302). -/
def startGroup (s : State) (slot b gid m range : Nat) (pc : DWord) (role : Role) (ring : Nat) : State :=
  let k := getBlock s b
  let r := getGrid s k.grid
  let n := fresh s
  setGroup n.2 slot
    { status := if r.lrec.flags.getLsbD 6 then .stalled .tile else .ready
      uid := n.1, block := b, gid, member := m, pc, xm := LaneMask.full, range := 8 * range
      stk := r.lrec.stkb + BitVec.ofNat 64 (r.hdr.stk * (24 * k.bid + gid)), role, ring }

/-- A computer group and, with roles, its two shadow groups start in the slots taken for them (R36, R287). -/
def startSlots (s : State) (b j m : Nat) (slots : List Nat) : State :=
  let k := getBlock s b
  let h := (getGrid s k.grid).hdr
  let n := namedGroups (getGrid s k.grid).lrec
  match slots with
  | [c, l, t] =>
    let s := startGroup s c b j m h.regi h.entry .computer j
    let s := startGroup s l b (n + 2 * j) m h.shrg (h.entry + h.ldoff.signExtend 64) .loader j
    let s := startGroup s t b (n + 2 * j + 1) m h.shrg (h.entry + h.sroff.signExtend 64) .storer j
    modBlock s b fun k => { k with
      groups := k.groups ++ [c, l, t]
      rings := k.rings ++ [{ computer := c, loader := l, storer := t, slots := 4 * h.qwin }] }
  | _ =>
    let c := slots.headD 0
    modBlock (startGroup s c b j m h.regi h.entry .none 0) b fun k => { k with groups := k.groups ++ [c] }

/-- Slots sorted by the index of their groups. -/
def sortGid (s : State) (l : List Nat) : List Nat := l.foldr (insertGid s) []

/-- The groups of a block start, dealt to the members in turn (R30, R287). -/
def startBlock (s : State) (b : Nat) : State :=
  let k := getBlock s b
  let g := getGrid s k.grid
  let each := if g.hdr.roles then 3 else 1
  let s := (List.range (namedGroups g.lrec)).foldl (fun s j =>
    let m := j % k.cores.length
    let c := k.cores.getD m 0
    match pickSlots (freeSlots s c) (getCore s c).subPtr each 1 with
    | some ([l], p) => startSlots (modCore s c fun x => { x with subPtr := p }) b j m (l.map (slotKey c))
    | _ => s) s
  modBlock s b fun k => { k with groups := sortGid s k.groups }

/-- The next block of a grid placed with a core as its leader (R286, R287). -/
def placeBlock (s : State) (i c : Nat) : State :=
  let g := getGrid s i
  let cs := membersFrom g c
  let n := cs.length
  let f := fresh s
  let b := f.1
  let s := setBlock f.2 b
    { status := .resident, grid := i, bid := g.next, cores := cs, sqrs := List.replicate n [], mxe := List.replicate n false
      win := List.replicate n none, spilled := List.replicate n false }
  let s := (List.range n).foldl (fun s m => addSquares (admitBlock s i b g.next m (c + m)) b m g.hdr.sqi) s
  let s := modGrid s i fun g => { g with
    next := g.next + 1, live := g.live ++ [b], used := (g.used ++ cs).eraseDups
    tiles := if g.lrec.flags.getLsbD 6 then g.tiles ++ [b] else g.tiles }
  let s := (if g.joint.isEmpty then [i] else g.joint).foldl (fun s j =>
    modGrid s j fun g => { g with core := if g.pinned then some c else none }) s
  startBlock s b

/-- Every grid of a joint launch before this one has all its blocks placed (R300). -/
def myTurn (s : State) (i : Nat) : Bool :=
  ((getGrid s i).joint.takeWhile (· ≠ i)).all fun j => (getGrid s j).blocks ≤ (getGrid s j).next

/-- BLOCK_PLACEMENT: the next block of a grid is placed on the core that R286 chooses. -/
def execBlockPlacement (grid : Nat) (s : State) : Out :=
  let g := getGrid s grid
  if g.status ≠ .running || g.blocks ≤ g.next || !myTurn s grid then .fault .notDue
  else
    match chooseCore s grid g.next with
    | none => .fault .notDue
    | some c => .next (placeBlock s grid c)

/-- TILE_FLAG_RELEASE: the first placed block of a dependent launch whose tile flag is not zero at its home starts, and will start
when it is restored if it is saved (R276, R280). -/
def execTileFlagRelease (grid : Nat) (s : State) : Out :=
  let g := getGrid s grid
  let up (b : Nat) : Bool :=
    let va := g.lrec.tfa + BitVec.ofNat 64 (8 * (getBlock s b).bid)
    !requestsStopped s g.part && !farBusy s g.part (tableXlat s g.part g.ctx va) && (match ctxNat s g.part g.ctx va 8 with
      | some x => x ≠ 0
      | none => false)
  match g.tiles.find? up with
  | none => .fault .notDue
  | some b =>
    let s := askRange s g.part g.die (tableXlat s g.part g.ctx) (g.lrec.tfa + BitVec.ofNat 64 (8 * (getBlock s b).bid)) 8
    let s := modGrid s grid fun g => { g with tiles := g.tiles.filter (· ≠ b) }
    .next (modMembers s b fun x => if x.status = .stalled .tile then { x with status := .ready } else x)

/-! ## Prologues (R283, R353) -/

/-- A prologue starts as one group on the die's firmware core, with a working copy of its record. It stands in a block of its own that
holds nothing (log entry 66). -/
def startPrologue (s : State) (p : Prologue) (b : List Byte) : State × Nat :=
  let d := (getQueue s p.q).die
  let c := (getDie s d).fwCore
  let slot := slotKey c ((freeSlots s c).headD 95)
  let n := fresh s
  let b' := fresh n.2
  (setGroup b'.2 slot
    { status := .ready, uid := n.1, block := b'.1, pc := (lrecOf b).prolog, xm := LaneMask.full
      s := [(1, Config.prologueBase), (2, BitVec.ofNat 64 p.runs), (3, BitVec.ofNat 64 (dieGtc s d))]
      prologue := some { p with count := 0, copy := b, addr := Config.prologueBase } }, slot)

/-- The mode of a LAUNCH with an N (R318). -/
def modeOf (n : Nat) : LaunchMode := if n = 0 then .single else if n = 1 then .pinned else .joint

/-- The records of a launch command: the one at ADDR, or those whose addresses stand there (R300, R318). -/
def recordsOf (s : State) (q : QRef) (e : CmdEntry) : Option (List (Option (Bool × List Byte))) :=
  match modeOf e.sub.toNat with
  | .joint => (ctxBytes s q.part q.ctx e.addr (8 * e.sub.toNat)).map fun b =>
      (List.range e.sub.toNat).map fun i => recordAt s q.part q.ctx (BitVec.ofNat 64 (recNat b (8 * i) 8))
  | _ => some [recordAt s q.part q.ctx e.addr]

/-- A record without a prologue to run: PROLOG is 0, or refused (R277, R283). -/
def plainRecord : Option (Bool × List Byte) → Bool
  | none => true
  | some x => (lrecOf x.2).prolog = 0 || (lrecOf x.2).prolog.toNat % 4 ≠ 0

/-- A launch command goes on: the prologue of its first record that has one left to run starts, with the slot of its group, and
with none left the records are launched, or refused with WHY and REC (R283, R352; log entry 66). -/
def goLaunch (s : State) (e : CmdEntry) (p : Prologue) : Sum (State × Nat) (Except Nat (State × List Nat)) :=
  match p.rest.dropWhile plainRecord with
  | some x :: r => .inl (startPrologue s { p with settled := p.settled ++ p.rest.takeWhile plainRecord, rest := r } x.2)
  | _ => .inr (launchChecked s p.q.part p.q.ctx (getQueue s p.q).die (modeOf e.sub.toNat) (some p.q)
      ((p.settled ++ p.rest).map (checkRecord s p.q.part p.q.ctx)))

/-- What a begun command has stored and its record releases: a completion time, and stores in flight or requests (R319). -/
def cmdStores (s : State) : Running → Nat × List Nat
  | .stores _ _ t ids => (t, ids)
  | .preempt i => ((getGrid s i).savedC, (getGrid s i).savedSent)
  | .restore i => (0, storesOf s [] [i])
  | .grids ids => (0, storesOf s (ids.flatMap fun i => (getGrid s i).prologues) ids)
  | _ => (0, [])

/-- A launch command that begins: a prologue runs, its grids run, or it completes refused (R277, R283, R352). -/
def launchCommand (s : State) (q : QRef) (e : CmdEntry) : State :=
  match recordsOf s q e with
  | none => finishCmd s q e 7 e.addr.toNat
  | some l =>
    match goLaunch s e { q, count := 0, runs := 0, copy := [], addr := 0, rest := l } with
    | .inl t => startCmd t.1 q e (.prologue t.2)
    | .inr (.error w) => finishCmd s q e 1 w
    | .inr (.ok (t, ids)) => startCmd t q e (.grids ids)

/-- A launch command that has begun goes on from `was`; its grids ask for another run when a prologue did (R283), and the stores of its
prologues belong to what its end releases (R319). -/
def resumeLaunch (s : State) (e : CmdEntry) (was : Running) (p : Prologue) : State :=
  match goLaunch s e p with
  | .inl t => changeCmd t.1 p.q e was (.prologue t.2)
  | .inr (.error w) => endReleased s p.q e was 1 w 0 (storesOf s p.uids [])
  | .inr (.ok (t, ids)) =>
    ids.foldl (fun t i => modGrid t i fun r =>
        { r with rerun := if p.again then some (p.runs + 1) else none, prologues := p.uids, before := p.before })
      (changeCmd t p.q e was (.grids ids))

/-- The command of a prologue's group. -/
def prologueCmd (s : State) (g : Nat) : Option (QRef × CmdEntry) :=
  match (getGroup s g).prologue with
  | none => none
  | some p => (busyWith s p.q (· = .prologue g)).map fun x => (p.q, x.1)

/-- A prologue's group is gone, and whatever its block held; its gathered updates go to their homes. -/
def clearPrologue (s : State) (g : Nat) : State :=
  let b := (getGroup s g).block
  let s := returnHoldings (sendAllGathers s (slotCore g)) b (slotCore g)
  setGroup { s with blocks := mapDel s.blocks b, loads := s.loads.filter fun l => l.g ≠ g || l.dead } g {}

/-- A command that has begun is given up with a status and result; a prologue that runs for it stops, and a merge that waits for its
partner is withdrawn. Its record releases what it has stored (R319). -/
def giveUp (s : State) (q : QRef) (e : CmdEntry) (r : Running) (status result : Nat) : State :=
  match r with
  | .prologue g =>
    let us := (((getGroup s g).prologue.map (·.uids)).getD []) ++ [(getGroup s g).uid]
    let s := clearPrologue s g
    endReleased s q e r status result 0 (storesOf s us [])
  | _ =>
    let w := cmdStores s r
    endReleased s q e r status result w.1 w.2

/-- SYSC in a prologue: launch the working copy, cancel, or launch and run again (R283). -/
def prologueEnd (s : State) (g code : Nat) : State :=
  match prologueCmd s g, (getGroup s g).prologue with
  | some (q, e), some p =>
    let us := p.uids ++ [(getGroup s g).uid]
    let s := clearPrologue s g
    if code = 1 then endReleased s q e (.prologue g) p.before.1 p.before.2 0 (storesOf s us [])
    else resumeLaunch s e (.prologue g)
      { p with settled := p.settled ++ [some (true, p.copy)], again := p.again || code = 2, uids := us }
  | _, _ => s

/-- SYSC: a trap of class C, or the end of a prologue (R249, R283). -/
def execSysc (f : XForm) (s : State) : Out :=
  let x := curGroup s
  if x.prologue.isSome && (opnd s x false f.a 0).toNat ≤ 2 then
    guarded s f (ctlIssue f (xLen f)) (.next (prologueEnd s s.cur (opnd s x false f.a 0).toNat))
  else software s f 0x08

/-- An instruction of a mode whose operands are all scalar: it has an operand, none of them is a vector, a predicate or `xm`, and it does
not act per lane (R13, R283; log entry 66). -/
def scalarOperands (m : Mode) (f : XForm) : Bool :=
  [f.d, f.a, f.b, f.c].any (· ≠ .unused) && [f.d, f.a, f.b, f.c].all (· ≠ .xm)
    && !perLane f.d && !perLane f.a && !perLane f.b && !perLane f.c && uniform m f

/-- The instructions that prologue mode admits (R283). -/
def prologueAdmits (s : State) (i : Instr) : Bool :=
  let x := curGroup s
  match i with
  | .bra _ => true
  | .braBase _ _ => true
  | .brc _ => true
  | .nop _ => true
  | .nopBase _ => true
  | .sysc f => (opnd s x false f.a 0).toNat ≤ 2
  | .await _ => false
  | .call _ => false
  | .brd _ => false
  | .lds _ => true
  | .sts f => (copyAt s (globalAt s x f.a f.b (lu x)) (tyBytes f.ty)).isSome
  | _ =>
    match xspec i with
    | some (_, sp, f) => scalarOperands sp.mode f
    | none =>
      match baseWord i with
      | some (k, _, f) => k ≠ .cmp && k ≠ .pred && scalarOperands .auto (baseForm f)
      | none => false

/-- The next instruction of a prologue is a fault: it cannot be fetched or is not admitted, 16,384 have issued, or the group
has stopped at a trap (R283, R353). -/
def prologueStops (s : State) (g : Nat) : Bool :=
  let x := getGroup s g
  match x.prologue with
  | none => false
  | some p =>
    let sp := groupSpace s g
    16384 ≤ p.count || x.status = .parked .trap || x.status = .parked .pageFault || x.status = .ended
      || (x.status = .ready && match peek s sp.1 sp.2 x.pc with
          | some i => !prologueAdmits { s with cur := g } i
          | none => true)

/-- PROLOGUE_FAULT: the command ends with the count of instructions, and a notice is written, once requests may be made (R353, R391). -/
def execPrologueFault (g : Nat) (s : State) : Out :=
  match prologueCmd s g, (getGroup s g).prologue with
  | some (q, e), some p =>
    if prologueStops s g && !frontWaits s q.part then
      let us := p.uids ++ [(getGroup s g).uid]
      let s := clearPrologue (sendNotice s g 0 (plainRec s g 0x30 p.count)) g
      .next (endReleased s q e (.prologue g) 2 p.count 0 (storesOf s us []))
    else .fault .notDue
  | _, _ => .fault .notDue

/-! ## LAUNCH 0, 1 and 2 to 8 (R277, R300, R318, R400) -/

/-- The front end's core has a slot for a prologue. -/
def prologueRoom (s : State) (q : QRef) : Bool := !(freeSlots s (getDie s (getQueue s q).die).fwCore).isEmpty

def execLaunch (q : QRef) (e : CmdEntry) (s : State) : Out :=
  if prologueRoom s q then beginCmd s q e 1 (· = 0) fun s => launchCommand s q e else .fault .notDue

def execLaunchPinned (q : QRef) (e : CmdEntry) (s : State) : Out :=
  if prologueRoom s q then beginCmd s q e 1 (· = 1) fun s => launchCommand s q e else .fault .notDue

def execJointLaunch (q : QRef) (e : CmdEntry) (s : State) : Out :=
  if prologueRoom s q then beginCmd s q e 1 (fun n => 2 ≤ n && n ≤ 8) fun s => launchCommand s q e else .fault .notDue

/-! ## Child grids (R37, R239, R363) -/

/-- The two bytes that tell a parent of its child, written into the child's record: the state and their completion time. -/
def tellParent (r : Stored) (p c d : Nat) (va : DWord) (why lost : Nat) : Stored :=
  (putRange r p c d (va + 0x68) 3 (leBytes 1 why ++ leBytes 1 lost)).getD r

/-- CHILD_LAUNCH: the oldest child of a die's pending pool is launched; one that is refused tells its parent, and the parent's
join counter advances once those bytes are complete (R37, R363). -/
def execChildLaunch (die : Nat) (s : State) : Out :=
  let d := getDie s die
  if d.status ≠ .up then .fault .notDue
  else
    match d.pool with
    | [] => .fault .notDue
    | (uid, i, va, b) :: r =>
      let g := getGrid s i
      let pop (s : State) : State := modDie s die fun y => { y with pool := r, refusing := none }
      match d.refusing with
      | some t => if storedPast s die t then .next (bumpUid (pop s) uid .join) else .fault .notDue
      | none =>
        if frontWaits s g.part then .fault .notDue else
        match launchChecked s g.part g.ctx die .single none [checkBytes s g.part g.ctx (va.toNat % 64 = 0) b] with
        | .error w =>
          let t := tellParent { s } g.part g.ctx die va w 0
          .next (modDie t.s die fun y => { y with refusing := some (t.till, t.sent) })
        | .ok (t, ids) =>
          .next (ids.foldl (fun t j => modGrid t j fun x => { x with parent := some (uid, i), record := va }) (pop t))

/-! ## The contact sheet (R293) -/

/-- Counts added to a record of a contact sheet by the front end of a die: indivisibly, at its home, in order with the stores to its
line; beyond an aperture by atomic adds (R168, R293). A record that would be read poisoned is left as it is (R375). -/
def addRecord (r : Stored) (p d : Nat) (x : Place) (phase : Nat) (counts : List DWord) : Stored :=
  match x.space with
  | .hbm k =>
    let l := lineOf k
    let s := settle (combine r.s l) l
    let t : PStore := { deviceStore d k 0 [] with op := .sheet phase counts }
    if lineHeld s l then { r with s := addStore s t, sent := r.sent ++ [s.nextId] }
    else if poisonedNext s k 64 then r
    else if x.dark then { r with s := darkPut s l (storeBytes s t), till := max r.till (homeGtc s l + 4) }
    else { r with s := homeWrite s l (storeBytes s t), till := max r.till (completion s l) }
  | .host k => { r with s := hostPut r.s k (sheetRecord (memBytes r.s.mem k 64) phase counts) }
  | .peer a o =>
    let ask (r : Stored) (off : Nat) (op : FabOp) : Stored :=
      { r with s := sendPeer r.s p d a off op none none, sent := r.sent ++ [r.s.nextId] }
    (List.range 7).foldl (fun r k => ask r (o + 8 + 8 * k) (.atom 0 .i64 .rn (counts.getD k 0)))
      (ask r o (.store ((sheetRecord (peerRead r.s p a o 64) phase counts).take 8)))

/-- The counts of a core and phase added to their record of the sheet: ISSUE counts the issues of the phase's groups, one for each
slot-clock (R287, R291); the other counts are in clocks, which the model does not count (R293; log entry 18). -/
def addSheet (r : Stored) (p c core phase issues : Nat) (base : DWord) : Stored :=
  let counts := (List.range 7).map fun k =>
    if k = 0 then BitVec.ofNat 64 issues else Config.sheetCount r.s.tick (2 ^ 16 * core + phase) k
  match placeOf p (tableXlat r.s p c (base + BitVec.ofNat 64 (64 * (64 * core + phase % 64)))) with
  | some x => if pteRO x.entry then r else addRecord r p (coreDie core) x phase counts
  | none => r

/-- The counts of the grids that pass a test, on chip under the phases that their groups have or had, join the contact sheet
of a context. -/
def updateSheet (s : State) (p c : Nat) (mine : Nat → Bool) : Stored :=
  let due (e : Nat × Group) : Bool := e.2.status.live && e.2.prologue.isNone && mine (groupBlock s e.1).grid
  let s := (s.groups.filter due).foldl (fun s e => owePhase s e.1) s
  let all := (s.owed.filter fun o => mine o.1).map (·.2)
  let s := { s with owed := s.owed.filter fun o => !mine o.1 }
  match (getCtx s p c).sheet with
  | none => { s }
  | some base => ((all.map fun o => (o.1, o.2.1)).eraseDups).foldl (fun r o =>
      addSheet r p c o.1 o.2 (all.foldl (fun n y => if (y.1, y.2.1) = o then n + y.2.2 else n) 0) base) { s }

/-- CONTACT_SHEET_UPDATE: the counts of the last 2^20 clocks are added into a context's sheet (R293). -/
def execContactSheetUpdate (part ctx : Nat) (s : State) : Out :=
  let x := getCtx s part ctx
  if x.sheet.isNone || frontWaits s part || (partClock s part - x.sheetAt).toNat < 2 ^ 20 then .fault .notDue
  else .next (modCtx (updateSheet s part ctx fun i => (getGrid s i).part = part && (getGrid s i).ctx = ctx).s part ctx fun y =>
    { y with sheetAt := partClock s part })

/-! ## Completion of a grid (R31, R275, R361, R363, R385) -/

/-- A store that a grid's completion waits for is complete: past its completion time, or applied at a target beyond the partition's
HBM; a darkroom store that no RWB covers is not waited for (R187, R275, R310). -/
def storeEnded (s : State) (d : Nat) (t : PStore) : Bool :=
  t.lost ||
    (if t.dark.isSome then !t.covered || storePast s d t
      else if t.peer.isSome || keyPart t.addr ≥ 16 then t.performed.isSome else storePast s d t)

/-- A command that runs again from its prologue has a slot for it (R283). -/
def rerunRoom (s : State) (g : Grid) : Bool :=
  match g.rerun, g.q with
  | some _, some q => prologueRoom s q
  | _, _ => true

/-- Every block of a grid has ended, every store, atomic, gathered update and global copy element of it and of its command's prologues
is complete, and the front end can write. -/
def gridDone (s : State) (i : Nat) : Bool :=
  let g := getGrid s i
  (g.status = .running || g.status = .draining) && g.next = g.blocks && g.live.isEmpty && rerunRoom s g && !frontWaits s g.part
    && (s.stores.all fun t => !(t.ofGrid i || g.prologues.any t.ofUid) || storeEnded s g.die t)
    && (s.loads.all fun l => !(l.dead && l.grid = i)) && (s.cores.all fun c => c.2.gather.all fun h => !h.2.ofGrid i)
    && (s.elems.all fun e => e.2.grid ≠ i || e.2.toLat || e.2.done || e.2.orphan)

/-- The status and result of the command of some grids: of an earlier run of it where that was worse (R360, R385). -/
def gridStatus (s : State) (ids : List Nat) : Nat × Nat :=
  let before := (getGrid s (ids.headD 0)).before
  match ids.findSome? fun j => (getGrid s j).peerLost with
  | some m => (9, m)
  | none =>
    if before.1 = 9 then before
    else (if before.1 = 3 || ids.any (fun j => (getGrid s j).lost) then 3 else 0, gridId (ids.headD 0))

/-- The command of a grid that completes with it (R319): a launch once all its grids are done, run again from its prologue when
that asked for it, and a restore. -/
def gridCommand (s : State) (i : Nat) : State :=
  let s1 :=
    match commandWith s fun r => match r with | .grids ids => ids.contains i | _ => false with
    | some (q, e, .grids ids) =>
      if ids.all fun j => (getGrid s j).status = .done then
        let st := gridStatus s ids
        match (getGrid s i).rerun with
        | some n =>
          (match recordsOf s q e with
          | none => endCmd s q e (.grids ids) 7 e.addr.toNat
          | some l =>
            resumeLaunch s e (.grids ids)
              { q, count := 0, runs := n, copy := [], addr := 0, rest := l, before := if st.1 = 0 then (0, 0) else st })
        | none => endCmd s q e (.grids ids) st.1 st.2
      else s
    | _ => s
  match commandWith s1 (· = .restore i) with
  | some (q, e, r) => endCmd s1 q e r (gridStatus s1 [i]).1 (if (gridStatus s1 [i]).1 = 9 then (gridStatus s1 [i]).2 else 0)
  | none => s1

/-- The end of a grid: its parent's counter advances, and its command completes. -/
def endGrid (s : State) (i : Nat) : State :=
  let g := getGrid s i
  let mine (t : PStore) : Bool := t.grid = i && t.also.all fun e => e.2.1 = i
  let s := dropLists (modGrid { s with stores := s.stores.filter fun t => !mine t } i fun x => { x with status := .done }) i
  let s := match g.parent with
    | some (uid, _) => bumpUid s uid .join
    | none => s
  gridCommand s i

/-- What the end of a grid writes before it completes: its counts join the contact sheet, and a child that lost a block tells its
parent (R293, R363). -/
def lastWords (s : State) (i : Nat) : Stored :=
  let g := getGrid s i
  let r := updateSheet s g.part g.ctx (· = i)
  if g.parent.isSome && g.lost then tellParent r g.part g.ctx g.die g.record 0 1 else r

/-- GRID_COMPLETION: a grid completes once its stores are complete, and then what its end writes, because completion is a release of
all of it (R275, R319, R363). -/
def execGridCompletion (grid : Nat) (s : State) : Out :=
  let g := getGrid s grid
  if !gridDone s grid then .fault .notDue
  else
    match g.told with
    | some t => if storedPast s g.die t then .next (endGrid s grid) else .fault .notDue
    | none =>
      let r := lastWords s grid
      if r.till = 0 && r.sent.isEmpty then .next (endGrid r.s grid)
      else .next (modGrid r.s grid fun x => { x with told := some (r.till, r.sent) })

end Sys2Proof.Machine
end

