-- ==== Sys2Proof/Machine/Save.lean ====
section
/-! DEFINITION. Saving and restoring work: pre-emption, the save of a block into the save region, drained and hard-saved rings,
deadlines, saves in AWAIT, and restores (R294 to R299, R355, R359). -/

namespace Sys2Proof.Machine

/-! ## Pre-emption (R294, R296, R297) -/

/-- The resident blocks of a grid that are not saved. -/
def unsaved (s : State) (i : Nat) : List Nat :=
  (getGrid s i).live.filter fun b => (getBlock s b).status = .resident || (getBlock s b).status = .saving

/-- The grid of the queue's partition that a command names by its identifier, if it is one that has not ended (R318). -/
def namedGrid (s : State) (q : QRef) (e : CmdEntry) : Option Nat :=
  let i := gridKey q.part e.addr.toNat
  if e.addr.toNat < 2 ^ 48 && (getGrid s i).status ≠ .done then some i else none

/-- The earlier of two deadlines. -/
def earlier (a b : Option Nat) : Option Nat :=
  match a, b with
  | some x, some y => some (min x y)
  | some x, none => some x
  | none, y => y

/-- A saved block's request for its holdings is withdrawn, and what has been granted returns (R294, R298). -/
def dropRestore (s : State) (b : Nat) : State :=
  let x := getBlock s b
  let o := poolOwner s x.grid
  if x.status = .saved && x.restoring then
    x.cores.foldl (fun s c => walkPool (modHold (modPool s c o fun p => { p with queue := p.queue.filter (· ≠ .restore b) }) b c fun _ => {}) c o)
      (modBlock s b fun y => { y with restoring := false })
  else s

/-- The blocks of a grid that are on their way back stay saved (R294). -/
def dropRestores (s : State) (i : Nat) : State := (getGrid s i).live.foldl dropRestore s

/-- A grid is asked to be saved (R294): its placements stop, its blocks are saving, and its rings drain. A second request keeps
the first one's time and the earlier deadline (R297). -/
def askSave (s : State) (i : Nat) (deadline : Option Nat) : State :=
  let now := dieGtc s (getGrid s i).die
  let s := modGrid s i fun g => { g with
    status := .draining
    asked := if g.status = .draining then g.asked else now
    deadline := if g.status = .draining then earlier g.deadline deadline else deadline }
  (unsaved s i).foldl (fun s b => modBlock s b fun x =>
    { x with status := .saving, late := x.late && x.status = .saving }) (dropRestores s i)

/-- LAUNCH 0x80 of an identifier and a deadline: it completes when every block is saved. -/
def execPreempt (q : QRef) (e : CmdEntry) (s : State) : Out :=
  beginCmd s q e 1 (· = 0x80) fun s =>
    match namedGrid s q e with
    | none => finishCmd s q e 6 3
    | some i =>
      if (unsaved s i).isEmpty then
        afterStores { s := modGrid (dropRestores s i) i fun g => { g with status := .saved }, till := (getGrid s i).savedC, sent := (getGrid s i).savedSent } q e 0 0
      else
        let d := if e.val = 0 then none else some (dieGtc s (getQueue s q).die + e.val.toNat)
        startCmd (askSave s i d) q e (.preempt i)

/-- Pre-emption commands of a grid complete once no block of it is left to save and what the saves have written is complete (R319). -/
def finishPreempts (s : State) (i : Nat) : Nat → State
  | 0 => s
  | n + 1 =>
    match commandWith s (· = .preempt i) with
    | some (q, e, r) => finishPreempts (endReleased s q e r 0 0 (getGrid s i).savedC (getGrid s i).savedSent) i n
    | none => s

/-- A grid whose blocks are all saved or ended after a request is a saved grid. -/
def testSaved (s : State) (i : Nat) : State :=
  if (getGrid s i).status = .draining && (unsaved s i).isEmpty then
    finishPreempts (modGrid s i fun g => { g with status := .saved, deadline := none }) i 64
  else s

/-- Every ring of a grid that has not drained is hard-saved (R297). -/
def hardenRings (s : State) (i : Nat) : State :=
  (unsaved s i).foldl (fun s b => modBlock s b fun x =>
    { x with rings := x.rings.map fun r => if r.haltS then r else { r with hard := true } }) s

/-- Some ring of a grid has neither drained nor been hard-saved. -/
def undrained (s : State) (i : Nat) : Bool := (unsaved s i).any fun b => (getBlock s b).rings.any fun r => !ringDone r

/-- HARD_SAVE: the drain bound of 65,536 ticks has passed (R297). -/
def execHardSave (grid : Nat) (s : State) : Out :=
  let g := getGrid s grid
  if g.status = .draining && g.asked + 65536 ≤ dieGtc s g.die && undrained s grid then .next (hardenRings s grid)
  else .fault .notDue

/-- PREEMPTION_DEADLINE: a deadline has passed; rings that have not drained are hard-saved, and blocks still to be saved are
recorded (R297, R359). -/
def execPreemptionDeadline (grid : Nat) (s : State) : Out :=
  let g := getGrid s grid
  match g.deadline with
  | none => .fault .notDue
  | some t =>
    if g.status ≠ .draining || dieGtc s g.die < t then .fault .notDue
    else
      let s := modGrid (hardenRings s grid) grid fun g => { g with deadline := none }
      .next (if (unsaved s grid).isEmpty then s
        else logEvent s g.part 5 g.die g.ctx (BitVec.ofNat 64 (gridId grid)) 5)

/-! ## The save of a block (R228, R294, R295) -/

/-- A group of a block that is saving stands where it may be written: parked, asleep, halted in a ring that is done, or
ended. -/
def mayWrite (b : Block) (x : Group) : Bool :=
  match x.status with
  | .parked _ => true
  | .asleep _ _ _ _ _ => x.pend.isEmpty
  | .sieve _ => true
  | .stalled .halted => match b.rings[x.ring]? with | some r => ringDone r | none => false
  | .stalled .tile => true
  | .ended => true
  | _ => false

/-- The lattice side of every copy element of a block has landed or been read (R294); an element that stopped at a fault moves
no more. -/
def latticeQuiet (s : State) (b : Nat) : Bool :=
  s.elems.all fun e => e.2.block ≠ b || e.2.done || e.2.stopped || (!e.2.toLat && (unmoved e.2).isEmpty)

/-- The accumulator rows of a block can be written where the save has to spill them (R228, R358). -/
def spillable (s : State) (b c : Nat) : Bool :=
  (getCore s c).token ≠ some b || (saveFault s b (memberOn (getBlock s b) c) true).isNone

/-- Everything that a save waits for is done: every group stands where it may be written and may leave its slot (R161, R186, R341),
the copy elements have left the lattice, the block's matrix instructions have retired, its rows can be spilled, and the homes answer
(R387). -/
def saveReady (s : State) (b : Nat) : Bool :=
  let x := getBlock s b
  x.status = .saving && !frontWaits s (getGrid s x.grid).part && (x.groups.all fun g => mayWrite x (getGroup s g) && mayLeave s g) && latticeQuiet s b
    && x.cores.all fun c => ((getCore s c).mxq.all fun o => o.block ≠ b) && spillable s b c

/-- The bytes of a square. -/
def squareBytes (s : State) (c q : Nat) : List Byte :=
  (List.range 8192).map fun o => mapGet 0 (getCore s c).lat (8192 * q + o)

/-- A list of bytes padded with zeros to a multiple of 64. -/
def pad64 (b : List Byte) : List Byte := padTo ((b.length + 63) / 64 * 64) b

/-- The bytes of one half of a ring's window in the order of its slots, into which registers are put in turn: a full slot's register,
zero in a slot that nothing has been put into (R40), and in one that has been freed what the spec does not state (R242, R297; log
entry 27). `off` numbers the half's first byte. -/
def halfBytes (tick slots off puts : Nat) (l : List VReg) : List Byte :=
  (List.range slots).flatMap fun j =>
    match (l.zipIdx (puts - l.length)).find? fun e => e.2 % slots = j with
    | some e => e.1.toList.flatMap fun w => leBytes 4 w.toNat
    | none => if j < puts then (List.range 512).map fun i => Config.windowByte tick (off + 512 * j + i) else List.replicate 512 0

/-- The n registers of a hard-saved ring's window: ring L, then ring S (R242, R295, R297). -/
def windowBytes (tick : Nat) (r : Ring) : List Byte :=
  halfBytes tick r.slots (1024 * r.slots * r.computer) r.putsL r.ringL
    ++ halfBytes tick r.slots (1024 * r.slots * r.computer + 512 * r.slots) r.putsS r.ringS

/-- The bytes of a saved block (R295). -/
def extentBytes (s : State) (b : Nat) : List Byte :=
  let x := getBlock s b
  let hard := x.rings.filter (·.hard)
  let member (m : Nat) : List Byte :=
    leBytes 2 (x.cores.getD m 0) ++ leBytes 1 (x.sqrs.getD m []).length ++ leBytes 1 0
  leBytes 8 (gridId x.grid) ++ leBytes 8 x.bid ++ leBytes 1 (getGrid s x.grid).ctx ++ leBytes 1 x.cores.length
    ++ leBytes 1 x.groups.length ++ leBytes 1 hard.length ++ leBytes 4 0 ++ (List.range 4).flatMap member ++ leBytes 24 0
    ++ (x.groups.flatMap fun g => pad64 (groupRecord (getGroup s g)))
    ++ hard.flatMap (windowBytes s.tick)
    ++ (List.range x.cores.length).flatMap fun m => (x.sqrs.getD m []).flatMap (squareBytes s (x.cores.getD m 0))

/-- The first extent of some 64 KiB units of the save region that no saved block holds, from the lowest address (R295). -/
def findExtent (s : State) (p n : Nat) : Option (Nat × Nat) :=
  let pt := getPart s p
  let units := (n + 65535) / 65536
  let base := pt.saveBase.toNat
  let free (k : Nat) : Bool := pt.extents.all fun e => e.1 + e.2 ≤ base + 65536 * k || base + 65536 * (k + units) ≤ e.1
  ((List.range (pt.saveSize.toNat / 65536 + 1 - units)).find? free).map fun k => (base + 65536 * k, 65536 * units)

/-- A group as its block keeps it, as it leaves its slot; a group parked by the save or halted will be ready, a sleeping one goes on
sleeping (R134), one that waits for its tile flag goes on waiting (R280), and one that an absent page has parked replays when it
comes back (R345). -/
def keptGroup (x : Group) : Group :=
  let x := leaving x
  { x with
    stopAsked := false, phaseIssues := 0
    status := match x.status with
      | .parked .stopped => .ready
      | .stalled .halted => .ready
      | s => s }

/-- A block's holdings on a member return to its pool; it stays a claimant (R289, R294). -/
def returnSaved (s : State) (b c : Nat) : State :=
  walkPool (modHold s b c fun _ => {}) c (poolOwner s (getBlock s b).grid)

/-- When the rows that a saved block spills are complete at their homes (R228, R319). -/
def spillTill (s : State) (b c : Nat) : Nat :=
  let r := getGrid s (getBlock s b).grid
  if (getCore s c).token ≠ some b then 0
  else
    (saveArea s b (memberOn (getBlock s b) c)).foldl (fun t e => match placeOf r.part (tableXlat s r.part r.ctx e.1) with
      | some x => (match x.space with
        | .hbm k => max t (if x.dark then homeGtc s (lineOf k) + 4 else completion (settle s (lineOf k)) (lineOf k))
        | _ => t)
      | none => t) 0

/-- The stores in flight and the requests over the fabric that a step has made. -/
def newRequests (s t : State) : List Nat :=
  ((t.stores.map (·.id)) ++ t.sent.map (·.id)).filter (s.nextId ≤ ·)

/-- The rows of a saved block are spilled on every member, as part of what its save writes (R228, R319). -/
def saveTokens (s : State) (b : Nat) : State :=
  let x := getBlock s b
  let till := x.cores.foldl (fun t c => max t (spillTill s b c)) 0
  let t := x.cores.foldl (fun s c => saveToken s b c) s
  modGrid t x.grid fun y => { y with savedC := max y.savedC till, savedSent := y.savedSent ++ newRequests s t }

/-- A block is written to its extent, and its slots, squares, channels and holdings are free. -/
def saveBlock (s : State) (b : Nat) (ext : Nat × Nat) : State :=
  let x := getBlock s b
  let g := getGrid s x.grid
  let bytes := extentBytes s b
  let n := x.cores.length
  let kept := x.groups.map fun k => (k, keptGroup (getGroup s k))
  let sq := (List.range n).map fun m => (x.sqrs.getD m []).flatMap (squareBytes s (x.cores.getD m 0))
  let hold := x.cores.map fun c => (blockClaim s b c).hold
  let r := homePut s (memKey g.part ext.1) bytes (bytes.length / 128 + 2)
  let s := modGrid r.1 x.grid fun y => { y with savedC := max y.savedC r.2 }
  let s := modPart s g.part fun p => { p with extents := p.extents ++ [ext] }
  let s := x.groups.foldl (fun s k => setGroup (owePhase s k) k {}) s
  let s := setBlock s b { x with status := .saved, groups := [], sqrs := List.replicate n [], chans := []
                                 saved := kept, savedHold := hold, savedSqrs := sq, savedAt := some ext, restoring := false }
  let s := saveTokens s b
  testSaved (x.cores.foldl (fun s c => returnSaved s b c) s) x.grid

/-- BLOCK_SAVE: a block whose groups are all parked or asleep is saved, once an extent is free (R294, R295). -/
def execBlockSave (blk : Nat) (s : State) : Out :=
  if saveReady s blk then
    (if allEnded s blk then .fault .notDue
    else
      match findExtent s (getGrid s (getBlock s blk).grid).part (extentBytes s blk).length with
      | none => .fault .notDue
      | some e => .next (saveBlock s blk e))
  else .fault .notDue

/-- AWAIT_SAVE: a block whose groups all sleep in AWAIT is saved when its pool has a deferred request (R299). -/
def execAwaitSave (blk : Nat) (s : State) : Out :=
  let x := getBlock s blk
  let sleeps (g : Nat) : Bool := match (getGroup s g).status with
    | .asleep .join _ _ _ a => a
    | .ended => true
    | _ => false
  let wanted := x.cores.any fun c => match blockPool s blk c with | some p => !p.queue.isEmpty | none => false
  if x.status = .resident && x.groups.all sleeps && !allEnded s blk && wanted then
    .next (modBlock s blk fun y => { y with status := .saving })
  else .fault .notDue

/-- What a late save is held by (R359, R380). -/
def lateCode : LateReason → Nat
  | .lock => 1 | .peer => 2 | .tokenHolder => 3 | .handler => 4 | .deadline => 5 | .regionFull => 6

/-- A block's groups show the reason for which its save is late. -/
def lateHolds (s : State) (b : Nat) (why : LateReason) : Bool :=
  let x := getBlock s b
  let any (p : Nat → Bool) : Bool := x.groups.any p
  match why with
  | .lock => any fun g => (getGroup s g).status = .stalled .lock
  | .peer => any fun g => (pendingOf s g).any (·.peer)
  | .tokenHolder => any fun g => (getGroup s g).txn.any fun t => t.2.isOpen && t.2.irr && t.2.doomed = none
  | .handler => any fun g => hidden s g
  | .deadline => false
  | .regionFull =>
    saveReady s b && (findExtent s (getGrid s x.grid).part (extentBytes s b).length).isNone

/-- The ticks within which a block is to be saved: the drain bound when it has role rings, else 1,024 clocks (R296, R297). A clock
takes at most a tick (R332). -/
def saveBound (x : Block) : Nat := if x.rings.isEmpty then 1024 else 65536

/-- BLOCK_NOT_SAVED_BY_BOUND: a block of a pre-empted grid is not saved by its bound, and the event log records why, once
(R296, R297, R359). -/
def execBlockNotSavedByBound (blk : Nat) (why : LateReason) (s : State) : Out :=
  let x := getBlock s blk
  let g := getGrid s x.grid
  if x.status = .saving && !x.late && g.status = .draining && g.asked + saveBound x ≤ dieGtc s g.die && lateHolds s blk why then
    .next (logEvent (modBlock s blk fun y => { y with late := true }) g.part 5 (coreDie (x.cores.headD 0)) g.ctx
      (BitVec.ofNat 64 (gridId x.grid)) (BitVec.ofNat 64 (lateCode why)))
  else .fault .notDue

/-! ## Restores (R298, R299, R355) -/

/-- A saved block asks for its holdings back on every core that it left: a request that is tested and deferred like any other,
ahead of its groups' own (R298, R355). -/
def askRestore (s : State) (b : Nat) : State :=
  let x := getBlock s b
  let o := poolOwner s x.grid
  let s := modBlock s b fun y => { y with restoring := true }
  (List.range x.cores.length).foldl (fun s m =>
    let c := x.cores.getD m 0
    let q := x.savedHold.getD m {}
    match getPool s c o with
    | none => s
    | some p =>
      match claimantIx p b with
      | none => s
      | some i =>
        if proofTest p i q then modHold s b c fun _ => q
        else modPool s c o fun p => { p with queue := p.queue ++ [.restore b] }) s

/-- LAUNCH 0x81: a saved grid is restored; the command completes with the grid. -/
def execRestore (q : QRef) (e : CmdEntry) (s : State) : Out :=
  beginCmd s q e 1 (· = 0x81) fun s =>
    match namedGrid s q e with
    | none => finishCmd s q e 6 3
    | some i =>
      if (getGrid s i).status ≠ .saved then finishCmd s q e 6 3
      else
        let s := startCmd (modGrid s i fun g => { g with status := .running }) q e (.restore i)
        ((getGrid s i).live.filter fun b => (getBlock s b).status = .saved).foldl askRestore s

/-- The restore request of a block is granted on every member, and the cores have slots for its groups (R298). A core that the firmware
has moved to since is no exception: DESIGN CHOICE (log entry 10), as R298 restores a block onto the cores that it left. -/
def restoreReady (s : State) (b : Nat) : Bool :=
  let x := getBlock s b
  x.status = .saved && x.restoring && (List.range x.cores.length).all fun m =>
    let c := x.cores.getD m 0
    (match blockPool s b c with | some p => !p.queue.contains (.restore b) | none => false)
      && (x.saved.filter fun e => e.2.member = m).length ≤ (freeSlots s c).length
      && (getDie s (coreDie c)).status = .up

/-- A saved group loaded into a slot of its core: the slot that it left if that is free, else the lowest free one. -/
def loadGroup (s : State) (e : Nat × Group) : State × Nat :=
  let c := slotCore e.1
  let g := if (getGroup s e.1).status = .free then e.1 else slotKey c ((freeSlots s c).headD 0)
  (setGroup s g (wakeGroup e.2), g)

/-- A slot number replaced by the one that its group has now. -/
def moved (l : List (Nat × Nat)) (g : Nat) : Nat := ((l.find? fun e => e.1 = g).map (·.2)).getD g

/-- The squares of a restored block, filled in slot order (R298). -/
def fillSquares (s : State) (b : Nat) : State :=
  let x := getBlock s b
  (List.range x.cores.length).foldl (fun s m =>
    let n := (x.savedHold.getD m {}).sqr
    let s := addSquares s b m n
    let c := x.cores.getD m 0
    ((((getBlock s b).sqrs.getD m []).zipIdx)).foldl (fun s e =>
      let bytes := ((x.savedSqrs.getD m []).drop (8192 * e.2)).take 8192
      modCore s c fun k => { k with lat := bytes.zipIdx.foldl (fun l y => mapSet l (8192 * e.1 + y.2) y.1) k.lat }) s) s

/-- A block comes back to its cores (R298): squares, channels, groups in slots, rings that drained or were hard-saved, and its
place in the token's queue. -/
def restoreBlock (s : State) (b : Nat) : State :=
  let x := getBlock s b
  let p := (getGrid s x.grid).part
  let s := fillSquares s b
  let s := (List.range x.cores.length).foldl (fun s m =>
    modBlock s b fun y =>
      { y with chans := y.chans ++ (freeChans s (x.cores.getD m 0)).take (x.savedHold.getD m {}).cpc }) s
  let r := x.saved.foldl (fun (r : State × List (Nat × Nat)) e =>
    let t := loadGroup r.1 e
    (t.1, r.2 ++ [(e.1, t.2)])) (s, [])
  let back (k : Ring) : Ring :=
    { k with computer := moved r.2 k.computer, loader := moved r.2 k.loader, storer := moved r.2 k.storer
             stopL := false, stopS := false, haltL := false, haltC := false, haltS := false, hard := false }
  let s := modBlock r.1 b fun y => { y with
    status := .resident, restoring := false, saved := [], savedHold := [], savedSqrs := [], savedAt := none
    groups := r.2.map (·.2), rings := x.rings.map back }
  let s := modBlock s b fun y => { y with groups := sortGid s y.groups }
  let s := (r.2.map (·.2)).foldl (fun s g => if (getGroup s g).status = .parked .pageFault then replay s g else s) s
  let s := modPart s p fun t => { t with extents := t.extents.filter fun e => some e ≠ x.savedAt }
  let s := x.cores.foldl (fun s c => passToken s c 32) s
  x.cores.foldl (fun s c => walkPool s c (poolOwner s x.grid)) s

/-- BLOCK_RESTORE: a saved block whose request is granted comes back; a block saved in AWAIT first asks, once its join counter
has reached the phase (R298, R299). -/
def execBlockRestore (blk : Nat) (s : State) : Out :=
  let x := getBlock s blk
  if restoreReady s blk && !frontWaits s (getGrid s x.grid).part then .next (restoreBlock s blk)
  else if x.status = .saved && !x.restoring && (getGrid s x.grid).status = .running
      && x.saved.any fun e => e.2.status = .ready then .next (askRestore s blk)
  else .fault .notDue

end Sys2Proof.Machine
end

