-- ==== Sys2Proof/Machine/Commands.lean ====
section
/-! DEFINITION. The host's and the device's commands other than launches: signals, waits, copies, maps and unmaps, partition
changes, attestation, versions, resets and the event log (R281, R293, R295, R318 to R324, R327, R330, R336, R376 to R379,
R391 to R394). -/

namespace Sys2Proof.Machine

/-! ## SIGNAL, WAIT and COPY (R281, R318) -/

/-- SIGNAL: a FLAG at `.prt` that the front end performs; a word at no multiple of 8 cannot be written (log entry 31). -/
def execSignal (q : QRef) (e : CmdEntry) (s : State) : Out :=
  beginCmd s q e 2 (· = 0) fun s =>
    match (if e.addr.toNat % 8 = 0 then cmdStore s q e.addr (leBytes 8 e.val.toNat) else none) with
    | some r => afterStores r q e 0 0
    | none => finishCmd s q e 7 e.addr.toNat

/-- WAIT: the command waits until its signal word reaches VAL. -/
def execWaitCommand (q : QRef) (e : CmdEntry) (s : State) : Out :=
  beginCmd s q e 3 (· = 0) fun s =>
    match (if e.addr.toNat % 8 = 0 then cmdBytes s q e.addr 8 else none) with
    | some _ => startCmd s q e (.wait e.addr e.val)
    | none => finishCmd s q e 7 e.addr.toNat

/-- WAIT_SATISFIED: the signal word, read unsigned at its home, is VAL or more (R281). -/
def execWaitSatisfied (q : QRef) (s : State) : Out :=
  let up (r : Running) : Bool := match r with
    | .wait a v => !requestsStopped s q.part && !farBusy s q.part (tableXlat s q.part q.ctx a)
        && (match cmdBytes s q a 8 with | some b => v.toNat ≤ leNat b | none => false)
    | _ => false
  match busyWith s q up with
  | some (e, r) => .next (endCmd s q e r 0 0)
  | none => .fault .notDue

/-- The source bytes of a COPY, line by line; none while a peer cannot answer (R318, R326). -/
def copySource (s : State) (q : QRef) (va : DWord) (n : Nat) : Option (List Byte × State) :=
  (lineParts va n).foldl (fun r e => r.bind fun r =>
    match placeOf q.part (tableXlat r.2 q.part q.ctx e.1) with
    | none => none
    | some x =>
      match x.space with
      | .peer a o => (peerRound r.2 q.part (getQueue s q).die a o e.2).map fun b => (r.1 ++ b.1, b.2)
      | _ => some (r.1 ++ placeBytes r.2 q.part x e.2, r.2)) (some ([], s))

/-- A COPY waits for an answer from its source: a source that can be read, at a peer that does not answer now (R326). -/
def copyWaits (s : State) (q : QRef) (e : CmdEntry) : Bool :=
  match cmdBytes s q e.addr 32 with
  | none => false
  | some d =>
    let va := BitVec.ofNat 64 (recNat d 0 8)
    (cmdBytes s q va (recNat d 16 8)).isSome && (copySource s q va (recNat d 16 8)).isNone

/-- COPY: bytes read at their homes and stored; the command completes once every byte is complete at `.sys` (R318). -/
def execCopyCmd (q : QRef) (e : CmdEntry) (s : State) : Out :=
  if copyWaits s q e then .fault .notDue
  else
    beginCmd s q e 4 (· = 0) fun s =>
      match cmdBytes s q e.addr 32 with
      | none => finishCmd s q e 7 e.addr.toNat
      | some d =>
        let va := BitVec.ofNat 64 (recNat d 0 8)
        if recNat d 24 8 ≠ 0 then finishCmd s q e 4 2
        else
          match cmdBytes s q va (recNat d 16 8) with
          | none => finishCmd s q e 7 (recNat d 0 8)
          | some b =>
            let r := (copySource s q va (recNat d 16 8)).getD (b, s)
            match cmdStore r.2 q (BitVec.ofNat 64 (recNat d 8 8)) r.1 with
            | none => finishCmd s q e 7 (recNat d 8 8)
            | some r => afterStores r q e 0 0

/-- COPY_COMMAND_DONE: the stores of a command are complete at `.sys`: past their completion times and acknowledged. -/
def execCopyCommandDone (q : QRef) (s : State) : Out :=
  let finished (r : Running) : Bool := match r with
    | .stores _ _ t ids => !requestsStopped s q.part && (t = 0 || timePast s (getQueue s q).die t) && acked s (getQueue s q).die ids
    | _ => false
  match busyWith s q finished with
  | some (e, .stores st res t ids) => .next (endCmd s q e (.stores st res t ids) st res)
  | _ => .fault .notDue

/-! ## MAP (R318) -/

/-- A context that did not exist is created (log entry 31: one that exists is refused). -/
def execMapContext (q : QRef) (e : CmdEntry) (s : State) : Out :=
  beginCmd s q e 5 (· = 0) fun s =>
    let c := e.val.toNat % 64
    if ctxExists s q.part c then finishCmd s q e 4 3
    else finishCmd (modCtx s q.part c fun _ => { root := some e.addr }) q e 0 0

/-- The queue that VAL names in a context (R318). -/
def namedQueue (q : QRef) (e : CmdEntry) : QRef :=
  { part := q.part, ctx := targetCtx q e, host := e.val.getLsbD 8, q := e.val.toNat % 256 }

/-- A queue descriptor's fields and VAL lie in their ranges (R281, R318). -/
def queueOk (s : State) (n : QRef) (d : List Byte) (die : Nat) : Bool :=
  let per := recNat d 0x0C 4
  recNat d 0 8 % 4096 = 0 && 4 ≤ recNat d 8 1 && recNat d 8 1 ≤ 16 && recNat d 9 1 ≤ (if n.host then 0 else 1)
    && (per = 0 || recNat d 0x10 4 < per) && (maskDies (getPart s n.part).mask).contains die
    && (!n.host || n.q ≤ 3) && !(n.host && n.ctx = 0 && n.q = 0)
    && !((getQueue s n).installed && !(getQueue s n).closed)

/-- What the configuration space of a function shows the host (R312): its class code, the vectors of its MSI-X capability, its PTM
requester capability, and the sizes of BAR0 and of BAR2, a 64-bit prefetchable window. No step of the table reads it, and nothing
writes it. -/
structure Endpoint where
  classCode : BitVec 24 := 0x120000#24
  vectors : Nat := 256
  ptmRequester : Bool := true
  bar0 : Nat := 65536
  bar2 : Nat
  bar2Is64Prefetchable : Bool := true
  deriving DecidableEq, Repr

/-- The configuration space of the function that serves some quarters: BAR2 spans 256 GiB for each (R312). -/
def endpoint (mask : BitVec 4) : Endpoint := { bar2 := 2 ^ 38 * (quarters mask).length }

/-- An MSI-X vector + 1, or 0 for none: one of those that a function has (R312). -/
def vectorOk (v : Nat) : Bool := v ≤ (endpoint 0).vectors

def execMapQueue (q : QRef) (e : CmdEntry) (s : State) : Out :=
  beginCmd s q e 5 (· = 1) fun s =>
    let n := namedQueue q e
    let die := e.val.toNat / 512 % 8
    if !ctxExists s q.part n.ctx then finishCmd s q e 6 1
    else
      match ctxBytes s q.part n.ctx e.addr 32 with
      | none => finishCmd s q e 7 e.addr.toNat
      | some d =>
        if recNat d 0x0A 1 / 2 ≠ 0 || recNat d 0x0B 1 ≠ 0 || recNat d 0x14 12 ≠ 0 then finishCmd s q e 4 2
        else if !queueOk s n d die || !vectorOk (e.val.toNat / 65536 % 4096) then finishCmd s q e 4 3
        else
          finishCmd (modQueue s n fun y =>
            { busy := y.busy, installed := true, base := BitVec.ofNat 64 (recNat d 0 8), lcap := recNat d 8 1, kind := recNat d 9 1
              closed := (recNat d 0x0A 1).testBit 0, per := recNat d 0x0C 4, phs := recNat d 0x10 4, die
              vec := e.val.toNat / 65536 % 4096 }) q e 0 0

/-- The contact sheet of a context; its counts begin now (R293). -/
def execMapContactSheet (q : QRef) (e : CmdEntry) (s : State) : Out :=
  beginCmd s q e 5 (· = 2) fun s =>
    if !ctxExists s q.part (targetCtx q e) then finishCmd s q e 6 1
    else if e.addr.toNat % 64 ≠ 0 then finishCmd s q e 4 3
    else finishCmd (modCtx s q.part (targetCtx q e) fun c => { c with sheet := some e.addr, sheetAt := partClock s q.part }) q e 0 0

/-- A rewrite of the region table: the shadow is written, and the command waits for the switch (R391). -/
def rewriteRegion (s : State) (q : QRef) (e : CmdEntry) (f : AMap Aperture → AMap Aperture) : State :=
  startCmd (modPart s q.part fun p =>
    { p with shadow := f p.aps, region := { p.region with pending := some (hubGtc s) } }) q e .table

/-- The fields of an aperture entry (R327). -/
def apertureOf (b : List Byte) : Aperture :=
  { module := recNat b 0 2, fn := recNat b 2 1, valid := (recNat b 3 1).testBit 0, inbound := (recNat b 3 1).testBit 1 }

/-- Bytes at a physical address of a partition, in HBM4E, in host memory or beyond a peer aperture (R314). -/
def physBytes (s : State) (p pa n : Nat) : Option (List Byte) :=
  if 2 ^ 48 ≤ pa then none
  else
    match space p pa with
    | .hbm k => if inHbm (getPart s p) pa n then some ((List.range (n / 128 + 2)).foldl (fun s i => settle (combine s (lineOf k + i))
        (lineOf k + i)) s |>.mem |> (memBytes · k n)) else none
    | .host k => if pa % 2 ^ 47 + n ≤ 2 ^ 47 then some (memBytes s.mem k n) else none
    | .peer a o => if (mapGet {} (getPart s p).aps a).valid && !(mapGet {} (getPart s p).aps a).inbound && o + n ≤ 2 ^ 40 then some (peerRead s p a o n) else none

def execMapAperture (q : QRef) (e : CmdEntry) (s : State) : Out :=
  beginCmd s q e 5 (· = 3) fun s =>
    match physBytes s q.part e.addr.toNat 16 with
    | none => finishCmd s q e 7 e.addr.toNat
    | some b =>
      if recNat b 3 1 / 4 ≠ 0 || recNat b 4 12 ≠ 0 then finishCmd s q e 4 2
      else if 4095 < recNat b 0 2 || 3 < recNat b 2 1 then finishCmd s q e 4 3
      else rewriteRegion s q e fun m => mapSet m (e.val.toNat % 64) (apertureOf b)

/-- The trap descriptor of a context is read now (R336); its notices start again at the ring's first entry. -/
def execMapTrapDescriptor (q : QRef) (e : CmdEntry) (s : State) : Out :=
  beginCmd s q e 5 (· = 4) fun s =>
    let c := targetCtx q e
    if !ctxExists s q.part c then finishCmd s q e 6 1
    else if e.addr.toNat % 32 ≠ 0 then finishCmd s q e 4 3
    else
      match ctxBytes s q.part c e.addr 32 with
      | none => finishCmd s q e 7 e.addr.toNat
      | some d =>
        if recNat d 0x19 1 ≠ 0 || recNat d 0x1C 4 ≠ 0 then finishCmd s q e 4 2
        else if recNat d 0 8 % 64 ≠ 0 || recNat d 8 8 % 16384 ≠ 0 || recNat d 16 8 % 4096 ≠ 0
            || (recNat d 16 8 ≠ 0 && (recNat d 24 1 < 4 || 16 < recNat d 24 1)) || !vectorOk (recNat d 26 2) then finishCmd s q e 4 3
        else
          finishCmd (modCtx s q.part c fun x => { x with trap :=
            { hent := BitVec.ofNat 64 (recNat d 0 8), recb := BitVec.ofNat 64 (recNat d 8 8)
              nring := BitVec.ofNat 64 (recNat d 16 8), nlcap := recNat d 24 1, nvec := recNat d 26 2 } }) q e 0 0

/-- MAP 5: refused while a block is saved, or when the region does not lie within the partition's HBM4E (R295). -/
def execMapSaveRegion (q : QRef) (e : CmdEntry) (s : State) : Out :=
  beginCmd s q e 5 (· = 5) fun s =>
    let pt := getPart s q.part
    if !pt.extents.isEmpty || e.addr.toNat % 65536 ≠ 0 || e.val.toNat % 65536 ≠ 0 || !inHbm pt e.addr.toNat e.val.toNat then
      finishCmd s q e 4 3
    else finishCmd (modPart s q.part fun p => { p with saveBase := e.addr, saveSize := e.val }) q e 0 0

/-! ## The end of queues, grids and contexts (R318, R364, R376, R407) -/

/-- Entries of a command queue that have not begun are discarded with status 12. -/
def discardEntries (s : State) (q : QRef) : Nat → State
  | 0 => s
  | n + 1 =>
    let x := getQueue s q
    if x.head = x.tail then s
    else
      let t := passHead (askEntry s q) q
      discardEntries (match entryAt s q x.head with | .ok e => finishCmd t q e 12 0 | .error _ => t) q n

/-- Commands that have begun are discarded with status 12 (R376). -/
def discardBegun (s : State) (q : QRef) : State := (getQueue s q).busy.foldl (fun s x => giveUp s q x.1 x.2 12 0) s

/-- A queue is closed (R318, R364, R376): a command queue loses its commands, and the groups that wait on an entry queue
wake. -/
def closeQueue (s : State) (q : QRef) : State :=
  let x := getQueue s q
  if x.kind = 0 then
    let s := discardEntries (discardBegun s q) q (x.tail - x.head).toNat
    modQueue s q fun y => { y with closed := true, due := [] }
  else wakeQueue (modQueue s q fun y => { y with closed := true }) q

/-- A block that is stopped from outside: nothing of it goes on but what has left its cores, and its saved state is gone. -/
def killBlock (s : State) (b : Nat) : State :=
  let x := getBlock s b
  let uids := x.saved.map fun e => e.2.uid
  let s := x.cores.foldl (fun s c => modCore s c fun k =>
    { k with pools := k.pools.map fun p => { p with queue := p.queue.filter fun d => match d with
        | .claim u _ => !uids.contains u
        | .restore _ => true } }) s
  let s := modPart s (getGrid s x.grid).part fun p => { p with extents := p.extents.filter fun e => some e ≠ x.savedAt }
  endBlock (dropElems (withdraw (stopGroups s b) b) b) b .ended

/-- A grid is stopped; a pool that was carved for a block of it still to come returns (R284, R300). -/
def stopGrid (s : State) (i : Nat) : State :=
  let l := (getGrid s i).live
  let s := dropLists (modGrid s i fun g => { g with status := .done, tiles := [] }) i
  let s := l.foldl killBlock { s with owed := s.owed.filter fun o => o.1 ≠ i }
  s.cores.foldl (fun s c => returnCarve s c.1 (poolOwner s i)) s

/-- The grids of a context that have not ended. -/
def ctxGrids (s : State) (p c : Nat) : List Nat :=
  (s.grids.filter fun e => e.2.part = p && e.2.ctx = c && e.2.status ≠ .done).map (·.1)

/-- The queues that go with a context; the admin queue stays. -/
def ctxQueues (s : State) (p c : Nat) : List (QRef × Queue) :=
  (getPart s p).queues.filter fun e => e.1.ctx = c && !(e.1.host && e.1.ctx = 0 && e.1.q = 0)

/-- A context that is about to go: its grids stop, and its queues close. -/
def leaveContext (s : State) (p c : Nat) : State :=
  let s := (ctxGrids s p c).foldl stopGrid s
  ((ctxQueues s p c).filter fun e => !e.2.closed).foldl (fun s e => closeQueue s e.1) s

/-- Grids or queues of a context have not been stopped. -/
def ctxOpen (s : State) (p c : Nat) : Bool := !(ctxGrids s p c).isEmpty || (ctxQueues s p c).any fun e => !e.2.closed

/-- Commands of a context that have been given up wait for what they have stored (R319). -/
def ctxLeft (s : State) (p c : Nat) : Bool := (ctxQueues s p c).any fun e => !e.2.busy.isEmpty

/-- A context is destroyed (R318, R407): its grids stop, its queues close, and its tables and translations go. -/
def stopContext (s : State) (p c : Nat) : State :=
  let s := leaveContext s p c
  let mine (q : QRef) : Bool := q.ctx = c && !(q.host && q.ctx = 0 && q.q = 0)
  let s := modPart s p fun x => { x with queues := x.queues.filter fun e => !mine e.1 }
  let s := { s with
    dies := s.dies.map fun d => (d.1, { d.2 with pool := d.2.pool.filter fun e =>
      !((getGrid s e.2.1).part = p && (getGrid s e.2.1).ctx = c) })
    notices := s.notices.filter fun n => !(n.part = p && n.ctx = c) }
  let s := invalidate s fun t => t.part = p && t.ctx = c
  modPart s p fun x => { x with ctxs := mapDel x.ctxs c }

/-- A command that destroys contexts first stops their grids and closes their queues; it goes on once the commands that this has given
up have completed (R319). -/
def afterLeaving (s : State) (p : Nat) (cs : List Nat) (go : Out) : Out :=
  match go with
  | .next t =>
    if cs.any (ctxOpen s p) then
      let u := cs.foldl (fun s c => leaveContext s p c) s
      if cs.any (ctxLeft u p) then .next u else .next t
    else if cs.any (ctxLeft s p) then .fault .notDue
    else .next t
  | o => o

/-! ## UNMAP (R318) -/

/-- Every write-back of a partition that has left its die merges (R308, R372). -/
def mergeAll (s : State) (p : Nat) : State := (s.wbs.filter fun w => keyPart w.key = p).foldl mergeBack s

/-- A translation lies in a virtual range. -/
def inRange (t : TlbEntry) (va : DWord) (n : Nat) : Bool :=
  t.page.toNat < va.toNat + n && va.toNat < t.page.toNat + 2 ^ levelShift t.level

/-- An address lies in the range of an UNMAP 0, in whole pages, or in the page of an entry that it removes. -/
def unmapReaches (s : State) (q : QRef) (e : CmdEntry) (w : DWord) : Bool :=
  (e.addr.toNat / 65536 * 65536 ≤ w.toNat && w.toNat < e.addr.toNat + e.val.toNat + 65535)
    || s.tlb.any fun t => t.part = q.part && t.ctx = q.ctx && inRange t e.addr e.val.toNat && t.page = pageBase t.level w

/-- What an UNMAP 0 removes and restarts (R250, R345, R372). -/
def unmapRange (s : State) (q : QRef) (e : CmdEntry) : State :=
  let s := invalidate s fun t => t.part = q.part && t.ctx = q.ctx && inRange t e.addr e.val.toNat
  ((getPart s q.part).ctxs.map (·.1)).foldl (fun s c => countTlbi s q.part c) (mergeAll s q.part)

/-- UNMAP 0, as TLBI does (R250, R372): gathered updates that it reaches are sent first, and it begins once every access of the
context that it reaches has been performed. -/
def execUnmapRange (q : QRef) (e : CmdEntry) (s : State) : Out :=
  let hit := unmapReaches s q e
  match beginCmd s q e 6 (· = 0) fun s => finishCmd (unmapRange s q e) q e 0 0 with
  | .next t =>
    if s.cores.any fun c => c.2.gather.any fun h => h.2.part = q.part && h.2.ctx = q.ctx && hit h.2.va then
      .next (sendUpdates s q.part q.ctx hit)
    else if accessesLeft { s with wbs := [] } q.part (some q.ctx) hit then .fault .notDue
    else .next t
  | o => o

/-- UNMAP 1: a context whose queues are not all closed is refused (log entry 31); the commands that their closing has given up complete
first (R319). -/
def execUnmapContext (q : QRef) (e : CmdEntry) (s : State) : Out :=
  let c := e.val.toNat % 64
  if (commandFault s q e).isNone && ctxExists s q.part c && ctxLeft s q.part c then .fault .notDue
  else
  beginCmd s q e 6 (· = 1) fun s =>
    let isOpen (x : QRef × Queue) : Bool := x.1.ctx = c && x.2.installed && !x.2.closed && !(x.1.host && c = 0 && x.1.q = 0)
    if !ctxExists s q.part c then finishCmd s q e 6 1
    else if (getPart s q.part).queues.any isOpen then finishCmd s q e 4 3
    else finishCmd (stopContext s q.part c) q e 0 0

def execUnmapQueue (q : QRef) (e : CmdEntry) (s : State) : Out :=
  beginCmd s q e 6 (· = 2) fun s =>
    let n := namedQueue q e
    if !ctxExists s q.part n.ctx then finishCmd s q e 6 1
    else if !(getQueue s n).installed || (n.host && n.ctx = 0 && n.q = 0) then finishCmd s q e 6 2
    else finishCmd (closeQueue s n) q e 0 0

def execUnmapAperture (q : QRef) (e : CmdEntry) (s : State) : Out :=
  beginCmd s q e 6 (· = 3) fun s =>
    if !(mapGet {} (getPart s q.part).aps (e.val.toNat % 64)).valid
        && !(mapGet {} (getPart s q.part).aps (e.val.toNat % 64)).inbound then finishCmd s q e 6 4
    else rewriteRegion s q e fun m => mapDel m (e.val.toNat % 64)

/-! ## Resets (R318, R321, R378, R381) -/

/-- A partition is reset: every context is destroyed, its log and counters start again, and the host must negotiate again;
memory is kept (R318, R321, R378, R381; log entry 34 on the rest). -/
def resetPart (s : State) (p : Nat) : State :=
  let s := ((getPart s p).ctxs.map (·.1)).foldl (fun s c => stopContext s p c) s
  let s := (s.grids.filter fun e => e.2.part = p && e.2.status ≠ .done).foldl (fun s e => stopGrid s e.1) s
  let dies := maskDies (getPart s p).mask
  let s := (dies.flatMap dieCores).foldl (fun s c => modCore s c fun k => { k with placed := true, errAt := none, subPtr := 0 }) s
  let s := dies.foldl (fun s d => modDie s d fun x => { x with outAt := none, refusing := none, pool := [] }) s
  modPart s p fun x =>
    { x with
      negotiated := none, aps := [], shadow := [], region := { x.region with pending := none }, saveBase := 0, saveSize := 0
      extents := [], tok := none, tokQ := [], resv := none, lists := [], flying := [], log := [], logSeq := 0, logRead := 0
      cecnt := [], uecnt := 0, late := 0, replay := 0, dups := 0, misr := 0, nlost := 0, change := none, leaving := false
      queues := x.queues.filter fun e => e.1.host && e.1.ctx = 0 && e.1.q = 0 }

/-- RESET 0. -/
def execResetContext (q : QRef) (e : CmdEntry) (s : State) : Out :=
  let cs := if (commandFault s q e).isNone then [e.val.toNat % 64] else []
  afterLeaving s q.part cs <| beginCmd s q e 10 (· = 0) fun s =>
    if !ctxExists s q.part (e.val.toNat % 64) then finishCmd s q e 6 1
    else finishCmd (stopContext s q.part (e.val.toNat % 64)) q e 0 0

/-- RESET 1. -/
def execResetPartition (q : QRef) (e : CmdEntry) (s : State) : Out :=
  let cs := if (commandFault s q e).isNone then (getPart s q.part).ctxs.map (·.1) else []
  afterLeaving s q.part cs <| beginCmd s q e 10 (· = 1) fun s => finishCmd (resetPart s q.part) q e 0 0

/-- An image's signature verifies under the key of its slot, whose digest the fuses hold: over header bytes 0x00 to 0x3F and the body (R330; log entry 14). -/
def imageSigned (m : Module) (b : List Byte) : Bool :=
  let key := Config.publicKey (recNat b 12 4)
  m.keys[recNat b 12 4]? = some (sha384 key) && ecdsaVerify key (sha384 (b.take 64 ++ b.drop 256)) ((b.drop 64).take 96)

/-- Why a patch image is refused (R330, R376; log entry 31 on the order of the tests). -/
def patchFault (m : Module) (b : List Byte) : Option Nat :=
  if b.length < 256 || recNat b 0 4 ≠ 0x48504E58 || b.length ≠ 256 + recNat b 8 4 || 3 < recNat b 12 4 then some 1
  else if !imageSigned m b then some 2
  else if m.revoked.contains (recNat b 12 4) then some 3
  else if recNat b 4 4 ≤ m.rollback then some 4
  else none

/-- The firmware of every die of a partition restarts on its core, and its watchdog with it (R318, R322, R323, R380, R397). -/
def restartFirmware (s : State) (p : Nat) : State :=
  (maskDies (getPart s p).mask).foldl (fun s d =>
    logEvent (modDie s d fun x => { x with bite := none, dogAt := hubGtc s }) p 0x0F d 255 (BitVec.ofNat 64 d) 0xFF) s

/-- RESET 2. -/
def execResetPatch (q : QRef) (e : CmdEntry) (s : State) : Out :=
  beginCmd s q e 10 (· = 2) fun s =>
    let a := e.addr.toNat
    if (getPart s q.part).mask ≠ 0b1111#4 then finishCmd s q e 11 5
    else
      match (physBytes s q.part a 256).bind fun h => physBytes s q.part a (256 + recNat h 8 4) with
      | none => finishCmd s q e 7 a
      | some b =>
        match patchFault s.hub b with
        | some w => finishCmd s q e 11 w
        | none => finishCmd (restartFirmware { s with hub := { s.hub with installed := some b } } q.part) q e 0 0

/-! ## Partition changes (R322 to R324, R393, R394) -/

/-- A command queue of a partition is busy: a command begun and not completed, other than a waiting PARTITION 1, or an entry in
a ring (R322). -/
def partBusy (s : State) (p : Nat) : Bool :=
  (getPart s p).queues.any fun e => e.2.installed && e.2.kind = 0 && !e.2.closed
    && (e.2.head ≠ e.2.tail || e.2.busy.any fun x => x.2 ≠ .merge)

/-- A request of a partition is still under way under an old version of a table (R392). -/
def oldRequests (s : State) (p : Nat) : Bool :=
  (s.sent.any fun x => x.part = p && !routed s x) || (s.loads.any fun l => l.part = p && l.got.isNone && l.vers ≠ partVers s p)
    || s.stores.any fun t => keyPart t.addr = p && t.performed.isNone && !t.lost && t.dark.isNone && t.peer.isNone && t.vers ≠ partVers s p

/-- A die of a partition is resetting, or a forced table switch is in progress (R393 reason 4). -/
def partUnsettled (s : State) (p : Nat) : Bool :=
  partResetting s p || forcedSwitch s p (getPart s p).region || forcedSwitch s p (getPart s p).inter || oldRequests s p

/-- A refused PARTITION command (R376, R380). -/
def refuseChange (s : State) (q : QRef) (e : CmdEntry) (reason : Nat) : State :=
  let t := finishCmd s q e 8 reason
  logEvent t q.part 0x0D 255 255 (BitVec.ofNat 64 reason) (BitVec.ofNat 64 (e.val.toNat % 16))

/-- Everything that the caches, homes and queues of the module hold for a partition is gone, and its memory is zero (R322). -/
def wipePart (s : State) (p : Nat) : State :=
  let s := resetPart s p
  let mine (key : Nat) : Bool := keyPart key = p
  let line (l : Nat) : Bool := mine (128 * l)
  { s with
    mem := s.mem.filter fun e => !mine e.1
    poison := s.poison.filter fun k => !mine k
    stale := s.stale.filter fun e => !mine e.1
    homes := s.homes.filter fun e => !line e.1
    copies := s.copies.map fun h => (h.1, h.2.filter fun e => !line e.1)
    dark := s.dark.map fun h => (h.1, h.2.filter fun e => !line e.1)
    wbs := s.wbs.filter fun w => !mine w.key
    stores := s.stores.filter fun t => !mine t.addr
    tlb := s.tlb.filter fun t => t.part ≠ p }

/-- A partition with new tables: its quarters, the next version of the region table, and nothing else but its function's registers and admin queue
(R322). -/
def remade (x : Partition) (mask : BitVec 4) : Partition :=
  { x with live := mask ≠ 0, mask, spread := mask, spreadShadow := mask, inter := { ver := x.inter.ver }
           region := { ver := x.region.ver + 1 }, making := none }

/-- The lowest quarter of a mask: the number of its function (R312). -/
def lowest (m : BitVec 4) : Nat := (quarters m).headD 0

/-- Two partitions become one, and its firmware restarts (R322 steps 3 to 5). -/
def mergeParts (s : State) (p o : Nat) (mask : BitVec 4) : State :=
  let s := wipePart (wipePart s p) o
  let s := modPart s (if p = lowest mask then o else p) fun x => remade x 0
  restartFirmware (modPart s (lowest mask) fun x => remade x mask) (lowest mask)

/-- The partition whose quarters make up a mask with those of another. -/
def partnerOf (s : State) (p : Nat) (mask : BitVec 4) : Option Nat :=
  (s.parts.find? fun e => e.1 ≠ p && e.2.live && (e.2.mask ||| (getPart s p).mask) = mask
    && (e.2.mask &&& (getPart s p).mask) = 0).map (·.1)

/-- A PARTITION command completes on the function of the merged partition: its record is written, and that function's admin vector
is raised (R322 step 5). -/
def finishThere (s : State) (p : Nat) (q : QRef) (e : CmdEntry) (status result : Nat) : State :=
  finishOn s q e status result p (getQueue s { q with part := p }).vec

/-- The admin queue of a partition. -/
def adminOf (p : Nat) : QRef := { part := p, ctx := 0, host := true, q := 0 }

/-- A change of a partition is made from now on: the firmware writes the shadow of its interleave table, which spreads over `spread`
(R322 step 3, R391), and no command begins. -/
def beginChange (s : State) (p : Nat) (spread : BitVec 4) (m : Making) : State :=
  modPart s p fun x => { x with change := none, making := some m, spreadShadow := spread, inter := { x.inter with pending := some (hubGtc s) } }

/-- PARTITION 1: the first of the two commands waits for the second; then the change is begun or refused (R322, R393). -/
def execPartitionMerge (q : QRef) (e : CmdEntry) (s : State) : Out :=
  beginCmd s q e 7 (· = 1) fun s =>
    let mask := e.val.setWidth 4
    match (if isPartitionMask mask then partnerOf s q.part mask else none) with
    | none => refuseChange s q e 3
    | some o =>
      match (getPart s o).change with
      | none =>
        if (getPart s o).making.isSome then refuseChange s q e 5
        else startCmd (modPart s q.part fun p => { p with change := some (dieGtc s (getQueue s q).die, mask) }) q e .merge
      | some (_, m) =>
        if m ≠ mask then refuseChange s q e 5
        else
          let aq := adminOf o
          let reason :=
            if partBusy s q.part || partBusy s o then some 1
            else if partUnsettled s q.part || partUnsettled s o then some 4 else none
          let clear (s : State) : State := modPart s o fun p => { p with change := none }
          match busyWith s aq (· = .merge), reason with
          | some (f, r), some w =>
            let t := modQueue (clear s) aq fun x => { x with busy := x.busy.erase (f, r), begun := false }
            refuseChange (refuseChange t q e w) aq f w
          | some _, none =>
            beginChange (beginChange (startCmd s q e .merge) o mask { mask, partner := some q.part }) q.part mask { mask, partner := some o }
          | none, _ => refuseChange (clear s) q e 2

/-- PARTITION 2: the change is begun or refused (R323, R393). -/
def execPartitionSplit (q : QRef) (e : CmdEntry) (s : State) : Out :=
  beginCmd s q e 7 (· = 2) fun s =>
    let m := e.val.setWidth 4
    let all := (getPart s q.part).mask
    let rest := all &&& ~~~m
    if !isPartitionMask m || !isPartitionMask rest || (m &&& all) ≠ m then refuseChange s q e 3
    else if partBusy s q.part then refuseChange s q e 1
    else if partUnsettled s q.part then refuseChange s q e 4
    else beginChange (startCmd s q e .merge) q.part (if lowest m = q.part then m else rest) { mask := m, partner := none }

/-- The PARTITION command of a partition's change completes on a function (R322, R323). -/
def finishMade (s : State) (p fn status result : Nat) : State :=
  match busyWith s (adminOf p) (· = .merge) with
  | some (e, r) =>
    finishThere (modQueue s (adminOf p) fun x => { x with busy := x.busy.erase (e, r), begun := false }) fn (adminOf p) e status result
  | none => s

/-- A partition becomes two, whose firmware restarts, and the host must negotiate again with each part's function (R323). -/
def splitPart (s : State) (p : Nat) (m : BitVec 4) : State :=
  let rest := (getPart s p).mask &&& ~~~m
  let part (x : Partition) (m : BitVec 4) : Partition := { remade x m with negotiated := none }
  let s := modPart (modPart (wipePart s p) (lowest m) fun x => part x m) (lowest rest) fun x => part x rest
  restartFirmware (restartFirmware s (lowest m)) (lowest rest)

/-- A change completes once its tables have been switched and no die of it is resetting: with status 10 if a die has failed since
(R322, R323, R394). -/
def makeChange (s : State) (p : Nat) (m : Making) : Option State :=
  let settled (p : Nat) : Bool := (getPart s p).inter.pending.isNone && !partResetting s p
  if settled p && m.partner.all settled then
    let dead := m.failed.or (m.partner.bind fun o => ((getPart s o).making.bind (·.failed)))
    let st := if dead.isSome then 10 else 0
    some (match m.partner with
      | some o => finishMade (finishMade (mergeParts s p o m.mask) o (lowest m.mask) st (dead.getD 0)) p (lowest m.mask) st (dead.getD 0)
      | none => finishMade (splitPart s p m.mask) p p st (dead.getD 0))
  else none

/-- MERGE_HANDSHAKE_TIMEOUT: the partner's PARTITION 1 has not arrived within a second (R393). -/
def execMergeHandshakeTimeout (part : Nat) (s : State) : Out :=
  let aq : QRef := { part, ctx := 0, host := true, q := 0 }
  match (getPart s part).change, busyWith s aq (· = .merge) with
  | some (t, _), some (e, r) =>
    if t + 10 ^ 9 ≤ dieGtc s (getQueue s aq).die then
      let s := modPart s part fun p => { p with change := none }
      .next (refuseChange (modQueue s aq fun x => { x with busy := x.busy.erase (e, r), begun := false }) aq e 2)
    else .fault .notDue
  | _, _ => .fault .notDue

/-! ## ATTEST, VERSION and LOG (R320, R321, R331, R378, R379) -/

def execAttest (q : QRef) (e : CmdEntry) (s : State) : Out :=
  beginCmd s q e 8 (· = 0) fun s =>
    match cmdBytes s q e.addr e.val.toNat with
    | none => finishCmd s q e 7 e.addr.toNat
    | some b =>
      let t := spdmRequest b s
      match cmdStore t q (e.addr + 4096) (lastAnswer t) with
      | none => finishCmd t q e 7 (e.addr + 4096).toNat
      | some r => afterStores r q e 0 (lastAnswer t).length

/-- VERSION: the device takes the lesser of its own version and the host's, if it accepts the host's (R320, R321). -/
def execVersionCmd (q : QRef) (e : CmdEntry) (s : State) : Out :=
  beginCmd s q e 9 (· = 0) fun s =>
    match versionBlock s q e with
    | none => finishCmd s q e 7 e.addr.toNat
    | some b =>
      let c := recNat b 0 2
      let k := recNat b 2 2
      let i := recNat b 4 2
      if recNat b 6 2 ≠ 0 then finishCmd s q e 4 2
      else if c < 1 || 3 < c || k ≠ 1 || i ≠ 1 then finishCmd s q e 4 3
      else
        finishCmd (modPart s q.part fun p =>
          { p with negotiated := some (BitVec.ofNat 16 c, BitVec.ofNat 16 k, BitVec.ofNat 16 i) }) q e 0
          (c + 2 ^ 16 * k + 2 ^ 32 * i)

/-- The 32 bytes of a log entry (R379). -/
def logEntryBytes (x : LogEntry) : List Byte :=
  leBytes 8 x.gtc ++ leBytes 4 x.seq ++ leBytes 2 x.kind ++ leBytes 1 x.die ++ leBytes 1 x.ctx ++ leBytes 8 x.d0.toNat
    ++ leBytes 8 x.d1.toNat

/-- LOG: whole entries after the last one copied, in order, no more than VAL bytes (R378). -/
def execLogCmd (q : QRef) (e : CmdEntry) (s : State) : Out :=
  beginCmd s q e 11 (· = 0) fun s =>
    let pt := getPart s q.part
    let l := (pt.log.filter fun x => pt.logRead < x.seq).take (e.val.toNat / 32)
    match cmdStore s q e.addr (l.flatMap logEntryBytes) with
    | none => finishCmd s q e 7 e.addr.toNat
    | some r =>
      let last := (l.getLast?.map (·.seq)).getD pt.logRead
      afterStores { r with s := modPart r.s q.part fun p => { p with logRead := last } } q e 0 (32 * l.length)

end Sys2Proof.Machine
end

