-- ==== Sys2Proof/Machine/Device.lean ====
section
/-! DEFINITION. What happens to a group without an instruction of its own: the end of a stall, trap entry, and the starvation
lift (R187, R188, R291, R333, R339, R348, R349). -/

namespace Sys2Proof.Machine

/-! ## STALL_END (R187, R188) -/

/-- The scope at which a stall waits for stores to be complete. -/
def stallScope : Stall → Option Sc
  | .fence sc => some sc
  | .flag sc => some sc
  | .bara => some .blk
  | .release => some .prt
  | _ => none

/-- A release that stalls may proceed: every earlier store of its group is complete at its scope, or one was lost on its way
to a target, which ends it in a fault (R385). -/
def stallOver (s : State) (g : Nat) (why : Stall) : Bool :=
  match stallScope why with
  | none => true
  | some sc => storesComplete s g sc || (sc = .sys && (lostStore s g).isSome)

/-- STALL_END: a stalled group is ready and issues its instruction again. A placed block waits for its tile flag and a halted
role for its restore, which have events of their own (R276, R297). -/
def execStallEnd (g : Nat) (s : State) : Out :=
  match (getGroup s g).status with
  | .stalled .tile => .fault .notDue
  | .stalled .halted => .fault .notDue
  | .stalled why =>
    if stallOver s g why then .next (modGroup s g fun x => { x with status := .ready }) else .fault .notDue
  | _ => .fault .notDue

/-! ## TRAP_ENTRY (R339, R348, R349) -/

/-- A group stands where a trap that waits can be taken: it is ready or stalled at an instruction that no latch chain makes it
issue next, and that it has not done in part; its records are requests of its partition (R391). -/
def atTrap (s : State) (g : Nat) : Bool :=
  let x := getGroup s g
  let stands := match x.status with
    | .ready => true
    | .stalled why => why ≠ .tile && why ≠ .halted
    | _ => false
  stands && x.pushed = 0 && x.held.isNone && !x.pend.isEmpty && !chainGoesOn s g && !requestsStopped s (groupSpace s g).1

/-- TRAP_ENTRY: a trap that was held until the group's results had come back is taken, or the traps that wait are taken as one; a
fault of class P parks the group instead, and a TLBI that has completed since its walk lets it replay (R366). -/
def execTrapEntry (g : Nat) (s : State) : Out :=
  let x := getGroup s g
  match x.held with
  | some p =>
    let t := takeTrap (setGroup s g { x with held := none }) g p
    if (pendingOf s g).isEmpty && !requestsStopped s (groupSpace s g).1 && (getGroup t g).held.isNone then .next t else .fault .notDue
  | none =>
  if !atTrap s g then .fault .notDue
  else
    match x.pend.find? fun p => p.cls = .P with
    | some p =>
      .next (modGroup (parkFault s g x.pc (p.recs.headD (plainRec s g p.code 0))) g fun y => { y with tlbiSeen := x.tlbiSeen })
    | none =>
      match mergeTraps x.pc x.pend with
      | some p => .next (takeTrap (setGroup s g { x with status := .ready, pend := [] }) g p)
      | none => .fault .notDue

/-! ## STARVATION_LIFT (R291) -/

/-- The starvation count at which a ready group ranks first (R291). -/
def starvationLimit : Nat := 4096

/-- STARVATION_LIFT: a ready group whose count has reached the limit: its sub-core issues next. -/
def execStarvationLift (g : Nat) (s : State) : Out :=
  let x := getGroup s g
  if x.status = .ready && starvationLimit ≤ x.starve then .next { s with sched := slotSub g :: s.sched } else .fault .notDue

end Sys2Proof.Machine
end

