-- ==== Sys2Proof/Machine/HostPort.lean ====
section
/-! DEFINITION. The functions of the endpoint: BAR0, doorbells, the admin queue's registers, function-level resets, PTM and host
port errors (R312, R313, R316, R318, R325, R364, R381, R396). -/

namespace Sys2Proof.Machine

/-! ## BAR0 (R313, R381) -/

/-- The partition that a function's quarter belongs to, for a function that is merged away too (R312). -/
def functionPart (s : State) (fn : Nat) : Nat :=
  ((s.parts.find? fun e => e.2.live && e.2.mask.getLsbD fn).map (·.1)).getD fn

/-- A function serves a partition: the firmware has set it ready (R312, R313, R329). -/
def functionReady (s : State) (fn : Nat) : Bool := s.hub.power = .up && (getPart s fn).live

/-- HSTS (R313). -/
def hsts (s : State) (fn : Nat) : Nat :=
  let p := functionPart s fn
  (if functionReady s fn then 1 else 0) + (if p = fn then 0 else 2) + 4 * (getPart s p).mask.toNat

/-- What a read of BAR0 returns (R313, R381). -/
def barReg (s : State) (fn off : Nat) : DWord :=
  let x := getPart s fn
  if off = 0x00 then BitVec.ofNat 64 (3 + 2 ^ 16 * (match x.negotiated with | some v => v.1.toNat | none => 0))
  else if off = 0x08 then BitVec.ofNat 64 (hsts s fn)
  else if off = 0x10 then s.gtc
  else if off = 0x18 then x.aqbase
  else if off = 0x20 then x.aqctl
  else if off = 0x28 then x.ptmt
  else if off = 0x30 then x.ptmm
  else if 0x108 ≤ off && off ≤ 0x138 && off % 8 = 0 then mapGet 0 x.cecnt (off / 8 - 32)
  else if off = 0x140 then x.uecnt
  else if off = 0x148 then x.late
  else if off = 0x150 then x.replay
  else if off = 0x158 then x.dups
  else if off = 0x160 then x.misr
  else if off = 0x168 then x.nlost
  else if off = 0x170 then BitVec.ofNat 64 ((x.log.getLast?.map (·.seq)).getD 0)
  else if 0x1000 ≤ off && off < 0x1800 && off % 8 = 0 then
    let q := getQueue s { part := fn, ctx := (off - 0x1000) / 32, host := true, q := off % 32 / 8 }
    (q.head ++ q.tail : BitVec 64)
  else 0

/-- A tail moved: entries newly covered are appended now, entries no longer covered are not (R282, R316). -/
def moveTail (x : Queue) (now : Nat) (tail : Word) : Queue :=
  let old := (x.tail - x.head).toNat
  let new := (tail - x.head).toNat
  let due :=
    if x.per = 0 then x.due
    else if old ≤ new then x.due ++ List.replicate (new - old) now else x.due.take (x.due.length - (old - new))
  { x with tail, due }

/-- A write of DBELL (R316); one for a queue that is not installed or is closed, or too far ahead of the head, is ignored and
logged (R364). -/
def ringBell (s : State) (q : QRef) (tail : Word) : State :=
  let x := getQueue s q
  if !x.installed || x.closed || 2 ^ x.lcap < (tail - x.head).toNat then
    logEvent s q.part 3 x.die q.ctx (BitVec.ofNat 64 q.q) (tail.setWidth 64)
  else modQueue s q fun x => moveTail x (dieGtc s x.die) tail

/-- DOORBELL. -/
def execDoorbell (fn ctx q : Nat) (tail : Word) (s : State) : Out :=
  if fn < 4 && ctx < 64 && q < 4 then .next (ringBell s { part := fn, ctx, host := true, q } tail) else .fault .notDue

/-- The fields that AQCTL holds (R313). -/
def aqMask : DWord := 0xFFF011F#64

/-- A write of AQCTL: a value that enables the admin queue takes effect only with a legal capacity and base, and a vector that the
function has (R312). The queue is installed empty when it becomes enabled; while it is enabled, its ring, capacity and vector
follow the write (R313, R316; log entry 30). -/
def writeAqctl (s : State) (fn : Nat) (val : DWord) : State :=
  let x := getPart s fn
  let lcap := val.toNat % 32
  let vec := val.toNat / 65536 % 4096
  let ok := 4 ≤ lcap && lcap ≤ 16 && x.aqbase.toNat % 4096 = 0 && vectorOk vec
  let on := val.getLsbD 8 && ok
  let v := if on then val &&& aqMask else val &&& aqMask &&& ~~~(0x100#64)
  let q : QRef := { part := fn, ctx := 0, host := true, q := 0 }
  let s := modPart s fn fun p => { p with aqctl := v }
  if !on then modQueue s q fun _ => {}
  else if x.aqctl.getLsbD 8 then modQueue s q fun y => { y with base := x.aqbase, lcap, vec }
  else modQueue s q fun _ => { installed := true, base := x.aqbase, lcap, die := fn, vec }

/-- AQCTL. -/
def execAqctl (fn : Nat) (val : DWord) (s : State) : Out :=
  if fn < 4 then .next (writeAqctl s fn val) else .fault .notDue

/-- REGISTER_WRITE: AQBASE keeps what is written; writes to read-only registers and unlisted offsets are ignored (R313, R381). -/
def execRegisterWrite (fn off : Nat) (val : DWord) (s : State) : Out :=
  if fn < 4 && off < 65536 then
    .next (if off = 0x18 then modPart s fn fun p => { p with aqbase := val }
      else if off = 0x20 then writeAqctl s fn val
      else if 0x1000 ≤ off && off < 0x1800 && off % 8 = 0 then
        ringBell s { part := fn, ctx := (off - 0x1000) / 32, host := true, q := off % 32 / 8 } (val.setWidth 32)
      else s)
  else .fault .notDue

/-- Commands of a partition, of its contexts or of its admin queue, have been given up and wait for what they have stored (R319). -/
def partLeft (s : State) (p : Nat) : Bool :=
  (getPart s p).queues.any fun e => !e.2.busy.isEmpty

/-- A function reset takes effect once the commands that it has given up have completed (R318, R319; log entry 34). -/
def endReset (s : State) (p : Nat) : State := if partLeft s p then s else resetPart s p

/-- A function reset (R318, R328): what RESET 1 does; commands of the admin queue that have begun are discarded. -/
def resetFunction (s : State) (fn : Nat) : State :=
  let s := discardBegun s (adminOf fn)
  if (getPart s fn).live then
    endReset (modPart (((getPart s fn).ctxs.map (·.1)).foldl (fun s c => leaveContext s fn c) s) fn fun p => { p with leaving := true }) fn
  else modPart s fn fun p => { p with negotiated := none }

/-- FUNCTION_LEVEL_RESET. -/
def execFunctionLevelReset (fn : Nat) (s : State) : Out := if fn < 4 then .next (resetFunction s fn) else .fault .notDue

/-- PTM_DIALOGUE: `sy.gtc` and the master time are latched (R313, R325). -/
def execPtmDialogue (fn : Nat) (master : DWord) (s : State) : Out :=
  if fn < 4 then .next (modPart s fn fun p => { p with ptmt := s.gtc, ptmm := master }) else .fault .notDue

/-- HOST_PORT_ERROR: the error is reported through Advanced Error Reporting (R396). -/
def execHostPortError (fn code : Nat) (s : State) : Out :=
  if fn < 4 then .next { s with aer := s.aer ++ [(fn, code)] } else .fault .notDue

end Sys2Proof.Machine
end

