-- ==== Sys2Proof/Machine/Fabric.lean ====
section
/-! DEFINITION. The Mirrix fabric, table rewrites, lease holds and die resets (R326, R327, R369, R370, R382 to R392, R397). -/

namespace Sys2Proof.Machine

/-! ## Requests that arrive (R326, R327, R382, R383) -/

/-- FABRIC_REQUEST: a request arrives from another module. -/
def execFabricRequest (fn : Nat) (r : FabReq) (s : State) : Out :=
  if r.module = s.hub.number then .fault .notDue else .next (receive s fn r)

/-! ## Acknowledgements and replays (R315, R382, R388) -/

/-- What an acknowledged request completes: a load's value comes back, a store is complete at its target (R315). The answer to a die
that has reset since is dropped and counted, and its request is performed all the same (R388). -/
def acknowledge (s : State) (x : Sent) (data : DWord) : State :=
  let s := dropSent { s with carried := mapSet s.carried x.module (hubGtc s) } x.id
  let s := if x.life = (getDie s x.die).life then s else countLate s x.die
  let s := match x.load with
    | some id => { s with loads := modWhere s.loads (fun l => l.id = id) fun l =>
        { l with got := some (loadValue l.ty (extend false (8 * l.size) data).toNat) } }
    | none => s
  match x.store with
  | some id => { s with stores := modWhere s.stores (fun t => t.id = id) fun t => { t with performed := some (hubGtc s) } }
  | none => s

/-- ACKNOWLEDGEMENT: the sender drops the request that it kept; one for a request already acknowledged is discarded (R382). A
partition of this module answers with the result that it has applied. -/
def execAcknowledgement (id : Nat) (data : DWord) (s : State) : Out :=
  match s.sent.find? fun x => x.id = id with
  | none => .next s
  | some x =>
    if !onTheWay s x || (x.module = s.hub.number && (appliedResult s (asRequest x)).map (fun a => BitVec.ofNat 64 (leNat a.result)) ≠ some data)
    then .fault .notDue
    else .next (acknowledge s x data)

/-- Records of some lanes of a load that will not be answered, in the class A trap of its group that has not been taken yet, or in a new
one: the records of one instruction share a mask and a time, that of the last lane's check (R385, R404). -/
def loadTrap (x : Group) (issued : Nat) (uni : Bool) (recs : List Rec) : Group :=
  let mine (p : PendTrap) : Bool := p.cls = .A && p.code = 0x19 && p.issued = issued
  let all := ((x.pend.filter mine).flatMap (·.recs)) ++ recs
  let m := maskOf (all.map (·.lane))
  let t := (recs.head?.map (·.gtc)).getD 0
  { x with pend := (x.pend.filter fun p => !mine p) ++
      [{ cls := .A, code := 0x19, sw := 0, recs := all.map fun r => { r with mask := m, gtc := t }, epc := x.pc, uniform := uni
         elems := [], issued }] }

/-- Loads that a target will not answer (R385): their destinations keep their values. The lanes of one instruction that fail before its
trap is taken make one trap of class A (R404). -/
def failLoads (s : State) (ids : List Nat) : State :=
  let gone := s.loads.filter fun l => ids.contains l.id
  let s := { s with loads := s.loads.filter fun l => !ids.contains l.id }
  let live := gone.filter fun l => !l.dead
  ((live.map fun l => (l.g, l.issued)).eraseDups).foldl (fun s k =>
    let ls := live.filter fun l => (l.g, l.issued) = k
    let recs := ls.map fun l =>
      { mkRec (modGroup s l.g fun x => { x with pc := l.pc }) l.g 0x19 l.lane
          ((if l.uni then 2 else 0) + (if l.op.isSome then 4 else 0)) 1 l.va 0 0 with word := l.word }
    modGroup s k.1 fun x => loadTrap x k.2 (ls.any (·.uni)) recs) s

/-- A store that a target will not acknowledge is lost, and its grid completes with status 9 (R385). -/
def failStore (s : State) (id m : Nat) : State :=
  let s := { s with stores := modWhere s.stores (fun t => t.id = id) fun t => { t with lost := true } }
  match s.stores.find? fun t => t.id = id with
  | some t => modGrid s t.grid fun g => { g with peerLost := some (g.peerLost.getD m) }
  | none => s

/-- A command that waits for a request to an unreachable target completes with status 9, once nothing else of it is left (R376). -/
def failCommand (s : State) (id m : Nat) : State :=
  match commandWith s fun r => match r with | .stores _ _ _ ids => ids.contains id | _ => false with
  | some (q, e, .stores st res t ids) => endReleased s q e (.stores st res t ids) 9 m t (ids.filter (· ≠ id))
  | _ => s

/-- Outstanding requests to an unreachable target fail. -/
def failSents (s : State) (l : List Sent) : State :=
  let s := failLoads s (l.filterMap (·.load))
  l.foldl (fun s x =>
    let s := dropSent s x.id
    let s := match x.store with | some id => failCommand (failStore s id x.module) id x.module | none => s
    failCommand s x.id x.module) s

/-- A request that was answered "misrouted" is issued again by the tables as they are now (R392): to the same target under its number, to
another target under a new one. The module that answered has the old one and applies nothing. An entry that names no target any
more fails it as an unreachable one does (log entry 92). -/
def misroute (s : State) (x : Sent) : State :=
  let a := mapGet {} (getPart s x.part).aps x.ap
  let s := modPart s x.part fun p => { p with misr := p.misr + 1 }
  let vers := partVers s x.part
  if !a.valid || a.inbound then failSents s [x]
  else if a.module = x.module then
    { s with sent := modWhere s.sent (fun y => y.id = x.id) fun y => { y with fn := a.fn, vers, since := hubGtc s } }
  else
    let src := sourceOf s (asRequest x)
    let h := holdRequest src x.fn (asRequest x)
    let s := if x.module = s.hub.number then setSource s { h with held := h.held.filter fun y => y.2.seq ≠ x.seq } else s
    let k := 4096 * x.die + a.module
    let q := mapGet 0 s.seqs k
    { s with
      seqs := mapSet s.seqs k (q + 1)
      sent := modWhere s.sent (fun y => y.id = x.id) fun y => { y with module := a.module, fn := a.fn, seq := q, vers, since := hubGtc s } }

/-- What the fabric does within this module: a request to one of its own partitions is delivered, or issued again if its tables have
changed, and acknowledged once it has been applied; a request held for its turn is applied when its home can take it (R5, R383,
R392). -/
def fabricWork (s : State) : Option State :=
  let own (x : Sent) : Bool := x.module = s.hub.number && !s.unreach.contains x.module && onTheWay s x
  let new (x : Sent) : Bool := own x && !arrivedBefore (sourceOf s (asRequest x)) x.seq
  match s.sent.find? new with
  | some x => some (if routed s x then receive s x.fn (asRequest x) else misroute s x)
  | none =>
    (s.sources.findSome? (serveTurn s)).or
      (s.sent.findSome? fun x =>
        if own x then (appliedResult s (asRequest x)).map fun a => acknowledge s x (BitVec.ofNat 64 (leNat a.result)) else none)

/-- FABRIC_REPLAY: a request without an acknowledgement for 20 µs is sent again over another path; what has arrived before is a
duplicate (R382). -/
def execFabricReplay (id : Nat) (s : State) : Out :=
  match s.sent.find? fun x => x.id = id with
  | none => .fault .notDue
  | some x =>
    if onTheWay s x && x.since + 20000 ≤ hubGtc s then
      let s := modPart { s with sent := modWhere s.sent (fun y => y.id = id) fun y => { y with since := hubGtc s } } x.part fun p =>
        { p with replay := p.replay + 1 }
      .next (if x.module = s.hub.number && arrivedBefore (sourceOf s (asRequest x)) x.seq then receive s x.fn (asRequest x) else s)
    else .fault .notDue

/-- STALE_RESPONSE (R388). -/
def execStaleResponse (die : Nat) (life : BitVec 16) (s : State) : Out :=
  if die < 8 && (getDie s die).life ≠ life then .next (countLate s die) else .fault .notDue

/-! ## Links and targets (R320, R384, R385) -/

def getLink (s : State) (i : Nat) : Link := mapGet {} s.links i
def setLink (s : State) (i : Nat) (x : Link) : State := { s with links := mapSet s.links i x }

/-- LINK_RETRIED: a failed training short of the third (R384, R380). -/
def execLinkRetried (link : Nat) (s : State) : Out :=
  let x := getLink s link
  if link < 32 && x.fails < 2 && !x.down then
    .next (logModule (setLink s link { x with fails := x.fails + 1 }) 9 8 (BitVec.ofNat 64 link) 1)
  else .fault .notDue

/-- LINK_DOWN: the third failed training in a row (R384). -/
def execLinkDown (link : Nat) (s : State) : Out :=
  let x := getLink s link
  if link < 32 && x.fails = 2 && !x.down then
    .next (logModule (setLink s link { down := true, fails := 3 }) 9 8 (BitVec.ofNat 64 link) 2)
  else .fault .notDue

/-- LINK_UP: a link trains under the lesser of the two versions; one whose partner offers a version outside R320 stays down. The
training of a link that is up after failed ones ends their row (R384). -/
def execLinkUp (link ver : Nat) (s : State) : Out :=
  let x := getLink s link
  if link < 32 && x.down then
    .next (if 2 ≤ ver && ver ≤ 4 then logModule (setLink s link { ver := min ver 4 }) 9 8 (BitVec.ofNat 64 link) 3 else s)
  else if link < 32 && 0 < x.fails && 2 ≤ ver && ver ≤ 4 then .next (setLink s link { ver := min ver 4 })
  else .fault .notDue

/-- A module's becoming unreachable or reachable, in the log of every partition with an entry that names it, or else in the
module's alone (R380, R385). -/
def logTarget (s : State) (m : Nat) (d1 : DWord) : State :=
  let ps := (s.parts.filter fun e => e.2.live && e.2.aps.any fun a => a.2.valid && a.2.module = m).map (·.1)
  if ps.isEmpty then logModule s 0x0A 255 (BitVec.ofNat 64 m) d1
  else ps.foldl (fun s p => logEvent s p 0x0A 255 255 (BitVec.ofNat 64 m) d1) s

/-- TARGET_UNREACHABLE: no path to a module has carried a request for 10 ms (R385). -/
def execTargetUnreachable (module : Nat) (s : State) : Out :=
  if s.unreach.contains module || hubGtc s < mapGet 0 s.carried module + 10000000 then .fault .notDue
  else
    let s := logTarget { s with unreach := s.unreach ++ [module] } module 1
    .next (failSents s (s.sent.filter fun x => x.module = module))

/-- TARGET_REACHABLE (R385). -/
def execTargetReachable (module : Nat) (s : State) : Out :=
  if s.unreach.contains module then
    .next (logTarget { s with unreach := s.unreach.filter (· ≠ module), carried := mapSet s.carried module (hubGtc s) } module 0)
  else .fault .notDue

/-! ## Table rewrites (R391, R392) -/

/-- The registrations of monitors on a partition's lines are lost (R189). -/
def loseMonitors (s : State) (p : Nat) : State :=
  (s.homes.filter fun h => keyPart (128 * h.1) = p).foldl (fun s h => h.2.watchers.foldl (fun s u => loseMonitor s h.1 u) s) s

/-- The shadow of a table becomes active under the next version, the registrations of monitors are lost (R189), and the command that
rewrote the region table completes (R391). -/
def switchTable (s : State) (p table : Nat) : State :=
  let s := loseMonitors s p
  let s := modPart s p fun x =>
    if table = 0 then { x with inter := { ver := x.inter.ver + 1 }, spread := x.spreadShadow }
    else { x with region := { ver := x.region.ver + 1 }, aps := x.shadow, shadow := [] }
  if table = 0 then s
  else
    match (getPart s p).queues.findSome? fun e => (e.2.busy.find? fun y => y.2 = .table).map fun y => (e.1, y.1) with
    | some (q, e) => endCmd s q e .table 0 0
    | none => s

/-- A table of a partition. -/
def tableOf (s : State) (p table : Nat) : TableVer := if table = 0 then (getPart s p).inter else (getPart s p).region

/-- No request of a partition is in flight (R391): none over the fabric, and none to its own homes. -/
def partDrained (s : State) (p : Nat) : Bool :=
  (s.sent.all fun x => x.part ≠ p) && (s.loads.all fun l => l.part ≠ p || l.got.isSome) && (s.wbs.all fun w => keyPart w.key ≠ p)
    && s.stores.all fun t => keyPart t.addr ≠ p || t.performed.isSome || t.lost || t.dark.isSome || t.peer.isSome

/-- TABLE_SWITCH: no request of the partition is in flight any more (R391). -/
def execTableSwitch (part table : Nat) (s : State) : Out :=
  if table < 2 && (tableOf s part table).pending.isSome && partDrained s part then .next (switchTable s part table)
  else .fault .notDue

/-- FORCED_TABLE_SWITCH (R392). -/
def execForcedTableSwitch (part table : Nat) (s : State) : Out :=
  if table < 2 && forcedSwitch s part (tableOf s part table) then
    let s := switchTable s part table
    .next (logEvent s part 0x0C 255 255 (BitVec.ofNat 64 table) ((tableOf s part table).ver.setWidth 64))
  else .fault .notDue

/-- MISROUTED: a request to another module under old versions was answered "misrouted"; it is issued again (R392). -/
def execMisrouted (part : Nat) (s : State) : Out :=
  match s.sent.find? fun x => x.part = part && x.module ≠ s.hub.number && !routed s x with
  | none => .fault .notDue
  | some x => .next (misroute s x)

/-! ## Lease hold (R370) -/

/-- A die's caches drop every copy under a lease; bytes of stores that no home has performed stay (R370, R387). -/
def dropDieCopies (s : State) (d : Nat) : State :=
  { s with copies := s.copies.map fun e =>
      if e.1 = l2Holder d || (e.1 < 288 && coreDie e.1 = d) then
        (e.1, e.2.map fun c => (c.1, { c.2 with bytes := [], expiry := some 0 }))
      else e }

/-- LEASE_HOLD: the die's copy of the time differs by more than 2 ticks, or an update was missed, and the copy then differs by any
amount (R370). -/
def execLeaseHold (die diff : Nat) (s : State) : Out :=
  if die < 8 && !(getDie s die).hold && (getDie s die).status = .up then
    .next (logEvent (dropDieCopies (modDie s die fun d => { d with hold := true, holdAt := hubGtc s }) die) (diePart s die) 7 die 255 1
      (BitVec.ofNat 64 diff))
  else .fault .notDue

/-- LEASE_HOLD_END: the die's copy is resynchronised, within 1 ms (R370, R396). -/
def execLeaseHoldEnd (die diff : Nat) (s : State) : Out :=
  if die < 8 && (getDie s die).hold && hubGtc s ≤ (getDie s die).holdAt + 1000000 then
    .next (logEvent (modDie s die fun d => { d with hold := false }) (diePart s die) 7 die 255 0 (BitVec.ofNat 64 diff))
  else .fault .notDue

/-! ## Die resets (R386 to R390, R394) -/

/-- Blocks on their cores with a member that passes a test are lost (R360, R374, R387). -/
def loseBlocks (s : State) (on : Nat → Bool) (str : Nat) : State :=
  (s.blocks.filter fun e => e.2.here && e.2.cores.any on).foldl (fun s e =>
    if (getBlock s e.1).here then loseBlock s e.1 (e.2.cores.findIdx on) str false 0 0 else s) s

/-- The lines whose home is on a die, among those that a home keeps something for. -/
def homedLines (s : State) (d : Nat) : List Nat := (s.homes.map (·.1)).filter fun l => homeDie s (128 * l) = d

/-- The lock of a line is released: its holder aborts with cause 7 and detail 0x3F (R369, R387). A commit past its decision becomes
visible at its time, as it would have. -/
def settleHome (s : State) (l : Nat) : State :=
  match (getHome s l).lock with
  | none => s
  | some (uid, lane) =>
    match slotOfUid s uid with
    | some g => abortIrr s g lane 7 0x3F
    | none => unlock s (uid, lane) [l]

/-- The dirty darkroom lines of a die are lost; what a write-back that has left the die carries still merges (R191, R372, R387). -/
def loseDieDark (s : State) (d : Nat) : State :=
  let m := mapGet [] s.dark d
  let n := (m.filter fun e => !e.2.dirty.isEmpty).length
  let s := m.foldl (fun s e => loseDark s d e.1 []) { s with dark := mapDel s.dark d }
  if n = 0 then s else logEvent s (diePart s d) 0x11 d 255 (BitVec.ofNat 64 n) 0

/-- The commands that a die's front end had begun complete with status 10 (R390); a merge that waits for its partner is given up, and a
change that is being made is not (R394). -/
def abandonCommands (s : State) (d : Nat) : State :=
  (s.parts.flatMap fun e => e.2.queues.filter fun q => q.2.die = d).foldl (fun s q =>
    (getQueue s q.1).busy.foldl (fun s x =>
      if x.2 = .merge && (getPart s q.1.part).making.isSome then s
      else
        let s := match x.2 with
          | .merge => modPart s q.1.part fun p => { p with change := none }
          | _ => s
        giveUp s q.1 x.1 x.2 10 d) s) s

/-- What a die has sent is performed at its targets, and the answers come late: its groups' loads give their values to none, and its
sequence numbers start again (R382, R388). -/
def forgetSent (s : State) (d : Nat) : State :=
  { s with
    loads := s.loads.map fun l => if groupDie l.g = d then { l with dead := true } else l
    seqs := s.seqs.filter fun e => e.1 / 4096 ≠ d }

/-- A die resets (R387). -/
def resetDie (s : State) (d : Nat) : State :=
  let s := loseBlocks (forgetSent s d) (fun c => coreDie c = d) 8
  let s := (homedLines s d).foldl settleHome s
  let s := { s with cores := s.cores.map fun e => if coreDie e.1 = d then (e.1, { e.2 with hints := [] }) else e }
  let s := abandonCommands (loseDieDark (dropDieCopies s d) d) d
  let s := modDie { s with cyc := mapSet s.cyc d 0 } d fun x =>
    { x with status := .resetting, life := x.life + 1, resetAt := some (hubGtc s), hold := false, bite := none, refusing := none,
             dogAt := hubGtc s }
  logEvent s (diePart s d) 0x0B d 255 (BitVec.ofNat 64 d) ((getDie s d).life.setWidth 64)

/-- DIE_RESET. -/
def execDieReset (die : Nat) (s : State) : Out :=
  if die < 8 && (getDie s die).status = .up then .next (resetDie s die) else .fault .notDue

/-- DIE_RESTART: the die is back within 50 ms; requests to its homes and its queues go on (R387, R390). -/
def execDieRestart (die : Nat) (s : State) : Out :=
  match (getDie s die).resetAt with
  | some t =>
    if (getDie s die).status = .resetting && hubGtc s ≤ t + 50000000 then
      .next (modDie s die fun d => { d with status := .up })
    else .fault .notDue
  | none => .fault .notDue

/-- A change that is being made by partitions of a die will complete with status 10 (R394). -/
def failChanges (s : State) (d : Nat) : State :=
  { s with parts := s.parts.map fun e =>
      (e.1, if (maskDies e.2.mask).contains d then { e.2 with making := e.2.making.map fun m => { m with failed := some d } } else e.2) }

/-- DIE_FAILED: a die not back within 50 ms (R387). -/
def execDieFailed (die : Nat) (s : State) : Out :=
  match (getDie s die).resetAt with
  | some t =>
    if (getDie s die).status = .resetting && t + 50000000 < hubGtc s then
      .next (failChanges (modDie s die fun d => { d with status := .failed }) die)
    else .fault .notDue
  | none => .fault .notDue

/-- WATCHDOG_EXPIRY: a watchdog that its firmware has not restarted for 10 ms restarts the firmware from ROM on its core; a second
expiry within 1 s resets the die (R397). -/
def execWatchdogExpiry (die : Nat) (s : State) : Out :=
  let d := getDie s die
  let again : Bool := match d.bite with | some t => hubGtc s < t + 10 ^ 9 | none => false
  if die < 8 && d.status = .up && d.dogAt + 10000000 ≤ hubGtc s then
    .next (if again then resetDie s die
      else logEvent (modDie s die fun x => { x with bite := some (hubGtc s), dogAt := hubGtc s }) (diePart s die) 0x0F die 255
        (BitVec.ofNat 64 die) 0xFF)
  else .fault .notDue

end Sys2Proof.Machine
end

