-- ==== Sys2Proof/Machine/Errors.lean ====
section
/-! DEFINITION. Soft errors, failed stacks, the fatal state, clock steps and the thermal trip (R332, R360, R368, R373 to R375,
R395 to R397). -/

namespace Sys2Proof.Machine

/-- A corrected error of a structure counted in a partition (R373, R381). -/
def countCe (s : State) (p str n : Nat) : State :=
  modPart s p fun x => { x with cecnt := mapSet x.cecnt str (mapGet 0 x.cecnt str + BitVec.ofNat 64 n) }

/-- CORRECTABLE_ERROR. -/
def execCorrectableError (part str : Nat) (s : State) : Out :=
  if 1 ≤ str && str ≤ 7 && (getPart s part).live then .next (countCe s part str 1) else .fault .notDue

/-- PATROL_SCRUB: the scrubber corrects what it finds (R373). -/
def execPatrolScrub (part errors : Nat) (s : State) : Out :=
  if (getPart s part).live then .next (countCe s part 6 errors) else .fault .notDue

/-- An uncorrectable error that costs no block: logged with the number of its structure, or 0 where R362 gives it none, and counted
(R380, R381; log entry 91). -/
def logUe (s : State) (p die str : Nat) : State := logEvent (countUe s p) p 8 die 255 (BitVec.ofNat 64 str) 0

/-- A 32-byte word of a home or stack is poisoned (R374, R375): logged and counted. -/
def poisonWord (s : State) (key str : Nat) : State :=
  let w := key / 32 * 32
  let h := getHome s (lineOf w)
  let s := { s with poison := if s.poison.contains w then s.poison else s.poison ++ [w], fills := s.fills.filter fun e => e.1 ≠ w }
  let s := if h.cleans.any fun e => e.2 = w then setHome s (lineOf w) { h with cleans := h.cleans.filter fun e => e.2 ≠ w } else s
  logEvent (countUe s (keyPart key)) (keyPart key) 8 (homeDie s key) 255 (BitVec.ofNat 64 str) (BitVec.ofNat 64 (keyPa w))

/-- An uncorrectable error, counted once, in what a block holds on a core: the block is lost, or the error is logged when the block no
longer lies there (R360, R380, R381). -/
def loseOn (s : State) (b c str : Nat) : State :=
  if (getBlock s b).here then
    loseBlock (countUe s (diePart s (coreDie c))) b (memberOn (getBlock s b) c) str false 0 0
  else logUe s (diePart s (coreDie c)) (coreDie c) str

/-- The lowest program core of a die (R397). -/
def lowestCore (s : State) (d : Nat) : Option Nat :=
  (dieCores d).find? fun c => (getCore s c).placed && (getDie s d).fwCore ≠ c

/-- A core leaves placement until its partition resets (R374); the firmware moves if it ran there, and a second core within 24
hours resets the die (R386, R397). What becomes of the groups of programs that are resident on the core that the firmware moves to,
or saved from it, the spec does not say (R7, R298): DESIGN CHOICE, they stay there and come back there (log entry 10). -/
def retireCore (s : State) (c : Nat) : State :=
  let d := coreDie c
  let s := modCore s c fun k => { k with placed := false }
  let s :=
    if isFirmwareCore s c then
      match lowestCore s d with
      | some f =>
        logEvent (modCore (modDie s d fun x => { x with fwCore := f }) f fun k => { k with placed := false }) (diePart s d) 0x0F d
          255 (BitVec.ofNat 64 d) (BitVec.ofNat 64 f)
      | none => s
    else s
  let again := match (getDie s d).outAt with | some t => hubGtc s < t + 86400 * 10 ^ 9 | none => false
  let s := modDie s d fun x => { x with outAt := some (hubGtc s) }
  if again = true then resetDie s d else s

/-- An error in a core's tables or logic: every block with a member on it is lost; the core is cleared and goes on, unless the
error repeats within 24 hours (R374). -/
def coreError (s : State) (c str : Nat) : State :=
  let p := diePart s (coreDie c)
  let s := if s.blocks.any fun e => e.2.here && e.2.cores.contains c then loseBlocks (countUe s p) (· = c) str
    else logUe s p (coreDie c) str
  let again := match (getCore s c).errAt with | some t => hubGtc s < t + 86400 * 10 ^ 9 | none => false
  let s := modCore s c fun k => { k with errAt := some (hubGtc s), lat := [], acc := [] }
  if again = true then retireCore s c else s

/-- An error in a 32-byte word of a die's darkroom copy: the clean bytes are fetched again, counted as corrected when none was dirty; dirty bytes are lost, the stack's word is
then poisoned, and so is what the copy fetches of it (R374, R375). -/
def darkError (s : State) (d l w : Nat) : State :=
  match getDark s d l with
  | none => s
  | some x =>
    let inWord (o : Nat) : Bool := 32 * w ≤ o && o < 32 * w + 32
    let k := 128 * l + 32 * w
    let s := mergeLine s l
    let s := if x.dirty.any fun e => inWord e.1 then poisonWord s k 5 else countCe s (diePart s d) 5 1
    let dirty := x.dirty.filter fun e => !inWord e.1
    let s := setDark s d l
      { bytes := (offsets k (memBytes s.mem k 32)).foldl (fun m e => mapSet m e.1 e.2) x.bytes, dirty
        bad := x.bad.filter (· ≠ w) ++ (if poisoned s k 32 then [w] else []) }
    loseDark s d l dirty

/-- UNCORRECTABLE_ERROR, by the structure in which it is found (R368, R374, R375). -/
def execUncorrectableError (site : ErrSite) (s : State) : Out :=
  match site with
  | .regFile g =>
    if (getGroup s g).status.live && (groupBlock s g).here then .next (loseOn s (getGroup s g).block (slotCore g) 1)
    else .fault .notDue
  | .lattice c q =>
    match s.blocks.find? fun e => e.2.here && (e.2.sqrs.getD (memberOn e.2 c) []).contains q && e.2.cores.contains c with
    | some e => .next (loseOn s e.1 c 2)
    | none =>
      .next (logUe (modCore s c fun k => { k with lat := k.lat.filter fun e => e.1 / 8192 ≠ q }) (diePart s (coreDie c)) (coreDie c) 2)
  | .request i =>
    match getElem s i with
    | some e => if e.done then .fault .notDue else .next (loseOn s e.block e.core 2)
    | none => .fault .notDue
  | .accum c =>
    match (getCore s c).token with
    | some b => .next (loseOn s b c 3)
    | none => .next (logUe (modCore s c fun k => { k with acc := [] }) (diePart s (coreDie c)) (coreDie c) 3)
  | .l1 c l =>
    match getCopy s c l with
    | some x => .next (countCe (setCopy s c l { x with bytes := [], expiry := some 0 }) (diePart s (coreDie c)) 4 1)
    | none => .fault .notDue
  | .l2 d l =>
    if homeDie s (128 * l) = d then .next (poisonWord s (128 * l) 5)
    else .next (countCe (dropCopy s (l2Holder d) l) (diePart s d) 5 1)
  | .dark d l w => .next (darkError s d l w)
  | .home key => .next (poisonWord s key 5)
  | .hbm key => .next (poisonWord s key 6)
  | .txnLog g lane => .next (doomLane (logUe s (groupSpace s g).1 (groupDie g) 0) g lane 7 0x3F)
  | .txnSlice g lane => .next (doomLane (logUe s (groupSpace s g).1 (groupDie g) 0) g lane 7 0x3F)
  | .sched c => .next (coreError s c 7)
  | .poisonRead g va =>
    if (getGroup s g).status.live && (groupBlock s g).here then
      .next (loseBlock s (getGroup s g).block (getGroup s g).member 6 true va 0)
    else .fault .notDue
  | .logic c => .next (coreError s c 8)

/-- STACK_FAILURE: the words of the stack count as poisoned until a cold reset (R395). -/
def execStackFailure (stack : Nat) (s : State) : Out :=
  if stack < 12 && !s.hub.stacksFailed.getLsbD stack then
    let s := { s with hub := { s.hub with stacksFailed := s.hub.stacksFailed ||| 1#12 <<< stack } }
    .next (logEvent s (diePart s (4 + stack / 3)) 0x0E (9 + stack) 255 (BitVec.ofNat 64 stack) 0)
  else .fault .notDue

/-- Every function reports a fatal error (R332, R396). -/
def reportFatal (s : State) : State :=
  { s with aer := s.aer ++ (List.range 4).map fun f => (f, 1) }

/-- The module in the fatal state (R396). -/
def goFatal (s : State) : State := { reportFatal s with hub := { s.hub with power := .fatal } }

/-- FATAL_STATE: an uncorrectable error in the hub die's fabric switch, counted for the module and logged (R380, R396, R399). -/
def execFatalState (s : State) : Out :=
  if s.hub.power = .up then .next (goFatal (logModule { s with hub := { s.hub with ue := s.hub.ue + 1 } } 8 8 0 0)) else .fault .notDue

/-- The log entry of a change of the clock, of the withheld issue, or of a trip (R380). -/
def logClock (s : State) (d1 : DWord) : State :=
  logModule s 0x10 8 (BitVec.ofNat 64 (s.hub.clock + 2 ^ 48 * s.hub.issueOf16)) d1

/-- CLOCK_STEP: the clock falls in steps of 100 MHz down to 1.0 GHz, then issue is withheld, down to one clock of 16; the way
back is the reverse (R332). -/
def execClockStep (cause : ClockCause) (down : Bool) (s : State) : Out :=
  let h := s.hub
  let why : DWord := match cause with | .heat => 1 | .power => 2 | .withhold => 3
  if down then
    if 1000 < h.clock && cause ≠ .withhold then
      .next (logClock { s with hub := { h with clock := h.clock - 100 } } why)
    else if h.clock ≤ 1000 && 1 < h.issueOf16 then
      .next (logClock { s with hub := { h with issueOf16 := h.issueOf16 - 1 } } 3)
    else .fault .notDue
  else
    if h.issueOf16 < 16 then .next (logClock { s with hub := { h with issueOf16 := h.issueOf16 + 1 } } 3)
    else if h.clock < 2000 && cause ≠ .withhold then
      .next (logClock { s with hub := { h with clock := h.clock + 100 } } why)
    else .fault .notDue

/-- What stays when the main domain loses its power or is reset: time, the module log and what the always-on domain and the
fuses keep, host memory, and the outside's own choices (R332, R378, R386, R399). -/
def mainLost (s : State) : State :=
  { gtc := s.gtc, hub := s.hub, mem := s.mem.filter fun e => 2 ^ 52 ≤ e.1, tick := s.tick, agenda := s.agenda, sched := s.sched
    late := s.late, nextId := s.nextId, msix := s.msix, aer := s.aer
    dies := s.dies.map fun d => (d.1, { State.bootDie d.1 with life := d.2.life, skew := d.2.skew }) }

/-- THERMAL_TRIP: the main domain powers off (R332). -/
def execThermalTrip (s : State) : Out :=
  if s.hub.power = .up then
    .next (mainLost (logClock { reportFatal s with hub := { s.hub with power := .off } } 4))
  else .fault .notDue

end Sys2Proof.Machine
end

