-- ==== Sys2Proof/Machine/Floating.lean ====
section
/-! DEFINITION. Floating instructions (R144 to R152). -/

namespace Sys2Proof.Machine

/-! ## Shared operations -/

/-- A floating operation on the bits of a type: the result and the flags it raises. -/
abbrev FltFn := Ty → Rm → DWord → DWord → DWord → DWord × FFlags

/-- A floating instruction of up to three sources of its type (R146); results in 16-bit types have bits [31:16] zero. -/
def floating (s : State) (f : XForm) (len : Nat) (op : FltFn) : Out :=
  let g := curGroup s
  let t := fltTy f
  let p := wide f.ty
  performAt s f (xIssue f len (typedTop f)) .auto p fun i =>
    op t f.rm (opnd s g p f.a i) (opnd s g p f.b i) (opnd s g p f.c i)

/-- The exact result of an operation on two values, rounded once (R146). -/
def rounded (x : Rm → FVal → FVal → FVal → XV) : FltFn := fun t rm a b c =>
  roundF rm (fmtOf t) (x rm (fval (fmtOf t) a) (fval (fmtOf t) b) (fval (fmtOf t) c))

def opFadd : FltFn := rounded fun rm a b _ => xAdd rm a b
def opFsub : FltFn := rounded fun rm a b _ => xSub rm a b
def opFmul : FltFn := rounded fun _ a b _ => xMul a b
def opFfma : FltFn := rounded fun rm a b c => xFma rm a b c
def opFdiv : FltFn := rounded fun _ a b _ => xDiv a b
def opFsqrt : FltFn := rounded fun _ a _ _ => xSqrt a
/-- FMIN and FMAX on the operands' bits of the type (R147). -/
def opFminmax (mx : Bool) : FltFn := fun t _ a b _ =>
  fMinMax mx (fmtOf t) (extend false (tyBits t) a) (extend false (tyBits t) b)
def opFrnd : FltFn := fun t rm a _ _ => fRound rm (fmtOf t) (extend false (tyBits t) a)
def opApprox (k : Approx) : FltFn := fun t _ a _ _ => approx k t (extend false (tyBits t) a)

/-! ## Arithmetic (R146, R147, R150 to R152) -/

def execFaddBase (f : BForm) (s : State) : Out := floating s (baseForm f) 4 opFadd
def execFsubBase (f : BForm) (s : State) : Out := floating s (baseForm f) 4 opFsub
def execFmulBase (f : BForm) (s : State) : Out := floating s (baseForm f) 4 opFmul
def execFminBase (f : BForm) (s : State) : Out := floating s (baseForm f) 4 (opFminmax false)
def execFmaxBase (f : BForm) (s : State) : Out := floating s (baseForm f) 4 (opFminmax true)

def execFadd (f : XForm) (s : State) : Out := floating s f (xLen f) opFadd
def execFsub (f : XForm) (s : State) : Out := floating s f (xLen f) opFsub
def execFmul (f : XForm) (s : State) : Out := floating s f (xLen f) opFmul
def execFfma (f : XForm) (s : State) : Out := floating s f (xLen f) opFfma
def execFdiv (f : XForm) (s : State) : Out := floating s f (xLen f) opFdiv
def execFmin (f : XForm) (s : State) : Out := floating s f (xLen f) (opFminmax false)
def execFmax (f : XForm) (s : State) : Out := floating s f (xLen f) (opFminmax true)
def execFrnd (f : XForm) (s : State) : Out := floating s f (xLen f) opFrnd
def execFrcp (f : XForm) (s : State) : Out := floating s f (xLen f) (opApprox .rcp)
def execFrsq (f : XForm) (s : State) : Out := floating s f (xLen f) (opApprox .rsq)
def execFsqrt (f : XForm) (s : State) : Out := floating s f (xLen f) opFsqrt
def execFexp2 (f : XForm) (s : State) : Out := floating s f (xLen f) (opApprox .exp2)
def execFlog2 (f : XForm) (s : State) : Out := floating s f (xLen f) (opApprox .log2)
def execFsin (f : XForm) (s : State) : Out := floating s f (xLen f) (opApprox .sin)
def execFcos (f : XForm) (s : State) : Out := floating s f (xLen f) (opApprox .cos)

/-! ## Comparison and class (R148, R149) -/

/-- A truth value as a result. -/
def truth (b : Bool) : DWord := if b then 1 else 0

def execFcmp (f : XForm) (s : State) : Out :=
  floating s f (xLen f) fun t _ a b _ =>
    let r := fCompare f.fn.toNat (fval (fmtOf t) a) (fval (fmtOf t) b)
    (truth r.1, r.2)

def execFcls (f : XForm) (s : State) : Out :=
  floating s f (xLen f) fun t _ a mask _ => (truth (mask.getLsbD (fClass (fmtOf t) (extend false (tyBits t) a))), 0)

end Sys2Proof.Machine
end

