-- ==== Sys2Proof/Machine/Matrix.lean ====
section
/-! DEFINITION. The matrix engine: operands, MXM, MXG and the accumulator's other instructions, tokens and leases (R49, R52,
R79, R80, R86, R87, R206 to R228, R357, R358). -/

namespace Sys2Proof.Machine

/-! ## The accumulator (R206, R216) -/

/-- A cell of a row of the issuing core, or from column 192 on of the follower. -/
def cellAt (s : State) (c row j : Nat) : Word := mapGet 0 (getCore s (c + j / 192)).acc (192 * row + j % 192)
/-- A cell written. -/
def setCell (s : State) (c row j : Nat) (x : Word) : State :=
  modCore s (c + j / 192) fun k => { k with acc := mapSet k.acc (192 * row + j % 192) x }

/-- The pairs of a row below `m` and a column below `n`. -/
def cellsOf (m n : Nat) : List (Nat × Nat) := (List.range m).flatMap fun i => (List.range n).map fun j => (i, j)

/-- Cells from row `row` on replaced by a function of their value, with the flags that it raises. -/
def mapCells (s : State) (c row : Nat) (f : Nat → Nat → Word → Word × FFlags) : List (Nat × Nat) → State × FFlags
  | [] => (s, 0)
  | (i, j) :: r =>
    let y := f i j (cellAt s c (row + i) j)
    let t := mapCells (setCell s c (row + i) j y.1) c row f r
    (t.1, y.2 ||| t.2)

/-! ## The conditions of a matrix instruction (R208, R216, R227, R357, R358) -/

/-- Counted instructions of a block that a core has started and not retired. -/
def startedOps (k : Core) (b : Nat) : Nat := (k.mxq.filter fun o => o.block = b && o.counted).length

/-- The follower's part of an instruction that spans two arrays: the grant, the token and the window (R216). -/
def followerOk (s : State) (b : Block) (bi m lo hi : Nat) : Bool :=
  match b.cores[m + 1]? with
  | none => false
  | some c =>
    b.mxe.getD (m + 1) false && (getCore s c).token = some bi
      && (match b.win.getD (m + 1) none with | some w => w.1 ≤ lo && hi ≤ w.2 | none => false)

/-- A block whose rows are spilled queues for the token, and its group sleeps until the token returns (R227, R358). -/
def sleepSpilled (s : State) (c bi : Nat) : State :=
  let s := modGroup s s.cur fun x => { x with status := .spilled }
  let s := modCore s c fun k => if k.tokenQ.contains bi then k else { k with tokenQ := k.tokenQ ++ [bi] }
  passToken s c 17

/-- The fault of a save area that a spill could not write, taken by the holder's next counted instruction (R358). -/
def spillTrap (s : State) (k : Issue) (c bi : Nat) (va : DWord) : Out :=
  let p := { saveTrap s s.cur va true with epc := replayPc (curGroup s) k.ops }
  let s := modBlock s bi fun b => { b with spillFault := b.spillFault.filter (·.1 ≠ c) }
  match p.cls, p.recs with
  | .P, r :: _ => .next (parkFault s s.cur p.epc r)
  | _, _ => .next (takeTrap (dropPend s s.cur) s.cur p)

/-- The fault that a spill left for the holder's next counted instruction, if its address still cannot be written (R358). -/
def spillLeft (s : State) (b : Block) (c : Nat) : Option (Nat × DWord) :=
  let r := getGrid s b.grid
  (b.spillFault.find? (·.1 = c)).filter fun e =>
    match placeOf r.part (tableXlat s r.part r.ctx e.2) with | some p => pteRO p.entry | none => true

/-- A matrix instruction of the issuing group goes on under the conditions of R208: `rows` are the rows it names, `bad` that
it breaks the bounds of R221 or R223, `wide` that it spans two arrays, `operand` the DETAIL of a fault of its operands (R252). A false
guard makes it do nothing, once the conditions of R208 hold. The fault that a spill has left comes after every condition of class I
(R335, R358). -/
def engine (s : State) (k : Issue) (run counted wide bad : Bool) (rows : Option (Nat × Nat)) (operand : Option Nat) (go : Out) : Out :=
  let x := curGroup s
  let c := slotCore s.cur
  let b := getBlock s x.block
  let k := { k with full := true }
  issue s k <|
    if !b.mxe.getD x.member false then trapI s k 0x28 0
    else if (getCore s c).token ≠ some x.block then
      if counted && b.spilled.getD x.member false then .next (sleepSpilled s c x.block) else trapI s k 0x28 1
    else if bad && run then trapI s k 0x28 6
    else if !(match rows, b.win.getD x.member none with
        | none, _ => true
        | some r, some w => w.1 ≤ min r.1 r.2 && max r.1 r.2 ≤ w.2
        | some _, none => false) then trapI s k 0x28 2
    else if wide && b.cores.length ≤ x.member + 1 then trapI s k 0x28 5
    else if wide && !(match rows with | some r => followerOk s b x.block x.member r.1 r.2 | none => false) then
      trapI s k 0x28 3
    else
      match (if run then operand else none), (if counted then spillLeft s b c else none) with
      | some d, _ => trapI s k 0x29 d
      | none, some e => spillTrap s k c x.block e.2
      | none, none =>
        if !run then complete s k
        else if ((getCore s c).mxq.any fun o => !o.counted)
            || (counted && (getCore s c).lease ≤ startedOps (getCore s c) x.block) then stall s .engine
        else go

/-- A counted instruction has started: it retires later, and the follower's array is reserved until then (R207, R216). -/
def started (s : State) (wide : Bool) : State :=
  let b := (curGroup s).block
  let c := slotCore s.cur
  let s := if (getBlock s b).spillFault.isEmpty then s
    else modBlock s b fun x => { x with spillFault := x.spillFault.filter (·.1 ≠ c) }
  let s := modCore s c fun k =>
    { k with mxq := k.mxq ++
        [{ block := b, uid := (curGroup s).uid, counted := true, follower := if wide then some (c + 1) else none }] }
  if wide then modCore s (c + 1) fun k => { k with mxq := k.mxq ++ [{ block := b, counted := false }] } else s

/-! ## Operands (R210 to R213) -/

/-- The orientation-free shape of a stored matrix: its base, its rows and columns, and the width of its elements. -/
structure Panel where
  base : Nat
  xs : Nat
  ys : Nat
  bits : Nat
  deriving DecidableEq, Repr

/-- Elements of a line of a square. -/
def perRow (p : Panel) : Nat := 1024 / p.bits
/-- The address of the byte of an element (R210). -/
def panelAddr (p : Panel) (x y : Nat) : Nat :=
  p.base + 0x2000 * (x / 64 * ((p.ys + perRow p - 1) / perRow p) + y / perRow p) + 128 * (x % 64)
    + p.bits * (y % perRow p) / 8

/-- A panel's base is aligned and every element lies in the window (R210). -/
def panelOk (b : Block) (p : Panel) : Bool :=
  p.base % 128 = 0 && ((p.xs ≤ 64 && p.ys ≤ perRow p) || p.base % 0x2000 = 0)
    && (List.range p.xs).all fun x => (List.range ((p.ys + perRow p - 1) / perRow p)).all fun c =>
      let n := min (perRow p) (p.ys - c * perRow p)
      inWindow b (panelAddr p x (c * perRow p)) ((n * p.bits + 7) / 8)

/-- The bits of an element of a panel (R49). -/
def panelElem (s : State) (b : Block) (p : Panel) (x y : Nat) : Nat :=
  if p.bits = 4 then latNat s b (panelAddr p x y) 1 / 2 ^ (4 * (y % 2)) % 16 else latNat s b (panelAddr p x y) (p.bits / 8)

/-- A format word's fields (R212). -/
structure FmtWord where
  fmt : Nat
  prec : Nat
  scl : Bool
  group : Nat
  stride : Nat
  deriving DecidableEq, Repr

/-- A format word from its bits. -/
def fmtWord (w : Nat) : FmtWord :=
  { fmt := w % 16, prec := w / 16 % 8 + 1, scl := w / 128 % 2 = 1, group := 32 * 2 ^ (w / 256 % 4), stride := w / 1024 % 16 + 1 }

/-- A plane format (R211, R212). -/
def FmtWord.planes (f : FmtWord) : Bool := f.fmt = 6 || f.fmt = 7
/-- A format with scales and zero points (R79, R80, R212). -/
def FmtWord.scaled (f : FmtWord) : Bool := f.fmt = 4 || f.fmt = 5 || (f.planes && f.scl)
/-- A plain integer format (R87, R215). -/
def FmtWord.plainInt (f : FmtWord) : Bool := (f.fmt = 2 || f.fmt = 3 || f.planes) && !f.scl

/-- A format word breaks no rule of R212. -/
def fmtWordOk (w : Nat) : Bool :=
  let f := fmtWord w
  w / 2 ^ 14 = 0 && f.fmt < 8 && w / 256 % 4 < 3 && (f.scaled || w / 256 % 4 = 0)
    && (if f.planes then [1, 2, 4, 8, 16].contains f.stride && f.prec ≤ f.stride
        else w / 1024 % 16 = 0 && w / 128 % 2 = 0 && w / 16 % 8 = 0)

/-- The width of an element in a panel (R212). -/
def FmtWord.bits (f : FmtWord) : Nat := if f.fmt ≤ 1 then 16 else if f.fmt = 5 then 4 else 8

/-- One matrix operand: its format, its scales, its base, whether the stored matrix is the transpose of (row, k), the rows
(of A) or columns (of B), and K. -/
structure MOperand where
  f : FmtWord
  scl : Nat
  zp : Nat
  base : Nat
  swap : Bool
  n : Nat
  k : Nat
  deriving DecidableEq, Repr

/-- The stored matrix's rows and columns. -/
def MOperand.xs (o : MOperand) : Nat := if o.swap then o.k else o.n
def MOperand.ys (o : MOperand) : Nat := if o.swap then o.n else o.k
/-- The stored matrix as a panel. -/
def MOperand.panel (o : MOperand) : Panel := { base := o.base, xs := o.xs, ys := o.ys, bits := o.f.bits }
/-- The feuille block that holds an element (R211). -/
def MOperand.blockAt (o : MOperand) (x y : Nat) : Nat := o.base + 512 * o.f.stride * (x / 64 * ((o.ys + 63) / 64) + y / 64)

/-- An operand's address keeps the alignment of R210 and R211 and lies in the window (R52). -/
def operandOk (b : Block) (o : MOperand) : Bool :=
  if o.f.planes then
    o.base % 512 = 0 && (List.range ((o.xs + 63) / 64)).all fun x => (List.range ((o.ys + 63) / 64)).all fun y =>
      let a := o.blockAt (64 * x) (64 * y)
      a % 0x2000 + 512 * o.f.prec ≤ 0x2000 && inWindow b a (512 * o.f.prec)
  else panelOk b o.panel

/-- The groups of an operand's scales (R213). -/
def MOperand.groups (o : MOperand) : Nat := (o.k + o.f.group - 1) / o.f.group

/-- Scales and zero points lie in the window. -/
def scalesOk (b : Block) (o : MOperand) : Bool :=
  !o.f.scaled || (let n := o.n * o.groups
    inWindow b o.scl (2 * n) && inWindow b o.zp (if o.f.fmt = 5 then (n + 1) / 2 else n))

/-- The integer code of a stored element (R49, R52, R80). -/
def codeAt (s : State) (b : Block) (o : MOperand) (x y : Nat) : Int :=
  if o.f.planes then
    (List.range o.f.prec).foldl (fun v j =>
      let w := latNat s b (o.blockAt x y + 512 * j + 8 * (x % 64)) 8
      if w / 2 ^ (y % 64) % 2 = 0 then v
      else if o.f.fmt = 7 && j + 1 = o.f.prec then v - 2 ^ j else v + 2 ^ j) 0
  else
    let w := panelElem s b o.panel x y
    if o.f.fmt = 2 then toS 8 (BitVec.ofNat 64 w) else w

/-- An integer as a value. 0 is taken as +0: DESIGN CHOICE, as R86 gives the sign of a product and an integer 0 has none (log entry
76). -/
def intVal (x : Int) : FVal := if x = 0 then .zero false else .num (x < 0) x.natAbs 0

/-- The exact value of a code under a scale and a zero point (R79): a scale that is infinite or a NaN follows R71. A value of zero is
taken as +0: DESIGN CHOICE, as R79 and R213 say only that it is the exact real (log entry 76). -/
def scaledVal (d : FVal) (q : Int) : FVal :=
  match mulVal d (intVal q) with
  | .zero _ => .zero false
  | v => v

/-- The exact value of the element of row (or column) `r` at `k` (R213). -/
def elemAt (s : State) (b : Block) (o : MOperand) (r k : Nat) : FVal :=
  let x := if o.swap then k else r
  let y := if o.swap then r else k
  if o.f.fmt ≤ 1 then fval (fmtOf (if o.f.fmt = 0 then .bf16 else .f16)) (BitVec.ofNat 64 (panelElem s b o.panel x y))
  else if o.f.scaled then
    let i := r * o.groups + k / o.f.group
    let z := if o.f.fmt = 5 then latNat s b (o.zp + i / 2) 1 / 2 ^ (4 * (i % 2)) % 16 else latNat s b (o.zp + i) 1
    scaledVal (fval (fmtOf .f16) (BitVec.ofNat 64 (latNat s b (o.scl + 2 * i) 2))) (codeAt s b o x y - z)
  else intVal (codeAt s b o x y)

/-! ## Runs (R86, R87) -/

/-- An exact sum of products: the signed multiples of `2 ^ e` of its numbers. -/
def sumInts (e : Int) : List FVal → Int
  | [] => 0
  | .num n m x :: r => signed n (m * 2 ^ (x - e).toNat) + sumInts e r
  | _ :: r => sumInts e r

/-- The least exponent of the numbers of a list. -/
def minExp : List FVal → Option Int
  | [] => none
  | .num _ _ x :: r => some (match minExp r with | some y => min x y | none => x)
  | _ :: r => minExp r

/-- The exact sum of a run's products (R86): any NaN, or infinities of both signs, makes the default NaN with IV; an exact
zero takes its sign from the products. -/
def sumProducts (rm : Rm) (ps : List FVal) : XV :=
  if ps.any fun p => match p with | .nan _ => true | _ => false then .nan true
  else if ps.contains (.inf true) then (if ps.contains (.inf false) then .nan true else .inf true false)
  else if ps.contains (.inf false) then .inf false false
  else
    let e := (minExp ps).getD 0
    let x := sumInts e ps
    if x ≠ 0 then .num (x < 0) x.natAbs e false
    else if ps.all (· = .zero true) then .zero true
    else if ps.all (· = .zero false) then .zero false
    else .zero (zeroSign rm)

/-- A rounded sum added to FP32 bits (R86). -/
def addRun (rm : Rm) (c : Word) (ps : List FVal) : Word × FFlags :=
  let a := roundF rm (fmtOf .f32) (sumProducts rm ps)
  let r := roundF rm (fmtOf .f32) (xAdd rm (fval (fmtOf .f32) (c.setWidth 64)) (fval (fmtOf .f32) a.1))
  (r.1.setWidth 32, a.2 ||| r.2)

/-- Runs of 32 products added to FP32 bits in increasing order (R86). -/
def addRuns (rm : Rm) (a b : Nat → FVal) (c : Word) (runs : List Nat) : Word × FFlags :=
  runs.foldl (fun c r =>
    let y := addRun rm c.1 ((List.range 32).map fun i => mulVal (a (32 * r + i)) (b (32 * r + i)))
    (y.1, c.2 ||| y.2)) (c, 0)

/-- The exact integer of a value of a plain integer format. -/
def valInt : FVal → Int
  | .num n m _ => signed n m
  | _ => 0

/-- Runs of integer products added modulo 2 ^ 32 (R87). -/
def addInts (a b : Nat → FVal) (c : Word) (k : Nat) : Word :=
  c + BitVec.ofInt 32 ((List.range k).foldl (fun t i => t + valInt (a i) * valInt (b i)) 0)

/-! ## MXM and MXG (R214 to R219) -/

/-- The rows, columns and depth of a matrix instruction (R104). -/
def mRows (f : MForm) : Nat := 16 * (f.msz.val + 1)
def mCols (f : MForm) : Nat := 16 * (f.nsz.val + 1)
def mDepth (f : MForm) : Nat := 32 * (f.ksz.val + 1)

/-- The lattice address of an operand: an offset, plus a scalar if one is named (R214). -/
def mAddr (s : State) (r : Option (Fin 96)) (off unit : Nat) : Nat :=
  ((match r with | some n => (sRead (hidden s s.cur) (curGroup s) n.val).toNat | none => 0) + off * unit) % 2 ^ 22

/-- What the issue checks need of a matrix instruction. -/
def mIssue : Issue := { len := 20 }
/-- Whether a matrix instruction's guard holds at lane L. -/
def mRuns (x : Group) (f : MForm) : Bool := (guardMask x f.gn f.gp).getLsbD (lu x)

/-- The two operands of MXM and MXG from the 16 bytes of the format block. -/
def mOperands (s : State) (f : MForm) (w : Nat) : MOperand × MOperand :=
  ({ f := fmtWord (w % 2 ^ 16), scl := w / 2 ^ 32 % 2 ^ 22, zp := w / 2 ^ 56 % 2 ^ 22, base := mAddr s f.a f.aoff.toNat 128,
     swap := f.acol, n := mRows f, k := mDepth f },
   { f := fmtWord (w / 2 ^ 16 % 2 ^ 16), scl := w / 2 ^ 80 % 2 ^ 22, zp := w / 2 ^ 104 % 2 ^ 22,
     base := mAddr s f.b f.boff.toNat 128, swap := !f.bcol, n := mCols f, k := mDepth f })

/-- A format block breaks no rule of R212. -/
def fmtBlockOk (w : Nat) : Bool :=
  fmtWordOk (w % 2 ^ 16) && fmtWordOk (w / 2 ^ 16 % 2 ^ 16)
    && w / 2 ^ 54 % 4 = 0 && w / 2 ^ 78 % 4 = 0 && w / 2 ^ 102 % 4 = 0 && w / 2 ^ 126 % 4 = 0
    && w / 2 ^ 32 % 2 = 0 && w / 2 ^ 80 % 2 = 0

/-- The DETAIL of the first matrix-operand fault of MXM or MXG, if any (R252, R334). -/
def operandFault (s : State) (b : Block) (f : MForm) (adapter : Bool) : Option Nat :=
  let ca := mAddr s f.c f.coff.toNat 16
  let w := latNat s b ca 16
  let o := mOperands s f w
  if ca % 16 ≠ 0 || !inWindow b ca 16 || !fmtBlockOk w then some 0
  else if !scalesOk b o.1 || !scalesOk b o.2 then some 0
  else if adapter && o.1.f.plainInt && o.2.f.plainInt then some 3
  else if !operandOk b o.1 then some 1
  else if !operandOk b o.2 then some 2
  else if adapter && !inWindow b (64 * f.toff.toNat) (2 * mRows f) then some 5
  else none

/-- The main product of MXM and MXG on the cells from the first row on, with its flags (R215). -/
def product (s : State) (f : MForm) : State × FFlags :=
  let b := getBlock s (curGroup s).block
  let o := mOperands s f (latNat s b (mAddr s f.c f.coff.toNat 16) 16)
  let ints := o.1.f.plainInt && o.2.f.plainInt
  mapCells s (slotCore s.cur) f.row.val
    (fun i j c =>
      if ints then (addInts (elemAt s b o.1 i) (elemAt s b o.2 j) c (mDepth f), 0)
      else addRuns f.rm (elemAt s b o.1 i) (elemAt s b o.2 j) c (List.range (mDepth f / 32)))
    (cellsOf (mRows f) (mCols f))

/-- The cells of an instruction from a row block on whose term is fetched: U and V as bytes (R218). -/
structure Adapter where
  t : Nat
  u : List Byte
  v : List (List Byte)

/-- A BF16 element of bytes. -/
def bfAt (b : List Byte) (i : Nat) : FVal := fval (fmtOf .bf16) (BitVec.ofNat 64 (leNat ((b.drop (2 * i)).take 2)))

/-- The adapters of MXG's table, fetched as the group's loads (R218, R219). Reserved bytes of an entry that are not zero are ignored:
DESIGN CHOICE, as R218 names no fault for them (log entry 80). -/
def adapters (s : State) (k : Issue) (f : MForm) (go : State → List Adapter → Out) : List Nat → State → List Adapter → Out
  | [], t, l => go t l
  | i :: r, t, l =>
    let b := getBlock s (curGroup s).block
    let e := 64 * f.toff.toNat + 32 * i
    let ua := BitVec.ofNat 64 (latNat s b e 8)
    let va := BitVec.ofNat 64 (latNat s b (e + 8) 8)
    let stride := latNat s b (e + 16) 4
    if ua = 0 then adapters s k f go r t l
    else
      withRange t k 2 ua (32 * mDepth f) fun t u =>
        rows t u va stride (List.range 16) [] fun t v => adapters s k f go r t (l ++ [{ t := i, u, v }])
where
  rows (t : State) (u : List Byte) (va : DWord) (stride : Nat) : List Nat → List (List Byte) → (State → List (List Byte) → Out) → Out
    | [], v, h => h t v
    | q :: r, v, h =>
      withRange t k 2 (va + BitVec.ofNat 64 (stride * q)) (2 * mCols f) fun t b => rows t u va stride r (v ++ [b]) h

/-- The ranges that the adapters of MXG's table name: address and length (R218). -/
def adapterRanges (s : State) (f : MForm) : List (DWord × Nat) :=
  (List.range (mRows f / 16)).flatMap fun i =>
    let b := getBlock s (curGroup s).block
    let e := 64 * f.toff.toNat + 32 * i
    let ua := BitVec.ofNat 64 (latNat s b e 8)
    let va := BitVec.ofNat 64 (latNat s b (e + 8) 8)
    if ua = 0 then []
    else (ua, 32 * mDepth f) :: (List.range 16).map fun q => (va + BitVec.ofNat 64 (latNat s b (e + 16) 4 * q), 2 * mCols f)

/-- The fault that MXG takes of all parts of its adapters (R335, R344). -/
def adapterFault (s : State) (f : MForm) : Option (DWord × AccFault) :=
  firstFault ((adapterRanges s f).flatMap fun r => partFaults s .read 2 r.1 r.2)

/-- The low-rank term of one row block, with its flags (R219). -/
def term (s0 s : State) (f : MForm) (a : Adapter) : State × FFlags :=
  let b := getBlock s0 (curGroup s0).block
  let o := (mOperands s0 f (latNat s0 b (mAddr s0 f.c f.coff.toNat 16) 16)).1
  let tq (i q : Nat) : Word × FFlags :=
    addRuns f.rm (elemAt s0 b o i) (fun k => bfAt a.u (16 * k + q)) 0 (List.range (mDepth f / 32))
  (List.range 16).foldl (fun r d =>
    let i := 16 * a.t + d
    let ts := (List.range 16).map (tq i)
    let fl := ts.foldl (fun x y => x ||| y.2) 0
    let y := mapCells r.1 (slotCore s.cur) (f.row.val + i)
      (fun _ j c => addRun f.rm c ((List.range 16).map fun q =>
        mulVal (fval (fmtOf .f32) (((ts.getD q (0, 0)).1).setWidth 64)) (bfAt (a.v.getD q []) j)))
      (cellsOf 1 (mCols f))
    (y.1, r.2 ||| fl ||| y.2)) (s, 0)

/-- The rows that a matrix instruction names. -/
def mSpan (f : MForm) : Nat × Nat := (f.row.val, f.row.val + mRows f - 1)

def execMxm (f : MForm) (s : State) : Out :=
  let wide := 192 < mCols f
  let bad := operandFault s (getBlock s (curGroup s).block) f false
  engine s mIssue (mRuns (curGroup s) f) true wide false (some (mSpan f)) bad <|
    let r := product (readSources s (curGroup s).uid s.nextId) f
    finish (started r.1 wide) (curGroup s) mIssue false none r.2

def execMxg (f : MForm) (s : State) : Out :=
  let wide := 192 < mCols f
  let bad := operandFault s (getBlock s (curGroup s).block) f true
  engine s mIssue (mRuns (curGroup s) f) true wide false (some (mSpan f)) bad <|
    match adapterFault s f with
    | some e => uniformFault s mIssue false false e.2.code e.2.detail e.1 e.2.entry
    | none =>
      adapters s mIssue f
        (fun t l =>
          let p := product t f
          let r := l.foldl (fun r a => let y := term t r.1 f a; (y.1, r.2 ||| y.2)) p
          finish (started r.1 wide) (curGroup r.1) mIssue false none r.2)
        (List.range (mRows f / 16)) (readSources s (curGroup s).uid s.nextId) []

/-! ## MXZ, MXLD, MXST, MXW (R221 to R223) -/

def execMxz (f : XForm) (s : State) : Out :=
  let x := curGroup s
  let k := ctlIssue f (xLen f)
  let lo := (opnd s x false f.a 0).toNat
  let hi := (opnd s x false f.b 0).toNat
  engine s k (runs x f) true false (hi < lo || 191 < hi) (some (lo, hi)) none
    (complete (started (modCore s (slotCore s.cur) fun c =>
      { c with acc := c.acc.filter fun e => e.1 / 192 < lo || hi < e.1 / 192 }) false) k)

/-- The width of an element of MXLD and MXST in the lattice: a TY of 0 means 32 bits (R222). -/
def tileBits (f : MForm) : Nat := tyBits f.ty
/-- The tile as a panel; under `.col` it is stored transposed (R210). -/
def tilePanel (s : State) (f : MForm) : Panel :=
  { base := mAddr s f.a f.aoff.toNat 128, xs := if f.acol then mCols f else mRows f, ys := if f.acol then mRows f else mCols f,
    bits := tileBits f }
/-- The type in which a cell is read and written (R222). -/
def cellTy (f : MForm) : Ty := if tyFloat f.ty then .f32 else .i32

/-- The cell that a lattice element gives (R222). -/
def cellIn (f : MForm) (x : Nat) : Word :=
  if tileBits f = 32 then BitVec.ofNat 32 x else (convert f.ty (cellTy f) .rn 0 (BitVec.ofNat 64 x)).1.setWidth 32
/-- The lattice element that a cell gives, with its flags (R222). -/
def cellOut (f : MForm) (c : Word) : Nat × FFlags :=
  if tileBits f = 32 then (c.toNat, 0)
  else
    let r := convert (cellTy f) f.ty f.rm 0 (c.setWidth 64)
    (r.1.toNat % 2 ^ tileBits f, r.2)

/-- MXLD (R222). Widening a signalling NaN raises no IV: DESIGN CHOICE, as R82 gives IV to a conversion and R222 names flags for MXST
alone (log entry 100). -/
def execMxld (f : MForm) (s : State) : Out :=
  let b := getBlock s (curGroup s).block
  let p := tilePanel s f
  engine s mIssue (mRuns (curGroup s) f) true false false (some (mSpan f)) (if panelOk b p then none else some 1) <|
    let r := mapCells (readSources s (curGroup s).uid s.nextId) (slotCore s.cur) f.row.val
      (fun i j _ => (cellIn f (if f.acol then panelElem s b p j i else panelElem s b p i j), 0)) (cellsOf (mRows f) (mCols f))
    complete (started r.1 false) mIssue

def execMxst (f : MForm) (s : State) : Out :=
  let x := curGroup s
  let b := getBlock s x.block
  let p := tilePanel s f
  let c := slotCore s.cur
  engine s mIssue (mRuns x f) true false false (some (mSpan f)) (if panelOk b p then none else some 1) <|
    let r := (cellsOf (mRows f) (mCols f)).foldl (fun (r : State × FFlags) e =>
      let y := cellOut f (cellAt s c (f.row.val + e.1) e.2)
      let a := if f.acol then panelAddr p e.2 e.1 else panelAddr p e.1 e.2
      (latPut r.1 b a (leBytes (p.bits / 8) y.1), r.2 ||| y.2)) (readSources s x.uid s.nextId, 0)
    finish (started r.1 false) (curGroup r.1) mIssue false none r.2

def execMxw (f : XForm) (s : State) : Out :=
  let x := curGroup s
  let k := ctlIssue f (xLen f)
  let lo := (opnd s x false f.a 0).toNat
  let hi := (opnd s x false f.b 0).toNat
  engine s k (runs x f) false false (hi < lo || 191 < hi) none none <|
    if (groupGrid s s.cur).hdr.accs < (hi - lo + 1) * 768 then trapI s k 0x28 4
    else if (getCore s (slotCore s.cur)).mxq.any fun o => o.block = x.block then stall s .engine
    else complete (modBlock s x.block fun b => { b with win := b.win.set x.member (some (lo, hi)) }) k

/-! ## MXP and MXQ (R224, R225) -/

/-- Bit `c` of line `i` of plane `j` of the packed block (R52, R224). -/
def planeLine (s : State) (b : Block) (src : Nat) (col : Bool) (j i : Nat) : Nat :=
  (List.range 64).foldl (fun w c =>
    let v := latNat s b (if col then src + 128 * c + i else src + 128 * i + c) 1
    w + 2 ^ c * (v / 2 ^ j % 2)) 0

def execMxp (f : XForm) (s : State) : Out :=
  let x := curGroup s
  let b := getBlock s x.block
  let k := ctlIssue f (xLen f)
  let dst := (opnd s x false f.a 0).toNat % 2 ^ 22
  let src := (opnd s x false f.b 0).toNat % 2 ^ 22
  let p := (opnd s x false f.c 0).toNat
  guarded s f k <|
    if !((src % 0x2000 = 0 || src % 0x2000 = 64) && inWindow b src (64 * 128 - 64)
        && dst % 512 = 0 && dst % 0x2000 + 512 * p ≤ 0x2000 && inWindow b dst (512 * p)) then trapI s k 0x29 4
    else
      let t := (cellsOf p 64).foldl (fun t e =>
        latPut t b (dst + 512 * e.1 + 8 * e.2) (leBytes 8 (planeLine s b src f.col e.1 e.2))) (readSources s x.uid s.nextId)
      complete t k

/-- The engine state that MXQ reads (R225). -/
def engineWord (s : State) (g : Nat) : Nat :=
  let x := getGroup s g
  let b := getBlock s x.block
  let c := slotCore g
  let k := getCore s c
  let m := x.member
  let w := b.win.getD m none
  let tok := k.token = some x.block
  let fol := match b.cores[m + 1]? with
    | some d => b.mxe.getD (m + 1) false && (getCore s d).token = some x.block && (b.win.getD (m + 1) none).isSome
    | none => false
  let other := k.tokenQ.any fun q => poolOwner s (getBlock s q).grid ≠ poolOwner s b.grid
  (if tok then k.lease % 2 ^ 16 * 2 ^ 48 else 0)
    + (match w with | some r => r.2 * 2 ^ 40 + r.1 * 2 ^ 32 + 2 | none => 0)
    + (if fol then 2 ^ 7 else 0) + (if b.spilled.getD m false then 2 ^ 5 else 0)
    + (if k.tokenQ.contains x.block then 2 ^ 4 else 0) + (if other then 2 ^ 3 else 0) + (if tok then 2 ^ 2 else 0)
    + (if b.mxe.getD m false then 1 else 0)

def execMxq (f : XForm) (s : State) : Out :=
  let k := ctlIssue f (xLen f)
  guarded s f k (completeScalar s (curGroup s) f k (BitVec.ofNat 64 (engineWord s s.cur)))

/-! ## Tokens and leases (R226, R227, R358) -/

def execMxta (f : XForm) (s : State) : Out :=
  let x := curGroup s
  let c := slotCore s.cur
  let k := ctlIssue f (xLen f)
  guarded s f k <|
    if (getCore s c).token = some x.block then completeScalar s x f k x.cToken
    else
      match completeScalar s x f k (x.cToken + 1) with
      | .next t =>
        .next (passToken (modCore t c fun k =>
          if k.tokenQ.contains x.block then k else { k with tokenQ := k.tokenQ ++ [x.block] }) c 17)
      | o => o

/-- MXTR (R226). A block that does not hold the token frees nothing, and its queued request stays: DESIGN CHOICE, as R226 says only
what a holder's MXTR does (log entry 82). -/
def execMxtr (f : XForm) (s : State) : Out :=
  let x := curGroup s
  let c := slotCore s.cur
  let k := ctlIssue f (xLen f)
  guarded s f k <|
    if (getCore s c).token ≠ some x.block then complete s k
    else if (getCore s c).mxq.any fun o => o.block = x.block then stall s .engine
    else
      match complete s k with
      | .next t => .next (freeToken t x.block c)
      | o => o

/-- MATRIX_RETIRE: the oldest matrix instruction of a core retires; one that the holder counts takes one from the lease, and
a follower's array is free again (R207, R216, R227). One that spans two arrays counts against the lease of the core that issued it
alone: DESIGN CHOICE, as R227 does not name the follower's (log entry 82). -/
def execMatrixRetire (core : Nat) (s : State) : Out :=
  let k := getCore s core
  match k.mxq with
  | [] => .fault .notDue
  | o :: r =>
    let free := match o.follower with
      | some d => (match (getCore s d).mxq with | p :: _ => !p.counted | [] => false)
      | none => true
    if !o.counted || !free then .fault .notDue
    else
      let s := modCore s core fun k => { k with mxq := r, lease := if k.token = some o.block then k.lease - 1 else k.lease }
      .next (match o.follower with
        | some d => modCore s d fun k => { k with mxq := k.mxq.drop 1 }
        | none => s)

/-- ENGINE_LEASE_END: the lease has counted down to zero: a new one begins at once unless another pool waits; else the
holder's rows are spilled and the token passes on (R227, R358). -/
def execEngineLeaseEnd (core : Nat) (s : State) : Out :=
  let k := getCore s core
  match k.token with
  | none => .fault .notDue
  | some b =>
    if k.lease ≠ 0 || (k.mxq.any fun o => o.block = b) then .fault .notDue
    else
      let x := getBlock s b
      let m := memberOn x core
      if k.tokenQ.any fun q => poolOwner s (getBlock s q).grid ≠ poolOwner s x.grid then
        match saveFault s b m true with
        | some va => .next (abandonSpill s b core va)
        | none =>
          let s := modBlock (spillRows s b core) b fun y => { y with spilled := y.spilled.set m true }
          .next (passToken (modCore s core fun k => { k with token := none, acc := [], tokenQ := k.tokenQ ++ [b] }) core 17)
      else .next (modCore s core fun k => { k with lease := leaseOf (getGrid s x.grid) })

end Sys2Proof.Machine
end

