-- ==== Sys2Proof/Machine/Predicate.lean ====
section
/-! DEFINITION. Predicate instructions (R153, R154). -/

namespace Sys2Proof.Machine

/-- A predicate instruction of two sources (R153). Its operands are per lane, so it executes per lane unless `.uni` is written: R13
does not list it among its exceptions, and R119 gives it a figure for the uniform form (log entry 42). -/
def predicate (s : State) (f : XForm) (len : Nat) (op : Bool → Bool → Bool) : Out :=
  let g := curGroup s
  performAt s f (xIssue f len none) .auto false fun i => (if op (predBit g f.a i) (predBit g f.b i) then 1 else 0, 0)

def execPandBase (f : BForm) (s : State) : Out := predicate s (basePred f) 4 (· && ·)
def execPorBase (f : BForm) (s : State) : Out := predicate s (basePred f) 4 (· || ·)
def execPxorBase (f : BForm) (s : State) : Out := predicate s (basePred f) 4 (· != ·)
def execPand (f : XForm) (s : State) : Out := predicate s f (xLen f) (· && ·)
def execPor (f : XForm) (s : State) : Out := predicate s f (xLen f) (· || ·)
def execPxor (f : XForm) (s : State) : Out := predicate s f (xLen f) (· != ·)
def execPnot (f : XForm) (s : State) : Out := predicate s f (xLen f) fun a _ => !a

/-- PMOV between predicates, from a predicate into a vector register, and from a vector register into a predicate (R13, R153). -/
def execPmov (f : XForm) (s : State) : Out :=
  let g := curGroup s
  performAt s f (xIssue f (xLen f) (topReg [(f.d, 1), (f.a, 1)])) .auto false fun i =>
    (match f.a with
      | .v n => if vRead g n.val i = 0 then 0 else 1
      | _ => if predBit g f.a i then 1 else 0, 0)

end Sys2Proof.Machine
end

