-- ==== Sys2Proof/Machine/Safelight.lean ====
section
/-! DEFINITION. Cold reset, boot, and the Safelight port (R328 to R332, R378, R386, R395, R398, R399). -/

namespace Sys2Proof.Machine

/-! ## Boot (R329, R330, R398) -/

/-- The partitions that a boot brings up: those of the default masks, or one of four quarters (R329). -/
def bootParts (masks : List (BitVec 4)) : AMap Partition :=
  (if masks.isEmpty then [0b1111#4] else masks).foldl (fun m k => mapSet m (lowest k) { live := true, mask := k }) []

/-- A staged patch is applied when it verifies, and else discarded and logged; then it is staged no more (R329, R398). -/
def applyPatch (s : State) : State :=
  match s.hub.staged with
  | none => s
  | some b =>
    let s := { s with hub := { s.hub with staged := none } }
    match patchFault s.hub b with
    | none => { s with hub := { s.hub with installed := some b } }
    | some w => logModule s 1 8 11 (BitVec.ofNat 64 w)

/-- The main domain starts with every die's life number one higher, each firmware core reserved and its partitions up (R7,
R329, R386). -/
def boot (s : State) : State :=
  let t := mainLost s
  { t with
    dies := t.dies.map fun d => (d.1, { d.2 with life := d.2.life + 1 })
    parts := bootParts s.hub.defaults }

/-- A module cold reset (R325, R329, R378, R395): time starts at 0, the module log starts again, and the power limit and the
clock are at their defaults; the fuses, the default masks and the patches stay. -/
def coldBoot (s : State) : State :=
  let h := s.hub
  let hub : Module :=
    { number := h.number, defaults := h.defaults, staged := h.staged, installed := h.installed, keys := h.keys
      revoked := h.revoked, rollback := h.rollback }
  applyPatch (boot { s with hub, gtc := 0, msix := [], aer := [] })

/-- COLD_RESET: the host's fundamental reset or power-on. -/
def execColdReset (s : State) : Out := .next (coldBoot s)

/-! ## Safelight (R328, R399) -/

/-- The state with Safelight's answer. -/
def answer (s : State) (a : SafelightMsg) : State := { s with hub := { s.hub with answer := a } }

/-- GET_VERSION: the device answers its own version, 2. It accepts a controller of version 1 or 2 and uses the lesser of the two
versions; the request does not carry the controller's, which is a free value, and each request counts as the first of its session
(R320, R328; log entry 75). -/
def execGetVersion (s : State) : Out :=
  let ver := Config.controllerVersion s.tick
  .next (answer { s with hub := { s.hub with i3c := if ver = 1 || ver = 2 then some ver else none } } (.bytes (leBytes 2 2)))

/-- The 32 bytes of GET_HEALTH (R399). -/
def healthBytes (s : State) : List Byte :=
  let up := s.hub.power = .up
  let pwr := match s.hub.power with | .off => 0 | .up => 1 | .fatal => 2
  let drdy := (List.range 8).foldl (fun n d => if up && (getDie s d).status = .up then n + 2 ^ d else n) 0
  let frdy := (List.range 4).foldl (fun n f => if functionReady s f then n + 2 ^ f else n) 0
  leBytes 1 pwr ++ leBytes 1 drdy ++ leBytes 1 frdy ++ leBytes 1 0 ++ leBytes 2 s.hub.stacksFailed.toNat ++ leBytes 2 0
    ++ leBytes 8 ((s.hub.log.getLast?.map (·.seq)).getD 0) ++ leBytes 8 s.hub.ue.toNat ++ leBytes 8 s.gtc.toNat

def execGetHealth (s : State) : Out := .next (answer s (.bytes (healthBytes s)))

/-- A measured quantity; the module draws at most 2,200 W (R6, R332). -/
def telemetry (s : State) (k : Nat) : Nat :=
  if k = 0 then min (Config.telemetry s.tick 0) 2200 else Config.telemetry s.tick k

/-- GET_TELEMETRY: power, the temperatures of the dies and of the coolant, and the core clock; the layout is open (log entry
28). -/
def execGetTelemetry (s : State) : Out :=
  .next (answer s (.bytes ((List.range 10).flatMap (fun k => leBytes 2 (telemetry s k)) ++ leBytes 2 s.hub.clock)))

/-- SET_POWER_LIMIT: 600 to 2,200 W (R328, R332). -/
def execSetPowerLimit (watts : Nat) (s : State) : Out :=
  .next (if 600 ≤ watts && watts ≤ 2200 then answer { s with hub := { s.hub with limit := watts } } .ok else answer s .refused)

def execGetPowerLimit (s : State) : Out := .next (answer s (.bytes (leBytes 2 s.hub.limit)))

/-- RESET 0. -/
def execSafelightResetModule (s : State) : Out := .next (answer (coldBoot s) .ok)

/-- RESET 1: as the host command RESET 1, while the main domain is up. -/
def execSafelightResetFunction (fn : Nat) (s : State) : Out :=
  .next (if fn < 4 && s.hub.power = .up then answer (resetFunction s fn) .ok else answer s .refused)

/-- The log entries of the resets of all the dies, and the starts of their resets (R380, R386, R389). -/
def diesReset (s : State) : State :=
  (List.range 8).foldl (fun s d =>
    logEvent (modDie s d fun x => { x with resetAt := some (hubGtc s), dogAt := hubGtc s }) (diePart s d) 0x0B d 255 (BitVec.ofNat 64 d)
      ((getDie s d).life.setWidth 64)) s

/-- RESET 2: the main domain restarts; time, the module log, the clock and the withheld issue go on, every die is reset, memory is lost.
The fatal state ends only at a cold reset (R332, R386, R396, R399). -/
def execSafelightResetMain (s : State) : Out :=
  let p := if s.hub.power = .fatal then .fatal else .up
  .next (answer (diesReset (boot { s with hub := { s.hub with power := p } })) .ok)

/-- GET_LOG: bytes of the module log from an offset (R378). -/
def execGetLog (off n : Nat) (s : State) : Out :=
  .next (answer s (.bytes (((s.hub.log.flatMap logEntryBytes).drop off).take n)))

/-- Masks that give every quarter to exactly one partition (R4). -/
def masksOk (l : List (BitVec 4)) : Bool :=
  l.all isPartitionMask && (List.range 4).all fun q => (l.filter fun m => m.getLsbD q).length = 1

/-- SET_PARTITION_DEFAULT: taken at the next cold reset (R328, R329). -/
def execSetPartitionDefault (masks : List (BitVec 4)) (s : State) : Out :=
  .next (if masksOk masks then answer { s with hub := { s.hub with defaults := masks } } .ok else answer s .refused)

/-- LOAD_PATCH: an image is staged for the next cold reset (R328). -/
def execLoadPatch (image : List Byte) (s : State) : Out :=
  .next (answer { s with hub := { s.hub with staged := some image } } .ok)

end Sys2Proof.Machine
end

