-- ==== Sys2Proof/Machine/Dispatch.lean ====
section
/-! DEFINITION. What each instruction and each event does: one arm per constructor of `Instr`. -/

namespace Sys2Proof.Machine

def exec (i : Instr) (s : State) : Host.Outcome State Fault Refusal :=
  match i with
  | .nopBase g => Sys2Proof.Machine.execNopBase g s
  | .addBase f => Sys2Proof.Machine.execAddBase f s
  | .subBase f => Sys2Proof.Machine.execSubBase f s
  | .mulBase f => Sys2Proof.Machine.execMulBase f s
  | .mulhBase f => Sys2Proof.Machine.execMulhBase f s
  | .minBase f => Sys2Proof.Machine.execMinBase f s
  | .maxBase f => Sys2Proof.Machine.execMaxBase f s
  | .andBase f => Sys2Proof.Machine.execAndBase f s
  | .orBase f => Sys2Proof.Machine.execOrBase f s
  | .xorBase f => Sys2Proof.Machine.execXorBase f s
  | .andnBase f => Sys2Proof.Machine.execAndnBase f s
  | .shlBase f => Sys2Proof.Machine.execShlBase f s
  | .shrBase f => Sys2Proof.Machine.execShrBase f s
  | .sarBase f => Sys2Proof.Machine.execSarBase f s
  | .rotlBase f => Sys2Proof.Machine.execRotlBase f s
  | .movBase f => Sys2Proof.Machine.execMovBase f s
  | .faddBase f => Sys2Proof.Machine.execFaddBase f s
  | .fsubBase f => Sys2Proof.Machine.execFsubBase f s
  | .fmulBase f => Sys2Proof.Machine.execFmulBase f s
  | .fminBase f => Sys2Proof.Machine.execFminBase f s
  | .fmaxBase f => Sys2Proof.Machine.execFmaxBase f s
  | .cmpEqBase f => Sys2Proof.Machine.execCmpEqBase f s
  | .cmpNeBase f => Sys2Proof.Machine.execCmpNeBase f s
  | .cmpLtBase f => Sys2Proof.Machine.execCmpLtBase f s
  | .cmpLeBase f => Sys2Proof.Machine.execCmpLeBase f s
  | .cmpGtBase f => Sys2Proof.Machine.execCmpGtBase f s
  | .cmpGeBase f => Sys2Proof.Machine.execCmpGeBase f s
  | .braBase g off => Sys2Proof.Machine.execBraBase g off s
  | .joinBase => Sys2Proof.Machine.execJoinBase s
  | .exitBase g => Sys2Proof.Machine.execExitBase g s
  | .pandBase f => Sys2Proof.Machine.execPandBase f s
  | .porBase f => Sys2Proof.Machine.execPorBase f s
  | .pxorBase f => Sys2Proof.Machine.execPxorBase f s
  | .bra f => Sys2Proof.Machine.execBra f s
  | .brc f => Sys2Proof.Machine.execBrc f s
  | .brd f => Sys2Proof.Machine.execBrd f s
  | .brx f => Sys2Proof.Machine.execBrx f s
  | .call f => Sys2Proof.Machine.execCall f s
  | .callx f => Sys2Proof.Machine.execCallx f s
  | .ret f => Sys2Proof.Machine.execRet f s
  | .join f => Sys2Proof.Machine.execJoin f s
  | .exit f => Sys2Proof.Machine.execExit f s
  | .elect f => Sys2Proof.Machine.execElect f s
  | .vote f => Sys2Proof.Machine.execVote f s
  | .nop f => Sys2Proof.Machine.execNop f s
  | .wait f => Sys2Proof.Machine.execWait f s
  | .yield f => Sys2Proof.Machine.execYield f s
  | .yieldEnd g => Sys2Proof.Machine.execYieldEnd g s
  | .prio f => Sys2Proof.Machine.execPrio f s
  | .mark f => Sys2Proof.Machine.execMark f s
  | .trap f => Sys2Proof.Machine.execTrap f s
  | .bkpt f => Sys2Proof.Machine.execBkpt f s
  | .add f => Sys2Proof.Machine.execAdd f s
  | .sub f => Sys2Proof.Machine.execSub f s
  | .addc f => Sys2Proof.Machine.execAddc f s
  | .subb f => Sys2Proof.Machine.execSubb f s
  | .mul f => Sys2Proof.Machine.execMul f s
  | .mulh f => Sys2Proof.Machine.execMulh f s
  | .mad f => Sys2Proof.Machine.execMad f s
  | .min f => Sys2Proof.Machine.execMin f s
  | .max f => Sys2Proof.Machine.execMax f s
  | .abs f => Sys2Proof.Machine.execAbs f s
  | .neg f => Sys2Proof.Machine.execNeg f s
  | .and f => Sys2Proof.Machine.execAnd f s
  | .or f => Sys2Proof.Machine.execOr f s
  | .xor f => Sys2Proof.Machine.execXor f s
  | .andn f => Sys2Proof.Machine.execAndn f s
  | .not f => Sys2Proof.Machine.execNot f s
  | .shl f => Sys2Proof.Machine.execShl f s
  | .shr f => Sys2Proof.Machine.execShr f s
  | .sar f => Sys2Proof.Machine.execSar f s
  | .rotl f => Sys2Proof.Machine.execRotl f s
  | .bfx f => Sys2Proof.Machine.execBfx f s
  | .bfi f => Sys2Proof.Machine.execBfi f s
  | .clz f => Sys2Proof.Machine.execClz f s
  | .popc f => Sys2Proof.Machine.execPopc f s
  | .brev f => Sys2Proof.Machine.execBrev f s
  | .cmp f => Sys2Proof.Machine.execCmp f s
  | .sel f => Sys2Proof.Machine.execSel f s
  | .mov f => Sys2Proof.Machine.execMov f s
  | .li f => Sys2Proof.Machine.execLi f s
  | .cvt f => Sys2Proof.Machine.execCvt f s
  | .fadd f => Sys2Proof.Machine.execFadd f s
  | .fsub f => Sys2Proof.Machine.execFsub f s
  | .fmul f => Sys2Proof.Machine.execFmul f s
  | .ffma f => Sys2Proof.Machine.execFfma f s
  | .fdiv f => Sys2Proof.Machine.execFdiv f s
  | .fmin f => Sys2Proof.Machine.execFmin f s
  | .fmax f => Sys2Proof.Machine.execFmax f s
  | .fcmp f => Sys2Proof.Machine.execFcmp f s
  | .fcls f => Sys2Proof.Machine.execFcls f s
  | .frnd f => Sys2Proof.Machine.execFrnd f s
  | .frcp f => Sys2Proof.Machine.execFrcp f s
  | .frsq f => Sys2Proof.Machine.execFrsq f s
  | .fsqrt f => Sys2Proof.Machine.execFsqrt f s
  | .fexp2 f => Sys2Proof.Machine.execFexp2 f s
  | .flog2 f => Sys2Proof.Machine.execFlog2 f s
  | .fsin f => Sys2Proof.Machine.execFsin f s
  | .fcos f => Sys2Proof.Machine.execFcos f s
  | .pand f => Sys2Proof.Machine.execPand f s
  | .por f => Sys2Proof.Machine.execPor f s
  | .pxor f => Sys2Proof.Machine.execPxor f s
  | .pnot f => Sys2Proof.Machine.execPnot f s
  | .pmov f => Sys2Proof.Machine.execPmov f s
  | .red f => Sys2Proof.Machine.execRed f s
  | .scan f => Sys2Proof.Machine.execScan f s
  | .topki f => Sys2Proof.Machine.execTopki f s
  | .sieve f => Sys2Proof.Machine.execSieve f s
  | .sieveExchange blk => Sys2Proof.Machine.execSieveExchange blk s
  | .ld f => Sys2Proof.Machine.execLd f s
  | .st f => Sys2Proof.Machine.execSt f s
  | .lds f => Sys2Proof.Machine.execLds f s
  | .sts f => Sys2Proof.Machine.execSts f s
  | .ldl f => Sys2Proof.Machine.execLdl f s
  | .stl f => Sys2Proof.Machine.execStl f s
  | .pref f => Sys2Proof.Machine.execPref f s
  | .pfa f => Sys2Proof.Machine.execPfa f s
  | .atom f => Sys2Proof.Machine.execAtom f s
  | .atomf f => Sys2Proof.Machine.execAtomf f s
  | .atomx f => Sys2Proof.Machine.execAtomx f s
  | .cas f => Sys2Proof.Machine.execCas f s
  | .txb f => Sys2Proof.Machine.execTxb f s
  | .txe f => Sys2Proof.Machine.execTxe f s
  | .txa f => Sys2Proof.Machine.execTxa f s
  | .txq f => Sys2Proof.Machine.execTxq f s
  | .fence f => Sys2Proof.Machine.execFence f s
  | .mon f => Sys2Proof.Machine.execMon f s
  | .rwb f => Sys2Proof.Machine.execRwb f s
  | .rinv f => Sys2Proof.Machine.execRinv f s
  | .locq f => Sys2Proof.Machine.execLocq f s
  | .cpy f => Sys2Proof.Machine.execCpy f s
  | .seal f => Sys2Proof.Machine.execSeal f s
  | .bari f => Sys2Proof.Machine.execBari f s
  | .bara f => Sys2Proof.Machine.execBara f s
  | .barx f => Sys2Proof.Machine.execBarx f s
  | .barq f => Sys2Proof.Machine.execBarq f s
  | .flag f => Sys2Proof.Machine.execFlag f s
  | .mxm f => Sys2Proof.Machine.execMxm f s
  | .mxg f => Sys2Proof.Machine.execMxg f s
  | .mxz f => Sys2Proof.Machine.execMxz f s
  | .mxld f => Sys2Proof.Machine.execMxld f s
  | .mxst f => Sys2Proof.Machine.execMxst f s
  | .mxw f => Sys2Proof.Machine.execMxw f s
  | .mxta f => Sys2Proof.Machine.execMxta f s
  | .mxtr f => Sys2Proof.Machine.execMxtr f s
  | .mxp f => Sys2Proof.Machine.execMxp f s
  | .mxq f => Sys2Proof.Machine.execMxq f s
  | .matrixRetire core => Sys2Proof.Machine.execMatrixRetire core s
  | .engineLeaseEnd core => Sys2Proof.Machine.execEngineLeaseEnd core s
  | .claq f => Sys2Proof.Machine.execClaq f s
  | .clrl f => Sys2Proof.Machine.execClrl f s
  | .clq f => Sys2Proof.Machine.execClq f s
  | .spawn f => Sys2Proof.Machine.execSpawn f s
  | .await f => Sys2Proof.Machine.execAwait f s
  | .qpop f => Sys2Proof.Machine.execQpop f s
  | .qpush f => Sys2Proof.Machine.execQpush f s
  | .qwput f => Sys2Proof.Machine.execQwput f s
  | .qwget f => Sys2Proof.Machine.execQwget f s
  | .wlapp f => Sys2Proof.Machine.execWlapp f s
  | .itemInList part => Sys2Proof.Machine.execItemInList part s
  | .wlpop f => Sys2Proof.Machine.execWlpop f s
  | .term f => Sys2Proof.Machine.execTerm f s
  | .movs f => Sys2Proof.Machine.execMovs f s
  | .movw f => Sys2Proof.Machine.execMovw f s
  | .sysc f => Sys2Proof.Machine.execSysc f s
  | .rft f => Sys2Proof.Machine.execRft f s
  | .tlbi f => Sys2Proof.Machine.execTlbi f s
  | .icinv f => Sys2Proof.Machine.execIcinv f s
  | .csave f => Sys2Proof.Machine.execCsave f s
  | .crest f => Sys2Proof.Machine.execCrest f s
  | .gstop f => Sys2Proof.Machine.execGstop f s
  | .groupPark g => Sys2Proof.Machine.execGroupPark g s
  | .loadAtHome id => Sys2Proof.Machine.execLoadAtHome id s
  | .loadResult id => Sys2Proof.Machine.execLoadResult id s
  | .storePerformed id => Sys2Proof.Machine.execStorePerformed id s
  | .atomicAtHome id => Sys2Proof.Machine.execAtomicAtHome id s
  | .leaseExpiry holder line => Sys2Proof.Machine.execLeaseExpiry holder line s
  | .monitorEviction g => Sys2Proof.Machine.execMonitorEviction g s
  | .stallEnd g => Sys2Proof.Machine.execStallEnd g s
  | .commit g lane => Sys2Proof.Machine.execCommit g lane s
  | .commitVisibility line => Sys2Proof.Machine.execCommitVisibility line s
  | .tokenReservationLapse part => Sys2Proof.Machine.execTokenReservationLapse part s
  | .darkroomMerge id => Sys2Proof.Machine.execDarkroomMerge id s
  | .copyLanding elem piece => Sys2Proof.Machine.execCopyLanding elem piece s
  | .copyElementFault elem => Sys2Proof.Machine.execCopyElementFault elem s
  | .trapEntry g => Sys2Proof.Machine.execTrapEntry g s
  | .blockPlacement grid => Sys2Proof.Machine.execBlockPlacement grid s
  | .starvationLift g => Sys2Proof.Machine.execStarvationLift g s
  | .contactSheetUpdate part ctx => Sys2Proof.Machine.execContactSheetUpdate part ctx s
  | .tickBoundary q => Sys2Proof.Machine.execTickBoundary q s
  | .prologueFault g => Sys2Proof.Machine.execPrologueFault g s
  | .tileFlagRelease grid => Sys2Proof.Machine.execTileFlagRelease grid s
  | .gridCompletion grid => Sys2Proof.Machine.execGridCompletion grid s
  | .childLaunch die => Sys2Proof.Machine.execChildLaunch die s
  | .blockSave blk => Sys2Proof.Machine.execBlockSave blk s
  | .hardSave grid => Sys2Proof.Machine.execHardSave grid s
  | .preemptionDeadline grid => Sys2Proof.Machine.execPreemptionDeadline grid s
  | .awaitSave blk => Sys2Proof.Machine.execAwaitSave blk s
  | .blockRestore blk => Sys2Proof.Machine.execBlockRestore blk s
  | .waitSatisfied q => Sys2Proof.Machine.execWaitSatisfied q s
  | .launch q e => Sys2Proof.Machine.execLaunch q e s
  | .launchPinned q e => Sys2Proof.Machine.execLaunchPinned q e s
  | .jointLaunch q e => Sys2Proof.Machine.execJointLaunch q e s
  | .preempt q e => Sys2Proof.Machine.execPreempt q e s
  | .restore q e => Sys2Proof.Machine.execRestore q e s
  | .signal q e => Sys2Proof.Machine.execSignal q e s
  | .waitCommand q e => Sys2Proof.Machine.execWaitCommand q e s
  | .copyCmd q e => Sys2Proof.Machine.execCopyCmd q e s
  | .copyCommandDone q => Sys2Proof.Machine.execCopyCommandDone q s
  | .mapContext q e => Sys2Proof.Machine.execMapContext q e s
  | .mapQueue q e => Sys2Proof.Machine.execMapQueue q e s
  | .mapContactSheet q e => Sys2Proof.Machine.execMapContactSheet q e s
  | .mapAperture q e => Sys2Proof.Machine.execMapAperture q e s
  | .mapTrapDescriptor q e => Sys2Proof.Machine.execMapTrapDescriptor q e s
  | .mapSaveRegion q e => Sys2Proof.Machine.execMapSaveRegion q e s
  | .unmapRange q e => Sys2Proof.Machine.execUnmapRange q e s
  | .unmapContext q e => Sys2Proof.Machine.execUnmapContext q e s
  | .unmapQueue q e => Sys2Proof.Machine.execUnmapQueue q e s
  | .unmapAperture q e => Sys2Proof.Machine.execUnmapAperture q e s
  | .partitionMerge q e => Sys2Proof.Machine.execPartitionMerge q e s
  | .partitionSplit q e => Sys2Proof.Machine.execPartitionSplit q e s
  | .mergeHandshakeTimeout part => Sys2Proof.Machine.execMergeHandshakeTimeout part s
  | .attest q e => Sys2Proof.Machine.execAttest q e s
  | .versionCmd q e => Sys2Proof.Machine.execVersionCmd q e s
  | .resetContext q e => Sys2Proof.Machine.execResetContext q e s
  | .resetPartition q e => Sys2Proof.Machine.execResetPartition q e s
  | .resetPatch q e => Sys2Proof.Machine.execResetPatch q e s
  | .logCmd q e => Sys2Proof.Machine.execLogCmd q e s
  | .doorbell fn ctx q tail => Sys2Proof.Machine.execDoorbell fn ctx q tail s
  | .aqctl fn val => Sys2Proof.Machine.execAqctl fn val s
  | .registerWrite fn off val => Sys2Proof.Machine.execRegisterWrite fn off val s
  | .functionLevelReset fn => Sys2Proof.Machine.execFunctionLevelReset fn s
  | .ptmDialogue fn master => Sys2Proof.Machine.execPtmDialogue fn master s
  | .coldReset => Sys2Proof.Machine.execColdReset s
  | .leaseHold die diff => Sys2Proof.Machine.execLeaseHold die diff s
  | .leaseHoldEnd die diff => Sys2Proof.Machine.execLeaseHoldEnd die diff s
  | .fabricRequest fn r => Sys2Proof.Machine.execFabricRequest fn r s
  | .acknowledgement id data => Sys2Proof.Machine.execAcknowledgement id data s
  | .fabricReplay id => Sys2Proof.Machine.execFabricReplay id s
  | .linkDown link => Sys2Proof.Machine.execLinkDown link s
  | .linkUp link ver => Sys2Proof.Machine.execLinkUp link ver s
  | .targetUnreachable module => Sys2Proof.Machine.execTargetUnreachable module s
  | .targetReachable module => Sys2Proof.Machine.execTargetReachable module s
  | .staleResponse die life => Sys2Proof.Machine.execStaleResponse die life s
  | .dieReset die => Sys2Proof.Machine.execDieReset die s
  | .dieFailed die => Sys2Proof.Machine.execDieFailed die s
  | .tableSwitch part table => Sys2Proof.Machine.execTableSwitch part table s
  | .forcedTableSwitch part table => Sys2Proof.Machine.execForcedTableSwitch part table s
  | .misrouted part => Sys2Proof.Machine.execMisrouted part s
  | .watchdogExpiry die => Sys2Proof.Machine.execWatchdogExpiry die s
  | .correctableError part str => Sys2Proof.Machine.execCorrectableError part str s
  | .uncorrectableError site => Sys2Proof.Machine.execUncorrectableError site s
  | .patrolScrub part errors => Sys2Proof.Machine.execPatrolScrub part errors s
  | .stackFailure stack => Sys2Proof.Machine.execStackFailure stack s
  | .fatalState => Sys2Proof.Machine.execFatalState s
  | .clockStep cause down => Sys2Proof.Machine.execClockStep cause down s
  | .thermalTrip => Sys2Proof.Machine.execThermalTrip s
  | .getVersion => Sys2Proof.Machine.execGetVersion s
  | .getHealth => Sys2Proof.Machine.execGetHealth s
  | .getTelemetry => Sys2Proof.Machine.execGetTelemetry s
  | .setPowerLimit watts => Sys2Proof.Machine.execSetPowerLimit watts s
  | .getPowerLimit => Sys2Proof.Machine.execGetPowerLimit s
  | .safelightResetModule => Sys2Proof.Machine.execSafelightResetModule s
  | .safelightResetFunction fn => Sys2Proof.Machine.execSafelightResetFunction fn s
  | .safelightResetMain => Sys2Proof.Machine.execSafelightResetMain s
  | .getLog off n => Sys2Proof.Machine.execGetLog off n s
  | .setPartitionDefault masks => Sys2Proof.Machine.execSetPartitionDefault masks s
  | .loadPatch image => Sys2Proof.Machine.execLoadPatch image s
  | .spdmGetVersion port => Sys2Proof.Machine.execSpdmGetVersion port s
  | .getCapabilities port => Sys2Proof.Machine.execGetCapabilities port s
  | .negotiateAlgorithms port => Sys2Proof.Machine.execNegotiateAlgorithms port s
  | .getDigests port => Sys2Proof.Machine.execGetDigests port s
  | .getCertificate port slot off len => Sys2Proof.Machine.execGetCertificate port slot off len s
  | .challenge port slot nonce => Sys2Proof.Machine.execChallenge port slot nonce s
  | .getMeasurements port index => Sys2Proof.Machine.execGetMeasurements port index s
  | .linkRetried link => Sys2Proof.Machine.execLinkRetried link s
  | .dieRestart die => Sys2Proof.Machine.execDieRestart die s
  | .blockNotSavedByBound blk why => Sys2Proof.Machine.execBlockNotSavedByBound blk why s
  | .hostPortError fn code => Sys2Proof.Machine.execHostPortError fn code s

end Sys2Proof.Machine
end

