-- ==== Sys2Proof/Machine/Sched.lean ====
section
/-! DEFINITION. What the machine does next: which group issues (R287, R291), how an instruction is fetched and issued (R90 to
R93, R107, R155), and the device's own work (R162, R187, R253 to R255, R275, R294, R339, R345). -/

namespace Sys2Proof.Machine

/-! ## Time (R6, R325, R332) -/

/-- Time passes: the step counter, `sy.gtc`, and the clocks of each working die (log entry 1). -/
def advanceTime (s : State) : State :=
  { s with
    tick := s.tick + 1
    gtc := s.gtc + BitVec.ofNat 64 (Config.elapsed s.tick)
    cyc := s.dies.foldl (fun m d =>
      if d.2.status = .up then mapMod 0 m d.1 fun c => c + BitVec.ofNat 64 (Config.clocks s.tick d.1) else m) s.cyc }

/-! ## Which instruction may issue while results are outstanding (R257, R291) -/

/-- The registers of an operand, as many as a pair may take: vector registers, then scalar registers from 512 on. -/
def touched : Operand → List Nat
  | .v n => [n.val, n.val + 1]
  | .s n => [512 + n.val, 513 + n.val]
  | _ => []

/-- Instructions that may issue before the earlier results of their group are back: compute instructions and branches that
touch no memory, and loads (R257; log entry 4). -/
def early (i : Instr) : Bool :=
  match i with
  | .nopBase _ => true
  | .braBase _ _ => true
  | .ld _ => true
  | .lds _ => true
  | .ldl _ => true
  | _ =>
    match xspec i with
    | some (n, _, _) => n ∈ [0x000, 0x001, 0x003, 0x009, 0x00A, 0x00B, 0x00D, 0x00E, 0x00F] || (0x040 ≤ n && n < 0x0C0)
    | none => (baseWord i).isSome

/-- The operands of an instruction, its destination among them. -/
def allOps (i : Instr) : List Operand :=
  match xspec i with
  | some (_, _, f) => [f.d, f.a, f.b, f.c]
  | none =>
    match baseWord i with
    | some (_, _, f) => [(baseForm f).d, (baseForm f).a, fieldB f]
    | none => []

/-- A store or atomic whose every live lane, or lane L with `.uni`, buffers it in an open transaction, or is doomed: until the lane's TXE it counts as
nothing but the read of its atomic (R306). -/
def buffered (s : State) (g : Nat) (i : Instr) : Bool :=
  let x := getGroup s g
  let all (f : XForm) : Bool := (if f.uni then (if runs x f then [lu x] else []) else lanes (live x f)).all fun i =>
    laneMode s g i true = .spec || laneMode s g i true = .doomed
  match i with
  | .st f => all f
  | .atom f => all f
  | .atomf f => all f
  | .atomx f => all f
  | .cas f => all f
  | _ => false

/-- A group's next instruction does not wait for the group's results that are still to come: every earlier load, atomic and
CAS has been performed, or the instruction neither touches memory in an order of R257 nor names a register that waits
(R291), or is a TXE and all that waits is held by a lock of the group's own (R183). -/
def mayIssue (s : State) (g : Nat) : Bool :=
  let ps := pendingOf s g
  if ps.isEmpty then true
  else
    let sp := groupSpace s g
    match peek s sp.1 sp.2 (getGroup s g).pc with
    | none => false
    | some i =>
      let ends : Bool := (match i with | .txe _ => true | _ => false) && ps.all (ownLocked s g)
      ((early i && !ps.any (·.peer)) || buffered s g i || ends) && (latchesOf (instrOps i)).isEmpty
        && ps.all fun l => (touched l.d).all fun r => !(((allOps i).flatMap touched).contains r)

/-! ## The choice of a group (R44, R287, R291) -/

/-- A group's next instruction waits for a home that is resetting, in fetching its words or as a prologue's, which may launch (R387), and
while the requests of its partition are stopped, because a fetch is one (R391; log entry 93). One at a peer waits for the group's stores
to peers and its die's requests to it (R326). -/
def fetchWaits (s : State) (g : Nat) : Bool :=
  let sp := groupSpace s g
  let pc := (getGroup s g).pc
  let away (va : DWord) : Bool := match placeOf sp.1 (xlat s sp.1 sp.2 va) with | some x => peerWaits s g x | none => false
  requestsStopped s sp.1 || away pc || away (pc + 16) || farBusy s sp.1 (xlat s sp.1 sp.2 pc) || farBusy s sp.1 (xlat s sp.1 sp.2 (pc + 16))
    || ((getGroup s g).prologue.isSome && partResetting s sp.1)

/-- A group whose next instruction can issue: it is ready, its die works, and nothing else is to happen to it first: no trap
that waits or is held (R339), no park (R251, R294), no end of a prologue (R353), no loss of its block (R375). -/
def issuable (s : State) (g : Nat) : Bool :=
  let x := getGroup s g
  x.status = .ready && x.held.isNone && !(s.losses.any fun e => e.1 = x.block) && (getDie s (groupDie g)).status = .up && (x.pend.isEmpty || chainGoesOn s g)
    && !(asked s g && atBoundary s g) && !prologueStops s g && !fetchWaits s g && mayIssue s g

/-- The groups that can issue. -/
def candidates (s : State) : List Nat := (s.groups.map (·.1)).filter (issuable s)

/-- One group of a sub-core comes before another (R44, R291). -/
def ahead (s : State) (a b : Nat) : Bool :=
  let x := getGroup s a
  let y := getGroup s b
  let sx : Bool := starvationLimit ≤ x.starve
  let sy : Bool := starvationLimit ≤ y.starve
  if chainGoesOn s a != chainGoesOn s b then chainGoesOn s a
  else if sx != sy then sx
  else if sx && x.starve ≠ y.starve then y.starve < x.starve
  else if yields s a != yields s b then yields s b
  else if x.prio ≠ y.prio then y.prio < x.prio
  else x.issued < y.issued

/-- The group of a list that comes first. -/
def first (s : State) : List Nat → Option Nat
  | [] => none
  | g :: r => some (r.foldl (fun m h => if ahead s h m then h else m) g)

/-- The group of a list that issued least recently. -/
def oldest (s : State) : List Nat → Option Nat
  | [] => none
  | g :: r => some (r.foldl (fun m h => if (getGroup s h).issued < (getGroup s m).issued then h else m) g)

/-- The issue slot of a sub-core that chooses next takes its group from these: slot 1 the other groups of the clock in which slot 0
has taken one; with none that can issue, slot 0 begins a new clock (R291; log entry 8). -/
def slotChoice (s : State) (cs : List Nat) (u : Nat) : List Nat :=
  let all := cs.filter fun g => slotSub g = u
  let others := all.filter fun g => !s.slot0.contains g
  if (s.slot0.any fun g => slotSub g = u) && !others.isEmpty then others else all

/-- A group's next instruction is a CLAQ. -/
def claims (s : State) (g : Nat) : Bool :=
  let sp := groupSpace s g
  match peek s sp.1 sp.2 (getGroup s g).pc with
  | some (.claq _) => true
  | _ => false

/-- The groups that a sub-core issues in what is left of its clock (R291). -/
def inClock (s : State) (cs : List Nat) (u : Nat) : List Nat :=
  match first s (slotChoice s cs u) with
  | none => []
  | some g =>
    g :: (if s.slot0.any fun h => slotSub h = u then [] else (first s (cs.filter fun h => slotSub h = u && h ≠ g)).toList)

/-- The requests that groups of a core submit in one clock arrive at its Proofer in increasing resident slot (R289): the step of a group
that submits one comes after those of the lower slots whose sub-cores, its own among them, issue a request in their clock. -/
def lowerClaim (s : State) (cs : List Nat) (g : Nat) : Nat :=
  if claims s g then
    (cs.filter fun h => slotCore h = slotCore g && h < g && claims s h && (inClock s cs (slotSub h)).contains h).foldl min g
  else g

/-- The group that issues next: the first of the sub-core that `sched` names, or else of the sub-core that has waited longest
(log entry 8). -/
def pick (s : State) : Option Nat :=
  let cs := candidates s
  match s.sched.find? fun u => cs.any fun g => slotSub g = u with
  | some u => (first s (slotChoice s cs u)).map (lowerClaim s cs)
  | none =>
    match oldest s cs with
    | some o => (first s (slotChoice s cs (slotSub o))).map (lowerClaim s cs)
    | none => none

/-! ## Issue -/

/-- A group takes slot 1 of a clock in which slot 0 of its sub-core has taken another (R291). -/
def takesSlot1 (s : State) (g : Nat) : Bool := (s.slot0.any fun h => slotSub h = slotSub g) && !s.slot0.contains g

/-- The requests of the fetch of a group's instruction, for the words that lie at a peer (R326, R382). -/
def askFetch (s : State) (g : Nat) : State :=
  let sp := groupSpace s g
  let pc := (getGroup s g).pc
  let away (va : DWord) : Bool := match xlat s sp.1 sp.2 va with
    | .ok pa _ _ => (match space sp.1 pa with | .peer _ _ => true | _ => false)
    | _ => false
  if away pc || away (pc + 16) then
    match fetch s sp.1 sp.2 pc with
    | .ok ws => askRange s sp.1 (groupDie g) (xlat s sp.1 sp.2) pc (4 * ws.length)
    | .error _ => s
  else s

/-- The state in which a group issues. With slot 1 the clock of the sub-core is over, and every other group that could have issued
in it has waited one clock more (R291); the issue counts for the group's phase (R293); and its fetch has made its requests. -/
def issuing (s : State) (g : Nat) : State :=
  let s := askFetch s g
  let u := slotSub g
  let done := takesSlot1 s g
  let rest := s.slot0.filter fun h => slotSub h ≠ u
  { s with
    cur := g
    sched := if s.sched.contains u then (s.sched.dropWhile (· ≠ u)).drop 1 else s.sched
    slot0 := if done then rest else rest ++ [g]
    groups := s.groups.map fun e =>
      (e.1, if e.1 = g then
          { e.2 with issued := s.tick, starve := 0, phaseIssues := e.2.phaseIssues + 1
                     prologue := e.2.prologue.map fun p => { p with count := p.count + 1 } }
        else if done && slotSub e.1 = u && !s.slot0.contains e.1 && issuable s e.1 then { e.2 with starve := e.2.starve + 1 }
        else e.2) }

/-- An instruction that cannot be fetched: an absent page parks the group (R345); anything else traps at the target (R155). -/
def fetchTrap (s : State) (e : FetchFault) : Out :=
  if e.code = 0x11 then .next (fetchPark s s.cur e) else trapAt s { len := 0 } e.code 0 e.detail e.addr e.entry

/-- A group issues the instruction at its program counter: fetched (R91), decoded, and refused by the illegal-instruction trap
when it is reserved (R107). DESIGN CHOICE: every word that LEN gives is fetched first, so a reserved first word whose later words
cannot be fetched takes the fetch fault; R107 and R335 do not rank the two (log entry 111). -/
def issueFrom (s : State) (g : Nat) : Out :=
  let t := issuing s g
  let sp := groupSpace t g
  match fetch t sp.1 sp.2 (curGroup t).pc with
  | .error e => fetchTrap t e
  | .ok ws =>
    match decodeBits (bitsOf ws) with
    | .error d => trapI t { len := 0 } 0x01 d
    | .ok r => exec r.1 t

/-! ## The device's own work -/

/-- A stalled group would go on: its instruction, issued again, does not stall where it stood (R188), or halts at a stop token
(R242). -/
def goesOn (s : State) (g : Nat) : Bool :=
  match execStallEnd g s with
  | .next t =>
    (match issueFrom t g with
    | .next u => (match (getGroup u g).status with
      | .stalled why => why = .halted || (getGroup u g).pushed ≠ (getGroup s g).pushed
      | _ => true)
    | _ => true)
  | _ => false

/-- The command that an entry stands for (R318). -/
def commandInstr (q : QRef) (e : CmdEntry) : Option Instr :=
  let n := e.sub.toNat
  match e.op.toNat with
  | 1 =>
    if n = 0 then some (.launch q e) else if n = 1 then some (.launchPinned q e) else if n = 0x80 then some (.preempt q e)
    else if n = 0x81 then some (.restore q e) else some (.jointLaunch q e)
  | 2 => some (.signal q e)
  | 3 => some (.waitCommand q e)
  | 4 => some (.copyCmd q e)
  | 5 =>
    if n = 0 then some (.mapContext q e) else if n = 1 then some (.mapQueue q e)
    else if n = 2 then some (.mapContactSheet q e) else if n = 3 then some (.mapAperture q e)
    else if n = 4 then some (.mapTrapDescriptor q e) else some (.mapSaveRegion q e)
  | 6 =>
    if n = 0 then some (.unmapRange q e) else if n = 1 then some (.unmapContext q e)
    else if n = 2 then some (.unmapQueue q e) else some (.unmapAperture q e)
  | 7 => if n = 1 then some (.partitionMerge q e) else some (.partitionSplit q e)
  | 8 => some (.attest q e)
  | 9 => some (.versionCmd q e)
  | 10 =>
    if n = 0 then some (.resetContext q e) else if n = 1 then some (.resetPartition q e) else some (.resetPatch q e)
  | 11 => some (.logCmd q e)
  | _ => none

/-- The events that may be due to a group. -/
def groupEvents (s : State) (g : Nat) (x : Group) : List Instr :=
  List.flatten
    [if asked s g then [.groupPark g] else [],
      if x.pend.isEmpty && x.held.isNone then [] else [.trapEntry g],
      if x.prologue.isSome then [.prologueFault g] else [],
      match x.status with
      | .stalled _ => if goesOn s g then [.stallEnd g] else []
      | _ => []]

/-- The event due to a load or a returning atomic in flight. -/
def loadEvent (l : PLoad) : Instr :=
  if l.got.isSome then .loadResult l.id else if l.op.isSome then .atomicAtHome l.id else .loadAtHome l.id

/-- The event due to a store or a no-return atomic in flight. -/
def storeEvent (t : PStore) : Instr :=
  match t.op with
  | .bytes _ => .storePerformed t.id
  | _ => .atomicAtHome t.id

/-- The events due to a copy element. -/
def elemEvents (e : Nat × Elem) : List Instr :=
  if e.2.done then [] else (pieces e.2).map (fun k => Instr.copyLanding e.1 k) ++ [Instr.copyElementFault e.1]

/-- The answer of another module to a request (R382; log entry 22). -/
def peerAnswer (s : State) (x : Sent) : Instr :=
  .acknowledgement x.id (BitVec.ofNat 64 (leNat (peerBytes s.tick 0 x.id 8)))

/-- The events that may be due to memory: stores, loads and atomics at their homes, results, acknowledgements, merges, copy
pieces and images. -/
def memoryEvents (s : State) : List Instr :=
  List.flatten
    [s.stores.map storeEvent, s.loads.map loadEvent, s.wbs.map fun w => Instr.darkroomMerge w.id, s.elems.flatMap elemEvents,
      s.homes.map fun h => Instr.commitVisibility h.1,
      (s.sent.filter fun x => x.module ≠ s.hub.number && !s.unreach.contains x.module).map (peerAnswer s)]

/-- The events that may be due to a queue. -/
def queueEvents (s : State) (q : QRef) : List Instr :=
  match headEntry s q with
  | some (.ok c) => [.tickBoundary q, .waitSatisfied q, .copyCommandDone q] ++ (commandInstr q c).toList
  | _ => [.tickBoundary q, .waitSatisfied q, .copyCommandDone q]

/-- The events that may be due to a partition: appends, the token's reservation, its contact sheets, and its queues. -/
def partEvents (s : State) (p : Nat) (pt : Partition) : List Instr :=
  [.itemInList p, .tokenReservationLapse p, .mergeHandshakeTimeout p] ++ pt.ctxs.map (fun c => Instr.contactSheetUpdate p c.1) ++ pt.queues.flatMap fun e => queueEvents s e.1

/-- The events that may be due to a block, and to a grid. -/
def blockEvents (b : Nat) : List Instr := [.sieveExchange b, .blockSave b, .blockRestore b, .awaitSave b]
def gridEvents (i : Nat) : List Instr :=
  [.tileFlagRelease i, .gridCompletion i, .hardSave i, .preemptionDeadline i, .blockPlacement i]

/-- The events that may be due, in the order in which they are tried. -/
def events (s : State) : List Instr :=
  List.flatten
    [s.groups.flatMap fun e => groupEvents s e.1 e.2, memoryEvents s,
      s.cores.flatMap fun e => [Instr.matrixRetire e.1, Instr.engineLeaseEnd e.1],
      s.blocks.flatMap fun e => blockEvents e.1, s.grids.flatMap fun e => gridEvents e.1,
      s.dies.map fun e => Instr.childLaunch e.1, s.parts.flatMap fun e => partEvents s e.1 e.2,
      s.copies.flatMap fun e => e.2.map fun c => Instr.leaseExpiry e.1 c.1,
      (s.groups.filter fun e => e.2.yielding).map fun e => Instr.yieldEnd e.1]

/-- The state after a step, if it is due. -/
def ifDue : Out → Option State
  | .next t => some t
  | _ => none

/-- The state after an event, if it is due. -/
def tryEvent (s : State) (i : Instr) : Option State := ifDue (exec i s)

/-- A lease hold that has not ended within 1 ms puts the module in the fatal state (R396). -/
def holdWork (s : State) : Option State :=
  (s.dies.find? fun e => e.2.hold && e.2.holdAt + 1000000 < hubGtc s).map fun _ => goFatal s

/-- The switch of a table whose requests have drained or are late, the failure of a die that has not come back, the record of a
block that is not saved by its bound, the completion of a change of partitions, and a lease hold without an end (R359, R387, R391, R392,
R394, R396). -/
def lateWork (s : State) : Option State :=
  (s.blocks.findSome? fun e => [LateReason.lock, .peer, .tokenHolder, .handler, .regionFull].findSome? fun w =>
    ifDue (execBlockNotSavedByBound e.1 w s)).or <| (s.parts.findSome? fun e => [0, 1].findSome? fun k =>
      (ifDue (execTableSwitch e.1 k s)).or (ifDue (execForcedTableSwitch e.1 k s))).or
    ((s.dies.findSome? fun e => ifDue (execDieFailed e.1 s)).or
      ((s.parts.findSome? fun e => e.2.making.bind (makeChange s e.1)).or (holdWork s)))

/-! ## Work that is no event of the table -/

/-- A block whose groups have met poison is lost (R375). -/
def lossWork (s : State) : Option State :=
  match s.losses with
  | [] => none
  | (b, m, va, pa) :: r =>
    let s := { s with losses := r }
    some (if (getBlock s b).status = .ended || (getBlock s b).status = .lost then s else loseBlock s b m 6 true va pa)

/-- A notice is written once the stores of its group before it are complete (R346). -/
def noticeWork (s : State) : Option State :=
  (s.notices.find? fun n => !frontWaits s n.part && uidComplete s n.uid n.die).map fun n => writeNotice { s with notices := s.notices.erase n } n

/-- The oldest hint of a core is served, while its die may make requests (R166, R387, R391). -/
def hintWork (s : State) : Option State :=
  (s.cores.find? fun e => match e.2.hints with
    | [] => false
    | h :: _ => (getDie s (coreDie e.1)).status = .up && !requestsStopped s h.1.1).map fun e => serveHint s e.1

/-- A group that a restartable fault parked replays after the next TLBI of its context: its latch chain from the first
instruction if it stands inside one (R345, R348, R366). -/
def replayWork (s : State) : Option State :=
  let due (e : Nat × Group) : Bool :=
    let sp := groupSpace s e.1
    e.2.status = .parked .pageFault && e.2.prologue.isNone && (getBlock s e.2.block).status = .resident
      && (getCtx s sp.1 sp.2).tlbi ≠ e.2.tlbiSeen
  (s.groups.find? due).map fun e => replay s e.1

/-- A grid that was asked to be saved and has no block left to save is saved, and its command's record may be written (R294, R391). -/
def savedWork (s : State) : Option State :=
  (s.grids.find? fun e => e.2.status = .draining && !frontWaits s e.2.part && (unsaved s e.1).isEmpty).map fun e => testSaved s e.1

/-- An entry at the head of a command queue that is no command (R364, R376). -/
def badEntryWork (s : State) : Option State :=
  s.parts.findSome? fun p => p.2.queues.findSome? fun e => serveBad s e.1

/-- A vector is raised once its completion record is complete (R319). -/
def raiseWork (s : State) : Option State :=
  s.parts.findSome? fun p => (p.2.raising.find? fun w => storedPast s w.1 w.2.2).map fun w =>
    raiseVector (modPart s p.1 fun x => { x with raising := x.raising.erase w }) p.1 w.2.1

/-- A function reset whose given-up commands have completed takes effect (R318, R319). -/
def resetWork (s : State) : Option State :=
  (s.parts.find? fun p => p.2.leaving && !partLeft s p.1).map fun p => endReset s p.1

/-- A cache lets go of a darkroom line, whose dirty bytes are written back as RWB does, or of an update-only line, whose sums go to
the home, at a time that no rule fixes (R169, R191; log entry 6), while its die may make requests (R387, R391). -/
def evictWork (s : State) : Option State :=
  let may (d l : Nat) : Bool := (getDie s d).status = .up && !requestsStopped s (keyPart (128 * l))
  (s.dark.findSome? fun d => (d.2.find? fun l => may d.1 l.1 && Config.evicts s.tick d.1 l.1).map fun l =>
      dropDark (writeBack s d.1 l.1 none) d.1 l.1).or
    (s.cores.findSome? fun c => (c.2.gather.find? fun l => may (coreDie c.1) l.1 && Config.evicts s.tick (8 + c.1) l.1).map fun l => sendGather s c.1 l.1)

/-- A monitor's registration is lost: its 2^24 ticks are over, or its home slice has no room for it (R189; log entry 6). -/
def monitorWork (s : State) : Option State :=
  s.homes.findSome? fun h => (h.2.watchers.find? fun u =>
      monitorTime s u + 2 ^ 24 ≤ homeGtc s h.1 || Config.evicts s.tick (512 + u) h.1).map (loseMonitor s h.1)

/-- The front end asks that a grid be saved, when another grid has not ended (R294; log entry 74). -/
def frontWork (s : State) : Option State :=
  let others (i : Nat) : Bool := s.grids.any fun e => e.1 ≠ i && e.2.status ≠ .done
  s.grids.findSome? fun e =>
    if e.2.status = .running && others e.1 then
      (Config.frontAsks s.tick e.1).map fun d => askSave s e.1 (if d = 0 then none else some (dieGtc s e.2.die + d))
    else none

/-- The first work of the device that can be done now. -/
def nextWork (s : State) : Option State :=
  (lossWork s).or <| ((events s).findSome? (tryEvent s)).or <| (lateWork s).or <| (noticeWork s).or <| (hintWork s).or <| (replayWork s).or <|
    (savedWork s).or <| (raiseWork s).or <| (resetWork s).or <| (badEntryWork s).or <| (fabricWork s).or <| (evictWork s).or <| (monitorWork s).or <|
      frontWork s

/-! ## One step -/

/-- Steps of the always-on domain, which go on while the main domain is off or in the fatal state (R328, R332, R396, R399). -/
def alwaysOn (i : Instr) : Bool :=
  match i with
  | .coldReset | .getVersion | .getHealth | .getTelemetry | .setPowerLimit _ | .getPowerLimit | .safelightResetModule
  | .safelightResetFunction _ | .safelightResetMain | .getLog _ _ | .setPartitionDefault _ | .loadPatch _ => true
  | .spdmGetVersion p => p = .safelight
  | .getCapabilities p => p = .safelight
  | .negotiateAlgorithms p => p = .safelight
  | .getDigests p => p = .safelight
  | .getCertificate p _ _ _ => p = .safelight
  | .challenge p _ _ => p = .safelight
  | .getMeasurements p _ => p = .safelight
  | _ => false

/-- A step that the outside has chosen. An instruction is no such step: only a group issues one. -/
def chosen (s : State) (i : Instr) : Out :=
  if s.hub.power ≠ .up && !alwaysOn i then .fault .mainDomainDown
  else if i.encoded then .fault .notDue
  else exec i s

/-- A step that the machine takes by itself: work of the device, or the issue of one instruction; where both can happen, which
comes first is free (log entry 5). With neither, or with the main domain off or in the fatal state, only time passes (R325, R332,
R396). -/
def byItself (s : State) : Out :=
  if s.hub.power ≠ .up then .next s
  else
    match nextWork s, pick s with
    | some t, some g => if Config.workFirst s.tick then .next t else issueFrom s g
    | some t, none => .next t
    | none, some g => issueFrom s g
    | none, none => .next s

/-- One step of the machine. -/
def oneStep (s : State) : Out :=
  let t := advanceTime s
  match t.agenda with
  | i :: r => chosen { t with agenda := r } i
  | [] => byItself t

end Sys2Proof.Machine
end

