-- ==== Sys2Proof/Machine/Step.lean ====
section
/-! DEFINITION. The step of the machine, and the state in which a given instruction is the next to issue. -/

namespace Sys2Proof.Machine

/-- One step (Sched.lean). -/
def step (s : State) : Host.Outcome State Fault Refusal := oneStep s

/-! ## A machine whose next step issues a given instruction (log entry 12) -/

/-- The group of `withFetchWord`: it fills slot 0 of core 0, all of its lanes are in `xm`, and its program counter is 0. -/
def State.fetchGroup : Group :=
  { status := .ready, uid := 1, block := 1, xm := LaneMask.full, range := 512, role := .none }

/-- Its grid: one block on core 0 in context 1 of partition 0. -/
def State.fetchGrid : Grid :=
  { status := .running, part := 0, ctx := 1, hdr := { regi := 64, regm := 64, sqi := 2, sqm := 2, mxem := 1, cpcm := 1 }
    lrec := { nlvl := 3, lvl := [1, 0, 0, 0, 0, 0], ext := [1, 1, 0, 0, 0, 0] }, blocks := 1, next := 1, live := [1] }

/-- Its block: two squares, a copy channel and an engine grant. -/
def State.fetchBlock : Block :=
  { status := .resident, grid := 1, cores := [0], groups := [0], sqrs := [[0, 1]], chans := [0], mxe := [true], win := [none]
    spilled := [false] }

/-- The partition: context 1 has its root table at physical address 0. -/
def State.fetchPart : Partition := { live := true, mask := 0b1111#4, ctxs := [(1, { root := some 0 })] }

/-- Core 0: the block is the one claimant of the common pool. -/
def State.fetchCore : Core :=
  let a : Amt := { reg := 64, sqr := 2, mxe := 1, cpc := 1 }
  { pools := [{ total := { reg := 512, sqr := 128, mxe := 1, cpc := 4 },
                claimants := [{ block := some 1, grid := 1, hold := a, max := a }] }] }

/-- The memory: the root table's first entry names the table at 1 MiB, whose first entry maps virtual address 0 to the 1 GiB
page at physical address 2^30, and the instruction stands there. -/
def State.fetchMem (m : List Host.Cell) (nbits w : Nat) : List Host.Cell :=
  memPut (memPut (memPut m 0 (leBytes 8 0x100001)) 0x100000 (leBytes 8 0x40000003)) 0x40000000 (leBytes 20 (w % 2 ^ nbits))

/-- A state whose next step issues the instruction with bits `w` (R35 to R40, R55, R91, R287): one group of a launched grid,
and nothing else that could happen first. The group keeps the register files of the group in slot 0 of `s`. It stands for
the launch that a host makes. -/
def State.withFetchWord (s : State) (nbits w : Nat) : State :=
  let x := (mapFind s.groups 0).getD {}
  { State.reset with
    tick := s.tick, gtc := s.gtc, hub := { s.hub with power := .up }, mem := State.fetchMem s.mem nbits w
    groups := [(0, { State.fetchGroup with v := x.v, s := x.s, hs := x.hs, p := x.p, fpflags := x.fpflags })]
    grids := [(1, State.fetchGrid)], blocks := [(1, State.fetchBlock)]
    cores := [(0, State.fetchCore)], parts := [(0, State.fetchPart)], nextId := 2 }

end Sys2Proof.Machine
end

