-- ==== Sys2Proof/Safety.lean ====
section
/-! DEFINITION. What claims are stated in: outcomes that go on, runs, and the invariants of a state. -/

namespace Sys2Proof.Safety

open Machine

/-- An outcome that goes on. -/
def goesOn (o : Host.Outcome State Fault Refusal) : Bool :=
  match o with
  | .next _ => true
  | _ => false

/-- A run of some steps; it stops at the first fault or refusal. -/
def run : Nat → State → Host.Outcome State Fault Refusal
  | 0, s => .next s
  | n + 1, s =>
    match step s with
    | .next t => run n t
    | o => o

/-- A run is safe for a number of steps: no step of it ends in a fault or a refusal. Taking a trap is a next state. -/
def safeFor (n : Nat) (s : State) : Prop := goesOn (run n s) = true

/-- Memory stands in its canonical form. -/
def memoryWf (s : State) : Prop := Memory.wf s.mem = true

end Sys2Proof.Safety
end

