-- ==== Sys2Proof/Certificates/Slice0/Obligations.lean ====
section
/-! DEFINITION. The statements about the model, one `def Obligations.<Name> : Prop` each, and the words they are written in. -/

/-! # Words of the statements -/

namespace Sys2Proof.Stated

open Sys2Proof Sys2Proof.Machine

/-- The checks at issue find nothing (R335). -/
abbrev Passes (s : State) (k : Issue) : Prop := issueFault s k = none

/-- What a lane receives: its own value, or the one value at lane L of a uniform execution (R115, R116). -/
def laneGets (g : Group) (u : Bool) (y : Nat → DWord) (i : Nat) : DWord := if u then y (lu g) else y i

/-- A lane of a vector register after an instruction with the values `y`: bits 31 to 0 in the destination, bits 63 to 32 in
the next register of a pair, in the lanes that it writes; as before in every other register and lane (R10, R25, R115). -/
def vectorAfter (g : Group) (f : XForm) (u pair : Bool) (y : Nat → DWord) (n i : Nat) : Word :=
  match f.d with
  | .v d =>
    if (writes g f u).getLsbD i = true ∧ n = d.val then (laneGets g u y i).setWidth 32
    else if (writes g f u).getLsbD i = true ∧ pair = true ∧ n = d.val + 1 then (laneGets g u y i >>> 32).setWidth 32
    else vRead g n i
  | _ => vRead g n i

/-- A scalar register after it: the value at lane L if the guard holds there; `s0` keeps reading zero (R10, R116). -/
def scalarAfter (h : Bool) (g : Group) (f : XForm) (y : Nat → DWord) (n : Nat) : DWord :=
  match f.d with
  | .s d => if runs g f = true ∧ n = d.val ∧ d.val ≠ 0 then y (lu g) else sRead h g n
  | _ => sRead h g n

/-- A bit of a predicate register after it: bit 0 of what the lane gets; `p0` keeps reading one (R154). -/
def predAfter (g : Group) (f : XForm) (u : Bool) (y : Nat → DWord) (n i : Nat) : Bool :=
  match f.d with
  | .p d =>
    if n = d.val ∧ d.val ≠ 0 ∧ (writes g f u).getLsbD i = true then (laneGets g u y i).getLsbD 0
    else (pRead g n).getLsbD i
  | _ => (pRead g n).getLsbD i

/-- Only the register files, the program counter, the floating flags and the latch chain of a group differ. -/
def OnlyResults (x g : Group) : Prop :=
  g = { x with v := g.v, s := g.s, hs := g.hs, p := g.p, pc := g.pc, fpflags := g.fpflags, latches := g.latches,
               chainPc := g.chainPc, chainLen := g.chainLen, chainPush := g.chainPush }

/-- The scalar bank that the group does not see keeps its contents (R341). -/
def OtherBank (h : Bool) (x g : Group) : Prop := (h = false → g.hs = x.hs) ∧ (h = true → ∀ n, 88 ≤ n → mapGet 0 g.s n = mapGet 0 x.s n)

/-- The latches after it: its result on top, over the earlier ones if it read a latch (R41). -/
def latchesAfter (s : State) (f : XForm) (k : Issue) (u pair : Bool) (y : Nat → DWord) : List Latch :=
  let g := curGroup s
  let z := if u then y else laneValue pair y
  ((if pushes f then pushOf s g f u z else none).toList ++ (if readsLatch k then g.latches else [])).take 4

/-- An instruction computed the values `y` and raised the flags `fl`: the next state differs from `s` in the issuing group
only; the destination holds the values, `sy.fpflags` has the flags ORed in, the program counter has moved past the
instruction, the result is in the latches, and everything else of the group is as it was. -/
def Computed (s : State) (f : XForm) (k : Issue) (u pair : Bool) (y : Nat → DWord) (fl : FFlags) (o : Out) : Prop :=
  let x := curGroup s
  let h := hidden s s.cur
  ∃ g : Group, o = .next (setCur s g)
    ∧ (∀ n i, i < 128 → vRead g n i = vectorAfter x f u pair y n i)
    ∧ (∀ n, sRead h g n = scalarAfter h x f y n)
    ∧ (∀ n i, i < 128 → (pRead g n).getLsbD i = predAfter x f u y n i)
    ∧ g.pc = x.pc + BitVec.ofNat 64 k.len
    ∧ g.fpflags = raiseFlags x.fpflags fl
    ∧ g.latches = latchesAfter s f k u pair y
    ∧ OtherBank h x g ∧ OnlyResults x g

/-- The flags that the lanes of an instruction raise together: none under a zero mask (R76). -/
def flagsRaised (g : Group) (f : XForm) (u : Bool) (fl : Nat → FFlags) : FFlags :=
  if u then (if runs g f = true ∧ g.xm ≠ 0 then fl (lu g) else 0) else (lanes (live g f)).foldl (fun a i => a ||| fl i) 0

/-- The issuing group has gone past its instruction with nothing else changed but its latch chain (R41, R114). -/
def Past (s : State) (k : Issue) : State := setCur s (advance (curGroup s) k.len (readsLatch k) false none)

/-- The issuing group goes on at an address, with nothing else changed but its latch chain. -/
def Goes (s : State) (k : Issue) (pc : DWord) : State :=
  setCur s { advance (curGroup s) k.len (readsLatch k) false none with pc }

/-- The issuing group after a scalar result: the register written, the value pushed, the program counter moved on. -/
def ScalarDone (s : State) (x : Group) (f : XForm) (k : Issue) (v : DWord) : State :=
  setCur s (advance (match f.d with | .s n => sWrite (hidden s s.cur) x n.val v | _ => x) k.len (readsLatch k) (pushes f)
    (some (.scalar v)))

/-! ## Tables of the instructions of one shape -/

/-- The integer instructions of R137, R139 and R141 with their length and the operation on their sources. -/
def integerOf : Instr → Option (XForm × Nat × IntFn)
  | .addBase f => some (baseForm f, 4, iAdd)
  | .subBase f => some (baseForm f, 4, iSub)
  | .mulBase f => some (baseForm f, 4, iMul)
  | .mulhBase f => some (baseForm f, 4, iMulh)
  | .minBase f => some (baseForm f, 4, iMin)
  | .maxBase f => some (baseForm f, 4, iMax)
  | .andBase f => some (baseForm f, 4, iAnd)
  | .orBase f => some (baseForm f, 4, iOr)
  | .xorBase f => some (baseForm f, 4, iXor)
  | .andnBase f => some (baseForm f, 4, iAndn)
  | .shlBase f => some (baseForm f, 4, iShl)
  | .shrBase f => some (baseForm f, 4, iShr)
  | .sarBase f => some (baseForm f, 4, iSar)
  | .rotlBase f => some (baseForm f, 4, iRotl)
  | .movBase f => some (baseMov f, 4, fun _ _ _ b _ => b)
  | .add f => some (f, xLen f, iAdd)
  | .sub f => some (f, xLen f, iSub)
  | .mul f => some (f, xLen f, iMul)
  | .mulh f => some (f, xLen f, iMulh)
  | .mad f => some (f, xLen f, iMad)
  | .min f => some (f, xLen f, iMin)
  | .max f => some (f, xLen f, iMax)
  | .abs f => some (f, xLen f, iAbs)
  | .neg f => some (f, xLen f, iNeg)
  | .and f => some (f, xLen f, iAnd)
  | .or f => some (f, xLen f, iOr)
  | .xor f => some (f, xLen f, iXor)
  | .andn f => some (f, xLen f, iAndn)
  | .not f => some (f, xLen f, iNot)
  | .shl f => some (f, xLen f, iShl)
  | .shr f => some (f, xLen f, iShr)
  | .sar f => some (f, xLen f, iSar)
  | .rotl f => some (f, xLen f, iRotl)
  | .bfx f => some (f, xLen f, iBfx)
  | .bfi f => some (f, xLen f, iBfi)
  | .clz f => some (f, xLen f, iClz)
  | .popc f => some (f, xLen f, iPopc)
  | .brev f => some (f, xLen f, iBrev)
  | .mov f => some (f, xLen f, fun _ _ _ b _ => b)
  | _ => none

/-- The comparisons of R140 with their length. -/
def compareOf : Instr → Option (XForm × Nat)
  | .cmpEqBase f => some (baseCmp f 0, 4)
  | .cmpNeBase f => some (baseCmp f 1, 4)
  | .cmpLtBase f => some (baseCmp f 2, 4)
  | .cmpLeBase f => some (baseCmp f 3, 4)
  | .cmpGtBase f => some (baseCmp f 4, 4)
  | .cmpGeBase f => some (baseCmp f 5, 4)
  | .cmp f => some (f, xLen f)
  | _ => none

/-- The floating instructions of R146 to R152 with their length and operation. -/
def floatingOf : Instr → Option (XForm × Nat × FltFn)
  | .faddBase f => some (baseForm f, 4, opFadd)
  | .fsubBase f => some (baseForm f, 4, opFsub)
  | .fmulBase f => some (baseForm f, 4, opFmul)
  | .fminBase f => some (baseForm f, 4, opFminmax false)
  | .fmaxBase f => some (baseForm f, 4, opFminmax true)
  | .fadd f => some (f, xLen f, opFadd)
  | .fsub f => some (f, xLen f, opFsub)
  | .fmul f => some (f, xLen f, opFmul)
  | .ffma f => some (f, xLen f, opFfma)
  | .fdiv f => some (f, xLen f, opFdiv)
  | .fmin f => some (f, xLen f, opFminmax false)
  | .fmax f => some (f, xLen f, opFminmax true)
  | .frnd f => some (f, xLen f, opFrnd)
  | .frcp f => some (f, xLen f, opApprox .rcp)
  | .frsq f => some (f, xLen f, opApprox .rsq)
  | .fsqrt f => some (f, xLen f, opFsqrt)
  | .fexp2 f => some (f, xLen f, opApprox .exp2)
  | .flog2 f => some (f, xLen f, opApprox .log2)
  | .fsin f => some (f, xLen f, opApprox .sin)
  | .fcos f => some (f, xLen f, opApprox .cos)
  | .fcmp f => some (f, xLen f, fun t _ a b _ =>
      let r := fCompare f.fn.toNat (fval (fmtOf t) a) (fval (fmtOf t) b)
      (truth r.1, r.2))
  | .fcls f => some (f, xLen f, fun t _ a mask _ =>
      (truth (mask.getLsbD (fClass (fmtOf t) (extend false (tyBits t) a))), 0))
  | _ => none

/-- The predicate instructions of two or one predicate sources (R153) with their length and operation. -/
def predicateOf : Instr → Option (XForm × Nat × (Bool → Bool → Bool))
  | .pandBase f => some (basePred f, 4, (· && ·))
  | .porBase f => some (basePred f, 4, (· || ·))
  | .pxorBase f => some (basePred f, 4, (· != ·))
  | .pand f => some (f, xLen f, (· && ·))
  | .por f => some (f, xLen f, (· || ·))
  | .pxor f => some (f, xLen f, (· != ·))
  | .pnot f => some (f, xLen f, fun a _ => !a)
  | _ => none

/-- The uniform instructions that a false guard at lane L turns into nothing but an advance (R116), with what the checks at
issue look at. -/
def guardedOf : Instr → Option (XForm × Issue)
  | .nopBase g => some ({ gp := Fin.ofNat 16 g.val }, { len := 4 })
  | .braBase g _ => some ({ gp := Fin.ofNat 16 g.val }, ctlIssue { gp := Fin.ofNat 16 g.val } 4)
  | .bra f => some (f, ctlIssue f 12)
  | .brc f => some (f, ctlIssue f 12)
  | .brx f => some (f, ctlIssue f 12)
  | .call f => some (f, ctlIssue f 12)
  | .callx f => some (f, ctlIssue f 12)
  | .ret f => some (f, ctlIssue f 12)
  | .nop f => some (f, ctlIssue f 12)
  | .vote f => some (f, ctlIssue f 12)
  | .bkpt f => some (f, ctlIssue f 12)
  | .wait f => some (f, ctlIssue f (xLen f))
  | .await f => some (f, ctlIssue f (xLen f))
  | .yield f => some (f, ctlIssue f (xLen f))
  | .prio f => some (f, ctlIssue f (xLen f))
  | .mark f => some (f, ctlIssue f (xLen f))
  | .trap f => some (f, ctlIssue f (xLen f))
  | .sysc f => some (f, ctlIssue f (xLen f))
  | .term f => some (f, ctlIssue f (xLen f))
  | .mxta f => some (f, ctlIssue f (xLen f))
  | .mxtr f => some (f, ctlIssue f (xLen f))
  | .mxq f => some (f, ctlIssue f (xLen f))
  | .mxp f => some (f, ctlIssue f (xLen f))
  | .fence f => some (f, xIssue f (xLen f) none)
  | .seal f => some (f, xIssue f (xLen f) none)
  | .bari f => some (f, xIssue f (xLen f) none)
  | .bara f => some (f, xIssue f (xLen f) none)
  | .barx f => some (f, xIssue f (xLen f) none)
  | .barq f => some (f, xIssue f (xLen f) none)
  | .flag f => some (f, xIssue f (xLen f) (addrTop f 0 0))
  | .mon f => some (f, xIssue f (xLen f) (addrTop f 0 0))
  | .spawn f => some (f, xIssue f (xLen f) (addrTop f 0 0))
  | .icinv f => if uniform .auto f then some (f, xIssue f (xLen f) (addrTop f 0 0)) else none
  | .movw f => some (f, { xIssue f (xLen f) (addrTop f 0 0) with priv := true })
  | .rft f => some (f, { xIssue f (xLen f) (addrTop f 0 0) with priv := true })
  | .tlbi f => some (f, { xIssue f (xLen f) (addrTop f 0 0) with priv := true })
  | .csave f => some (f, { xIssue f (xLen f) (addrTop f 0 0) with priv := true })
  | .crest f => some (f, { xIssue f (xLen f) (addrTop f 0 0) with priv := true })
  | .gstop f => some (f, { xIssue f (xLen f) (addrTop f 0 0) with priv := true })
  | _ => none

/-- The privileged instructions of R244, and MOVS into a privileged system register, with what the checks look at. -/
def privilegedOf : Instr → Option Issue
  | .movw f => some { xIssue f (xLen f) (addrTop f 0 0) with priv := true }
  | .rft f => some { xIssue f (xLen f) (addrTop f 0 0) with priv := true }
  | .tlbi f => some { xIssue f (xLen f) (addrTop f 0 0) with priv := true }
  | .csave f => some { xIssue f (xLen f) (addrTop f 0 0) with priv := true }
  | .crest f => some { xIssue f (xLen f) (addrTop f 0 0) with priv := true }
  | .gstop f => some { xIssue f (xLen f) (addrTop f 0 0) with priv := true }
  | .movs f => if privWrite f.d then some { xIssue f (xLen f) (topReg [(f.d, 1), (f.a, 1)]) with priv := true } else none
  | _ => none

/-! ## Quiet memory -/

/-- A coherent line of HBM4E on which nothing waits: no image that is not yet visible, no lock, no partial sum, no copy in
a cache of the group, and a home that answers and is not poisoned. -/
def QuietLine (s : State) (g key n : Nat) : Prop :=
  (getHome s (lineOf key)).next = [] ∧ (getHome s (lineOf key)).lock = none ∧ gatherers s (lineOf key) = []
    ∧ getCopy s (l1Holder s g key) (lineOf key) = none ∧ getCopy s (l2Holder (groupDie g)) (lineOf key) = none
    ∧ (getGroup s g).fwd = [] ∧ homeBusy s key = false ∧ poisoned s key n = false
    ∧ (s.stores.all fun t => decide (lineOf t.addr ≠ lineOf key)) = true
    ∧ (s.loads.all fun t => decide (lineOf t.addr ≠ lineOf key)) = true

/-- The atomics of some lanes on memory, one after another (R168): what memory becomes, and the old value that each lane finds. -/
def atomRun (op : Nat → FabOp) (key : Nat → Nat) (n : Nat) : List Nat → List Host.Cell → List Host.Cell × List (Nat × Nat)
  | [], m => (m, [])
  | j :: r, m =>
    let old := leNat (memBytes m (key j) n)
    let t := atomRun op key n r (match atomFn (op j) (BitVec.ofNat 64 old) with
      | some y => memPut m (key j) (leBytes n y.toNat)
      | none => m)
    (t.1, (j, old) :: t.2)

/-- Eight places of `n` bytes of the issuing group, each within one quiet line of HBM4E on an ordinary page, at the keys `key`. -/
def QuietArea (s : State) (va : Nat → DWord) (key : Nat → Nat) (n : Nat) : Prop :=
  let sp := groupSpace s s.cur
  ∀ i, i < 8 → (∃ p : Place, placeOf sp.1 (xlat s sp.1 sp.2 (va i)) = some p ∧ p.space = .hbm (key i) ∧ p.dark = false)
    ∧ (va i).toNat % 128 + n ≤ 128 ∧ key i % 128 + n ≤ 128 ∧ QuietLine s s.cur (key i) n

/-- Eight entries of `n` bytes can be written to them: no two overlap, no group watches their lines, memory is in its canonical form,
and the group has an identity of its own. -/
def FreeArea (s : State) (va : Nat → DWord) (key : Nat → Nat) (n : Nat) : Prop :=
  QuietArea s va key n ∧ Memory.wf s.mem = true ∧ slotOfUid s (curGroup s).uid = some s.cur
    ∧ ∀ i, i < 8 → (getHome s (lineOf (key i))).watchers = [] ∧ ∀ j, j < 8 → i ≠ j → key i + n ≤ key j ∨ key j + n ≤ key i

/-- Eight entries have been spilled there, and no other byte of memory has changed (R61). -/
def Spilled (s t : State) (key : Nat → Nat) (n : Nat) (entry : Nat → List Byte) : Prop :=
  (∀ i, i < 8 → memBytes t.mem (key i) n = entry i)
    ∧ ∀ a, (∀ i, i < 8 → a < key i ∨ key i + n ≤ a) → memRead t.mem a = memRead s.mem a

/-- An instruction that cannot reach its stack area is nullified (R126, R334): code 0x0B where the area is too small, 0x15 where its page
may not be used; and where a page is absent the group parks with its stacks, its mask and the instruction's address as they were. -/
def StackStops (s : State) (k : Issue) (e : StackFault) (o : Out) : Prop :=
  let x := curGroup s
  match e with
  | .wait => o = .next (setCur s { x with status := .stalled .lock })
  | .overflow call => o = trapI s k 0x0B (if call then 1 else 0)
  | .prot call why a e => o = trapAt s k 0x15 0 ((if call then 1 else 0) + 2 * why) a e
  | .absent call l a e => o = .next (parkFault s s.cur (replayPc x k.ops) (mkRec s s.cur 0x12 255 0 (l + if call then 256 else 0) a e 0))
      ∧ (x.prologue = none → hidden s s.cur = false → ∃ t, o = .next t ∧ t.mem = s.mem ∧ (curGroup t).status = .parked .pageFault
          ∧ (curGroup t).pc = replayPc x k.ops ∧ (curGroup t).xm = x.xm ∧ (curGroup t).div = x.div ∧ (curGroup t).divSpill = x.divSpill
          ∧ (curGroup t).call = x.call ∧ (curGroup t).callSpill = x.callSpill)

end Sys2Proof.Stated

namespace Sys2Proof.Stated

open Sys2Proof Sys2Proof.Machine

/-! ## Engines and commands -/

/-- The conditions of R208 under which a matrix instruction of the issuing group starts: the checks at issue and the full mask,
the grant, the token, its bounds, its rows inside the window, the follower when it spans two arrays, a guard that holds, and
an engine that is not reserved and, for a counted instruction, has room in its lease; and no fault of a spill waits. -/
def EngineReady (s : State) (k : Issue) (run counted wide bad : Bool) (rows : Option (Nat × Nat)) : Prop :=
  let x := curGroup s
  let c := slotCore s.cur
  let b := getBlock s x.block
  issueFault s { k with full := true } = none ∧ b.mxe.getD x.member false = true
    ∧ (counted = true → spillLeft s b c = none)
    ∧ (getCore s c).token = some x.block ∧ bad = false
    ∧ (∀ r, rows = some r → ∃ w, b.win.getD x.member none = some w ∧ w.1 ≤ r.1 ∧ r.1 ≤ r.2 ∧ r.2 ≤ w.2)
    ∧ (wide = true → x.member + 1 < b.cores.length ∧ ∃ r, rows = some r ∧ followerOk s b x.block x.member r.1 r.2 = true)
    ∧ run = true ∧ ((getCore s c).mxq.any fun o => !o.counted) = false
    ∧ (counted = true → startedOps (getCore s c) x.block < (getCore s c).lease)

/-- The bytes of V of one adapter, line by line of its 16 rows; none when one cannot be read (R218, R219). -/
def fetchRows (f : MForm) (va : DWord) (stride : Nat) : List Nat → State → List (List Byte) → Option (State × List (List Byte))
  | [], t, v => some (t, v)
  | q :: r, t, v =>
    match readRange t 2 (va + BitVec.ofNat 64 (stride * q)) (2 * mCols f) with
    | .ok b u => fetchRows f va stride r u (v ++ [b])
    | _ => none

/-- The adapters of MXG's table, all of which can be read; a row block whose U has address 0 has none (R218, R219). -/
def fetchAdapters (s : State) (f : MForm) : List Nat → State → List Adapter → Option (State × List Adapter)
  | [], t, l => some (t, l)
  | i :: r, t, l =>
    let b := getBlock s (curGroup s).block
    let e := 64 * f.toff.toNat + 32 * i
    let ua := BitVec.ofNat 64 (latNat s b e 8)
    if ua = 0 then fetchAdapters s f r t l
    else
      match readRange t 2 ua (32 * mDepth f) with
      | .ok u t =>
        match fetchRows f (BitVec.ofNat 64 (latNat s b (e + 8) 8)) (latNat s b (e + 16) 4) (List.range 16) t [] with
        | some (t, v) => fetchAdapters s f r t (l ++ [{ t := i, u, v }])
        | none => none
      | _ => none

/-- A command stands at the head of its queue with an opcode and N, its queue lets it begin, and no shared check refuses it
(R275, R281, R316, R317, R376). -/
def Begins (s : State) (q : QRef) (e : CmdEntry) (op n : Nat) : Prop :=
  headEntry s q = some (.ok e) ∧ (q.host || deviceEntry e) = true ∧ e.op.toNat = op ∧ e.sub.toNat = n ∧ mayBegin s q e = true
    ∧ commandFault s q e = none

/-! ## Floating values: read from the bits as R67 and R68 say, and rounded as R72 to R74 say -/

/-- The exponent field. -/
def expField (f : Fmt) (x : DWord) : Nat := x.toNat / 2 ^ f.m % 2 ^ f.e
/-- The fraction field. -/
def fracField (f : Fmt) (x : DWord) : Nat := x.toNat % 2 ^ f.m
/-- The sign. -/
def negBit (f : Fmt) (x : DWord) : Bool := x.getLsbD (f.m + f.e)
/-- A NaN; a signalling one; an infinity (R68). -/
def isNan (f : Fmt) (x : DWord) : Bool := expField f x = 2 ^ f.e - 1 && fracField f x ≠ 0
def isSig (f : Fmt) (x : DWord) : Bool := isNan f x && fracField f x < 2 ^ (f.m - 1)
def isInf (f : Fmt) (x : DWord) : Bool := expField f x = 2 ^ f.e - 1 && fracField f x = 0

/-- The number that finite bits stand for (R68). -/
def realOf (f : Fmt) (x : DWord) : Option ℚ :=
  if expField f x = 2 ^ f.e - 1 then none
  else some ((if negBit f x then -1 else 1) *
    (if expField f x = 0 then (fracField f x : ℚ) * 2 ^ (1 - fmtBias f - f.m : ℤ)
      else (2 ^ f.m + fracField f x : ℚ) * 2 ^ (expField f x - fmtBias f - f.m : ℤ)))

/-- The place of bits that are no NaN in the order of the numbers with both infinities. -/
def orderOf (f : Fmt) (x : DWord) : Option (WithBot (WithTop ℚ)) :=
  if isNan f x then none else if isInf f x then some (if negBit f x then ⊥ else ((⊤ : WithTop ℚ) : WithBot (WithTop ℚ)))
  else (realOf f x).map fun u => (((u : ℚ) : WithTop ℚ) : WithBot (WithTop ℚ))

/-- The greatest finite value of a format (R67). -/
def greatest (f : Fmt) : ℚ := (2 ^ (f.m + 1) - 1) * 2 ^ (fmtBias f - f.m : ℤ)

/-- The values of a format without an upper limit of the exponent, and without a lower one either unless `low`; with `even` those
whose last fraction bit is 0 (R72, R73). -/
def Grid (f : Fmt) (low even : Bool) (u : ℚ) : Prop :=
  ∃ k q : ℤ, |k| < 2 ^ (f.m + 1) ∧ (low = true → 1 - fmtBias f - f.m ≤ q) ∧ (even = true → k % 2 = 0) ∧ u = k * 2 ^ q
/-- The integers; with `even` the even ones (R74). -/
def Whole (even : Bool) (u : ℚ) : Prop := ∃ k : ℤ, (even = true → k % 2 = 0) ∧ u = k

/-- `u` is `y` rounded to a grid in a mode (R72): the nearest value, a tie going to an even one; or the next one toward zero, toward
+∞ or toward −∞. -/
def RoundsTo (rm : Rm) (grid : Bool → ℚ → Prop) (y : ℝ) (u : ℚ) : Prop :=
  grid false u ∧
    match rm with
    | .rn => ∀ v : ℚ, grid false v → |y - u| ≤ |y - v| ∧ (|y - u| = |y - v| → v = u ∨ grid true u)
    | .rz => |(u : ℝ)| ≤ |y| ∧ 0 ≤ (u : ℝ) * y ∧ ∀ v : ℚ, grid false v → |(v : ℝ)| ≤ |y| → |v| ≤ |u|
    | .ru => y ≤ u ∧ ∀ v : ℚ, grid false v → y ≤ v → u ≤ v
    | .rd => (u : ℝ) ≤ y ∧ ∀ v : ℚ, grid false v → (v : ℝ) ≤ y → v ≤ u

/-- Bits and flags are `Round(y, mode, fmt)` of a number `y` that is not zero (R73): the rounded value, with NX where it differs from
`y` and UF where it is also tiny as rounded without a lower limit; past the greatest finite value the overflow value, with OF and NX. -/
def Delivers (rm : Rm) (f : Fmt) (y : ℝ) (r : DWord × FFlags) : Prop :=
  ∃ (u w : ℚ) (n : Bool), RoundsTo rm (Grid f true) y u ∧ RoundsTo rm (Grid f false) y w ∧ (n = true ↔ y < 0)
    ∧ r.1.toNat < 2 ^ (1 + f.m + f.e) ∧ negBit f r.1 = n
    ∧ (greatest f < |u| → r.2 = fOF ||| fNX
        ∧ if rm = .rn ∨ (rm = .ru ∧ n = false) ∨ (rm = .rd ∧ n = true) then isInf f r.1 = true
          else realOf f r.1 = some (if n then - greatest f else greatest f))
    ∧ (|u| ≤ greatest f → realOf f r.1 = some u ∧ ((u : ℝ) = y → r.2 = 0)
        ∧ ((u : ℝ) ≠ y → r.2 = if |w| < 2 ^ (1 - fmtBias f : ℤ) then fNX ||| fUF else fNX))

/-! ## Runs of products -/

/-- The number of a decoded value. -/
def ratOf : FVal → Option ℚ
  | .nan _ => none
  | .inf _ => none
  | .zero _ => some 0
  | .num n m e => some ((if n then -1 else 1) * m * 2 ^ e)

/-- One run of R86 takes a cell from `c` to `z` and raises `fl`: the products' exact sum is rounded once to FP32, and the rounded sum
is added to the cell as FADD adds. A NaN product, or infinities of both signs, make the sum the default NaN with IV; a sum of exactly
zero is −0 when every product is −0, +0 when every product is +0, and otherwise +0, or −0 under `.rd`. -/
def RunAdds (rm : Rm) (ps : List FVal) (c z : Word) (fl : FFlags) : Prop :=
  ∃ m : DWord × FFlags, let r := opFadd .f32 rm (c.setWidth 64) m.1 0
    z.setWidth 64 = r.1 ∧ fl = m.2 ||| r.2
      ∧ (((∃ sg, .nan sg ∈ ps) ∨ (.inf true ∈ ps ∧ .inf false ∈ ps)) → m = (0x7FC00000, fIV))
      ∧ (∀ n, .inf n ∈ ps → .inf (!n) ∉ ps → (∀ sg, .nan sg ∉ ps) → m = (if n then 0xFF800000 else 0x7F800000, 0))
      ∧ (∀ xs : List ℚ, ps.map ratOf = xs.map some →
          (xs.sum ≠ 0 → Delivers rm (fmtOf .f32) (xs.sum : ℚ) m)
          ∧ (xs.sum = 0 → m = (if (∀ p, p ∈ ps → p = .zero true) ∨ (rm = .rd ∧ ¬ ∀ p, p ∈ ps → p = .zero false) then 0x80000000
              else 0, 0)))

end Sys2Proof.Stated

open Sys2Proof Sys2Proof.Machine Sys2Proof.Stated

/-! # Reset, memory and encoding -/

/-- R325, R329, R386: right after reset `sy.gtc` is 0, the module is one partition of the four quarters served by function 0,
every die works with life number 0, no group is resident, and nothing waits to be done. (The life number at a cold reset and
the firmware core of a die are the model's choices, log entries 10 and 36; memory lists nothing.) -/
def Obligations.ResetState : Prop :=
  State.reset.gtc = 0 ∧ State.reset.parts = [(0, { live := true, mask := 0b1111#4 })] ∧ State.reset.groups = []
    ∧ (∀ d, d < 8 → (getDie State.reset d).status = .up ∧ (getDie State.reset d).life = 0)
    ∧ State.reset.mem = [] ∧ State.reset.stores = [] ∧ State.reset.loads = [] ∧ State.reset.hub.power = .up

/-- The memory of the state after reset is in its canonical form. -/
def Obligations.ResetMemoryCanonical : Prop := Memory.wf State.reset.mem = true

/-- Every step keeps the canonical form of memory: addresses rise strictly, and no entry holds what an unlisted address
reads as. The premise is that form alone; the state need not be one that a run reaches. -/
def Obligations.StepKeepsMemoryCanonical : Prop :=
  ∀ s t : State, Memory.wf s.mem = true → step s = .next t → Memory.wf t.mem = true

/-- Decoding the words of a well-formed instruction gives it back, whole, with its length: every operand at every value that
the encoding admits (R90 to R107). -/
def Obligations.DecodeEncode : Prop :=
  ∀ i : Instr, i.encoded = true → i.wf = true → decodeBits (bitsOf (encode i)) = .ok (i, 4 * (encode i).length)

/-- Words written out from the spec's encodings decode to the instructions that they stand for (the base words of R98 and R122,
JOIN and EXIT, RFT of R342); a word with an unassigned operation is refused with DETAIL 1 (base OP 0x3F, the extended XOP
0x3FF), and one with a reserved field that is in use is refused (a JOIN with a guard) (R107, R334). -/
def Obligations.DecodedWords : Prop :=
  (decodeTableWord 32 0x00000000 = some (.nopBase 0)
      ∧ decodeTableWord 32 0x1B000003 = some (.braBase 0 3)
      ∧ decodeTableWord 32 0x1B0FFFFE = some (.braBase 0 0xFFFFE#20)
      ∧ decodeTableWord 32 0x1C000000 = some .joinBase
      ∧ decodeTableWord 32 0x1D000000 = some (.exitBase 0)
      ∧ decodeTableWord 96 0x5C300000 = some (.rft {}))
  ∧ (decodeBits 0x3F000000 = .error 1 ∧ decodeBits 0x7FF00000 = .error 1 ∧ ∃ d, decodeBits 0x1C400000 = .error d)

/-! # Steps -/

/-- A step runs the decoded instruction. While the module has power, nothing that the outside has chosen comes next, no work
of the device can be done first, a group is the one to issue and its bytes decode to an instruction: the step is the meaning
of that instruction, for that group, after time has passed (`advanceTime`) and the group has been taken for issue (`issuing`).
What `issuing` adds (R291): the requests of the fetch at a peer are made (`askFetch`; none when no word can lie at one), the group is
the current one, the choices of the scheduler and the slots used in the clock are brought up
to date, the groups of other sub-cores are as they were, and everything else but the table of groups is untouched. -/
def Obligations.StepRunsDecodedInstruction : Prop :=
  (∀ (s : State) (g : Nat) (ws : List Word) (i : Instr) (n : Nat),
      let t := advanceTime s
      let u := issuing t g
      s.agenda = [] → s.hub.power = .up → (nextWork t = none ∨ Config.workFirst t.tick = false) → pick t = some g →
      fetch u (groupSpace u g).1 (groupSpace u g).2 (curGroup u).pc = .ok ws → decodeBits (bitsOf ws) = .ok (i, n) →
      step s = exec i u)
  ∧ ∀ (s : State) (g : Nat),
      let u := issuing s g
      let v := askFetch s g
      let sp := groupSpace s g
      u = { v with cur := g, sched := u.sched, slot0 := u.slot0, groups := u.groups }
        ∧ (∀ h, slotSub h ≠ slotSub g → getGroup u h = getGroup v h)
        ∧ ((∀ (d : DWord) (pa : Nat) (e : DWord) (l : Nat), d = 0 ∨ d = 16 → xlat s sp.1 sp.2 ((getGroup s g).pc + d) = .ok pa e l →
            ∀ ap o, space sp.1 pa ≠ .peer ap o) → v = s)

/-- R107: bytes that decode to no instruction make the group take the illegal-instruction trap, code 0x01, with the DETAIL
that the decoder names. -/
def Obligations.ReservedEncodingTraps : Prop :=
  ∀ (s : State) (g : Nat) (ws : List Word) (d : Nat),
    let u := issuing s g
    fetch u (groupSpace u g).1 (groupSpace u g).2 (curGroup u).pc = .ok ws → decodeBits (bitsOf ws) = .error d →
    issueFrom s g = trapI u { len := 0 } 0x01 d

/-- R325, R332, R396: while the main domain is off or the module is in the fatal state, nothing issues and no work of the device is
done: a step that the outside has not chosen only lets time pass (`advanceTime`). Of the steps that the outside chooses only
Safelight's and a cold reset go on; any other stops with the fault mainDomainDown. -/
def Obligations.NothingIssuesWithoutPower : Prop :=
  ∀ (s : State), s.hub.power ≠ .up →
    (s.agenda = [] → step s = .next (advanceTime s))
      ∧ ∀ i r, s.agenda = i :: r → alwaysOn i = false → step s = .fault .mainDomainDown

/-! # Traps -/

/-- R244, R335: an instruction that computes, and that one of the checks at issue stops, takes that trap and nothing else; and the
first check that fails is the one reported: an instruction that needs privileged mode and names a register above the group's
range reports privilege, and one that also reads a latch that holds nothing reports the register. Outside privileged mode the privileged
instructions, and a MOVS into a privileged system register, take the privilege trap, code 0x02, whatever their guard. -/
def Obligations.ChecksAtIssue : Prop :=
  (∀ (s : State) (i : Instr) (f : XForm) (len : Nat) (op : IntFn) (c d : Nat), integerOf i = some (f, len, op) →
      issueFault s (xIssue f len (typedTop f)) = some (c, d) → exec i s = trapI s (xIssue f len (typedTop f)) c d)
  ∧ (∀ (s : State) (k : Issue) (t : Nat), k.top = some t → (curGroup s).range ≤ t →
      (k.priv = true → privileged s s.cur = false → issueFault s k = some (0x02, 0))
        ∧ (k.priv = false → issueFault s k = some (0x03, t % 512 + (curGroup s).range * 2 ^ 16)))
  ∧ ∀ (s : State) (i : Instr) (k : Issue), privilegedOf i = some k → privileged s s.cur = false → exec i s = trapI s k 0x02 0

/-- R339, R340: a trap that is delivered to the handler saves the program counter, the class, code, count and software code,
the address of the records and the mask, dooms the open transactions, enters privileged mode with every lane that has not
exited, and goes on at the handler; nothing but the group changes. The fields of `sy.ecause` on entry are CODE, CLASS, NREC and
SW, with RMV zero. -/
def Obligations.TrapDelivered : Prop :=
  (∀ (s : State) (g : Nat) (p : PendTrap),
      let x := getGroup s g
      let sp := groupSpace s g
      let y := getGroup (deliver s g p) g
      y.epc = p.epc ∧ y.ecause = ecauseOf p ∧ y.erec = slotArea s g ∧ (y.exm1 ++ y.exm0 : BitVec 128) = x.xm
        ∧ y.priv = true ∧ y.xm = ~~~x.exited ∧ y.pc = (getCtx s sp.1 sp.2).trap.hent ∧ y.latches = []
        ∧ (∀ j, mapFind y.txn j = (mapFind x.txn j).map fun u => doomTxn u 7 p.code) ∧ y.prio = x.prio
        ∧ y.v = x.v ∧ y.s = x.s ∧ y.hs = x.hs ∧ y.p = x.p ∧ y.div = x.div ∧ y.call = x.call ∧ y.fpflags = x.fpflags
        ∧ (∀ h, h ≠ g → getGroup (deliver s g p) h = getGroup s h) ∧ deliver s g p = { s with groups := (deliver s g p).groups })
  ∧ (∀ p : PendTrap, p.code < 256 → p.recs.length ≤ 128 → p.sw < 4096 →
      (ecauseOf p).extractLsb' 0 8 = BitVec.ofNat 8 p.code ∧ (ecauseOf p).extractLsb' 12 4 = BitVec.ofNat 4 (classCode p.cls)
        ∧ (ecauseOf p).extractLsb' 16 16 = BitVec.ofNat 16 p.recs.length ∧ (ecauseOf p).extractLsb' 32 12 = BitVec.ofNat 12 p.sw
        ∧ (ecauseOf p).getLsbD 63 = false)

/-- R337, R339, R343: taking a trap outside a handler, where the context has an area for records and a handler and the launch
does not remove faulting lanes: the records and the snapshot are written to the area (with FLAGS[7] set on a core of the firmware,
which is always in privileged mode, R244), and the trap is delivered. -/
def Obligations.TrapTaken : Prop :=
  ∀ (s t : State) (g : Nat) (p : PendTrap),
    let d := (getCtx s (groupSpace s g).1 (groupSpace s g).2).trap
    pendingOf s g = [] → (getGroup s g).prologue = none → d.recb ≠ 0 → d.hent ≠ 0 → hidden s g = false →
    (groupGrid s g).hdr.remove = false →
    writeRecords s g (if isFirmwareCore s (slotCore g) then 128 else 0) p.recs true = some t → takeTrap s g p = deliver t g p

/-- R249, R342: RFT in privileged mode completes: the program counter and the mask come back from `sy.epc`, `sy.exm0` and
`sy.exm1` (without the lanes that have exited), privileged mode ends on a program core, and nothing else of the group but its
latch chain changes, for a trap that removes no lane. With RMV set and a per-lane trap of class L or A, the faulting lanes then leave the
restored mask and every divergence entry: with lanes left in the mask the group goes on at `sy.epc`; with none there it resumes from
the newest entry with a lane (a rejoin entry stays), or stays at `sy.epc` with `xm` zero when none is left; with no lane of the group
left it ends. All of it here for a trap that retires no copy element. -/
def Obligations.ReturnFromTrapCompletes : Prop :=
  ∀ (s : State) (f : XForm),
    let x := curGroup s
    let mask : LaneMask := (x.exm1 ++ x.exm0 : BitVec 128) &&& ~~~x.exited
    let t := setCur s { unchained x with pc := x.epc, xm := mask, priv := false, faultElems := [] }
    let m := x.faultMask
    let left := (x.div.map fun e => { e with mask := e.mask &&& ~~~m }).dropWhile fun e => decide (e.mask = 0)
    let others (b : Block) : Prop := b.away ≠ [] ∨ ∃ h, h ∈ b.groups ∧ h ≠ s.cur ∧ (getGroup s h).status ≠ .ended
    Passes s { xIssue f (xLen f) (addrTop f 0 0) with priv := true } → runs x f = true → x.faultElems = [] →
    batchesOf t x.uid = [] →
    ((x.ecause.getLsbD 63 = false ∨ x.faultPerLane = false) → exec (.rft f) s = .next t)
      ∧ (x.ecause.getLsbD 63 = true → x.faultPerLane = true → x.exited ||| m ≠ LaneMask.full →
        (mask &&& ~~~m ≠ 0 ∨ (x.divSpill = 0 ∧ x.callSpill = 0)) →
        ∃ u, exec (.rft f) s = .next u ∧ u.mem = s.mem ∧ (∀ h, h ≠ s.cur → getGroup u h = getGroup s h)
          ∧ (curGroup u).exited = x.exited ||| m ∧ (curGroup u).priv = false
          ∧ (curGroup u).v = x.v ∧ (curGroup u).s = x.s ∧ (curGroup u).p = x.p
          ∧ (mask &&& ~~~m ≠ 0 → (curGroup u).xm = mask &&& ~~~m ∧ (curGroup u).pc = x.epc ∧ (curGroup u).call = x.call
              ∧ (curGroup u).div = x.div.map fun e => { e with mask := e.mask &&& ~~~m })
          ∧ (mask &&& ~~~m = 0 →
              (left = [] → (curGroup u).xm = 0 ∧ (curGroup u).pc = x.epc ∧ (curGroup u).div = [] ∧ (curGroup u).call = x.call)
              ∧ ∀ e r, left = e :: r → (curGroup u).xm = e.mask ∧ (curGroup u).pc = e.pc &&& ~~~(1 : DWord)
                  ∧ (curGroup u).div = (if e.pc.getLsbD 0 then r else left)
                  ∧ (curGroup u).call = x.call.dropWhile fun c => decide (left.length ≤ c.depth.toNat)))
      ∧ (x.ecause.getLsbD 63 = true → x.faultPerLane = true → x.exited ||| m = LaneMask.full →
        ∃ u, exec (.rft f) s = .next u
          ∧ (others (getBlock s x.block) → (curGroup u).status = .ended ∧ (curGroup u).xm = 0 ∧ (curGroup u).exited = LaneMask.full)
          ∧ ((getBlock s x.block).here = true → ¬ others (getBlock s x.block) → (getBlock u x.block).status = .ended))

/-- R135, R249: TRAP and SYSC complete past themselves and raise the software trap and the system call, of class C, with
their code in SW: when the latch chain does not go on, the trap is taken at once with the next instruction as the one saved.
BKPT takes the breakpoint trap, code 0x06 of class I, at itself (or at the first instruction of its latch chain, R348). -/
def Obligations.SoftwareTraps : Prop :=
  (∀ (s : State) (f : XForm),
      let k := ctlIssue f (xLen f)
      let sw := (opnd s (curGroup s) false f.a 0).toNat
      let trap (code : Nat) : Out :=
        .next (raiseTrap (Past s k)
          { cls := .C, code, sw, recs := [plainRec s s.cur code sw], epc := 0, uniform := false, elems := [] })
      Passes s k → runs (curGroup s) f = true →
        exec (.trap f) s = trap 0x07 ∧ ((curGroup s).prologue = none → exec (.sysc f) s = trap 0x08))
  ∧ (∀ (s : State) (f : XForm), Passes s (ctlIssue f 12) → runs (curGroup s) f = true →
      exec (.bkpt f) s = .next (takeTrap (dropPend s s.cur) s.cur
        { cls := .I, code := 0x06, sw := 0, recs := [plainRec s s.cur 0x06 0],
          epc := replayPc (curGroup s) (ctlIssue f 12).ops, uniform := false, elems := [] }))

/-- R333, R339, R348: where a trap of class C or L is taken: at once with the program counter saved as it stands, when no latch
chain goes on and no other trap waits; kept until the chain ends otherwise. -/
def Obligations.TrapWaitsForChain : Prop :=
  ∀ (s : State) (p : PendTrap),
    (chainGoesOn s s.cur = true → raiseTrap s p = setCur s { curGroup s with pend := (curGroup s).pend ++ [p] })
      ∧ (chainGoesOn s s.cur = false → (curGroup s).pend = [] →
          raiseTrap s p = takeTrap (setCur s { curGroup s with pend := [] }) s.cur { p with epc := (curGroup s).pc })

/-! # Registers -/

/-- R10, R154, R341: `p0` as a source reads 1 in every lane, and as a destination discards the result, and a predicate
instruction under a zero execute mask (PMOV among them) writes nothing; PXOR, of either form, of a predicate with itself clears it in
the lanes that it writes (the live ones; with `.uni` those of `xm`), and POR, of either form, of `p0` with anything, on either side,
sets them; `s0` reads as zero and a write to it is discarded, a scalar reads as it
was written, and in a handler the scalars 88 to 95 are its own bank: the program's keep their contents. -/
def Obligations.RegisterZeros : Prop :=
  ((∀ g : Group, pRead g 0 = LaneMask.full) ∧ (∀ (g : Group) (m x : LaneMask), pWrite g 0 m x = g)
      ∧ ∀ (s : State) (i : Instr) (f : XForm) (k : Issue),
          ((∃ len op, predicateOf i = some (f, len, op) ∧ k = xIssue f len none)
            ∨ (i = .pmov f ∧ k = xIssue f (xLen f) (topReg [(f.d, 1), (f.a, 1)]))) →
          (curGroup s).xm = 0 → Passes s k → (∃ n, f.d = .p n) →
          ∃ t, exec i s = .next t ∧ ∀ n j, j < 128 → (pRead (curGroup t) n).getLsbD j = (pRead (curGroup s) n).getLsbD j)
  ∧ (∀ (s : State) (i : Instr) (f : XForm) (len : Nat) (op : Bool → Bool → Bool) (n : Fin 16),
      predicateOf i = some (f, len, op) → f.d = .p n → n.val ≠ 0 → Passes s (xIssue f len none) →
      let old (j : Nat) : Bool := (pRead (curGroup s) n.val).getLsbD j
      let m := writes (curGroup s) f (uniform .auto f)
      (op = (· != ·) → f.a = f.b → ∃ t, exec i s = .next t
          ∧ ∀ j, j < 128 → (pRead (curGroup t) n.val).getLsbD j = (old j && !m.getLsbD j))
        ∧ (op = (· || ·) → (f.a = .p 0 ∨ f.b = .p 0) → ∃ t, exec i s = .next t
          ∧ ∀ j, j < 128 → (pRead (curGroup t) n.val).getLsbD j = (old j || m.getLsbD j)))
  ∧ ((∀ (h : Bool) (g : Group), sRead h g 0 = 0) ∧ (∀ (h : Bool) (g : Group) (x : DWord), sWrite h g 0 x = g)
      ∧ (∀ (h : Bool) (g : Group) (n m : Nat) (x : DWord), n ≠ 0 →
          sRead h (sWrite h g n x) m = if m = n then x else sRead h g m)
      ∧ ∀ (g : Group) (n m : Nat) (x : DWord), 88 ≤ n → sRead false (sWrite true g n x) m = sRead false g m)

/-! # Integer and predicate instructions -/

/-- R115 to R118, R137, R139, R141: every integer instruction that passes the checks completes: the live lanes (or the group
once) receive the operation on their sources at the instruction's width, extended by R66; no flag is raised, and memory, every
other group and everything else of the group are unchanged. -/
def Obligations.IntegerResult : Prop :=
  ∀ (s : State) (i : Instr) (f : XForm) (len : Nat) (op : IntFn), integerOf i = some (f, len, op) →
    Passes s (xIssue f len (typedTop f)) →
    let g := curGroup s
    let w := intWidth f
    let sg := tySigned f.ty
    let p := wide f.ty
    Computed s f (xIssue f len (typedTop f)) (uniform .auto f) p
      (fun j => extend sg w (op sg w (opnd s g p f.a j) (opnd s g p f.b j) (opnd s g p f.c j))) 0 (exec i s)

/-- R137, R139: the values that the integer instructions write. As numbers modulo 2 to the width: sums, differences, products and
their high halves, minima and maxima as the signedness says, absolute values and negations. Bit by bit: the logic instructions, shifts
by any amount up to the whole width and beyond, bit reversal; CLZ, the number of zero bits above the highest one; POPC, the number of
ones; BFX, the LEN bits from POS of the source extended without bound, sign-extended for a signed type; BFI, the low bits of B in place
of the LEN bits from POS of A. -/
def Obligations.IntegerValues : Prop :=
  ∀ (w : Nat), w ∈ [8, 16, 32, 64] → ∀ (sg : Bool) (a b c : DWord),
    ((toN w (iAdd sg w a b c) : Int) = (toSN sg w a + toSN sg w b) % 2 ^ w
      ∧ (toN w (iSub sg w a b c) : Int) = (toSN sg w a - toSN sg w b) % 2 ^ w
      ∧ (toN w (iMul sg w a b c) : Int) = (toSN sg w a * toSN sg w b) % 2 ^ w
      ∧ (toN w (iMulh sg w a b c) : Int) = (toSN sg w a * toSN sg w b / 2 ^ w) % 2 ^ w
      ∧ (toN w (iMad sg w a b c) : Int) = (toSN sg w a * toSN sg w b + toSN sg w c) % 2 ^ w
      ∧ toSN sg w (iMin sg w a b c) = min (toSN sg w a) (toSN sg w b)
      ∧ toSN sg w (iMax sg w a b c) = max (toSN sg w a) (toSN sg w b)
      ∧ (toN w (iAbs sg w a b c) : Int) = (if toS w a < 0 then - toS w a else toS w a)
      ∧ (toN w (iNeg sg w a b c) : Int) = (- toSN sg w a) % 2 ^ w)
    ∧ (∀ j, j < w →
      (iAnd sg w a b c).getLsbD j = (a.getLsbD j && b.getLsbD j) ∧ (iOr sg w a b c).getLsbD j = (a.getLsbD j || b.getLsbD j)
        ∧ (iXor sg w a b c).getLsbD j = (a.getLsbD j != b.getLsbD j)
        ∧ (iAndn sg w a b c).getLsbD j = (a.getLsbD j && !b.getLsbD j) ∧ (iNot sg w a b c).getLsbD j = !a.getLsbD j
        ∧ (iShl sg w a b c).getLsbD j = (decide (toN w b ≤ j) && a.getLsbD (j - toN w b))
        ∧ (iShr sg w a b c).getLsbD j = (decide (j + toN w b < w) && a.getLsbD (j + toN w b))
        ∧ (iSar sg w a b c).getLsbD j = a.getLsbD (min (j + toN w b) (w - 1))
        ∧ (iRotl sg w a b c).getLsbD j = a.getLsbD ((j + w - toN w b % w) % w)
        ∧ (iBrev sg w a b c).getLsbD j = a.getLsbD (w - 1 - j)
        ∧ (let pos := b.toNat % 128
           let len := min (b.toNat / 256 % 128) w
           let ext (i : Nat) : Bool := if i < w then a.getLsbD i else sg && a.getLsbD (w - 1)
           (iBfx sg w a b c).getLsbD j = if len = 0 then false else if j < len then ext (pos + j) else sg && ext (pos + len - 1))
        ∧ (let pos := c.toNat % 128
           let len := min (c.toNat / 256 % 128) w
           (iBfi sg w a b c).getLsbD j = if pos ≤ j ∧ j < pos + len then b.getLsbD (j - pos) else a.getLsbD j))
      ∧ (iPopc sg w a b c).toNat = ((List.range w).map fun j => (a.getLsbD j).toNat).sum
      ∧ (let n := (iClz sg w a b c).toNat
         n ≤ w ∧ (∀ j, j < w → w - n ≤ j → a.getLsbD j = false) ∧ (n < w → a.getLsbD (w - 1 - n) = true))

/-- R138: ADDC and SUBB complete: the sum or difference with the carry bit of C goes to the destination at the width, the
carry or borrow to the predicate C in the lanes that execute; the group's other predicates, and everything but the group, are
as they were. -/
def Obligations.CarryResult : Prop :=
  ∀ (s : State) (f : XForm) (n : Fin 16) (sub : Bool), f.c = .p n → (∀ d, f.d ≠ .p d) → Passes s (xIssue f (xLen f) (typedTop f)) →
    let g := curGroup s
    let w := intWidth f
    let p := wide f.ty
    let u := uniform .auto f
    let t (j : Nat) : Int :=
      if sub then toN w (opnd s g p f.a j) - toN w (opnd s g p f.b j) - (if (pRead g n.val).getLsbD j then 1 else 0)
      else toN w (opnd s g p f.a j) + toN w (opnd s g p f.b j) + (if (pRead g n.val).getLsbD j then 1 else 0)
    let y (j : Nat) : DWord := extend (tySigned f.ty) w (wrap w (t j))
    let out (j : Nat) : Bool := if sub then decide (t j < 0) else decide (2 ^ w ≤ t j)
    ∃ x : Group, exec (if sub then .subb f else .addc f) s = .next (setCur s x)
      ∧ (∀ m j, j < 128 → vRead x m j = vectorAfter g f u p y m j)
      ∧ (∀ m, sRead (hidden s s.cur) x m = scalarAfter (hidden s s.cur) g f y m)
      ∧ (∀ m j, j < 128 → (pRead x m).getLsbD j =
          if m = n.val ∧ n.val ≠ 0 ∧ (writes g f u).getLsbD j = true then (if u then out (lu g) else out j)
          else (pRead g m).getLsbD j)
      ∧ x.pc = g.pc + BitVec.ofNat 64 (xLen f) ∧ x.fpflags = g.fpflags ∧ OnlyResults g x

/-- R140 to R142: CMP and the base comparisons complete: the destination receives 1 where the relation that FN names holds between
the sources read at the compare width, else 0. SEL writes the source that the lane's bit of predicate A chooses; LI writes
(base + lane × stride) mod 2^32 in each live lane; with `.uni` each executes once, at lane L (R13, R116; for LI the model's reading, log
entry 42). -/
def Obligations.CompareSelectAffine : Prop :=
  (∀ (s : State) (i : Instr) (f : XForm) (len : Nat), compareOf i = some (f, len) → Passes s (xIssue f len (typedTop f)) →
    let g := curGroup s
    let w := cmpWidth f
    let sg := tySigned f.ty
    let p := wide f.ty
    let rel (a b : Int) : Bool :=
      match f.fn.toNat with
      | 0 => a = b | 1 => a ≠ b | 2 => a < b | 3 => a ≤ b | 4 => a > b | _ => a ≥ b
    Computed s f (xIssue f len (typedTop f)) (uniform .auto f) p
      (fun j => if rel (toSN sg w (opnd s g p f.a j)) (toSN sg w (opnd s g p f.b j)) then 1 else 0) 0 (exec i s))
  ∧ ∀ (s : State) (f : XForm), Passes s (xIssue f (xLen f) (typedTop f)) →
    let g := curGroup s
    let p := wide f.ty
    (∀ n, f.a = .p n → Computed s f (xIssue f (xLen f) (typedTop f)) (uniform .auto f) p
        (fun j => extend (tySigned f.ty) (intWidth f) (if (pRead g n.val).getLsbD j then opnd s g p f.b j else opnd s g p f.c j))
        0 (exec (.sel f) s))
      ∧ Computed s f (xIssue f (xLen f) (typedTop f)) (uniform .auto f) false
          (fun j => extend (tySigned f.ty) 32 (opnd s g false f.a j + BitVec.ofNat 64 j * opnd s g false f.b j)) 0 (exec (.li f) s)

/-- R153: the predicate instructions complete: each live lane's bit of D becomes the operation on its bits of A and B, every
other bit stays, and nothing is pushed; PMOV moves a predicate's bit, as 0 or 1, or whether a vector lane is not zero. With
`.uni` each executes once, at lane L, and its bit goes to every lane of `xm` (R13, R116; log entry 42). -/
def Obligations.PredicateResult : Prop :=
  (∀ (s : State) (i : Instr) (f : XForm) (len : Nat) (op : Bool → Bool → Bool), predicateOf i = some (f, len, op) →
      Passes s (xIssue f len none) →
      Computed s f (xIssue f len none) (uniform .auto f) false
        (fun j => if op (predBit (curGroup s) f.a j) (predBit (curGroup s) f.b j) then 1 else 0) 0 (exec i s))
  ∧ (∀ (s : State) (f : XForm), Passes s (xIssue f (xLen f) (topReg [(f.d, 1), (f.a, 1)])) →
      Computed s f (xIssue f (xLen f) (topReg [(f.d, 1), (f.a, 1)])) (uniform .auto f) false
        (fun j => match f.a with
          | .v n => if vRead (curGroup s) n.val j = 0 then 0 else 1
          | o => if predBit (curGroup s) o j then 1 else 0) 0 (exec (.pmov f) s))

/-! # Floating instructions and conversion -/

/-- R76, R143 to R152: a floating instruction or a conversion that raises no enabled flag completes: the destination receives
the operation's value, rounded once, and `sy.fpflags` the flags of the live lanes ORed in. -/
def Obligations.FloatingResult : Prop :=
  (∀ (s : State) (i : Instr) (f : XForm) (len : Nat) (op : FltFn), floatingOf i = some (f, len, op) →
      let g := curGroup s
      let p := wide f.ty
      let r (j : Nat) : DWord × FFlags := op (fltTy f) f.rm (opnd s g p f.a j) (opnd s g p f.b j) (opnd s g p f.c j)
      let fl := flagsRaised g f (uniform .auto f) fun j => (r j).2
      Passes s (xIssue f len (typedTop f)) → enabledFlags g.fpflags fl = 0 →
      Computed s f (xIssue f len (typedTop f)) (uniform .auto f) p (fun j => (r j).1) fl (exec i s))
  ∧ (∀ (s : State) (f : XForm),
      let g := curGroup s
      let from_ := tyOfCode f.fn.toNat
      let k := xIssue f (xLen f) (topReg [(f.d, span (wide f.ty)), (f.a, span (wide from_))])
      let r (j : Nat) : DWord × FFlags := convert from_ f.ty f.rm (pointOf f.c) (opnd s g (wide from_) f.a j)
      let fl := flagsRaised g f (uniform .auto f) fun j => (r j).2
      Passes s k → enabledFlags g.fpflags fl = 0 →
      Computed s f k (uniform .auto f) (wide f.ty) (fun j => (r j).1) fl (exec (.cvt f) s))

/-- R77: a floating instruction, a conversion, a RED or a SCAN that raises an enabled flag completes all the same, and then raises the
floating-exception trap, code 0x09 of class C, whose record names the flags. -/
def Obligations.FloatingException : Prop :=
  ∀ (s : State) (f : XForm),
    let g := curGroup s
    let p := wide f.ty
    let raises (i : Instr) (k : Issue) (u : Bool) (y : Nat → DWord) (fl : FFlags) : Prop :=
      Passes s k → enabledFlags g.fpflags fl ≠ 0 →
      ∃ t, Computed s f k u p y fl (.next t)
        ∧ exec i s = .next (raiseTrap t
            { cls := .C, code := 0x09, sw := 0, recs := [plainRec s s.cur 0x09 (enabledFlags g.fpflags fl).toNat], epc := 0,
              uniform := false, elems := [] })
    (∀ (i : Instr) (len : Nat) (op : FltFn), floatingOf i = some (f, len, op) →
      let r (j : Nat) : DWord × FFlags := op (fltTy f) f.rm (opnd s g p f.a j) (opnd s g p f.b j) (opnd s g p f.c j)
      raises i (xIssue f len (typedTop f)) (uniform .auto f) (fun j => (r j).1) (flagsRaised g f (uniform .auto f) fun j => (r j).2))
    ∧ (let from_ := tyOfCode f.fn.toNat
       let r (j : Nat) : DWord × FFlags := convert from_ f.ty f.rm (pointOf f.c) (opnd s g (wide from_) f.a j)
       raises (.cvt f) (xIssue f (xLen f) (topReg [(f.d, span p), (f.a, span (wide from_))])) (uniform .auto f) (fun j => (r j).1)
        (flagsRaised g f (uniform .auto f) fun j => (r j).2))
    ∧ (let t := treeOf s g f
       let pre := prefixOf (joinNodes f.fn.toNat f.ty f.rm) t
       raises (.red f) (xIssue f 12 (typedTop f)) false (fun _ => (treeNode t 7 0).1) (flagsRaised g f false fun _ => (treeNode t 7 0).2)
        ∧ raises (.scan f) (xIssue f 12 (typedTop f)) false (fun j => (pre j).1) (flagsRaised g f false fun j => (pre j).2))

/-- R67 to R73, R146: the values of FADD, FSUB, FMUL, FFMA, FDIV and FSQRT in each of the four formats and each rounding mode: of finite
operands the exact sum, difference, product, fused sum, quotient or root rounded once (`Delivers`), with the sign of R71 where it
is zero; and every special case of R71: NaNs give the default NaN (with IV for a signalling one), infinities theirs, and the invalid
cases the default NaN with IV; a quotient by zero is infinite, with DZ. -/
def Obligations.FloatingValues : Prop :=
  (defaultNaN (fmtOf .bf16) = 0x7FC0 ∧ defaultNaN (fmtOf .f16) = 0x7E00 ∧ defaultNaN (fmtOf .f32) = 0x7FC00000
      ∧ defaultNaN (fmtOf .f64) = 0x7FF8000000000000)
  ∧ ∀ (t : Ty), t ∈ [Ty.bf16, .f16, .f32, .f64] → ∀ (rm : Rm) (a b c : DWord),
    let f := fmtOf t
    let na := negBit f a
    let nb := negBit f b
    let nc := negBit f c
    let nan (xs : List DWord) (r : DWord × FFlags) : Prop :=
      xs.any (isNan f) = true → r = (defaultNaN f, if xs.any (isSig f) then fIV else 0)
    let invalid : DWord × FFlags := (defaultNaN f, fIV)
    let zero (n : Bool) : DWord × FFlags := (zeroBits f n, 0)
    let inf (n : Bool) : DWord × FFlags := (infBits f n, 0)
    let add := opFadd t rm a b c
    let sub := opFsub t rm a b c
    let mul := opFmul t rm a b c
    let fma := opFfma t rm a b c
    let div := opFdiv t rm a b c
    let root := opFsqrt t rm a b c
    (∀ n, (zeroBits f n).toNat = (if n then 2 ^ (f.m + f.e) else 0)
        ∧ (infBits f n).toNat = (if n then 2 ^ (f.m + f.e) else 0) + (2 ^ f.e - 1) * 2 ^ f.m)
    ∧ (nan [a, b] add ∧ nan [a, b] sub ∧ nan [a, b] mul ∧ nan [a, b, c] fma ∧ nan [a, b] div ∧ nan [a] root)
    ∧ (∀ x y : ℚ, realOf f a = some x → realOf f b = some y →
        (x + y ≠ 0 → Delivers rm f (x + y : ℚ) add) ∧ (x + y = 0 → add = zero (if na = nb then na else decide (rm = .rd)))
        ∧ (x - y ≠ 0 → Delivers rm f (x - y : ℚ) sub) ∧ (x - y = 0 → sub = zero (if na ≠ nb then na else decide (rm = .rd)))
        ∧ (x * y ≠ 0 → Delivers rm f (x * y : ℚ) mul) ∧ (x * y = 0 → mul = zero (na != nb))
        ∧ (∀ z : ℚ, realOf f c = some z →
            (x * y + z ≠ 0 → Delivers rm f (x * y + z : ℚ) fma)
            ∧ (x * y + z = 0 → fma = zero (if (na != nb) = nc then nc else decide (rm = .rd))))
        ∧ (x ≠ 0 → y ≠ 0 → Delivers rm f (x / y : ℚ) div) ∧ (x = 0 → y ≠ 0 → div = zero (na != nb))
        ∧ (x ≠ 0 → y = 0 → div = (infBits f (na != nb), fDZ)) ∧ (x = 0 → y = 0 → div = invalid))
    ∧ (∀ x : ℚ, realOf f a = some x →
        (0 < x → Delivers rm f (Real.sqrt (x : ℝ)) root) ∧ (x = 0 → root = zero na) ∧ (x < 0 → root = invalid))
    ∧ (isInf f a = true → root = if na then invalid else inf false)
    ∧ (isNan f a = false → isNan f b = false → isInf f a = true ∨ isInf f b = true →
        add = (if isInf f a = true ∧ isInf f b = true ∧ na ≠ nb then invalid else if isInf f a then inf na else inf nb)
        ∧ sub = (if isInf f a = true ∧ isInf f b = true ∧ na = nb then invalid else if isInf f a then inf na else inf (!nb))
        ∧ mul = (if realOf f a = some 0 ∨ realOf f b = some 0 then invalid else inf (na != nb))
        ∧ div = (if isInf f a = true ∧ isInf f b = true then invalid else if isInf f a then inf (na != nb) else zero (na != nb)))
    ∧ (isNan f a = false → isNan f b = false → isNan f c = false →
        (isInf f a = true ∨ isInf f b = true → fma =
          if realOf f a = some 0 ∨ realOf f b = some 0 ∨ (isInf f c = true ∧ nc ≠ (na != nb)) then invalid else inf (na != nb))
        ∧ (isInf f a = false → isInf f b = false → isInf f c = true → fma = inf nc))

/-- R65 to R68, R74, R82, R143, R147 to R150: the values of CVT, FRND, FMIN, FMAX, FCMP and FCLS. CVT into a floating type is one
rounding of the exact value; into an integer or `.fx` the value (times 2 to the binary point) rounded to an integer and clamped, with IV
where clamping changed it, else NX where rounding did; a NaN gives 0 and IV, an infinity the end of the range and IV; between integers
it clamps and raises nothing. FRND rounds to an integer of its type; FMIN and FMAX choose by the order, −0 below +0, and give the other
operand of one quiet NaN; FCMP tests its relation, NaNs as R148 says; FCLS tests the class that the bits have. -/
def Obligations.ConversionValues : Prop :=
  (∀ (src dst : Ty), src ∈ [Ty.i8, .i16, .i32, .i64, .n8, .n16, .n32, .n64, .bf16, .f16, .f32, .f64, .fx] →
      dst ∈ [Ty.i8, .i16, .i32, .i64, .n8, .n16, .n32, .n64, .bf16, .f16, .f32, .f64, .fx] → (src ≠ .fx ∨ dst ≠ .fx) →
      ∀ (rm : Rm) (fx : Nat) (x : DWord), fx < 64 →
      let r := convert src dst rm fx x
      let w := tyBits dst
      let sg := tySigned dst
      let lo : Int := if sg then -(2 ^ (w - 1)) else 0
      let hi : Int := if sg then 2 ^ (w - 1) - 1 else 2 ^ w - 1
      let fs := fmtOf src
      let whole (k : Int) : Prop := toSN sg w r.1 = k ∧ r.1 = extend sg w r.1
      let exact : Option ℚ :=
        if tyFloat src then realOf fs x
        else if src = .fx then some ((toS 64 x : ℚ) / 2 ^ fx) else some (toSN (tySigned src) (tyBits src) x : ℚ)
      (tyInt src = true → tyInt dst = true → whole (max lo (min hi (toSN (tySigned src) (tyBits src) x))) ∧ r.2 = 0)
      ∧ (tyFloat dst = true →
          (∀ y, exact = some y → (y ≠ 0 → Delivers rm (fmtOf dst) (y : ℚ) r)
            ∧ (y = 0 → r = (zeroBits (fmtOf dst) (tyFloat src && negBit fs x), 0)))
          ∧ (tyFloat src = true → (isNan fs x = true → r = (defaultNaN (fmtOf dst), if isSig fs x then fIV else 0))
            ∧ (isInf fs x = true → r = (infBits (fmtOf dst) (negBit fs x), 0))))
      ∧ (tyFloat dst = false → (tyInt src = false ∨ tyInt dst = false) →
          (∀ y : ℚ, exact = some y → ∃ k : Int,
            let z : ℚ := y * 2 ^ (if dst = .fx then fx else 0)
            RoundsTo rm Whole (z : ℚ) k ∧ whole (max lo (min hi k))
              ∧ r.2 = if k < lo ∨ hi < k then fIV else if (k : ℚ) ≠ z then fNX else 0)
          ∧ (tyFloat src = true → (isNan fs x = true → r = (0, fIV))
            ∧ (isInf fs x = true → whole (if negBit fs x then lo else hi) ∧ r.2 = fIV))))
  ∧ ∀ (t : Ty), t ∈ [Ty.bf16, .f16, .f32, .f64] → ∀ (rm : Rm) (a b c : DWord),
    let f := fmtOf t
    let low (x : DWord) : DWord := extend false (tyBits t) x
    let rnd := opFrnd t rm a b c
    let pick (mx : Bool) := opFminmax mx t rm a b c
    let cmp (fn : Nat) := fCompare fn (fval f a) (fval f b)
    let un := isNan f a || isNan f b
    (∀ x : ℚ, realOf f a = some x → ∃ u : ℚ, RoundsTo rm Whole (x : ℚ) u ∧ realOf f rnd.1 = some u
        ∧ negBit f rnd.1 = negBit f a ∧ rnd.1.toNat < 2 ^ tyBits t ∧ rnd.2 = 0)
    ∧ (isInf f a = true → rnd = (low a, 0)) ∧ (isNan f a = true → rnd = (defaultNaN f, if isSig f a then fIV else 0))
    ∧ (∀ mx, (∀ p q, orderOf f a = some p → orderOf f b = some q →
          (pick mx = (low a, 0) ∨ pick mx = (low b, 0)) ∧ orderOf f (pick mx).1 = some (if mx then max p q else min p q)
            ∧ (realOf f a = some 0 → realOf f b = some 0 →
                negBit f (pick mx).1 = if mx then negBit f a && negBit f b else negBit f a || negBit f b))
        ∧ (isSig f a = true ∨ isSig f b = true → pick mx = (defaultNaN f, fIV))
        ∧ (isSig f a = false → isSig f b = false → un = true → pick mx =
            if isNan f a = true ∧ isNan f b = true then (defaultNaN f, 0) else if isNan f a then (low b, 0) else (low a, 0)))
    ∧ (∀ p q, orderOf f a = some p → orderOf f b = some q → ∀ fn, fn < 8 → (cmp fn).2 = 0 ∧
        ((cmp fn).1 = true ↔
          match fn with
          | 0 => p = q | 1 => p ≠ q | 2 => p < q | 3 => p ≤ q | 4 => q < p | 5 => q ≤ p | 6 => False | _ => True))
    ∧ (un = true → ∀ fn, fn < 8 → cmp fn = (decide (fn = 1 ∨ fn = 6),
        if (2 ≤ fn ∧ fn ≤ 5) ∨ isSig f a = true ∨ isSig f b = true then fIV else 0))
    ∧ fClass f a = (if isSig f a then 0 else if isNan f a then 1 else if isInf f a then (if negBit f a then 2 else 9)
        else if realOf f a = some 0 then (if negBit f a then 5 else 6)
        else if expField f a = 0 then (if negBit f a then 4 else 7) else if negBit f a then 3 else 8)

/-- R70, R71, R151: the values of FRCP, FRSQ, FEXP2, FLOG2, FSIN and FCOS. In `.f32`: the special values and the exact cases, which
raise no NX; FRCP one of the two neighbours of the exact quotient; FRSQ within 2 ulp of a number that is the exact root to 80 bits; the
others within R151's bound of the model's reference series (log entry 9: the results are free within the bound, and the reference is the
model's own), each with NX, and with OF or UF where the result is infinite or tiny. In the 16-bit types: the `.f32` result of the
operand widened exactly, rounded to nearest-even into the type. -/
def Obligations.ApproximationValues : Prop :=
  (∀ (rm : Rm) (a : DWord),
    let f := fmtOf .f32
    let n := negBit f a
    let r (k : Approx) : DWord × FFlags := opApprox k .f32 rm a 0 0
    let invalid : DWord × FFlags := (0x7FC00000, fIV)
    let one : DWord × FFlags := (0x3F800000, 0)
    let bits (x : Nat) (n : Bool) : DWord := BitVec.ofNat 64 (x + if n then 2 ^ 31 else 0)
    let value (k : Approx) (v : ℚ) : Prop :=
      realOf f (r k).1 = some v ∨ (isInf f (r k).1 = true ∧ v = if negBit f (r k).1 then -(2 ^ 128) else 2 ^ 128)
    let inexact (k : Approx) : Prop := (r k).2 = if isInf f (r k).1 then fNX ||| fOF
      else if expField f (r k).1 = 0 then fNX ||| fUF else fNX
    let ulp (y : Int) : ℚ := (fxUlp y : ℚ) / 2 ^ 320
    let near (k : Approx) (y : Int) (bound : ℚ) : Prop := ∃ v, value k v ∧ |v - (y : ℚ) / 2 ^ 320| ≤ bound ∧ inexact k
    (isNan f a = true → ∀ k, r k = (0x7FC00000, if isSig f a then fIV else 0))
    ∧ (isInf f a = true → r .rcp = (bits 0 n, 0) ∧ r .rsq = (if n then invalid else (0, 0))
        ∧ r .exp2 = (if n then (0, 0) else (0x7F800000, 0)) ∧ r .log2 = (if n then invalid else (0x7F800000, 0))
        ∧ r .sin = invalid ∧ r .cos = invalid)
    ∧ (realOf f a = some 0 → r .rcp = (bits 0x7F800000 n, fDZ) ∧ r .rsq = (bits 0x7F800000 n, fDZ) ∧ r .exp2 = one
        ∧ r .log2 = (0xFF800000, fDZ) ∧ r .sin = (bits 0 n, 0) ∧ r .cos = one)
    ∧ ∀ x : ℚ, realOf f a = some x → x ≠ 0 →
      let X : Int := (x * 2 ^ 320).floor
      (∃ m, Delivers m f (1 / x : ℚ) (r .rcp))
      ∧ (x < 0 → r .rsq = invalid ∧ r .log2 = invalid)
      ∧ (0 < x →
          (∀ i : ℤ, x = 2 ^ (2 * i) → realOf f (r .rsq).1 = some (2 ^ (-i)) ∧ (r .rsq).2 = 0)
          ∧ ((∀ i : ℤ, x ≠ 2 ^ (2 * i)) → ∃ y : Int, |((y : ℚ) / 2 ^ 320 : ℝ) - 1 / Real.sqrt (x : ℝ)| ≤ 1 / Real.sqrt (x : ℝ) / 2 ^ 80
              ∧ near .rsq y (2 * ulp y)))
      ∧ (128 ≤ x → r .exp2 = (0x7F800000, fOF ||| fNX))
      ∧ (∀ i : ℤ, x = i → -149 ≤ i → i < 128 → realOf f (r .exp2).1 = some (2 ^ i) ∧ (r .exp2).2 = 0)
      ∧ (x < 128 → (∀ i : ℤ, -149 ≤ i → x ≠ i) → (fxExp2 X).natAbs < 2 ^ 448 → near .exp2 (fxExp2 X) (2 * ulp (fxExp2 X)))
      ∧ (∀ i : ℤ, x = 2 ^ i → realOf f (r .log2).1 = some i ∧ (r .log2).2 = 0)
      ∧ (0 < x → (∀ i : ℤ, x ≠ 2 ^ i) → ∀ (m : Nat) (e : Int), fval f a = .num false m e →
          let y := fxLog2 m e
          y.natAbs < 2 ^ 448 → near .log2 y (if |(y : ℚ)| ≤ 2 ^ 320 then max (2 * ulp y) (2 ^ (-22 : ℤ)) else 2 * ulp y))
      ∧ ((fxSin X).natAbs < 2 ^ 324 → near .sin (fxSin X) (2 ^ (-21 : ℤ)))
      ∧ ((fxCos X).natAbs < 2 ^ 324 → near .cos (fxCos X) (2 ^ (-21 : ℤ))))
  ∧ ∀ (t : Ty), t ∈ [Ty.bf16, .f16] → ∀ (rm : Rm) (k : Approx) (a w : DWord),
    let f := fmtOf t
    let op := opApprox k t rm a 0 0
    let r := opApprox k .f32 rm w 0 0
    (isNan f a = true → op = (defaultNaN f, if isSig f a then fIV else 0))
    ∧ (isNan f a = false → w.toNat < 2 ^ 32 → orderOf (fmtOf .f32) w = orderOf f a → negBit (fmtOf .f32) w = negBit f a →
        (∀ z : ℚ, realOf (fmtOf .f32) r.1 = some z →
          (z ≠ 0 → ∃ fl, Delivers .rn f (z : ℚ) (op.1, fl) ∧ op.2 = r.2 ||| fl)
          ∧ (z = 0 → op = (zeroBits f (negBit (fmtOf .f32) r.1), r.2)))
        ∧ (isInf (fmtOf .f32) r.1 = true → op = (infBits f (negBit (fmtOf .f32) r.1), r.2))
        ∧ (isNan (fmtOf .f32) r.1 = true → op = (defaultNaN f, r.2)))

/-! # Across lanes -/

/-- R84, R85, R230: RED and SCAN that raise no enabled flag complete: every live lane receives the root of the fixed tree over
the live lanes' sources, or its own prefix; TXQ and LOCQ give each lane its transaction's status word and the locality word of
its address, LOCQ one word for the group when its address operands are all scalar (`addrMode`) (R185, R194). -/
def Obligations.CrossLaneResult : Prop :=
  ∀ (s : State) (f : XForm),
    let g := curGroup s
    let t := treeOf s g f
    let pre := prefixOf (joinNodes f.fn.toNat f.ty f.rm) t
    (Passes s (xIssue f 12 (typedTop f)) →
      (enabledFlags g.fpflags (flagsRaised g f false fun _ => (treeNode t 7 0).2) = 0 →
        Computed s f (xIssue f 12 (typedTop f)) false (wide f.ty) (fun _ => (treeNode t 7 0).1)
          (flagsRaised g f false fun _ => (treeNode t 7 0).2) (exec (.red f) s))
      ∧ (enabledFlags g.fpflags (flagsRaised g f false fun j => (pre j).2) = 0 →
        Computed s f (xIssue f 12 (typedTop f)) false (wide f.ty) (fun j => (pre j).1)
          (flagsRaised g f false fun j => (pre j).2) (exec (.scan f) s)))
    ∧ (Passes s (xIssue f (xLen f) (topReg [(f.d, 1)])) →
        Computed s f (xIssue f (xLen f) (topReg [(f.d, 1)])) false false (txnStatus s g) 0 (exec (.txq f) s))
    ∧ (Passes s (xIssue f (xLen f) (addrTop f 1 0)) →
        Computed s f (xIssue f (xLen f) (addrTop f 1 0)) (uniform (addrMode f) f) false
          (fun j => locality s s.cur (globalAt s g f.a f.b j)) 0 (exec (.locq f) s))

/-! # Control -/

/-- R116, R133: an instruction that executes once for the group, and whose guard is false at lane L, does nothing but go on
to the next instruction; so does an ICINV of lanes none of which is live (R13, R14). -/
def Obligations.FalseGuardOnlyAdvances : Prop :=
  (∀ (s : State) (i : Instr) (f : XForm) (k : Issue), guardedOf i = some (f, k) → Passes s k → runs (curGroup s) f = false →
      exec i s = .next (Past s k))
    ∧ ∀ (s : State) (f : XForm), uniform .auto f = false → Passes s (xIssue f (xLen f) (addrTop f 0 0)) → live (curGroup s) f = 0 →
        exec (.icinv f) s = .next (Past s (xIssue f (xLen f) (addrTop f 0 0)))

/-- R122, R155: a branch whose guard holds goes to its target: BRA always, BRC exactly where its condition holds and past
itself elsewhere, BRX to a target that is a multiple of 4 and canonical, and it traps with code 0x14 at any other. -/
def Obligations.BranchesGo : Prop :=
  ∀ (s : State) (f : XForm) (g : Fin 4) (off : BitVec 20),
    let x := curGroup s
    let k := ctlIssue f 12
    let a := opnd s x false f.a 0
    let b := opnd s x false f.b 0
    let sgn : Bool := decide (f.ty ≠ .n64)
    let holds : Bool :=
      match f.fn.toNat with
      | 0 => a = b | 1 => a ≠ b
      | 2 => toSN sgn 64 a < toSN sgn 64 b | 3 => toSN sgn 64 a ≤ toSN sgn 64 b
      | 4 => toSN sgn 64 a > toSN sgn 64 b | 5 => toSN sgn 64 a ≥ toSN sgn 64 b
      | 8 => a = 0 | _ => a ≠ 0
    (Passes s { len := 4 } → (pRead x g.val).getLsbD (lu x) = true →
        exec (.braBase g off) s = .next (Goes s { len := 4 } (x.pc + 4 * off.signExtend 64)))
      ∧ (Passes s k → runs x f = true →
        exec (.bra f) s = .next (Goes s k (labelAt x f.c))
          ∧ exec (.brc f) s = .next (if holds then Goes s k (labelAt x f.c) else Past s k)
          ∧ (a.toNat % 4 = 0 → canonical a = true → exec (.brx f) s = .next (Goes s k a))
          ∧ (¬ (a.toNat % 4 = 0 ∧ canonical a = true) → exec (.brx f) s = trapAt s k 0x14 0 0 a 0))

/-- R61, R124, R126: BRD. All lanes taken: the entry for the second label is pushed and the group goes to
the first; none taken: it is pushed and the group goes on; both: under it the taken lanes wait for the first label, unless
the two labels are one, and the group goes on with the others. With no lane in `xm` it only goes on. Where the entries find no room
on the chip, the eight oldest go to the stack area first, from its low end upward; a fault there nullifies the instruction. -/
def Obligations.DivergentBranch : Prop :=
  ∀ (s : State) (f : XForm),
    let x := curGroup s
    let k := ctlIssue f 20
    let y := advance x k.len (readsLatch k) false none
    let first := labelAt x f.c
    let second := labelAt x f.b
    let t := x.xm &&& guardMask x f.gn f.gp
    let n := x.xm &&& ~~~t
    let whole : DivEntry := { pc := second, mask := x.xm, reconv := second }
    let taken : DivEntry := { pc := first ||| 1, mask := t, reconv := second }
    let new : List DivEntry := if t ≠ 0 ∧ n ≠ 0 ∧ first ≠ second then [taken, whole] else [whole]
    let after : Group := { y with
      div := new ++ x.div, xm := if t ≠ 0 ∧ n ≠ 0 then n else x.xm, pc := if n = 0 then first else x.pc + 20 }
    let va (i : Nat) : DWord := x.stk + BitVec.ofNat 64 (32 * (x.divSpill + i))
    let fault := areaFault s s.cur false true 32 ((List.range 8).map va)
    Passes s k →
      (x.xm = 0 → exec (.brd f) s = .next (Past s k))
        ∧ (x.xm ≠ 0 → new.length + x.div.length ≤ 32 → exec (.brd f) s = .next (setCur s after))
        ∧ (x.xm ≠ 0 → x.div.length ≤ 32 → 32 < new.length + x.div.length →
          (stackSize s s.cur < 32 * (x.divSpill + 8) + 16 * x.callSpill → StackStops s k (.overflow false) (exec (.brd f) s))
          ∧ (32 * (x.divSpill + 8) + 16 * x.callSpill ≤ stackSize s s.cur →
            (∀ e, fault = some e → StackStops s k e (exec (.brd f) s))
            ∧ (fault = none → ∀ key, FreeArea s va key 32 → ∃ u, exec (.brd f) s = .next u
                ∧ Spilled s u key 32 (fun i => divBytes (x.div.reverse.getD i whole))
                ∧ (∀ h, h ≠ s.cur → getGroup u h = getGroup s h)
                ∧ curGroup u = { after with div := after.div.take (after.div.length - 8), divSpill := x.divSpill + 8 })))

/-- R61, R125: JOIN of either form first pops its own entries whose lanes have all exited. Where then nothing of its own is left (no
entry, one of another JOIN, or one of an outer call) it goes on; an entry for this JOIN of lanes that wait it pops, takes its mask, and
goes to the entry's address if bit 0 of it is set, and past itself otherwise. Popping the last entry on the chip reads back the eight
newest of the stack area; a fault there nullifies the instruction. -/
def Obligations.JoinPops : Prop :=
  ∀ (s : State) (f : XForm) (base : Bool),
    let x := curGroup s
    let k : Issue := if base then { len := 4 } else ctlIssue f 12
    let i : Instr := if base then .joinBase else .join f
    let y := advance x k.len (readsLatch k) false none
    let next (e : DivEntry) : DWord := if e.pc.getLsbD 0 then e.pc &&& ~~~(1 : DWord) else x.pc + BitVec.ofNat 64 k.len
    let va (i : Nat) : DWord := x.stk + BitVec.ofNat 64 (32 * (x.divSpill - 1 - i))
    Passes s k →
      ((∀ e r, x.div = e :: r → e.reconv ≠ x.pc ∨ depthD x ≤ frameDepth x) → exec i s = .next (Past s k))
        ∧ (∀ z r : List DivEntry, x.div = z ++ r → (∀ e, e ∈ z → e.mask = 0 ∧ e.reconv = x.pc) →
            z.length ≤ depthD x - frameDepth x → x.divSpill = 0 →
            ((∀ e q, r = e :: q → e.reconv ≠ x.pc ∨ depthD x - z.length ≤ frameDepth x) →
              exec i s = .next (setCur s { y with div := r }))
            ∧ (∀ e q, r = e :: q → e.reconv = x.pc → frameDepth x < depthD x - z.length → e.mask ≠ 0 →
              exec i s = .next (setCur s { y with div := q, xm := e.mask, pc := next e })))
        ∧ (∀ e, x.div = [e] → e.reconv = x.pc → frameDepth x < depthD x → 8 ≤ x.divSpill →
            let fault := areaFault s s.cur false false 32 ((List.range 8).map va)
            (∀ b, fault = some b → StackStops s k b (exec i s))
            ∧ (fault = none → e.mask ≠ 0 → ∀ key, QuietArea s va key 32 → ∃ u, exec i s = .next u ∧ u.mem = s.mem
                ∧ (∀ h, h ≠ s.cur → getGroup u h = getGroup s h)
                ∧ curGroup u = { y with
                    div := (List.range 8).map fun j => divOf x.exited (memBytes s.mem (key j) 32)
                    divSpill := x.divSpill - 8, xm := e.mask, pc := next e }))

/-- R61, R126 to R128, R155: CALL and CALLX push the address after them and the divergence depth and go to their target; CALLX traps with code
0x14, with nothing pushed, at a target that is not a multiple of 4 or not canonical; RET at the depth
that its entry recorded pops it and goes to its address, and at any other depth, or without an entry, it takes the
stack-discipline trap, code 0x0A. A push that finds the chip full first sends the eight oldest entries to the stack area, from its high
end downward, and a pop of the last entry on the chip reads back the eight newest; a fault there nullifies the instruction. -/
def Obligations.CallAndReturn : Prop :=
  ∀ (s : State) (f : XForm),
    let x := curGroup s
    let k := ctlIssue f 12
    let y := advance x k.len (readsLatch k) false none
    let a := opnd s x false f.a 0
    let e : CallEntry := { ret := x.pc + 12, depth := BitVec.ofNat 64 (depthD x) }
    let good := a.toNat % 4 = 0 ∧ canonical a = true
    let top : DWord := x.stk + BitVec.ofNat 64 (stackSize s s.cur)
    let va (i : Nat) : DWord := top - BitVec.ofNat 64 (16 * (x.callSpill + i + 1))
    let back (i : Nat) : DWord := top - BitVec.ofNat 64 (16 * (x.callSpill - 1 - i + 1))
    let fault := areaFault s s.cur true true 16 ((List.range 8).map va)
    Passes s k → runs x f = true →
      (∀ (i : Instr) (pc : DWord), (i = .call f ∧ pc = labelAt x f.c) ∨ (i = .callx f ∧ good ∧ pc = a) → x.call.length = 16 →
        (stackSize s s.cur < 32 * x.divSpill + 16 * (x.callSpill + 8) → StackStops s k (.overflow true) (exec i s))
        ∧ (32 * x.divSpill + 16 * (x.callSpill + 8) ≤ stackSize s s.cur →
          (∀ b, fault = some b → StackStops s k b (exec i s))
          ∧ (fault = none → ∀ key, FreeArea s va key 16 → ∃ u, exec i s = .next u
              ∧ Spilled s u key 16 (fun i => callBytes (x.call.reverse.getD i e)) ∧ (∀ h, h ≠ s.cur → getGroup u h = getGroup s h)
              ∧ curGroup u = { y with call := (e :: x.call).take 9, callSpill := x.callSpill + 8, pc := pc }))) ∧
      (∀ c, x.call = [c] → c.depth.toNat = depthD x → 8 ≤ x.callSpill →
        let bad := areaFault s s.cur true false 16 ((List.range 8).map back)
        (∀ b, bad = some b → StackStops s k b (exec (.ret f) s))
        ∧ (bad = none → ∀ key, QuietArea s back key 16 → ∃ u, exec (.ret f) s = .next u ∧ u.mem = s.mem
            ∧ (∀ h, h ≠ s.cur → getGroup u h = getGroup s h)
            ∧ curGroup u = { y with call := (List.range 8).map fun j => callOf (memBytes s.mem (key j) 16)
                                    callSpill := x.callSpill - 8, pc := c.ret })) ∧
      (x.call.length < 16 →
        exec (.call f) s = .next (setCur s { y with call := e :: x.call, pc := labelAt x f.c })
          ∧ (a.toNat % 4 = 0 → canonical a = true →
              exec (.callx f) s = .next (setCur s { y with call := e :: x.call, pc := a })))
      ∧ (¬ (a.toNat % 4 = 0 ∧ canonical a = true) → exec (.callx f) s = trapAt s k 0x14 0 0 a 0)
      ∧ (∀ c r, x.call = c :: r →
          (c.depth.toNat = depthD x → x.callSpill = 0 → exec (.ret f) s = .next (setCur s { y with call := r, pc := c.ret }))
          ∧ (c.depth.toNat ≠ depthD x → exec (.ret f) s = trapI s k 0x0A (depthD x % 256 + 256 * (c.depth.toNat % 256))))
      ∧ (x.call = [] → exec (.ret f) s = trapI s k 0x0A (depthD x % 256 + 2 ^ 16))

/-- R30, R62, R129: EXIT of either form with no live lane only goes on. Otherwise the live lanes leave `xm` and every mask of the
stack and join the exited lanes. While lanes of `xm` are left, the group goes on. With none left in `xm` but some in the group, it
resumes (outside a handler): entries with no lane are dropped, and the newest other one gives the
mask and the address, with the call-return entries of calls above it discarded; a pending entry is popped and a rejoin entry stays;
with no entry left the group goes on with `xm` zero. Dropping the last entry on the chip reads back the eight newest of the stack area
(R61), and a fault there nullifies the instruction. When every lane of the group has exited the group ends, and with the last group
of its block the block ends. -/
def Obligations.ExitLeavesLanes : Prop :=
  ∀ (s : State) (f : XForm) (g : Fin 4) (base : Bool),
    let x := curGroup s
    let k : Issue := if base then { len := 4 } else ctlIssue f 12
    let i : Instr := if base then .exitBase g else .exit f
    let m := x.xm &&& (if base then pRead x g.val else guardMask x f.gn f.gp)
    let next := x.pc + BitVec.ofNat 64 k.len
    let left := (x.div.map fun e => { e with mask := e.mask &&& ~~~m }).dropWhile fun e => decide (e.mask = 0)
    let others (b : Block) : Prop := b.away ≠ [] ∨ ∃ h, h ∈ b.groups ∧ h ≠ s.cur ∧ (getGroup s h).status ≠ .ended
    Passes s k →
      (m = 0 → exec i s = .next (Past s k))
        ∧ (m ≠ 0 → x.exited ||| m ≠ LaneMask.full →
          (x.xm &&& ~~~m ≠ 0 ∨ (hidden s s.cur = false ∧ x.divSpill = 0 ∧ x.callSpill = 0)) →
          ∃ t, exec i s = .next t ∧ t.mem = s.mem ∧ (∀ h, h ≠ s.cur → getGroup t h = getGroup s h)
            ∧ (curGroup t).exited = x.exited ||| m ∧ (curGroup t).v = x.v ∧ (curGroup t).s = x.s ∧ (curGroup t).p = x.p
            ∧ (x.xm &&& ~~~m ≠ 0 → (curGroup t).xm = x.xm &&& ~~~m ∧ (curGroup t).pc = next ∧ (curGroup t).call = x.call
                ∧ (curGroup t).div = x.div.map fun e => { e with mask := e.mask &&& ~~~m })
            ∧ (x.xm &&& ~~~m = 0 →
                (left = [] → (curGroup t).xm = 0 ∧ (curGroup t).pc = next ∧ (curGroup t).div = [] ∧ (curGroup t).call = x.call)
                ∧ ∀ e r, left = e :: r → (curGroup t).xm = e.mask ∧ (curGroup t).pc = e.pc &&& ~~~(1 : DWord)
                    ∧ (curGroup t).div = (if e.pc.getLsbD 0 then r else left)
                    ∧ (curGroup t).call = x.call.dropWhile fun c => decide (left.length ≤ c.depth.toNat)))
        ∧ (m ≠ 0 → x.exited ||| m = LaneMask.full → ∃ t, exec i s = .next t
            ∧ (others (getBlock s x.block) → (curGroup t).status = .ended ∧ (curGroup t).xm = 0 ∧ (curGroup t).exited = LaneMask.full)
            ∧ ((getBlock s x.block).here = true → ¬ others (getBlock s x.block) → (getBlock t x.block).status = .ended))
        ∧ (∀ e, x.div = [e] → e.mask &&& ~~~m = 0 → m ≠ 0 → x.exited ||| m ≠ LaneMask.full → x.xm &&& ~~~m = 0 →
          hidden s s.cur = false → x.callSpill = 0 → 8 ≤ x.divSpill →
          let va (i : Nat) : DWord := x.stk + BitVec.ofNat 64 (32 * (x.divSpill - 1 - i))
          let fault := areaFault s s.cur false false 32 ((List.range 8).map va)
          (∀ b, fault = some b → StackStops s k b (exec i s))
          ∧ (fault = none → ∀ key, QuietArea s va key 32 →
            let back := ((List.range 8).map fun j => divOf (x.exited ||| m) (memBytes s.mem (key j) 32)).dropWhile
              fun e => decide (e.mask = 0)
            ∀ d r, back = d :: r → (d.pc.getLsbD 0 = true → r ≠ [] ∨ x.divSpill < 16) →
              ∃ t, exec i s = .next t ∧ t.mem = s.mem ∧ (curGroup t).xm = d.mask ∧ (curGroup t).pc = d.pc &&& ~~~(1 : DWord)
                ∧ (curGroup t).divSpill = x.divSpill - 8 ∧ (curGroup t).div = (if d.pc.getLsbD 0 then r else back)
                ∧ (curGroup t).call = x.call.dropWhile fun c => decide (back.length + (x.divSpill - 8) ≤ c.depth.toNat)))

/-- R130: "ELECT picks the lowest live lane": as a predicate, its bit is set in that lane and zero in every other lane; as a
scalar, the number of that lane, or 128 with no live lane. -/
def Obligations.ElectChooses : Prop :=
  ∀ (s : State) (f : XForm),
    let x := curGroup s
    let k := ctlIssue f 12
    let m := x.xm &&& guardMask x f.gn f.gp
    let lowest (j : Nat) : Bool := m.getLsbD j && (List.range j).all fun i => !m.getLsbD i
    Passes s k →
      (∀ n, f.d = .p n → ∃ g : Group, exec (.elect f) s = .next (setCur s g)
          ∧ (∀ q j, j < 128 → (pRead g q).getLsbD j = if q = n.val ∧ n.val ≠ 0 then lowest j else (pRead x q).getLsbD j)
          ∧ g = { x with p := g.p, pc := x.pc + 12, latches := g.latches, chainPc := g.chainPc, chainLen := g.chainLen,
                         chainPush := g.chainPush })
        ∧ ((∀ n, f.d ≠ .p n) → ∃ v : Nat, exec (.elect f) s = .next (ScalarDone s x f k (BitVec.ofNat 64 v))
            ∧ (if m = 0 then v = 128 else v < 128 ∧ lowest v = true))

/-- R131: VOTE gives whether the predicate holds in some lane, in every lane (1 with no lane), or the mask of the lanes in
which it holds, bits 63 to 0 in the named scalar and bits 127 to 64 in the next. -/
def Obligations.VoteCounts : Prop :=
  ∀ (s : State) (f : XForm) (n : Fin 16), f.a = .p n →
    let x := curGroup s
    let k := ctlIssue f 12
    let a := pRead x n.val
    Passes s k → runs x f = true →
      (f.fn = 0 → exec (.vote f) s = .next (ScalarDone s x f k (if a &&& x.xm = 0 then 0 else 1)))
      ∧ (f.fn = 1 → exec (.vote f) s = .next (ScalarDone s x f k (if x.xm &&& ~~~a = 0 then 1 else 0)))
      ∧ (f.fn ≠ 0 → f.fn ≠ 1 → ∀ d, f.d = .s d →
          exec (.vote f) s = .next (ScalarDone s (sWrite (hidden s s.cur) x (d.val + 1) ((a &&& x.xm).extractLsb' 64 64)) f k
            ((a &&& x.xm).extractLsb' 0 64)))

/-- R132, R133, R239: WAIT and AWAIT go on at once, at their label or past themselves, if the event has reached the phase; else
the group sleeps, with nothing else changed but its latches. A WAIT on an object outside the window or off its alignment
traps with code 0x1C. -/
def Obligations.WaitSleepsOrGoes : Prop :=
  ∀ (s : State) (f : XForm) (aw : Bool),
    let x := curGroup s
    let k := ctlIssue f (xLen f)
    let ev : Ev := if aw then .join else (match f.d with | .ev e => e | _ => .grant)
    let obj : Nat := if aw then 0 else (opnd s x false f.b 0).toNat % 2 ^ 22
    let ph : DWord := if aw then BitVec.ofNat 64 x.spawned else opnd s x false f.a 0
    let resume : DWord := match f.c with | .imm t => x.pc + 4 * t | _ => x.pc + BitVec.ofNat 64 (xLen f)
    let i : Instr := if aw then .await f else .wait f
    Passes s k → runs x f = true →
      (ev ≠ .bar ∨ barOk (getBlock s x.block) obj = true →
        exec i s = .next (setCur s (if eventReached s x ev obj ph then { unchained x with pc := resume }
          else { unchained x with status := .asleep ev obj ph resume aw })))
      ∧ (aw = false → ev = .bar → barOk (getBlock s x.block) obj = false →
          exec i s = trapAt s k 0x1C 32 (latDetail (getBlock s x.block) obj 16 16) (BitVec.ofNat 64 obj) 0)

/-- R135, R291, R293: NOP only goes on; YIELD gives way from the clock of its die on, through the next 64 clocks, and its end comes after
them and not before; PRIO sets the priority, at most 15; MARK sets the phase of 16 bits, and the counts of the phase that it leaves are
owed to the contact sheet. Each writes that field of its group and completes. -/
def Obligations.SchedulerInstructions : Prop :=
  (∀ (s : State) (f : XForm),
    let x := curGroup s
    let a := opnd s x false f.a 0
    runs x f = true →
      (Passes s (ctlIssue f 12) → exec (.nop f) s = .next (Past s (ctlIssue f 12)))
      ∧ (Passes s (ctlIssue f (xLen f)) →
        exec (.yield f) s = .next (setCur s { curGroup (Past s (ctlIssue f (xLen f))) with
            yielding := true, yieldAt := mapGet 0 s.cyc (groupDie s.cur) })
          ∧ exec (.prio f) s = .next (setCur s { curGroup (Past s (ctlIssue f (xLen f))) with prio := min a.toNat 15 })
          ∧ ((curGroup s).mark = a.setWidth 16 → exec (.mark f) s = .next (Past s (ctlIssue f (xLen f))))
          ∧ ((curGroup s).mark ≠ a.setWidth 16 → ∃ t, exec (.mark f) s = .next t ∧ t.mem = s.mem
              ∧ curGroup t = { curGroup (Past s (ctlIssue f (xLen f))) with mark := a.setWidth 16, phaseIssues := 0 }
              ∧ t.owed = s.owed ++ [((groupBlock s s.cur).grid, slotCore s.cur, x.mark.toNat, x.phaseIssues)])))
  ∧ (∀ (s : State) (g : Fin 4), Passes s { len := 4 } → (pRead (curGroup s) g.val).getLsbD (lu (curGroup s)) = true →
      exec (.nopBase g) s = .next (Past s { len := 4 }))
  ∧ ∀ (s : State) (g : Nat), (getGroup s g).yielding = true →
      let since := (mapGet 0 s.cyc (groupDie g) - (getGroup s g).yieldAt).toNat
      (64 < since → exec (.yieldEnd g) s = .next (setGroup s g { getGroup s g with yielding := false }))
        ∧ (since ≤ 64 → exec (.yieldEnd g) s = .fault .notDue)

/-! # Memory -/

/-- R156, R159, R160, R164, R253: LD, in each live lane or with one address for the group (`.uni`, or a scalar destination), and LDS,
where every lane that accesses reaches a quiet coherent line of HBM4E with no transaction open in it, and with no late result and no table
of the partition that is being rewritten: each lane (or the group) receives the little-endian bytes at its address, extended by the type;
memory and every other group are unchanged, and so are the stores in flight, but for the sums of an update-only line that makes room for
a line in its L1 (R169). -/
def Obligations.LoadResult : Prop :=
  ∀ (s : State) (f : XForm) (lds : Bool) (key : Nat → Nat),
    let g := curGroup s
    let sp := groupSpace s s.cur
    let n := tyBytes f.ty
    let k := xIssue f (xLen f) (addrTop f (span (wide f.ty)) 0)
    let i : Instr := if lds then .lds f else .ld f
    let u := if lds then uniform .once f else uniform .laneUni f
    let ls := if u then (if runs g f then [lu g] else []) else lanes (live g f)
    g.prologue = none → s.late = [] → requestsStopped s sp.1 = false → Passes s k →
    (u = false → f.d = .unused ∨ ∃ d, f.d = .v d) →
    (∀ j, j ∈ ls → (lds = false → (mapGet ({} : Txn) g.txn j).isOpen = false) ∧ QuietLine s s.cur (key j) n
      ∧ key j % 128 + n ≤ 128
      ∧ ∃ x : Place, reach s sp.1 sp.2 .read n false (globalAt s g f.a f.b j) = .ok x ∧ x.space = .hbm (key j) ∧ x.dark = false) →
    ∃ (t : State) (h : Group), exec i s = .next t ∧ t.groups = (setCur s h).groups ∧ t.mem = s.mem ∧ s.stores <+: t.stores
      ∧ ((∀ j, j ∈ ls → (getCore s (l1Holder s s.cur (key j))).gather = []) → t.stores = s.stores)
      ∧ Computed s f k u (wide f.ty) (fun j => loadValue f.ty (leNat (memBytes s.mem (key j) n))) 0 (.next (setCur s h))

/-- R163, R164, R338, R344: a load or store with one address for the group that is not a multiple of its width, on a page that
is present, outside a transaction, completes past itself without loading or storing anything and raises the misaligned trap,
code 0x18 of class L, with one record: lane L, the logarithm of the width in DETAIL, and the address. R344 names LDS and STS; that LD
and ST with `.uni` make the same record is the model's choice (log entry 51). -/
def Obligations.MisalignedAccessTraps : Prop :=
  ∀ (s : State) (f : XForm) (i : Instr) (k : Issue) (st once : Bool) (pa l : Nat) (e : DWord),
    let g := curGroup s
    let sp := groupSpace s s.cur
    let n := tyBytes f.ty
    let va := globalAt s g f.a f.b (lu g)
    let p := span (wide f.ty)
    (i, k, st, once) ∈ [(Instr.ld f, xIssue f (xLen f) (addrTop f p 0), false, false), (.lds f, xIssue f (xLen f) (addrTop f p 0), false, true),
      (.st f, xIssue f (xLen f) (addrTop f 0 p), true, false), (.sts f, xIssue f (xLen f) (addrTop f 0 p), true, true)] →
    (if once then uniform .once f else uniform .laneUni f) = true → g.prologue = none → (mapGet {} g.txn (lu g)).isOpen = false →
    Passes s k → runs g f = true → xlat s sp.1 sp.2 va = .ok pa e l → va.toNat % n ≠ 0 →
    ∃ (t : State) (h : Group), exec i s = .next (raiseTrap t
        { cls := .L, code := 0x18, sw := 0, epc := 0, uniform := true, elems := [], issued := if once then 0 else g.issued
          recs := [mkRec s s.cur 0x18 (lu g) (2 + (if st then 4 else 0)) (Nat.log2 n) va 0 (maskOf [lu g])] })
      ∧ t.groups = (setCur s h).groups ∧ t.mem = s.mem ∧ t.stores = s.stores
      ∧ h.pc = g.pc + BitVec.ofNat 64 k.len ∧ h.v = g.v ∧ h.s = g.s ∧ h.hs = g.hs ∧ h.p = g.p ∧ OnlyResults g h

/-- R159, R160, R164, R255: ST, in each live lane or with one address for the group, and STS, where every lane that accesses reaches a
quiet coherent line with no transaction open in it, with room in the L1s and no table of the partition that is being rewritten, in a group
with an identity of its own: the lanes' bytes leave in one store for each line that they touch, after every store that was in
flight, each byte from the highest lane that wrote it and no other byte; memory itself is unchanged until the store is performed, and the
group only goes on. When a store in flight is performed at its home, on a line with no commit that waits to be visible, its bytes are
those of memory (in its canonical form, which every step keeps) from then on, every byte that it does not write stays, and it is
marked as performed with its completion time; a store that is not the oldest of its core to the line, or whose line is locked, is not
due. -/
def Obligations.StoreSentAndPerformed : Prop :=
  (∀ (s : State) (f : XForm) (sts : Bool) (key : Nat → Nat),
    let g := curGroup s
    let sp := groupSpace s s.cur
    let n := tyBytes f.ty
    let k := xIssue f (xLen f) (addrTop f 0 (span (wide f.ty)))
    let i : Instr := if sts then .sts f else .st f
    let u := if sts then uniform .once f else uniform .laneUni f
    let ls := if u then (if runs g f then [lu g] else []) else lanes (live g f)
    g.prologue = none → f.d = .unused → f.sup = false → Passes s k → requestsStopped s sp.1 = false → slotOfUid s g.uid = some s.cur →
    (∀ j, j ∈ ls → (sts = false → (mapGet ({} : Txn) g.txn j).isOpen = false) ∧ QuietLine s s.cur (key j) n
      ∧ key j % 128 + n ≤ 128
      ∧ (∃ x : Place, reach s sp.1 sp.2 .write n false (globalAt s g f.a f.b j) = .ok x ∧ x.space = .hbm (key j) ∧ x.dark = false)
      ∧ (let h := l1Holder s s.cur (key j)
         (mapGet [] s.copies h).length + (getCore s h).gather.length + ls.length ≤ Config.l1Lines)) →
    ∃ (t : State) (us : List PStore), exec i s = .next t ∧ t.groups = (Past s k).groups ∧ t.mem = s.mem ∧ t.stores = s.stores ++ us
      ∧ (us.map fun v => lineOf v.addr).Nodup
      ∧ (∀ v, v ∈ us → v.performed = none ∧ v.core = slotCore s.cur ∧ v.uid = g.uid ∧ ∃ m, v.op = .bytes m)
      ∧ ∀ a : Nat, let sent (x : Option Byte) : Prop := ∀ v m, v ∈ us → v.op = .bytes m → lineOf v.addr = lineOf a → mapFind m (a % 128) = x
          match (ls.filter fun j => decide (key j ≤ a ∧ a < key j + n)).getLast? with
          | none => sent none
          | some j => (∃ v, v ∈ us ∧ lineOf v.addr = lineOf a)
              ∧ sent (some ((leBytes n (opnd s g (wide f.ty) f.c j).toNat).getD (a - key j) 0)))
  ∧ ∀ (s : State) (id : Nat) (u : PStore) (m : AMap Byte), Memory.wf s.mem = true → s.stores.find? (fun t => t.id = id) = some u →
    u.op = .bytes m →
    let l := lineOf u.addr
    (storeReady s u = true → (getHome s l).next = [] → homeGone s (128 * l) = false → (m.map (·.1)).Nodup →
      (∀ e, e ∈ m → e.1 < 128) →
      ∃ t, exec (.storePerformed id) s = .next t
        ∧ (∀ a, memRead t.mem a = if a / 128 = l then (mapFind m (a % 128)).getD (memRead s.mem a) else memRead s.mem a)
        ∧ ∀ w, w ∈ t.stores → w.id = id → w.performed = some (completion s l))
      ∧ (storeReady s u = false → exec (.storePerformed id) s = .fault .notDue)

/-- R159, R168, R170, R171, R253: ATOM, ATOMF, ATOMX and CAS with a destination, in each live lane or with one address for the group, where
every lane that accesses reaches a quiet coherent line that no group watches, with no transaction open in it, no late result and no table
of the partition that is being rewritten, in a group with an identity of its own: the lanes act one after another in increasing order, each
receives the old value, and memory at its address the value of the operation on it (for CAS only where the old value is the expected one),
which a later lane finds there; every other byte is unchanged. -/
def Obligations.AtomicResult : Prop :=
  ∀ (s : State) (f : XForm) (i : Instr) (op : Nat → FabOp) (n : Nat) (key : Nat → Nat),
    let g := curGroup s
    let sp := groupSpace s s.cur
    let p := wide f.ty
    let c (j : Nat) : DWord := opnd s g p f.c j
    let pair := decide (i = .atomx f) || p
    let k := atomIssue f (span pair) (span p)
    let u := uniform .laneUni f
    let ls := if u then (if runs g f then [lu g] else []) else lanes (live g f)
    let r := atomRun op key n ls s.mem
    (i, op, n) ∈ [(Instr.atom f, fun j => FabOp.atom f.fn f.ty f.rm (c j), tyBytes f.ty), (.atomf f, fun j => .atomf f.fn f.ty f.rm (c j), tyBytes f.ty),
      (.atomx f, fun j => .atomx (c j), 8), (.cas f, fun j => .cas f.ty (opnd s g p f.d j) (c j), tyBytes f.ty)] →
    (i = .atomx f → f.ty = .fx) → f.sup = false → (u = false → f.d = .unused ∨ ∃ d, f.d = .v d) →
    Memory.wf s.mem = true → s.late = [] → Passes s k → requestsStopped s sp.1 = false → n ≤ 8 → slotOfUid s g.uid = some s.cur →
    (∀ j, j ∈ ls → (mapGet ({} : Txn) g.txn j).isOpen = false ∧ QuietLine s s.cur (key j) n ∧ key j % 128 + n ≤ 128
      ∧ (getHome s (lineOf (key j))).watchers = []
      ∧ ∃ x : Place, reach s sp.1 sp.2 (.atom f.sc) n false (globalAt s g f.a f.b j) = .ok x ∧ x.space = .hbm (key j) ∧ x.dark = false) →
    ∃ (t : State) (h : Group), exec i s = .next t ∧ t.groups = (setCur s h).groups
      ∧ (∀ a, memRead t.mem a = memRead r.1 a) ∧ (∀ a, (∀ j, j ∈ ls → a < key j ∨ key j + n ≤ a) → memRead t.mem a = memRead s.mem a)
      ∧ Computed s f k u pair (fun j => loadValue (atomTy (op j)) (((r.2.find? fun e => e.1 = j).map (·.2)).getD 0)) 0
          (.next (setCur s h))

/-- The general completion of the instructions that access memory (R76, R78, R156 to R175, R335): where no page is absent, every home
answers, no lane waits for an access of its own group, no lane's access faults and no poison is read, the lanes perform their accesses
in increasing order, and the group goes on with the loaded values written: LD, LDS, ST and STS, and then ATOM, ATOMF, ATOMX and
CAS, whose conversion flags are ORed in and take no trap. (`laneStep`, which performs one lane, and `storeLanes` are the model's own.) -/
def Obligations.AccessesComplete : Prop :=
  (∀ (s : State) (f : XForm),
      let g := curGroup s
      let p := wide f.ty
      let acc (m : Mode) (need : Need) (n : Nat) : Access :=
        { uni := uniform m f, inside := decide (m ≠ .once), need, n, va := globalAt s g f.a f.b }
      let open_ (a : Access) : Prop := absentLanes (tryLanes s f a) = []
        ∧ (reached_ (tryLanes s f a)).any (laneBusy s) = false
      let done (o : Out) (k : Issue) (a : Access) (pair : Bool) (r : Got) (fl : FFlags) : Prop :=
        Passes s k → open_ a → r.lost = none → r.faults = [] →
          let t := fillTlb r.s (tryLanes s f a)
          o = .next (setCur t (advance { putVals t (curGroup t) f a.uni pair r.vals with
              fpflags := raiseFlags (curGroup t).fpflags fl } k.len (readsLatch k) (pushes f) (pushVals t (curGroup t) f a.uni pair r.vals)))
      (∀ lds : Bool, g.prologue = none →
        let a := acc (if lds then .once else .laneUni) .read (tyBytes f.ty)
        let ts := tryLanes s f a
        let c := nextLate s
        readsWait s ts a.n true = false →
        done (exec (if lds then .lds f else .ld f) s) (xIssue f (xLen f) (addrTop f (span p) 0)) a p
          (ts.foldl (laneStep a true (fun _ _ => none) (loadValue f.ty) (plainLoad c.1 f a)) { s := c.2 }) 0)
      ∧ (∀ sts : Bool, g.prologue = none →
        let n := tyBytes f.ty
        let a := acc (if sts then .once else .laneUni) .write n
        let ts := tryLanes s f a
        noRoom s (storeLanes s a ts fun j => leBytes n (opnd s g p f.c j).toNat).s = false →
        done (exec (if sts then .sts f else .st f) s) (xIssue f (xLen f) (addrTop f 0 (span p))) a false
          { storeLanes s a ts (fun j => leBytes n (opnd s g p f.c j).toNat) with vals := [] } 0))
  ∧ (∀ (s : State) (f : XForm) (i : Instr) (k : Issue) (pair : Bool) (n : Nat) (op : Nat → LaneAtom) (fl : Nat → FFlags),
      let g := curGroup s
      let p := wide f.ty
      let c (j : Nat) : DWord := opnd s g p f.c j
      ((i = .atom f ∧ k = atomIssue f (span p) (span p) ∧ pair = p ∧ n = tyBytes f.ty ∧ fl = (fun _ => 0)
            ∧ op = fun j => { op := .atom f.fn f.ty f.rm (c j), adds := decide (f.fn = 0) })
          ∨ (i = .atomf f ∧ k = atomIssue f (span p) (span p) ∧ pair = p ∧ n = tyBytes f.ty ∧ fl = (fun _ => 0)
            ∧ op = fun j => { op := .atomf f.fn f.ty f.rm (c j), adds := false })
          ∨ (i = .atomx f ∧ k = atomIssue f 2 (span p) ∧ pair = true ∧ n = 8 ∧ fl = (fun j => (atomxValue f (c j)).2)
            ∧ op = fun j => { op := .atomx (atomxValue f (c j)).1, adds := true })
          ∨ (i = .cas f ∧ k = atomIssue f (span p) (span p) ∧ pair = p ∧ n = tyBytes f.ty ∧ fl = (fun _ => 0)
            ∧ op = fun j => { op := .cas f.ty (opnd s g p f.d j) (c j), adds := false })) →
      let a : Access := { uni := uniform .laneUni f, inside := true, need := .atom f.sc, n, va := globalAt s g f.a f.b }
      let ts := tryLanes s f a
      let l := if f.sup then (false, s) else nextLate s
      let new (j o : Nat) : Option Nat := (atomFn (op j).op (BitVec.ofNat 64 o)).map fun y => y.toNat % 2 ^ (8 * n)
      let r := ts.foldl (laneStep a true new (loadValue (atomTy (op 0).op))
        fun r e => plainAtomic (l.1 && !txnNear ts e) f a (atomScope f.sc) op r e) { s := l.2 }
      let flags := if g.xm = 0 then 0 else (reached_ ts).foldl (fun m e => m ||| fl e.1.lane) 0
      let t := fillTlb r.s ts
      let f' : XForm := { f with sup := false }
      Passes s k → absentLanes ts = [] → (reached_ ts).any (laneBusy s) = false → readsWait s ts n false = false →
      mixedWait s ts = false → r.lost = none → r.faults = [] →
      exec i s = .next (setCur t (advance { putVals t (curGroup t) f' a.uni pair r.vals with
        fpflags := raiseFlags (curGroup t).fpflags flags } k.len (readsLatch k) (pushes f') (pushVals t (curGroup t) f' a.uni pair r.vals))))

/-- R47, R49, R157, R163, R164: LDL and STL of lanes whose addresses lie in the window and are aligned complete, once the engine has read the
lattice sources of the group's CPYs before them (`readSources`, R197): LDL writes each lane the
little-endian bytes of the block's window, extended by its type, with nothing else changed (a scalar destination belongs to a
uniform form only, R117); STL puts each lane's bytes there in
increasing lane order. -/
def Obligations.LatticeAccess : Prop :=
  ∀ (s : State) (f : XForm),
    let g := curGroup s
    let b := getBlock s g.block
    let p := wide f.ty
    let n := tyBytes f.ty
    let u := uniform .auto f
    let at_ (j : Nat) : Nat := latticeAt s g f.a f.b j
    let ls := if u then (if runs g f then [lu g] else []) else lanes (live g f)
    (∀ j, j ∈ ls → inWindow b (at_ j) n = true ∧ at_ j % n = 0) →
      (Passes s (xIssue f (xLen f) (topReg [(f.d, span p), (f.b, 1)])) → (∀ d, f.d ≠ .p d) →
        (∀ d, f.d = .s d → u = true) →
        Computed (readSources s g.uid s.nextId) f (xIssue f (xLen f) (topReg [(f.d, span p), (f.b, 1)])) u p
          (fun j => loadValue f.ty (latNat s b (at_ j) n)) 0 (exec (.ldl f) s))
      ∧ (Passes s (xIssue f (xLen f) (topReg [(f.b, 1), (f.c, span p)])) → f.d = .unused → f.sup = false →
        ∃ t, exec (.stl f) s = .next t
          ∧ t.cores = (ls.foldl (fun s j => latPut s b (at_ j) (leBytes n (opnd s g p f.c j).toNat)) (readSources s g.uid s.nextId)).cores
          ∧ t.groups = (Past s (xIssue f (xLen f) (topReg [(f.b, 1), (f.c, span p)]))).groups ∧ t.mem = s.mem)

/-- R165, R166: PREF and PFA complete past themselves whatever their addresses: no register, no byte of memory and no store in
flight changes. The statement is about the states in which no line has a committed image that waits to be visible and no core holds
gathered sums: in the others a prefetched line makes due images visible, or sends the sums of a line that makes room for it. -/
def Obligations.HintsComplete : Prop :=
  ∀ (s : State) (f : XForm) (pfa : Bool), Passes s (xIssue f (xLen f) (addrTop f 0 0)) → (∀ l, (getHome s l).next = []) →
    (∀ l, gatherers s l = []) →
    ∃ t, exec (if pfa then .pfa f else .pref f) s = .next t ∧ t.groups = (Past s (xIssue f (xLen f) (addrTop f 0 0))).groups
      ∧ t.mem = s.mem ∧ t.stores = s.stores

/-! # Transactions -/

/-- R174, R177, R179, R180, R182, R184, R185: TXB opens a transaction of depth 1 in every live lane without one and deepens the others (one
of depth 15 is doomed with cause 10); of the lanes whose attempt has reached the limit one gets the token if it is free and reserved for
no other, and is irrevocable, and the others queue for it and are doomed with cause 5 and detail 1; TXA dooms the open speculative
transactions of the live lanes with cause 4
and its code; TXE gives each live lane the cause word of its transaction's end (9 with none, 0 for a nested end, the cause and
detail of a doomed one, 0 for a commit that validates and for an irrevocable lane's, which releases its locks and the token) and sets
the predicate where it is 0. A commit leaves its bytes in the next images of its lines. -/
def Obligations.TransactionInstructions : Prop :=
  ∀ (s : State) (f : XForm),
    let x := curGroup s
    let ls := lanes (live x f)
    let old (j : Nat) : Txn := mapGet {} x.txn j
    let limit : Nat := match f.b with | .unused => 8 | o => (opnd s x false o 0).toNat
    let r := endLanes s s.cur ls
    let cause (j : Nat) : DWord := ((r.2.find? fun e => e.1 = j).map (·.2)).getD 0
    let commits := ls.filter fun j => (old j).isOpen && (old j).depth = 1
    let p := (groupSpace s s.cur).1
    let pt := getPart s p
    let seek := ls.filter fun j => !(old j).isOpen && decide (limit ≤ (opnd s x false f.a j).toNat % 2 ^ 32)
    let won : Option Nat :=
      if pt.tok.isSome then none
      else match pt.tokQ with | [] => seek.head? | e :: _ => seek.find? fun j => decide (e = (x.uid, j))
    (Passes s (xIssue f (xLen f) (topReg [(f.a, 1)])) →
      (∀ j, j ∈ ls → (old j).isOpen = true → (old j).depth < 15 ∨ (old j).irr = false ∨ (old j).doomed ≠ none) →
      ∃ t, exec (.txb f) s = .next t ∧ t.mem = s.mem ∧ t.stores = s.stores ∧ (curGroup t).pc = x.pc + BitVec.ofNat 64 (xLen f)
        ∧ (∀ j, mapGet {} (curGroup t).txn j =
            if j ∉ ls then old j
            else if (old j).isOpen then (if (old j).depth < 15 then { old j with depth := (old j).depth + 1 } else doomTxn (old j) 10 0)
            else if won = some j then { isOpen := true, depth := 1, irr := true }
            else if j ∈ seek then { isOpen := true, depth := 1, doomed := some (5, 1) }
            else { isOpen := true, depth := 1 })
        ∧ (getPart t p).tok = (match won with | some j => some (x.uid, j) | none => pt.tok)
        ∧ (getPart t p).tokQ = ((pt.tokQ ++ (seek.map fun j => (x.uid, j)).filter fun e => !pt.tokQ.contains e).filter
            fun e => decide (won.map (fun j => (x.uid, j)) ≠ some e))
        ∧ (getPart t p).resv = if won.isSome then none else pt.resv)
    ∧ (Passes s (xIssue f (xLen f) none) →
      ∃ t, exec (.txa f) s = .next t ∧ t.mem = s.mem ∧ (curGroup t).pc = x.pc + BitVec.ofNat 64 (xLen f)
        ∧ ∀ j, mapGet {} (curGroup t).txn j = if j ∈ ls then doomTxn (old j) 4 (opnd s x false f.a 0).toNat else old j)
    ∧ (Passes s (xIssue f (xLen f) (topReg [(f.d, 1)])) → txePoison s s.cur ls = none →
        (commits.any fun j => commitBusy s (old j)) = false →
        ∃ t, exec (.txe f) s = .next t ∧ t.mem = r.1.mem ∧ t.homes = r.1.homes
          ∧ (curGroup t).pc = (curGroup r.1).pc + BitVec.ofNat 64 (xLen f) ∧ (curGroup t).txn = (curGroup r.1).txn
          ∧ (∀ d j, f.d = .v d → j ∈ ls → vRead (curGroup t) d.val j = (cause j).setWidth 32)
          ∧ (∀ n j, f.a = .p n → n.val ≠ 0 → j ∈ ls → (pRead (curGroup t) n.val).getLsbD j = decide (cause j = 0)))
    ∧ (∀ g j, let t := mapGet ({} : Txn) (getGroup s g).txn j
        (t.isOpen = false → endLane s g j = (s, 9))
        ∧ (t.isOpen = true → 1 < t.depth → endLane s g j = (modTxn s g j fun u => { u with depth := u.depth - 1 }, 0))
        ∧ (t.isOpen = true → t.depth = 1 → ∀ c d, t.doomed = some (c, d) →
            endLane s g j = (modGroup s g fun y => { y with txn := mapDel y.txn j }, BitVec.ofNat 64 (c + 256 * d)))
        ∧ (t.isOpen = true → t.depth = 1 → t.doomed = none → t.irr = false →
            (∀ l, l ∈ logLines t → (getHome s l).lock = none) →
            let u := (logLines t).foldl (readyLine g) s
            validate u t.reads = none →
            endLane s g j = (modGroup (applyCommit u g t.writes) g fun y => { y with txn := mapDel y.txn j }, 0))
        ∧ (t.isOpen = true → t.depth = 1 → t.doomed = none → t.irr = true →
            let uid := (getGroup s g).uid
            let u := (endLane s g j).1
            (endLane s g j).2 = 0 ∧ (mapGet ({} : Txn) (getGroup u g).txn j).isOpen = false
              ∧ (∀ l, l ∈ t.lines → (getHome u l).lock ≠ some (uid, j)) ∧ (getPart u (groupSpace s g).1).tok ≠ some (uid, j)
              ∧ ((∀ l, l ∈ logLines t → heldOwn s uid l = []) → u = modGroup (dropIrr (applyCommit s g t.writes) (groupSpace s g).1 uid j t.lines)
                  g fun y => { y with txn := mapDel y.txn j })))
    ∧ ∀ g (ws : List (Nat × AMap Byte)), (ws.map (·.1)).Nodup →
        (∀ e, e ∈ ws → homeGone s (128 * e.1) = false ∧ (e.2.map (·.1)).Nodup ∧ ∀ b, b ∈ e.2 → b.1 < 128) →
        ∀ e b, e ∈ ws → b ∈ e.2 → nextByte (applyCommit s g ws) (128 * e.1 + b.1) = b.2

/-! # Ordering -/

/-- R187, R188, R204, R258, R272: FENCE, and ICINV with a live lane, complete past themselves once every earlier store of the group
is complete at their scope (with the update-only lines that hold its sums, and at `.die` and wider all of the core's, sent first), and
until then the group stalls; FLAG then stores its word, also where lane L has an open speculative transaction, which it dooms (that it
stores there is the model's choice, log entry 44); BARA's release is stated with the barrier objects. That the update-only lines with the
group's sums are sent at `.blk` and `.cls` too is the model's choice (log entry 70): R169, R188 and R272 send them at `.die` and wider. -/
def Obligations.ReleasesWait : Prop :=
  ∀ (s : State) (f : XForm),
    let k := xIssue f (xLen f) none
    let ki := xIssue f (xLen f) (addrTop f 0 0)
    let sp := groupSpace s s.cur
    let va (j : Nat) : DWord := globalAt s (curGroup s) f.a f.b j
    (runs (curGroup s) f = true → Passes s k →
        let t := beforeRelease s f.sc
        (f.sc = .sys → lostStore t t.cur = none) →
        exec (.fence f) s = if storesComplete t t.cur f.sc then .next (Past t k) else
          .next (setCur t { curGroup t with status := .stalled (.fence f.sc) }))
      ∧ (Passes s ki →
        let t := beforeRelease s .prt
        let ls := if uniform .auto f then (if runs (curGroup s) f then [lu (curGroup s)] else []) else lanes (live (curGroup s) f)
        let n := (opnd s (curGroup s) false f.c 0).toNat
        ls ≠ [] →
        exec (.icinv f) s = if storesComplete t t.cur .prt
          then .next (Past (ls.foldl (fun t j => dropStaleWords t sp.1 sp.2 (va j) n) t) ki)
          else .next (setCur t { curGroup t with status := .stalled .release }))
      ∧ (runs (curGroup s) f = true → Passes s ki → ∀ (p : Place) (j : Nat),
          let va := va (lu (curGroup s))
          reach s sp.1 sp.2 .write 8 false va = .ok p → p.space = .hbm j → p.dark = false → placeBusy s s.cur p = false →
          let t := beforeRelease s (atomScope f.sc)
          let u := sendGather t (slotCore t.cur) (lineOf j)
          (atomScope f.sc = .sys → lostStore t t.cur = none) → storesComplete t t.cur (atomScope f.sc) = true →
          lineHeld t (lineOf j) = false →
          exec (.flag f) s = .next (Past (storePlace (tlbFill (doomOnce u) (groupSpace u u.cur).1 (groupSpace u u.cur).2 va)
            (.group u.cur) (groupSpace u u.cur).1 va p (leBytes 8 (opnd u (curGroup s) false f.c (lu (curGroup s))).toNat)) ki))

/-- R189 to R193, R307 to R311: MON on a coherent line that is not DEV makes the group its watcher, drops its core's copies of
the line and gives the next count of its monitor; RWB writes back, and RINV discards, the die's copy of every darkroom line of
their range and completes. Each dooms the open speculative transactions of the lanes of `xm` (R176); that it executes although lane L
is among them is the model's choice (log entry 44). -/
def Obligations.MonitorsAndDarkrooms : Prop :=
  ∀ (s : State) (f : XForm),
    let x := curGroup s
    let va := globalAt s x f.a f.b (lu x)
    let n := (opnd s x false f.c (lu x)).toNat
    let sp := groupSpace s s.cur
    let d := doomOnce s
    let k := xIssue f (xLen f) (addrTop f 0 0)
    let kr := xIssue f (xLen f) none
    runs x f = true →
      (Passes s k → ∀ (p : Place) (j : Nat), reach s sp.1 sp.2 .read 1 false va = .ok p →
        p.dark = false → p.space = .hbm j → pteDEV p.entry = false → placeBusy s s.cur p = false →
        let t := doomOnce (armMonitor (settle (combine s (lineOf j)) (lineOf j)) s.cur (lineOf j))
        exec (.mon f) s = .next (ScalarDone t (curGroup t) f k ((curGroup t).cMon + 1)))
      ∧ (Passes s kr → n < 2 ^ 32 → requestsStopped s sp.1 = false →
        let lines := darkLines d (groupSpace d d.cur).1 (groupSpace d d.cur).2 va n
        exec (.rwb f) s = .next (Past (lines.foldl (fun t l => writeBack t (groupDie t.cur) l (some (getGroup t t.cur).uid)) d) kr)
          ∧ exec (.rinv f) s = .next (Past (lines.foldl (fun t l => discardDark t (groupDie t.cur) l) d) kr))
      ∧ (2 ^ 32 ≤ n → exec (.rwb f) s = trapI s kr 0x01 3 ∧ exec (.rinv f) s = trapI s kr 0x01 3)

/-! # Copies and barrier objects -/

/-- R195 to R199: CPY with a full mask, a channel, lattice sides that lie in the window at multiples of 8, a barrier object in
the window if it names one, room in the ring and no transaction in a live lane completes: every live lane (or lane L) opens one
element with its addresses, length, direction and object, and nothing has moved. SEAL with fewer than 32 batches left gives the
batch that holds the open elements the next number, and none is open after it. -/
def Obligations.CopiesOpen : Prop :=
  ∀ (s : State) (f : XForm) (w : DWord) (ch : Nat),
    let x := curGroup s
    let b := getBlock s x.block
    let u := uniform .auto f
    let k : Issue := { xIssue f (xLen f) (topReg [(f.d, 1), (f.a, 2), (f.b, 1)]) with full := true }
    let ls := if u then (if runs x f then [lu x] else []) else lanes (live x f)
    let ks := xIssue f (xLen f) none
    (f.c = .imm w → Passes s k → groupChan s s.cur = some ch →
      (∀ a, cpyBar w = some a → barOk b a = true) → (∀ j, j < 128 → (mapGet ({} : Txn) x.txn j).isOpen = false) →
      (∀ j, j ∈ ls → inWindow b (cpyLat s x f j) (cpyLen w) = true ∧ cpyLat s x f j % 8 = 0) →
      (ringOf s ch).length + ls.length ≤ 128 →
      ∃ t, exec (.cpy f) s = .next t ∧ t.mem = s.mem ∧ (curGroup t).pc = x.pc + BitVec.ofNat 64 (xLen f)
        ∧ (curGroup t).v = x.v ∧ (curGroup t).s = x.s ∧ (curGroup t).p = x.p
        ∧ (curGroup t).openCopies.length = x.openCopies.length + ls.length
        ∧ ∀ j, j ∈ ls → ∃ i e, i ∈ (curGroup t).openCopies ∧ getElem t i = some e ∧ e.lane = j ∧ e.toLat = !cpyOut w
            ∧ e.glob = globalAt s x f.a f.b j ∧ e.lat = cpyLat s x f j ∧ e.len = cpyLen w ∧ e.bar = cpyBar w
            ∧ e.landed = [] ∧ e.done = false)
    ∧ (Passes s ks → runs x f = true → batchesLeft s true x.batches < 32 →
      ∃ t, exec (.seal f) s = .next t ∧ t.mem = s.mem ∧ (curGroup t).batchSeq = x.batchSeq + 1 ∧ (curGroup t).openCopies = []
        ∧ ∀ d, f.d = .s d → d.val ≠ 0 → sRead (hidden s s.cur) (curGroup t) d.val = BitVec.ofNat 64 (x.batchSeq + 1))

/-- R200 to R203: on an object of the window, BARI writes the count into its arrivals and expectation with phase and bytes 0;
BARX adds to its expected bytes, BARQ gives its state, and BARA, once the group's stores are complete at `.blk`, takes the
arriving lanes of `xm` from its arrivals and gives the phase to wait for; until then the group stalls. An update that leaves no
arrivals and no bytes expected raises the phase by one and starts the arrivals anew; any other leaves the object as written. An object
outside the window or off its alignment traps with code 0x1C and one record at lane L (log entry 79). (Before an object is acted on, the
engine reads the sources of the group's earlier copies, and speculative transactions of the lanes of `xm` are doomed: `barActs`; that
BARI, BARX and BARQ execute for doomed lanes is the model's choice, log entry 44.) -/
def Obligations.BarrierObjects : Prop :=
  (∀ (s : State) (f : XForm),
    let x := curGroup s
    let a := barObj s x f.a
    let k := xIssue f (xLen f) none
    let t := barActs s
    let y := curGroup t
    let o := barRead t (getBlock t y.block) a
    let n := (opnd s x false f.b 0).toNat
    let m := laneCount (x.xm &&& ~~~(doomedLanes s))
    let old := barRead s (getBlock s x.block) a
    let u := beforeRelease (setCur s { x with arriving := some a }) .blk
    Passes s k → runs x f = true →
      (∀ i, i ∈ [Instr.bari f, .barx f, .barq f, .bara f] → barOk (getBlock s x.block) a = false →
        exec i s = trapRec s k (mkRec s s.cur 0x1C (lu x) (34 + irrFlag x (lu x)) (latDetail (getBlock s x.block) a 16 16) (BitVec.ofNat 64 a) 0
          (maskOf [lu x])) true)
    ∧ (barOk (getBlock s x.block) a = true →
      (1 ≤ n → n ≤ 65535 → exec (.bari f) s = .next (Past (barWrite t (getBlock t y.block) a
          { arv := BitVec.ofNat 32 n, exp := BitVec.ofNat 32 n, byt := 0, ph := 0 }) k))
      ∧ (n = 0 ∨ 65535 < n → exec (.bari f) s = trapI s k 0x23 1)
      ∧ exec (.barx f) s = .next (Past (barTest t y.block a { o with byt := o.byt + (opnd t y false f.b 0).setWidth 32 }) k)
      ∧ exec (.barq f) s = .next (ScalarDone t y f k (BitVec.ofNat 64 (o.ph.toNat + o.arv.toNat * 2 ^ 32
          + (if o.byt = 0 then 0 else 2 ^ 48) + (if o.byt.msb then 2 ^ 49 else 0))))
      ∧ (m ≤ old.arv.toNat →
          exec (.bara f) s = if storesComplete u u.cur .blk then
            .next (barTest (ScalarDone (barActs u) { curGroup (barActs u) with arriving := none } f k ((old.ph + 1).setWidth 64))
              x.block a { old with arv := old.arv - BitVec.ofNat 32 m })
          else .next (setCur u { curGroup u with status := .stalled .bara }))
      ∧ (old.arv.toNat < m → exec (.bara f) s = trapI s k 0x23 2)))
  ∧ ∀ (s : State) (b a : Nat) (x : BarObj), barOk (getBlock s b) a = true →
      barRead (barTest s b a x) (getBlock (barTest s b a x) b) a =
        if x.arv = 0 ∧ x.byt = 0 then { x with ph := x.ph + 1, arv := x.exp } else x

/-! # The matrix engine -/

/-- R68, R86, R87, R215, R216, R219: what the main product of MXM and MXG (`product`) and the low-rank term of MXG (`term`) leave in the
cells. With two plain integer operands a cell gains the sum of its products modulo 2^32; else it goes through its runs of 32 products in
increasing order, each rounded once and added as FADD adds (`RunAdds`), and the flags are those of all of them. The term forms its 16
values Tq by the same runs from +0 and adds their products with V as one run. No other cell changes. The elements are the model's
`elemAt`, whose zeros are taken as +0 (log entry 76). -/
def Obligations.MatrixCellValues : Prop :=
  (∀ (t : Ty), t ∈ [Ty.bf16, .f16, .f32, .f64] → ∀ x : DWord, ratOf (fval (fmtOf t) x) = realOf (fmtOf t) x)
  ∧ (∀ (x y : FVal) (p q : ℚ), ratOf x = some p → ratOf y = some q → ratOf (mulVal x y) = some (p * q))
  ∧ (∀ k : Int, valInt (intVal k) = k ∧ ratOf (intVal k) = some (k : ℚ))
  ∧ (∀ (s : State) (f : MForm),
    let b := getBlock s (curGroup s).block
    let c := slotCore s.cur
    let o := mOperands s f (latNat s b (mAddr s f.c f.coff.toNat 16) 16)
    let x := elemAt s b o.1
    let y := elemAt s b o.2
    let t := product s f
    let cell (s : State) (i j : Nat) : Word := cellAt s c (f.row.val + i) j
    let run (i j r : Nat) : List FVal := (List.range 32).map fun k => mulVal (x i (32 * r + k)) (y j (32 * r + k))
    let inside (i j : Nat) : Prop := i < mRows f ∧ j < mCols f
    let ints := o.1.f.plainInt && o.2.f.plainInt
    (ints = true → t.2 = 0 ∧ ∀ i j, inside i j → ((cell t.1 i j).toNat : Int) =
        ((cell s i j).toNat + ((List.range (mDepth f)).map fun k => valInt (x i k) * valInt (y j k)).sum) % 2 ^ 32)
    ∧ (ints = false → ∃ (v : Nat → Nat → Nat → Word) (g : Nat → Nat → Nat → FFlags),
        (∀ i j, inside i j → v i j 0 = cell s i j ∧ v i j (mDepth f / 32) = cell t.1 i j)
        ∧ (∀ i j r, inside i j → r < mDepth f / 32 → RunAdds f.rm (run i j r) (v i j r) (v i j (r + 1)) (g i j r))
        ∧ ∀ n, t.2.getLsbD n = true ↔ ∃ i j r, inside i j ∧ r < mDepth f / 32 ∧ (g i j r).getLsbD n = true)
    ∧ ∀ d r j, j < 192 → (∀ i q, inside i q → ¬ (d = c + q / 192 ∧ r = f.row.val + i ∧ j = q % 192)) →
        cellAt t.1 d r j = cellAt s d r j)
  ∧ ∀ (s0 s : State) (f : MForm) (a : Adapter),
    let b := getBlock s0 (curGroup s0).block
    let c := slotCore s.cur
    let o := (mOperands s0 f (latNat s0 b (mAddr s0 f.c f.coff.toNat 16) 16)).1
    let t := term s0 s f a
    let row (d : Nat) : Nat := f.row.val + (16 * a.t + d)
    let run (d q r : Nat) : List FVal :=
      (List.range 32).map fun k => mulVal (elemAt s0 b o (16 * a.t + d) (32 * r + k)) (bfAt a.u (16 * (32 * r + k) + q))
    ∃ (v : Nat → Nat → Nat → Word) (h : Nat → Nat → Nat → FFlags) (g : Nat → Nat → FFlags),
      (∀ d q, d < 16 → q < 16 → v d q 0 = 0
        ∧ ∀ r, r < mDepth f / 32 → RunAdds f.rm (run d q r) (v d q r) (v d q (r + 1)) (h d q r))
      ∧ (∀ d j, d < 16 → j < mCols f → RunAdds f.rm
          ((List.range 16).map fun q => mulVal (fval (fmtOf .f32) ((v d q (mDepth f / 32)).setWidth 64)) (bfAt (a.v.getD q []) j))
          (cellAt s c (row d) j) (cellAt t.1 c (row d) j) (g d j))
      ∧ (∀ n, t.2.getLsbD n = true ↔ (∃ d q r, d < 16 ∧ q < 16 ∧ r < mDepth f / 32 ∧ (h d q r).getLsbD n = true)
          ∨ ∃ d j, d < 16 ∧ j < mCols f ∧ (g d j).getLsbD n = true)
      ∧ ∀ k r j, j < 192 → (∀ d q, d < 16 → q < mCols f → ¬ (k = c + q / 192 ∧ r = row d ∧ j = q % 192)) →
          cellAt t.1 k r j = cellAt s k r j

/-- R206 to R227: under the conditions of R208, MXM and MXG with operands that break no rule complete, with the cells of their rows as
the model's `product` and `term` leave them (what values these are is stated with the cells' values), when the instruction issues (that it
takes effect at issue is the model's choice, log entry 16); MXZ zeroes its rows and no others; MXLD and MXST move a tile
between the cells and the window (once the engine has read the lattice sources of the group's earlier copies, `readSources`); MXW, with rows that the launch's accumulator space holds and no instruction of the block in
flight, opens its window; each completes past itself, and a counted instruction takes its place in the queue. MXP packs planes,
MXQ gives the engine's state, and MXTA and MXTR take and return the token; a lease that ends while another pool waits spills the
holder's rows and passes the token, or is abandoned with the rows and the token where they cannot be written. That MXTR of a block
without the token does nothing, and that a retired instruction counts against the lease of the core that issued it alone, are the model's
choices (log entry 82: R226 and R227 are silent). -/
def Obligations.MatrixInstructions : Prop :=
  (∀ (s : State) (f : MForm),
    let x := curGroup s
    let b := getBlock s x.block
    let c := slotCore s.cur
    let wide := decide (192 < mCols f)
    let q := readSources s x.uid s.nextId
    let ready (w : Bool) : Prop := EngineReady s mIssue (mRuns x f) true w false (some (mSpan f))
    let p := tilePanel s f
    let tile := (cellsOf (mRows f) (mCols f)).foldl (fun (r : State × FFlags) e =>
      let y := cellOut f (cellAt s c (f.row.val + e.1) e.2)
      (latPut r.1 b (if f.acol then panelAddr p e.2 e.1 else panelAddr p e.1 e.2) (leBytes (p.bits / 8) y.1), r.2 ||| y.2))
      (q, 0)
    (ready wide → operandFault s b f false = none → enabledFlags x.fpflags (product q f).2 = 0 →
      exec (.mxm f) s = .next (setCur (started (product q f).1 wide)
        (advance { x with fpflags := raiseFlags x.fpflags (product q f).2 } 20 false false none)))
    ∧ (ready wide → operandFault s b f true = none → adapterFault s f = none → ∀ (t : State) (l : List Adapter),
        fetchAdapters s f (List.range (mRows f / 16)) q [] = some (t, l) →
        let r := l.foldl (fun r a => let y := term t r.1 f a; (y.1, r.2 ||| y.2)) (product t f)
        enabledFlags (curGroup r.1).fpflags r.2 = 0 →
        exec (.mxg f) s = .next (setCur (started r.1 wide)
          (advance { curGroup r.1 with fpflags := raiseFlags (curGroup r.1).fpflags r.2 } 20 false false none)))
    ∧ (ready false → panelOk b p = true →
        let r := mapCells q c f.row.val (fun i j _ => (cellIn f (if f.acol then panelElem s b p j i else panelElem s b p i j), 0))
          (cellsOf (mRows f) (mCols f))
        exec (.mxld f) s = .next (Past (started r.1 false) mIssue))
    ∧ (ready false → panelOk b p = true → enabledFlags (curGroup tile.1).fpflags tile.2 = 0 →
        exec (.mxst f) s = .next (setCur (started tile.1 false)
          (advance { curGroup tile.1 with fpflags := raiseFlags (curGroup tile.1).fpflags tile.2 } 20 false false none))))
  ∧ (∀ (s : State) (f : XForm),
    let x := curGroup s
    let b := getBlock s x.block
    let c := slotCore s.cur
    let k := ctlIssue f (xLen f)
    let lo := (opnd s x false f.a 0).toNat
    let hi := (opnd s x false f.b 0).toNat
    let out := decide (hi < lo) || decide (191 < hi)
    (EngineReady s k (runs x f) true false out (some (lo, hi)) →
      ∃ t, exec (.mxz f) s = .next t ∧ (∀ row j, j < 192 → cellAt t c row j = if lo ≤ row ∧ row ≤ hi then 0 else cellAt s c row j)
        ∧ t.groups = (Past s k).groups ∧ t.mem = s.mem
        ∧ (getCore t c).mxq = (getCore s c).mxq ++ [{ block := x.block, uid := x.uid, counted := true, follower := none }])
    ∧ (EngineReady s k (runs x f) false false out none → (hi - lo + 1) * 768 ≤ (groupGrid s s.cur).hdr.accs →
        ((getCore s c).mxq.any fun o => o.block = x.block) = false →
        exec (.mxw f) s = .next (Past (setBlock s x.block { b with win := b.win.set x.member (some (lo, hi)) }) k))
    ∧ (Passes s k → runs x f = true →
      exec (.mxq f) s = .next (ScalarDone s x f k (BitVec.ofNat 64 (engineWord s s.cur)))
      ∧ ((getCore s c).token = some x.block → exec (.mxta f) s = .next (ScalarDone s x f k x.cToken))
      ∧ ((getCore s c).token ≠ some x.block →
          exec (.mxta f) s = .next (passToken (modCore (ScalarDone s x f k (x.cToken + 1)) c fun z =>
            if z.tokenQ.contains x.block then z else { z with tokenQ := z.tokenQ ++ [x.block] }) c 17))
      ∧ ((getCore s c).token ≠ some x.block → exec (.mxtr f) s = .next (Past s k))
      ∧ ((getCore s c).token = some x.block → ((getCore s c).mxq.any fun o => o.block = x.block) = false →
          exec (.mxtr f) s = .next (freeToken (Past s k) x.block c))
      ∧ (let dst := lo % 2 ^ 22
         let src := hi % 2 ^ 22
         let p := (opnd s x false f.c 0).toNat
         (src % 0x2000 = 0 ∨ src % 0x2000 = 64) → inWindow b src (64 * 128 - 64) = true → dst % 512 = 0 →
         dst % 0x2000 + 512 * p ≤ 0x2000 → inWindow b dst (512 * p) = true →
         exec (.mxp f) s = .next (Past ((cellsOf p 64).foldl (fun t e =>
           latPut t b (dst + 512 * e.1 + 8 * e.2) (leBytes 8 (planeLine s b src f.col e.1 e.2))) (readSources s x.uid s.nextId)) k))))
  ∧ (∀ (s : State) (core : Nat) (o : MxOp) (r : List MxOp), (getCore s core).mxq = o :: r → o.counted = true →
      (∀ d, o.follower = some d → ∃ p q, (getCore s d).mxq = p :: q ∧ p.counted = false) →
      let t := modCore s core fun k => { k with mxq := r, lease := if k.token = some o.block then k.lease - 1 else k.lease }
      exec (.matrixRetire core) s =
        .next (match o.follower with | some d => modCore t d fun k => { k with mxq := k.mxq.drop 1 } | none => t))
  ∧ ∀ (s : State) (core b : Nat), (getCore s core).token = some b → (getCore s core).lease = 0 →
      ((getCore s core).mxq.any fun o => o.block = b) = false →
      let m := memberOn (getBlock s b) core
      let others := (getCore s core).tokenQ.any fun q => poolOwner s (getBlock s q).grid ≠ poolOwner s (getBlock s b).grid
      (others = false →
        exec (.engineLeaseEnd core) s = .next (modCore s core fun k => { k with lease := leaseOf (getGrid s (getBlock s b).grid) }))
      ∧ (others = true → saveFault s b m true = none →
        let t := modBlock (spillRows s b core) b fun y => { y with spilled := y.spilled.set m true }
        exec (.engineLeaseEnd core) s =
          .next (passToken (modCore t core fun k => { k with token := none, acc := [], tokenQ := k.tokenQ ++ [b] }) core 17))
      ∧ (others = true → ∀ va, saveFault s b m true = some va → ∃ t, exec (.engineLeaseEnd core) s = .next t
        ∧ (getCore t core).token = some b ∧ (getCore t core).acc = (getCore s core).acc)

/-! # Claims and tasks -/

/-- R234 to R237: CLAQ within the maxima and with no request of the group deferred submits its request and gives the grant to
wait for; CLRL of what the block holds, with no copy, record or matrix instruction in the way, returns the amounts; CLQ gives
the word of its selector. A reserved request word or selector is the illegal-instruction trap with DETAIL 3, whatever the
guard reads. -/
def Obligations.ClaimInstructions : Prop :=
  ∀ (s : State) (f : XForm),
    let x := curGroup s
    let k := xIssue f (xLen f) none
    let w := opnd s x false f.a 0
    let q := wordAmt w
    let c := blockClaim s x.block (slotCore s.cur)
    (wordReserved w = true → exec (.claq f) s = trapI s k 0x01 3 ∧ exec (.clrl f) s = trapI s k 0x01 3)
    ∧ (selectorOk w = false → exec (.clq f) s = trapI s k 0x01 3)
    ∧ (Passes s k → runs x f = true →
      (wordReserved w = false → x.deferred = none → x.range + 8 * q.reg ≤ rangeMax s s.cur → c.hold.sqr + q.sqr ≤ c.max.sqr →
        c.hold.mxe + q.mxe ≤ c.max.mxe → c.hold.cpc + q.cpc ≤ c.max.cpc →
        exec (.claq f) s = .next (submit (ScalarDone s x f k (x.cGrant + 1)) s.cur w))
      ∧ (wordReserved w = false → (q.reg = 0 ∨ (isShadow x = false ∧ 8 * q.reg + 8 ≤ x.range)) → q.sqr ≤ c.hold.sqr →
        q.mxe ≤ c.hold.mxe → q.cpc ≤ c.hold.cpc → clrlWaits s s.cur q = false →
        exec (.clrl f) s = .next (giveBack (Past s k) s.cur q))
      ∧ (selectorOk w = true → exec (.clq f) s = .next (ScalarDone s x f k (BitVec.ofNat 64 (clqWord s s.cur w.toNat)))))

/-- R37, R239 to R243: SPAWN, with the group's stores complete at `.prt`, room in the die's pool and a record that can be read,
adds a child and gives its count; QPOP takes entries for the live lanes in order and sets the predicate where there was one;
QPUSH appends the entries of the live lanes that are left where the queue has room for all; QWPUT and QWGET move registers into and out of the ring;
WLAPP sends items to the lists of cores of the launch, WLPOP takes items for the live lanes from the launch's list on its core, first in
first out, and clears its predicate in the live lanes without an item (both the model's reading, log entry 50), and TERM makes the group
idle and gives the count to wait for. Each goes on past itself. That a QPUSH queue number above 255 counts by its low 8 bits (log entry
85), and that a core's list is the launch's own and not shared (log entry 87), are the model's choices. -/
def Obligations.TaskInstructions : Prop :=
  ∀ (s : State) (f : XForm),
    let x := curGroup s
    let grid := (groupBlock s s.cur).grid
    let d := groupDie s.cur
    let ls := lanes (live x f)
    let t := beforeRelease s .prt
    let p := (groupSpace s s.cur).1
    let m := (opnd s x false f.b 0).toNat
    (let k := xIssue f (xLen f) (addrTop f 0 0)
     Passes s k → runs x f = true → storesComplete t t.cur .prt = true → (getDie t d).pool.length < 4096 →
      ∀ (u : State) (b : List Byte), readRange t 64 (globalAt s x f.a f.b (lu x)) 128 = .ok b u →
        let y := curGroup u
        let v := modDie u d fun z => { z with pool := z.pool ++ [(y.uid, (groupBlock u u.cur).grid, globalAt s x f.a f.b (lu x), b)] }
        exec (.spawn f) s = .next (ScalarDone v { y with spawned := y.spawned + 1 } f k (BitVec.ofNat 64 (y.spawned + 1))))
    ∧ (let q := gridQueue (groupGrid s s.cur)
       let k := xIssue f (xLen f) (eightTop f.d)
       let r := ls.foldl (popLane q f.d) (s, [])
       let z := getQueue r.1 q
       Passes s k → ls ≠ [] → (groupGrid s s.cur).lrec.flags.getLsbD 5 = true → (getQueue s q).installed = true →
        exec (.qpop f) s = .next (setCur r.1 (advance
          { pWrite (curGroup r.1) (predNum f.c) (live x f) (maskOf (r.2.map (·.1))) with
            qph := (curGroup r.1).cQueue + 1, qcl := z.closed && z.head = z.tail && z.front.isEmpty }
          (xLen f) (readsLatch k) (pushes f) (pushGot s x f r.2))))
    ∧ (let q := deviceQueue s (opnd s x false f.b (lu x)).toNat
       let k := xIssue f (xLen f) (eightTop f.a)
       Passes s k → ls ≠ [] →
        (x.pushed = 0 → (getQueue s q).installed = true ∧ (getQueue s q).closed = false ∧ storesComplete t t.cur .prt = true) →
        let r := pushLanes q (vNum f.a) (if x.pushed = 0 then t else s) (ls.filter fun i => x.pushed ≤ i)
        r.2 = [] → exec (.qpush f) s = .next (setCur r.1 (advance { curGroup r.1 with pushed := 0 } (xLen f) (readsLatch k) false none)))
    ∧ (∀ rg, groupRing s x = some rg → 1 ≤ m → m ≤ rg.slots → runs x f = true →
       let k := xIssue f (xLen f) (topReg [(f.a, m)])
       let kg := xIssue f (xLen f) (topReg [(f.d, m)])
       (Passes s k → x.role = .loader → (draining s s.cur = false ∨ rg.hard = true) → rg.ringL.length + m ≤ rg.slots →
         exec (.qwput f) s = .next (Past (modRing s x fun r => { r with ringL := r.ringL ++ windowRegs x f (vNum f.a) m, putsL := r.putsL + m }) k))
       ∧ (Passes s k → x.role = .computer → rg.ringS.length + m ≤ rg.slots →
         exec (.qwput f) s = .next (Past (modRing s x fun r => { r with ringS := r.ringS ++ windowRegs x f (vNum f.a) m, putsS := r.putsS + m }) k))
       ∧ (Passes s kg → ∀ n : Fin 512, f.d = .v n → (x.role = .computer ∨ x.role = .storer) →
         let ring := if x.role = .computer then rg.ringL else rg.ringS
         m ≤ ring.length →
         ∃ u, exec (.qwget f) s = .next u ∧ u.mem = s.mem ∧ (curGroup u).pc = x.pc + BitVec.ofNat 64 (xLen f)
           ∧ (∀ i j, i < m → j < 128 → (live x f).getLsbD j = true →
               vRead (curGroup u) (n.val + i) j = ((ring.getD i vZero)[j]?).getD 0)
           ∧ (∀ rg', groupRing u (curGroup u) = some rg' →
               (if x.role = .computer then rg'.ringL else rg'.ringS) = ring.drop m)))
    ∧ (let k := xIssue f (xLen f) (topReg [(f.a, 1), (f.b, 1)])
       let u := beforeRelease (setCur s { x with idle := false }) .prt
       Passes s k → ls ≠ [] → (ls.all fun l => (gridCores s grid).contains (opnd s x false f.a l).toNat) = true →
        itemCount (getPart s p) + ls.length ≤ 2 ^ 22 → storesComplete u u.cur .prt = true →
        exec (.wlapp f) s = .next (Past (modPart u p fun pt => { pt with flying := pt.flying ++ ls.map fun l =>
          (grid, (opnd s x false f.a l).toNat, (opnd u x false f.b l).setWidth 32) }) k))
    ∧ (let k := xIssue f (xLen f) (topReg [(f.d, 1)])
       let list := listKey grid (slotCore s.cur)
       let got := ls.zip (mapGet [] (getPart s p).lists list)
       let y := match f.d with | .v n => got.foldl (fun y e => vWrite y n.val (maskOf [e.1]) fun _ => e.2) x | _ => x
       let u := modPart s p fun pt => { pt with lists := mapMod [] pt.lists list fun l => l.drop got.length }
       Passes s k →
        exec (.wlpop f) s = .next (testQuiet (setCur u (advance (pWrite y (predNum f.c) (live x f) (maskOf (got.map (·.1))))
          (xLen f) (readsLatch k) (pushes f) (pushGot u x f (got.map fun e => (e.1, e.2.setWidth 64))))) grid))
    ∧ (let k := ctlIssue f (xLen f)
       let u := ScalarDone s { x with idle := true } f k (x.cQueue + 1)
       Passes s k → runs x f = true → exec (.term f) s = .next (testQuiet u (groupBlock u u.cur).grid))

/-! # System instructions -/

/-- R246 to R251: MOVS copies a register, a predicate or a system register into its destination, and into a system register or
`xm` (without the lanes that have exited) once for the group; MOVW reads or writes a system register of a parked group; TLBI
removes the translations of its page or context and completes once no access that was translated through them is left, and stalls
until then; GSTOP completes on a parked group, and of one that runs it asks that it stop and stalls until it has parked; CSAVE of a parked
group that may leave its core writes its record and frees its slot, and CREST loads
a record into a free slot, where a group that an absent page had parked replays and any other goes on at the record's program
counter. All but MOVS are privileged. The model's choices: what MOVS does with `xm` and with the system registers that the table of R246
does not list (log entries 38, 97 and 107), that a MOVW is read back at once (119), and that a group parked for good stays parked
through CSAVE and CREST (120). -/
def Obligations.SystemInstructions : Prop :=
  ∀ (s : State) (f : XForm),
    let x := curGroup s
    let p := (groupSpace s s.cur).1
    let k := { xIssue f (xLen f) (topReg [(f.d, 1), (f.a, 1)]) with priv := privWrite f.d }
    let kp := { xIssue f (xLen f) (addrTop f 0 0) with priv := true }
    let a := opnd s x false f.a 0
    let here (n : DWord) : Nat := slotKey (slotCore s.cur) n.toNat
    let va := globalAt s x f.a f.b (lu x)
    (Passes s k →
      ((∀ n, f.d ≠ .sy n) → f.d ≠ .xm → (∀ n, f.d = .s n → f.a ≠ .xm) →
        Computed s f k (uniform .auto f) false (fun j => movsSource s x (uniform .auto f) f.a j) 0 (exec (.movs f) s))
      ∧ (runs x f = true →
        (∀ n, f.d = .sy n → ∃ y, exec (.movs f) s = .next (setCur s y)
            ∧ y.pc = x.pc + BitVec.ofNat 64 (xLen f)
            ∧ { y with latches := [], chainPc := 0, chainLen := 0, chainPush := 0, pc := 0 }
              = { syWrite x n.val (movsSource s x true f.a (lu x)) with latches := [], chainPc := 0, chainLen := 0, chainPush := 0, pc := 0 })
        ∧ (f.d = .xm → ∃ y, exec (.movs f) s = .next (setCur s y) ∧ y.xm = movsMask s x f.a &&& ~~~x.exited
            ∧ y.pc = x.pc + BitVec.ofNat 64 (xLen f) ∧ y.v = x.v ∧ y.s = x.s ∧ y.hs = x.hs ∧ y.p = x.p ∧ y.div = x.div)
        ∧ (∀ n, f.d = .s n → f.a = .xm → exec (.movs f) s =
            .next (ScalarDone s (sWrite (hidden s s.cur) x (n.val + 1) (x.xm.extractLsb' 64 64)) f k (x.xm.extractLsb' 0 64)))))
    ∧ (Passes s kp → runs x f = true →
      (a.toNat < 96 → isParked (getGroup s (here a)) = true → here a ≠ s.cur →
        (∀ n, f.d = .sy n → exec (.movw f) s =
          .next (modGroup (Past s kp) (here a) fun y => syWrite y n.val (opnd s x false f.b 0)))
        ∧ (∀ n m, f.d = .s n → f.b = .sy m → exec (.movw f) s =
            .next (ScalarDone s x f kp (syRead s (here a) m.val (lu (getGroup s (here a))))))
        ∧ exec (.gstop f) s = .next (Past s kp))
      ∧ (a.toNat < 96 → (getGroup s (here a)).status.live = true → isParked (getGroup s (here a)) = false →
        let u := modGroup s (here a) fun y => { y with stopAsked := true }
        exec (.gstop f) s = .next (setCur u { curGroup u with status := .stalled .gstop }))
      ∧ (let whole := decide (opnd s x false f.c 0 = 1)
         let r := tlbiStart s p a.toNat (opnd s x false f.b 0) whole
         let t := setCur r.1 { curGroup r.1 with tlbiWait := none }
         let u := setCur r.1 { curGroup r.1 with tlbiWait := some ((curGroup r.1).pc, r.2) }
         r.1.tlb = (s.tlb.filter fun t => !tlbiHits p a.toNat (opnd s x false f.b 0) whole t)
           ∧ exec (.tlbi f) s = if idsLeft r.1 r.2.1 then .next (setCur u { curGroup u with status := .stalled .tlbi }) else
             .next (Past (if (mapFind (getPart t p).ctxs a.toNat).isSome then countTlbi t p a.toNat else t) kp))
      ∧ (let c := opnd s x false f.c 0
         let y := leaving (getGroup s (here c))
         c.toNat < 96 → isParked (getGroup s (here c)) = true → mayLeave s (here c) = true →
         rangeFault s 64 va (groupRecord y).length = none →
         ∃ t, exec (.csave f) s = .next t ∧ (here c ≠ s.cur → (getGroup t (here c)).status = .free)
           ∧ ∃ e, e ∈ t.csaved ∧ e.1 = { y with
               status := if y.status = .parked .pageFault || y.status = .parked .forGood then y.status else .ready, stopAsked := false, phaseIssues := 0 })
      ∧ (let c := opnd s x false f.c 0
         c.toNat < 96 → (getGroup s (here c)).status = .free → here c ≠ s.cur → ∀ (t u : State) (h r : List Byte),
         readRange s 1 va 0xA00 = .ok h t → readRange t 1 (va + 0xA00) (4096 * recNat h 0x020 2) = .ok r u →
         ∃ w, exec (.crest f) s = .next w ∧ (getGroup w (here c)).xm = BitVec.ofNat 128 (recNat (h ++ r) 8 16)
           ∧ ((∀ e, e ∈ u.csaved → e.2.status ≠ .parked .pageFault ∧ e.2.status ≠ .parked .forGood) → (getGroup w (here c)).status = .ready
               ∧ (getGroup w (here c)).pc = BitVec.ofNat 64 (recNat (h ++ r) 0 8))))

/-! # Candidate lists and SIEVE -/

/-- R231 to R233: TOPKI puts each live lane's candidate into its place in the lane's list and leaves every other register and
lane; SIEVE of a group that breaks no condition arrives with its live lanes and waits, the update-only lines that hold its sums being
sent (log entry 70); once every group of the block has arrived,
none is away, all have one type and one packed word, and their stores, copies apart, are complete at `.blk`, the exchange moves the
threads. (That the lanes whose guard reads false take no part is the model's reading, log entry 72.) -/
def Obligations.ListsAndSieve : Prop :=
  (∀ (s : State) (f : XForm) (d : Fin 512) (w : DWord), f.d = .v d → f.c = .imm w →
    let x := curGroup s
    let t := fltTy f
    let n := w.toNat
    let list (j : Nat) : List (DWord × Nat) :=
      topInsert t ((List.range n).map fun i => ((vRead x (d.val + i) j).setWidth 64, (vRead x (d.val + n + i) j).toNat))
        (extend false (tyBits t) (opnd s x false f.a j)) ((opnd s x false f.b j).toNat % 2 ^ 32)
    Passes s (xIssue f 12 (topReg [(f.d, 2 * n), (f.a, 1), (f.b, 1)])) →
    ∃ y, exec (.topki f) s = .next (setCur s y) ∧ y.pc = x.pc + 12 ∧ y.s = x.s ∧ y.p = x.p ∧ y.xm = x.xm
      ∧ ∀ m j, j < 128 → vRead y m j =
          if (live x f).getLsbD j = true ∧ d.val ≤ m ∧ m < d.val + n then ((list j).getD (m - d.val) (0, 0)).1.setWidth 32
          else if (live x f).getLsbD j = true ∧ d.val + n ≤ m ∧ m < d.val + 2 * n then
            BitVec.ofNat 32 ((list j).getD (m - d.val - n) (0, 0)).2
          else vRead x m j)
  ∧ (∀ (s : State) (f : XForm),
    let x := curGroup s
    let w := opnd s x false f.c 0
    let k : Issue := { xIssue f (xLen f) (topReg [(f.d, 1), (f.a, 1), (f.b, 1), (.v (Fin.ofNat 512 (sieveFirst w)), sieveCount w)])
                       with full := true }
    (w.toNat < 2 ^ 31 → Passes s k → sieveBad s s.cur = none →
      exec (.sieve f) s = .next (setCur (sendGathersOf s fun h => h.ofUid x.uid) { unchained x with
        status := .sieve (x.pc + BitVec.ofNat 64 (xLen f))
        sieve := some { ty := fltTy f, packed := w, d := vNum f.d, key := vNum f.a, weight := vNum f.b, lanes := live x f } }))
    ∧ (2 ^ 31 ≤ w.toNat → exec (.sieve f) s = trapI s k 0x01 3))
  ∧ ∀ (s : State) (b : Nat) (a : SieveArrival) (r : List SieveArrival),
    let gs := (sieveGroups s b).filter fun g => (getGroup s g).status.live
    (gs.filterMap fun g => (getGroup s g).sieve) = a :: r → (gs.all fun g => (getGroup s g).sieve.isSome) = true →
    (getBlock s b).away = [] → gs.length = (sieveGroups s b).length →
    (r.any fun y => y.ty ≠ a.ty || y.packed ≠ a.packed) = false → (gs.all fun g => ownComplete s g .blk) = true → exec (.sieveExchange b) s = .next (sieveMove s gs a)

/-! # What the device does by itself -/

/-- R162, R168, R179, R180, R182, R197, R253 to R255, R308, R367: what the memory does by itself, when it is due. A load that waits
is performed at its home, with the other lanes of its instruction that touch the line, and a value that has come back is written to
its destination; an atomic that waits is performed; an expired copy is dropped, but not the bytes that its core has stored; the
lowest undecided lane of a TXE commits once the group's earlier loads are back; a committed image becomes visible; a token
reservation lapses and the head of the queue moves to its tail; the first write-back of a line merges; a piece of a copy moves or
lands; and a copy element that meets a fault stops. -/
def Obligations.MemoryEvents : Prop :=
  (∀ (s : State) (l : PLoad), (s.loads.find? fun m => m.id = l.id) = some l → l.got = none → l.peer = false →
    (s.loads.find? fun m => m.uid = l.uid && m.got = none && lineOf m.addr = lineOf l.addr) = some l →
    (l.op = none → homeBusy s l.addr = false → (sameAccess s l).any (loadWaits s) = false →
        (let u := reroute s l.part l.vers
         (sameAccess u l).all fun m => m.dead || !loadPoisoned u m.g m.addr m.size []) = true →
        exec (.loadAtHome l.id) s = .next (let u := reroute s l.part l.vers
          (sameAccess u l).foldl performPending u))
      ∧ (l.op.isSome = true → (s.stores.find? fun t => t.id = l.id) = none → lineHeld s (lineOf l.addr) = false →
          (let u := reroute s l.part l.vers
           if l.dead then poisonedNext u l.addr l.size else atomPoisoned u l.g l.addr l.size []) = false →
          exec (.atomicAtHome l.id) s = .next (performPending (reroute s l.part l.vers) l)))
  ∧ (∀ (s : State) (l : PLoad) (x : DWord), (s.loads.find? fun m => m.id = l.id) = some l → l.got = some x →
      ∃ t, exec (.loadResult l.id) s = .next t ∧ t.loads = s.loads.filter (fun m => m.id ≠ l.id) ∧ t.mem = s.mem
        ∧ (l.dead = true → t.groups = s.groups)
        ∧ (l.dead = false → ∀ n : Fin 512, l.d = .v n → ∀ j, j < 128 → l.mask.getLsbD j = true →
            vRead (getGroup t l.g) n.val j = x.setWidth 32)
        ∧ (l.dead = false → ∀ n : Fin 96, l.d = .s n → n.val ≠ 0 → sRead (hidden s l.g) (getGroup t l.g) n.val = x))
  ∧ (∀ (s : State) (t : PStore), (s.stores.find? fun u => u.id = t.id) = some t → (∀ m, t.op ≠ .bytes m) → storeReady s t = true →
      exec (.atomicAtHome t.id) s = .next (performStore s (storeHolder s t) t))
  ∧ (∀ (s : State) (h l e : Nat) (c : Copy), getCopy s h l = some c → c.expiry = some e →
      e ≤ dieGtc s (if h < 288 then coreDie h else h - 288) →
      (c.own = [] → exec (.leaseExpiry h l) s = .next (dropCopy s h l))
      ∧ (c.own ≠ [] → c.bytes ≠ [] → exec (.leaseExpiry h l) s = .next (setCopy s h l { c with bytes := [], expiry := some 0 })))
  ∧ (∀ (s : State) (g j : Nat),
      let x := getGroup s g
      let t := mapGet ({} : Txn) x.txn j
      let r := commitLane s g j
      atTxe s g j = true → commitsNext s g j = true → pendingOf s g = [] → x.status = .ready → commitBusy s t = false →
      commitPoison s g t = none →
      exec (.commit g j) s = .next (modTxn r.1 g j fun t => { t with
        doomed := some (r.2.1, r.2.2), irr := false, reads := [], writes := [], lines := [], later := [] }))
  ∧ (∀ (s : State) (l t : Nat) (m : AMap Byte) (r : List (Nat × AMap Byte)), (getHome s l).next = (t, m) :: r → t ≤ shownGtc s →
      exec (.commitVisibility l) s = .next (makeVisible s l) ∧ (makeVisible s l).mem = putOffsets s.mem l m)
  ∧ (∀ (s : State) (p t : Nat) (h : Nat × Nat) (r : List (Nat × Nat)), (getPart s p).resv = some t → (getPart s p).tokQ = h :: r →
      (getPart s p).tok = none → t + 1000000 ≤ s.gtc.toNat →
      exec (.tokenReservationLapse p) s = .next (modPart s p fun x => { x with tokQ := r ++ [h], resv := some s.gtc.toNat }))
  ∧ (∀ (s : State) (w : WriteBack), (s.wbs.find? fun v => v.id = w.id) = some w → (s.wbs.find? fun v => v.key = w.key) = some w →
      homeBusy s w.key = false → exec (.darkroomMerge w.id) s = .next (mergeBack s w)
        ∧ (homeGone s (128 * lineOf w.key) = false → (mergeBack s w).mem = putOffsets s.mem (lineOf w.key) w.bytes)
        ∧ (homeGone s (128 * lineOf w.key) = true → (mergeBack s w).mem = s.mem))
  ∧ (∀ (s : State) (i k : Nat) (e : Elem), getElem s i = some e → e.done = false → e.stopped = false → k < (e.len + 127) / 128 →
      e.landed.contains k = false →
      ((e.sent.any fun p => p.1 = k) = true → ((e.sent.filter fun p => p.1 = k).all fun p => pieceStored s e p.2) = true →
        exec (.copyLanding i k) s = .next (landPiece s i e k))
      ∧ ((e.sent.any fun p => p.1 = k) = false → pieceFault s e k = none → mayMove s i e k = true →
        (e.toLat = false → exec (.copyLanding i k) s = .next (sendPiece s i e k))
        ∧ (e.toLat = true → ∀ (b : List Byte) (t : State), partsRead s e (pieceParts e k) = some (b, t) →
          let u := readSources t e.uid e.cpy
          exec (.copyLanding i k) s = .next (landPiece (latPut u (getBlock u e.block) (e.lat + 128 * k) b) i e k))))
  ∧ ∀ (s : State) (i : Nat) (e : Elem) (c : Nat × DWord × DWord), getElem s i = some e → elemFault s i e = some c →
      (∃ t, exec (.copyElementFault i) s = .next t)
        ∧ (elemGroup s e = none → exec (.copyElementFault i) s = .next (postNotice
            (setElem s i { e with stopped := true, orphan := true }) e.uid (coreDie e.core) e.part e.ctx
            (recOf e.g e.gid 0 (elemRec s e c.1 c.2.1 c.2.2))))

/-- R35, R161, R187 to R189, R243, R251, R282, R291, R333, R339, R348, R353: a group that is asked to park parks at a boundary; a
registered monitor is evicted and its counter advances; a stalled group whose release may proceed is ready again; traps that
wait are taken as one; a group whose starvation count has reached the limit has its sub-core issue next; a prologue that may
not go on ends its command; an append in flight reaches its list; and a tick-gated queue releases what is due, when it wakes the groups that have slept longest (that it wakes them
at the boundary is the model's choice: log entry 60). -/
def Obligations.GroupEvents : Prop :=
  (∀ (s : State) (g : Nat), asked s g = true → atBoundary s g = true → exec (.groupPark g) s =
    .next (setGroup s g { unchained (getGroup s g) with status := .parked .stopped, stopAsked := false }))
  ∧ (∀ (s : State) (g l : Nat), (getGroup s g).monLine = some l → (getGroup s g).status.live = true →
      exec (.monitorEviction g) s = .next (bump (dropMonitor s g) g .mon))
  ∧ (∀ (s : State) (g : Nat) (why : Stall), (getGroup s g).status = .stalled why → why ≠ .tile → why ≠ .halted →
      stallOver s g why = true → exec (.stallEnd g) s = .next (setGroup s g { getGroup s g with status := .ready }))
  ∧ (∀ (s : State) (g : Nat), let x := getGroup s g
      (∀ p, x.held = some p → pendingOf s g = [] → requestsStopped s (groupSpace s g).1 = false →
        (getGroup (takeTrap (setGroup s g { x with held := none }) g p) g).held = none →
        exec (.trapEntry g) s = .next (takeTrap (setGroup s g { x with held := none }) g p))
      ∧ (atTrap s g = true →
      (∀ p, (x.pend.find? fun q => q.cls = .P) = some p →
        exec (.trapEntry g) s =
          .next (modGroup (parkFault s g x.pc (p.recs.headD (plainRec s g p.code 0))) g fun y => { y with tlbiSeen := x.tlbiSeen }))
      ∧ ((x.pend.find? fun q => q.cls = .P) = none → ∀ p, mergeTraps x.pc x.pend = some p →
        exec (.trapEntry g) s = .next (takeTrap (setGroup s g { x with status := .ready, pend := [] }) g p))))
  ∧ (∀ (s : State) (g : Nat), (getGroup s g).status = .ready → 4096 ≤ (getGroup s g).starve →
      exec (.starvationLift g) s = .next { s with sched := slotSub g :: s.sched })
  ∧ (∀ (s : State) (g : Nat) (q : QRef) (e : CmdEntry) (p : Prologue), prologueCmd s g = some (q, e) →
      (getGroup s g).prologue = some p → prologueStops s g = true → frontWaits s q.part = false →
      exec (.prologueFault g) s =
        let t := clearPrologue (sendNotice s g 0 (plainRec s g 0x30 p.count)) g
        .next (endReleased t q e (.prologue g) 2 p.count 0 (storesOf t (p.uids ++ [(getGroup s g).uid]) [])))
  ∧ (∀ (s : State) (p i c : Nat) (w : Word) (r : List (Nat × Nat × Word)), (getPart s p).flying = (i, c, w) :: r →
      let t := modPart s p fun x => { x with flying := r, lists := mapMod [] x.lists (listKey i c) fun l => l ++ [w] }
      exec (.itemInList p) s = .next (testQuiet (discardItems (itemArrived t i c) i c) i))
  ∧ ∀ (s : State) (q : QRef), let x := getQueue s q
      let n := (x.due.filter fun t => t + 1 + (x.phs + x.per - (t + 1) % x.per) % x.per ≤ dieGtc s x.die).length
      x.per ≠ 0 → n ≠ 0 → exec (.tickBoundary q) s =
        .next ((List.range n).foldl (fun s _ => wakeLongest s q) (modQueue s q fun y => { y with due := y.due.drop n }))

/-- R33, R37, R275, R276, R280, R293 to R299, R355, R359, R363: the next block of a running grid is placed where a core takes it;
a dependent block starts once its tile flag is not zero; a grid whose blocks and stores are complete writes its last
words (the contact sheet, the reason to its parent) and ends once they are stored; the oldest child
of a die is launched; a block that stands ready is written to a free extent, one whose groups all sleep in AWAIT is asked
to, and a granted one comes back; rings that do not drain are hard-saved, a deadline passes, a late save is recorded, and a
contact sheet is brought up to date every 2^20 clocks (counted by the partition's first die: log entry 84). -/
def Obligations.GridEvents : Prop :=
  (∀ (s : State) (i c : Nat), (getGrid s i).status = .running → (getGrid s i).next < (getGrid s i).blocks →
    myTurn s i = true → chooseCore s i (getGrid s i).next = some c → exec (.blockPlacement i) s = .next (placeBlock s i c))
  ∧ (∀ (s : State) (i b n : Nat), let g := getGrid s i
      let va := g.lrec.tfa + BitVec.ofNat 64 (8 * (getBlock s b).bid)
      g.tiles = [b] → requestsStopped s g.part = false → farBusy s g.part (tableXlat s g.part g.ctx va) = false → ctxNat s g.part g.ctx va 8 = some n → n ≠ 0 →
      ∃ t, exec (.tileFlagRelease i) s = .next t ∧ (getGrid t i).tiles = []
        ∧ ∀ h, h ∈ (getBlock s b).groups → (getGroup s h).status = .stalled .tile → (getGroup t h).status = .ready)
  ∧ (∀ (s : State) (i : Nat), gridDone s i = true →
      (∀ t, (getGrid s i).told = some t → storedPast s (getGrid s i).die t = true → exec (.gridCompletion i) s = .next (endGrid s i))
      ∧ ((getGrid s i).told = none → let r := lastWords s i
        exec (.gridCompletion i) s = .next (if r.till = 0 ∧ r.sent = [] then endGrid r.s i
          else modGrid r.s i fun x => { x with told := some (r.till, r.sent) })))
  ∧ (∀ (s : State) (d uid i : Nat) (va : DWord) (b : List Byte) (r : List (Nat × Nat × DWord × List Byte)) (t : State) (ids : List Nat),
      (getDie s d).status = .up → (getDie s d).pool = (uid, i, va, b) :: r → (getDie s d).refusing = none →
      frontWaits s (getGrid s i).part = false →
      launchChecked s (getGrid s i).part (getGrid s i).ctx d .single none
        [checkBytes s (getGrid s i).part (getGrid s i).ctx (va.toNat % 64 = 0) b] = .ok (t, ids) →
      exec (.childLaunch d) s = .next (ids.foldl (fun t j => modGrid t j fun x => { x with parent := some (uid, i), record := va })
        (modDie t d fun y => { y with pool := r, refusing := none })))
  ∧ (∀ (s : State) (b : Nat) (e : Nat × Nat), saveReady s b = true → allEnded s b = false →
      findExtent s (getGrid s (getBlock s b).grid).part (extentBytes s b).length = some e →
      exec (.blockSave b) s = .next (saveBlock s b e))
  ∧ (∀ (s : State) (b : Nat), (getBlock s b).status = .resident → allEnded s b = false →
      (∀ g, g ∈ (getBlock s b).groups → (getGroup s g).status = .ended ∨ ∃ o p r, (getGroup s g).status = .asleep .join o p r true) →
      (∃ c p, c ∈ (getBlock s b).cores ∧ blockPool s b c = some p ∧ p.queue ≠ []) →
      exec (.awaitSave b) s = .next (setBlock s b { getBlock s b with status := .saving }))
  ∧ (∀ (s : State) (b : Nat), restoreReady s b = true →
      frontWaits s (getGrid s (getBlock s b).grid).part = false → exec (.blockRestore b) s = .next (restoreBlock s b))
  ∧ (∀ (s : State) (i : Nat), (getGrid s i).status = .draining → (getGrid s i).asked + 65536 ≤ dieGtc s (getGrid s i).die →
      undrained s i = true → exec (.hardSave i) s = .next (hardenRings s i))
  ∧ (∀ (s : State) (i t : Nat), let g := getGrid s i
      g.deadline = some t → g.status = .draining → t ≤ dieGtc s g.die →
      let u := modGrid (hardenRings s i) i fun g => { g with deadline := none }
      exec (.preemptionDeadline i) s = .next (if (unsaved u i).isEmpty then u
        else logEvent u g.part 5 g.die g.ctx (BitVec.ofNat 64 (gridId i)) 5))
  ∧ (∀ (s : State) (b : Nat) (why : LateReason), let i := (getBlock s b).grid
      let g := getGrid s i
      (getBlock s b).status = .saving → (getBlock s b).late = false → g.status = .draining →
      g.asked + (if (getBlock s b).rings = [] then 1024 else 65536) ≤ dieGtc s g.die → lateHolds s b why = true →
      exec (.blockNotSavedByBound b why) s = .next (logEvent (modBlock s b fun y => { y with late := true }) g.part 5
        (coreDie ((getBlock s b).cores.headD 0)) g.ctx (BitVec.ofNat 64 (gridId i)) (BitVec.ofNat 64 (lateCode why))))
  ∧ ∀ (s : State) (p c : Nat) (base : DWord), (getCtx s p c).sheet = some base →
      let since := (partClock s p - (getCtx s p c).sheetAt).toNat
      (2 ^ 20 ≤ since → frontWaits s p = false → exec (.contactSheetUpdate p c) s = .next (modCtx
        (updateSheet s p c fun i => (getGrid s i).part = p && (getGrid s i).ctx = c).s p c fun y => { y with sheetAt := partClock s p }))
      ∧ (since < 2 ^ 20 → exec (.contactSheetUpdate p c) s = .fault .notDue)

/-! # Commands -/

/-- R275 to R283, R295 to R299, R318 to R323, R330, R376 to R379, R391, R393: what each command does once it begins, no check
refuses it and its operands are sound: the head of its queue advances past it, its effect happens, and it completes with status
0, or waits for what it must wait for. A RESET 0 or 1 first stops the grids and closes the queues of its contexts, and goes on once the
commands that this has given up have completed. That the prologues of a joint launch run one after another is the model's choice (log entry
66), and so are the answer of ATTEST (log entry 13) and what RESET 1 clears (log entry 34). -/
def Obligations.CommandsComplete : Prop :=
  ∀ (s : State) (q : QRef) (e : CmdEntry),
    let t := advanceHead s q
    let die := (getQueue t q).die
    let c := e.val.toNat % 64
    let tc := targetCtx q e
    let nq := namedQueue q e
    let pt := getPart t q.part
    let ok (u : State) : Out := .next (finishCmd u q e 0 0)
    (Begins s q e 1 0 → prologueRoom s q = true → exec (.launch q e) s = .next (launchCommand t q e))
    ∧ (Begins s q e 1 1 → prologueRoom s q = true → exec (.launchPinned q e) s = .next (launchCommand t q e))
    ∧ (∀ n, Begins s q e 1 n → 2 ≤ n → n ≤ 8 → prologueRoom s q = true →
        exec (.jointLaunch q e) s = .next (launchCommand t q e))
    ∧ (∀ l u ids, recordsOf t q e = some l → l.all plainRecord = true →
        launchChecked t q.part q.ctx die (modeOf e.sub.toNat) (some q) (l.map (checkRecord t q.part q.ctx)) = .ok (u, ids) →
        launchCommand t q e = startCmd u q e (.grids ids))
    ∧ (∀ l x r, recordsOf t q e = some l → l.dropWhile plainRecord = some x :: r →
        ∃ p, p.q = q ∧ p.runs = 0 ∧ p.settled = l.takeWhile plainRecord ∧ p.rest = r
          ∧ launchCommand t q e = startCmd (startPrologue t p x.2).1 q e (.prologue (startPrologue t p x.2).2))
    ∧ (∀ i, Begins s q e 1 0x80 → namedGrid t q e = some i →
        exec (.preempt q e) s = (if (unsaved t i).isEmpty
          then .next (afterStores { s := modGrid (dropRestores t i) i fun g => { g with status := .saved }, till := (getGrid t i).savedC, sent := (getGrid t i).savedSent } q e 0 0)
          else .next (startCmd (askSave t i (if e.val = 0 then none else some (dieGtc t die + e.val.toNat))) q e (.preempt i))))
    ∧ (∀ i, Begins s q e 1 0x81 → namedGrid t q e = some i → (getGrid t i).status = .saved →
        let u := startCmd (modGrid t i fun g => { g with status := .running }) q e (.restore i)
        exec (.restore q e) s = .next (((getGrid u i).live.filter fun b => (getBlock u b).status = .saved).foldl askRestore u))
    ∧ (∀ r, Begins s q e 2 0 → e.addr.toNat % 8 = 0 → cmdStore t q e.addr (leBytes 8 e.val.toNat) = some r →
        exec (.signal q e) s = .next (afterStores r q e 0 0))
    ∧ (Begins s q e 3 0 → e.addr.toNat % 8 = 0 → (cmdBytes t q e.addr 8).isSome = true →
        exec (.waitCommand q e) s = .next (startCmd t q e (.wait e.addr e.val)))
    ∧ (∀ d b r, Begins s q e 4 0 → cmdBytes t q e.addr 32 = some d → recNat d 24 8 = 0 →
        cmdBytes t q (BitVec.ofNat 64 (recNat d 0 8)) (recNat d 16 8) = some b → copyWaits s q e = false →
        let w := (copySource t q (BitVec.ofNat 64 (recNat d 0 8)) (recNat d 16 8)).getD (b, t)
        cmdStore w.2 q (BitVec.ofNat 64 (recNat d 8 8)) w.1 = some r → exec (.copyCmd q e) s = .next (afterStores r q e 0 0))
    ∧ (Begins s q e 5 0 → ctxExists t q.part c = false →
        exec (.mapContext q e) s = ok (modCtx t q.part c fun _ => { root := some e.addr }))
    ∧ (∀ d, Begins s q e 5 1 → ctxExists t q.part nq.ctx = true → ctxBytes t q.part nq.ctx e.addr 32 = some d →
        recNat d 0x0A 1 / 2 = 0 → recNat d 0x0B 1 = 0 → recNat d 0x14 12 = 0 → queueOk t nq d (e.val.toNat / 512 % 8) = true →
        e.val.toNat / 65536 % 4096 ≤ 256 →
        exec (.mapQueue q e) s = ok (modQueue t nq fun y =>
          { busy := y.busy, installed := true, base := BitVec.ofNat 64 (recNat d 0 8), lcap := recNat d 8 1, kind := recNat d 9 1
            closed := (recNat d 0x0A 1).testBit 0, per := recNat d 0x0C 4, phs := recNat d 0x10 4, die := e.val.toNat / 512 % 8
            vec := e.val.toNat / 65536 % 4096 }))
    ∧ (Begins s q e 5 2 → ctxExists t q.part tc = true → e.addr.toNat % 64 = 0 →
        exec (.mapContactSheet q e) s = ok (modCtx t q.part tc fun x =>
          { x with sheet := some e.addr, sheetAt := partClock t q.part }))
    ∧ (∀ b, Begins s q e 5 3 → physBytes t q.part e.addr.toNat 16 = some b → recNat b 3 1 / 4 = 0 → recNat b 4 12 = 0 → recNat b 0 2 ≤ 4095 →
        recNat b 2 1 ≤ 3 → exec (.mapAperture q e) s = .next (rewriteRegion t q e fun m => mapSet m c (apertureOf b)))
    ∧ (∀ d, Begins s q e 5 4 → ctxExists t q.part tc = true → e.addr.toNat % 32 = 0 → ctxBytes t q.part tc e.addr 32 = some d →
        recNat d 0x19 1 = 0 → recNat d 0x1C 4 = 0 → recNat d 0 8 % 64 = 0 → recNat d 8 8 % 16384 = 0 → recNat d 16 8 % 4096 = 0 →
        (recNat d 16 8 = 0 ∨ (4 ≤ recNat d 24 1 ∧ recNat d 24 1 ≤ 16)) → recNat d 26 2 ≤ 256 →
        exec (.mapTrapDescriptor q e) s = ok (modCtx t q.part tc fun x => { x with trap :=
          { hent := BitVec.ofNat 64 (recNat d 0 8), recb := BitVec.ofNat 64 (recNat d 8 8)
            nring := BitVec.ofNat 64 (recNat d 16 8), nlcap := recNat d 24 1, nvec := recNat d 26 2 } }))
    ∧ (Begins s q e 5 5 → pt.extents = [] → e.addr.toNat % 65536 = 0 → e.val.toNat % 65536 = 0 →
        inHbm pt e.addr.toNat e.val.toNat = true →
        exec (.mapSaveRegion q e) s = ok (modPart t q.part fun p => { p with saveBase := e.addr, saveSize := e.val }))
    ∧ (let hit := unmapReaches s q e
       let left := s.cores.any fun c => c.2.gather.any fun h => h.2.part = q.part && h.2.ctx = q.ctx && hit h.2.va
       Begins s q e 6 0 →
        (left = true → exec (.unmapRange q e) s = .next (sendUpdates s q.part q.ctx hit))
        ∧ (left = false → accessesLeft { s with wbs := [] } q.part (some q.ctx) hit = false →
          exec (.unmapRange q e) s = ok (unmapRange t q e)))
    ∧ (Begins s q e 6 1 → ctxExists t q.part c = true →
        (pt.queues.any fun x => x.1.ctx = c && x.2.installed && !x.2.closed && !(x.1.host && c = 0 && x.1.q = 0)) = false →
        ctxLeft s q.part c = false →
        exec (.unmapContext q e) s = ok (stopContext t q.part c))
    ∧ (Begins s q e 6 2 → ctxExists t q.part nq.ctx = true → (getQueue t nq).installed = true →
        (nq.host && nq.ctx = 0 && nq.q = 0) = false → exec (.unmapQueue q e) s = ok (closeQueue t nq))
    ∧ (Begins s q e 6 3 → ((mapGet {} pt.aps c).valid = true ∨ (mapGet {} pt.aps c).inbound = true) →
        exec (.unmapAperture q e) s = .next (rewriteRegion t q e fun m => mapDel m c))
    ∧ (let mask : BitVec 4 := e.val.setWidth 4
       ∀ o, Begins s q e 7 1 → isPartitionMask mask = true → partnerOf t q.part mask = some o → (getPart t o).change = none →
        (getPart t o).making = none →
        exec (.partitionMerge q e) s =
          .next (startCmd (modPart t q.part fun p => { p with change := some (dieGtc t die, mask) }) q e .merge))
    ∧ (let mask : BitVec 4 := e.val.setWidth 4
       ∀ o w f, Begins s q e 7 1 → isPartitionMask mask = true → partnerOf t q.part mask = some o → (getPart t o).change = some (w, mask) →
        partBusy t q.part = false → partBusy t o = false → partUnsettled t q.part = false → partUnsettled t o = false →
        busyWith t (adminOf o) (· = .merge) = some (f, .merge) →
        exec (.partitionMerge q e) s = .next (beginChange (beginChange (startCmd t q e .merge) o mask { mask, partner := some q.part })
          q.part mask { mask, partner := some o }))
    ∧ (let m : BitVec 4 := e.val.setWidth 4
       let rest := pt.mask &&& ~~~m
       Begins s q e 7 2 → isPartitionMask m = true → isPartitionMask rest = true → m &&& pt.mask = m → partBusy t q.part = false →
        partUnsettled t q.part = false →
        exec (.partitionSplit q e) s = .next (beginChange (startCmd t q e .merge) q.part (if lowest m = q.part then m else rest)
          { mask := m, partner := none }))
    ∧ (∀ b, Begins s q e 8 0 → cmdBytes t q e.addr e.val.toNat = some b →
        let u := spdmRequest b t
        exec (.attest q e) s = match cmdStore u q (e.addr + 4096) (lastAnswer u) with
          | some r => .next (afterStores r q e 0 (lastAnswer u).length)
          | none => .next (finishCmd u q e 7 (e.addr + 4096).toNat))
    ∧ (∀ b, Begins s q e 9 0 → versionBlock t q e = some b → recNat b 6 2 = 0 → 1 ≤ recNat b 0 2 → recNat b 0 2 ≤ 3 →
        recNat b 2 2 = 1 → recNat b 4 2 = 1 →
        exec (.versionCmd q e) s = .next (finishCmd (modPart t q.part fun p =>
          { p with negotiated := some (BitVec.ofNat 16 (recNat b 0 2), 1, 1) }) q e 0 (recNat b 0 2 + 2 ^ 16 + 2 ^ 32)))
    ∧ (let u := leaveContext s q.part c
       Begins s q e 10 0 → ctxExists t q.part c = true →
        (ctxOpen s q.part c = true → exec (.resetContext q e) s =
          if ctxLeft u q.part c then .next u else ok (stopContext t q.part c))
        ∧ (ctxOpen s q.part c = false → ctxLeft s q.part c = false → exec (.resetContext q e) s = ok (stopContext t q.part c)))
    ∧ (let cs := (getPart s q.part).ctxs.map (·.1)
       let u := cs.foldl (fun u c => leaveContext u q.part c) s
       Begins s q e 10 1 →
        (cs.any (ctxOpen s q.part) = true → exec (.resetPartition q e) s =
          if cs.any (ctxLeft u q.part) then .next u else ok (resetPart t q.part))
        ∧ (cs.any (ctxOpen s q.part) = false → cs.any (ctxLeft s q.part) = false →
          exec (.resetPartition q e) s = ok (resetPart t q.part)))
    ∧ (∀ h b, Begins s q e 10 2 → pt.mask = 0b1111#4 → physBytes t q.part e.addr.toNat 256 = some h →
        physBytes t q.part e.addr.toNat (256 + recNat h 8 4) = some b →
        exec (.resetPatch q e) s = match patchFault t.hub b with
          | some why => .next (finishCmd t q e 11 why)
          | none => ok (restartFirmware { t with hub := { t.hub with installed := some b } } q.part))
    ∧ (let l := (pt.log.filter fun x => pt.logRead < x.seq).take (e.val.toNat / 32)
       ∀ r, Begins s q e 11 0 → cmdStore t q e.addr (l.flatMap logEntryBytes) = some r →
        exec (.logCmd q e) s = .next (afterStores { r with s := modPart r.s q.part fun p =>
          { p with logRead := (l.getLast?.map (·.seq)).getD pt.logRead } } q e 0 (32 * l.length)))
    ∧ (∀ f a v, busyWith s q (fun r => match r with
          | .wait a v => !requestsStopped s q.part && !farBusy s q.part (tableXlat s q.part q.ctx a)
              && (match cmdBytes s q a 8 with | some b => v.toNat ≤ leNat b | none => false)
          | _ => false) = some (f, .wait a v) →
        exec (.waitSatisfied q) s = .next (endCmd s q f (.wait a v) 0 0))
    ∧ (∀ f st res till ids, busyWith s q (fun r => match r with
          | .stores _ _ t ids => !requestsStopped s q.part && (t = 0 || timePast s (getQueue s q).die t) && acked s (getQueue s q).die ids
          | _ => false) = some (f, .stores st res till ids) →
        exec (.copyCommandDone q) s = .next (endCmd s q f (.stores st res till ids) st res))
    ∧ ∀ p f (x : Nat × BitVec 4), let aq : QRef := { part := p, ctx := 0, host := true, q := 0 }
        (getPart s p).change = some x → busyWith s aq (· = .merge) = some (f, .merge) → x.1 + 10 ^ 9 ≤ dieGtc s (getQueue s aq).die →
        exec (.mergeHandshakeTimeout p) s = .next (refuseChange (modQueue (modPart s p fun p => { p with change := none }) aq
          fun z => { z with busy := z.busy.erase (f, .merge), begun := false }) aq f 2)

/-! # The host and Safelight -/

/-- What a restart of the main domain leaves (R313, R329, R332, R386): no group, grid, block, request or cached line; of memory the
host's alone; each die a life further on; and for every function no negotiated version, no context and no queue, its registers as
R313 gives them at reset. -/
def Restarted (s t : State) : Prop :=
  t.groups = [] ∧ t.grids = [] ∧ t.blocks = [] ∧ t.elems = [] ∧ t.stores = [] ∧ t.loads = [] ∧ t.sent = [] ∧ t.homes = []
    ∧ t.copies = [] ∧ t.dark = [] ∧ t.tlb = [] ∧ t.cores = [] ∧ t.csaved = []
    ∧ t.mem = s.mem.filter (fun e => decide (2 ^ 52 ≤ e.1))
    ∧ (∀ d, (mapFind s.dies d).isSome = true → (getDie t d).life = (getDie s d).life + 1)
    ∧ ∀ fn, fn < 4 → (getPart t fn).negotiated = none ∧ (getPart t fn).ctxs = [] ∧ (getPart t fn).queues = []
        ∧ barReg t fn 0x00 = 3 ∧ barReg t fn 0x18 = 0 ∧ barReg t fn 0x20 = 0 ∧ barReg t fn 0x28 = 0 ∧ barReg t fn 0x30 = 0
        ∧ ∀ c q, c < 64 → q < 4 → barReg t fn (0x1000 + 32 * c + 8 * q) = 0

/-- What an SPDM request comes to on a port: with the connection far enough and a request that can be answered, its answer and the next
stage; else the answer that it is unsupported. The other port's connection, memory and time are as before (R331). -/
def SpdmGives (s : State) (i : Instr) (port : SpdmPort) (need : Nat) (can : Bool) (next : Nat) (m : SpdmMsg) : Prop :=
  ∃ t, exec i s = .next t
    ∧ getSpdm t port = (if need ≤ (getSpdm s port).stage ∧ can = true then { stage := next, last := m }
        else { getSpdm s port with last := .unsupported })
    ∧ (∀ o, o ≠ port → getSpdm t o = getSpdm s o) ∧ t.mem = s.mem ∧ t.gtc = s.gtc

/-- R312, R313, R316, R318, R325, R328 to R331, R378, R395, R396, R398, R399: what the host does through a function (0 to 3) and
what Safelight does on its own bus: each completes with its effect and its answer. A doorbell moves the tail of an installed
and open queue that can hold what it covers; a write of AQBASE is kept; one of AQCTL enables the admin queue, empty, only with a
capacity of 16 to 65,536 entries, a base of whole 4 KiB and a vector that there is, and else disables it; a PTM dialogue latches the
two times; a function reset that has taken effect leaves nothing negotiated, no aperture, no log, every counter 0 and no queue but the
admin queue; power limits of
600 to 2,200 W and partition masks that give every quarter once are taken, and others refused with nothing changed. RESET 2 keeps
the time, the clock and the module log, which gains an entry for each of the eight dies: that it keeps the clock and the withheld issue
is the model's choice (log entry 36), as R399 keeps `sy.gtc` and the log. SPDM answers with what R331 lists: SHA-384, ECDSA over
brainpoolP384r1, the chain of slot 0 and the five measurements. The 22 bytes of GET_TELEMETRY, the answer of GET_VERSION, and the order
in which SPDM requests may come with the bytes of their messages are the model's choices (log entries 28, 75 and 13), and so is when
a function reset takes effect (34). -/
def Obligations.HostAndSafelight : Prop :=
  ∀ (s : State),
    let answers (i : Instr) (b : List Byte) : Prop := exec i s = .next { s with hub := { s.hub with answer := .bytes b } }
    (∀ fn, fn < 4 →
      (∀ c q tail, c < 64 → q < 4 →
        let qr : QRef := { part := fn, ctx := c, host := true, q }
        let x := getQueue s qr
        x.installed = true → x.closed = false → (tail - x.head).toNat ≤ 2 ^ x.lcap →
        exec (.doorbell fn c q tail) s = .next (modQueue s qr fun x => moveTail x (dieGtc s x.die) tail))
      ∧ (∀ v, let x := getPart s fn
        let lcap := v.toNat % 32
        let vec := v.toNat / 65536 % 4096
        let on := v.getLsbD 8 && decide (4 ≤ lcap) && decide (lcap ≤ 16) && decide (x.aqbase.toNat % 4096 = 0) && decide (vec ≤ 256)
        ∃ t, exec (.aqctl fn v) s = .next t
          ∧ barReg t fn 0x20 = (if on = true then v &&& 0xFFF011F else v &&& 0xFFF001F)
          ∧ (let y := getQueue t { part := fn, ctx := 0, host := true, q := 0 }
            (on = false → y.installed = false)
            ∧ (on = true → y.base = x.aqbase ∧ y.lcap = lcap ∧ y.vec = vec
              ∧ (x.aqctl.getLsbD 8 = false → y.installed = true ∧ y.closed = false ∧ y.head = 0 ∧ y.tail = 0)))
          ∧ ∀ p, p ≠ fn → getPart t p = getPart s p)
      ∧ (∀ v, exec (.registerWrite fn 0x18 v) s = .next (modPart s fn fun p => { p with aqbase := v }))
      ∧ exec (.functionLevelReset fn) s = .next (resetFunction s fn)
      ∧ (let x := getPart (resetFunction s fn) fn
        let was := (getPart (discardBegun s (adminOf fn)) fn).live
        (was = false → x.negotiated = none)
        ∧ (was = true → x.leaving = false → x.negotiated = none ∧ x.aps = [] ∧ x.saveBase = 0 ∧ x.saveSize = 0
          ∧ x.log = [] ∧ x.logSeq = 0 ∧ x.cecnt = [] ∧ x.uecnt = 0 ∧ x.late = 0 ∧ x.replay = 0 ∧ x.dups = 0 ∧ x.misr = 0 ∧ x.nlost = 0
          ∧ x.tok = none ∧ x.lists = [] ∧ ∀ e, e ∈ x.queues → e.1.host = true ∧ e.1.ctx = 0 ∧ e.1.q = 0))
      ∧ (∀ m, exec (.ptmDialogue fn m) s = .next (modPart s fn fun p => { p with ptmt := s.gtc, ptmm := m }))
      ∧ (∀ c, exec (.hostPortError fn c) s = .next { s with aer := s.aer ++ [(fn, c)] })
      ∧ (s.hub.power = .up → exec (.safelightResetFunction fn) s =
          .next { resetFunction s fn with hub := { (resetFunction s fn).hub with answer := .ok } }))
    ∧ (∃ t, exec .coldReset s = .next t ∧ t.gtc = 0 ∧ t.hub.power = .up ∧ t.hub.clock = 2000 ∧ t.hub.issueOf16 = 16 ∧ t.hub.limit = 2200
        ∧ t.hub.stacksFailed = 0 ∧ Restarted s t ∧ t.parts = bootParts s.hub.defaults
        ∧ (s.hub.defaults = [] → barReg t 0 0x08 = 0x3D ∧ ∀ fn, fn = 1 ∨ fn = 2 ∨ fn = 3 → barReg t fn 0x08 = 0x3E)
        ∧ t.agenda = s.agenda)
    ∧ (∃ t, exec .safelightResetModule s = .next t ∧ t.gtc = 0 ∧ t.hub.power = .up ∧ Restarted s t ∧ t.hub.answer = .ok)
    ∧ (∃ t, exec .safelightResetMain s = .next t ∧ t.gtc = s.gtc ∧ t.hub.clock = s.hub.clock
        ∧ t.hub.issueOf16 = s.hub.issueOf16 ∧ t.hub.logSeq = s.hub.logSeq + 8 ∧ Restarted s t ∧ t.hub.answer = .ok
        ∧ t.hub.power = (if s.hub.power = .fatal then .fatal else .up))
    ∧ (∃ v, exec .getVersion s = .next { s with hub := { s.hub with i3c := v, answer := .bytes [2, 0] } }
        ∧ (v = none ∨ v = some 1 ∨ v = some 2))
    ∧ answers .getHealth (healthBytes s) ∧ answers .getPowerLimit (leBytes 2 s.hub.limit)
    ∧ (∃ b, answers .getTelemetry b ∧ b.length = 22)
    ∧ (∀ off n, answers (.getLog off n) (((s.hub.log.flatMap logEntryBytes).drop off).take n))
    ∧ (∀ w, exec (.setPowerLimit w) s = .next (if 600 ≤ w ∧ w ≤ 2200 then { s with hub := { s.hub with limit := w, answer := .ok } }
        else { s with hub := { s.hub with answer := .refused } }))
    ∧ (∀ l, exec (.setPartitionDefault l) s = .next (if masksOk l = true then
        { s with hub := { s.hub with defaults := l, answer := .ok } } else { s with hub := { s.hub with answer := .refused } }))
    ∧ (∀ b, exec (.loadPatch b) s = .next { s with hub := { s.hub with staged := some b, answer := .ok } })
    ∧ ∀ port n off len nonce,
        let bytes (kind : Nat) (b : List Byte) : List Byte := Config.spdmBytes kind s.tick b
        let all := [sha384 (Config.rom 0), sha384 (Config.rom 1),
          (match s.hub.installed with | some b => sha384 b | none => List.replicate 48 0), sha384 (fuseBytes s.hub), sha384 (tableBytes s)]
        let asked := if n = 0 then [] else if n = 255 then all else (all.drop (n - 1)).take 1
        SpdmGives s (.spdmGetVersion port) port 0 true 1 (.version (bytes 1 []))
        ∧ SpdmGives s (.getCapabilities port) port 1 true 2 (.capabilities (bytes 2 []))
        ∧ SpdmGives s (.negotiateAlgorithms port) port 2 true 3 (.algorithms [.sha384] [] [.ecdsaBrainpoolP384r1] (bytes 3 []))
        ∧ SpdmGives s (.getDigests port) port 3 true 3 (.digests (bytes 4 (sha384 Config.certChain)))
        ∧ SpdmGives s (.getCertificate port n off len) port 3 (decide (n = 0)) 3
            (.certificate n off (bytes 5 ((Config.certChain.drop off).take len)))
        ∧ SpdmGives s (.challenge port n nonce) port 3 (decide (n = 0)) 3 (.challengeAuth n (bytes 6 (nonce ++ all.flatten)))
        ∧ SpdmGives s (.getMeasurements port n) port 3 (decide (n ≤ 5) || decide (n = 255)) 3
            (.measurements n asked (bytes 7 asked.flatten))

/-! # The fabric, and errors -/

/-- R326, R327, R332, R370, R373 to R375, R382 to R392, R395 to R397: a request of another module that comes in its source's order
is applied once if an inbound entry admits it, one that comes early is held, and a duplicate is counted and answered with the stored
result; an acknowledgement completes the request that it answers; a replay comes after 20 µs; replays, stale responses and misrouted
requests are counted, and a misrouted one is issued again by the new tables; links and targets go down and up; a table switches once
nothing of its partition is in flight, or by force; leases are held and freed; dies reset, restart, fail and miss their watchdog; and
errors are counted, poison what they must, stop a stack, slow the clock or withhold issue, or stop the module. An uncorrectable error does
what R374 lists for its structure: the block that owns the word is lost (an unassigned square is cleared), a cached line is dropped and
fetched again, a word of a home or stack is poisoned, a transaction is doomed, and every block with a member on a core is lost with the
core's tables or logic. Each is here under the condition for which
it is due. That an early request waits by its sequence number whatever its address, the first number being 0, is the model's reading (log
entry 71), and so is that LEASE_HOLD is due at any difference (log entry 98). -/
def Obligations.FabricAndErrors : Prop :=
  ∀ (s : State),
    (∀ fn r, let key := memKey fn r.addr.toNat
      let n := atomBytes r.op
      let x := sourceOf s r
      r.module ≠ s.hub.number →
      (arrivedBefore x r.seq = true → let u := modPart s fn fun p => { p with dups := p.dups + 1 }
        exec (.fabricRequest fn r) s = .next (match appliedResult s r with | some a => reply u a | none => u))
      ∧ (x.held = [] → r.seq = x.next → inboundFrom s fn r.module r.fn = true → inHbm (getPart s fn) r.addr.toNat n = true →
        lockedFor s (lineOf key) none = false → homeBusy s key = false → poisoned s key n = false →
        let u := setSource s { x with next := r.seq + 1 }
        let v := (applyOp u key r.op).2
        let kept : Applied := { module := r.module, die := r.die, life := r.life, seq := r.seq, result := (applyOp u key r.op).1 }
        exec (.fabricRequest fn r) s = .next (reply { v with applied := keepApplied v.applied kept } kept))
      ∧ (x.held = [] → (r.seq - x.next).toNat < 2 ^ 31 → r.seq ≠ x.next →
        exec (.fabricRequest fn r) s = .next (setSource s { x with held := [(fn, r)] })))
    ∧ (∀ id data x, (s.sent.find? fun y => y.id = id) = some x →
        onTheWay s x = true → x.module ≠ s.hub.number →
        exec (.acknowledgement id data) s = .next (acknowledge s x data)
        ∧ (x.since + 20000 ≤ hubGtc s → exec (.fabricReplay id) s = .next (modPart
            { s with sent := modWhere s.sent (fun y => y.id = id) fun y => { y with since := hubGtc s } } x.part
            fun p => { p with replay := p.replay + 1 })))
    ∧ (∀ id data, (s.sent.find? fun y => y.id = id) = none → exec (.acknowledgement id data) s = .next s)
    ∧ (∀ d l, d < 8 → (getDie s d).life ≠ l → exec (.staleResponse d l) s = .next (countLate s d))
    ∧ (∀ i, i < 32 → (getLink s i).down = false →
        ((getLink s i).fails < 2 → exec (.linkRetried i) s = .next
          (logModule (setLink s i { getLink s i with fails := (getLink s i).fails + 1 }) 9 8 (BitVec.ofNat 64 i) 1))
        ∧ ((getLink s i).fails = 2 → exec (.linkDown i) s = .next
          (logModule (setLink s i { down := true, fails := 3 }) 9 8 (BitVec.ofNat 64 i) 2)))
    ∧ (∀ i v, i < 32 →
        ((getLink s i).down = true → exec (.linkUp i v) s = .next
          (if 2 ≤ v ∧ v ≤ 4 then logModule (setLink s i { ver := min v 4 }) 9 8 (BitVec.ofNat 64 i) 3 else s))
        ∧ ((getLink s i).down = false → 0 < (getLink s i).fails → 2 ≤ v → v ≤ 4 →
          exec (.linkUp i v) s = .next (setLink s i { ver := min v 4 })))
    ∧ (∀ m, (s.unreach.contains m = false → mapGet 0 s.carried m + 10000000 ≤ hubGtc s →
          let u := logTarget { s with unreach := s.unreach ++ [m] } m 1
          exec (.targetUnreachable m) s = .next (failSents u (u.sent.filter fun x => x.module = m)))
        ∧ (s.unreach.contains m = true →
          exec (.targetReachable m) s = .next (logTarget
            { s with unreach := s.unreach.filter (· ≠ m), carried := mapSet s.carried m (hubGtc s) } m 0)))
    ∧ (∀ p k t, k < 2 → (tableOf s p k).pending = some t →
        (partDrained s p = true → exec (.tableSwitch p k) s = .next (switchTable s p k))
        ∧ ((t + 100000 ≤ hubGtc s ∨ partResetting s p = true) → exec (.forcedTableSwitch p k) s = .next (logEvent (switchTable s p k) p 0x0C 255 255
            (BitVec.ofNat 64 k) ((tableOf (switchTable s p k) p k).ver.setWidth 64))))
    ∧ (∀ p x, (s.sent.find? fun x => x.part = p && x.module ≠ s.hub.number && !routed s x) = some x →
        exec (.misrouted p) s = .next (misroute s x)
        ∧ (let a := mapGet {} (getPart s p).aps x.ap
           a.valid = true → a.inbound = false → (getPart (misroute s x) p).misr = (getPart s p).misr + 1 ∧ (misroute s x).mem = s.mem
            ∧ ∀ y, y ∈ (misroute s x).sent → y.id = x.id → y.module = a.module ∧ y.fn = a.fn ∧ y.vers = partVers s p))
    ∧ (∀ d n, d < 8 →
        ((getDie s d).status = .up → (getDie s d).hold = false → ∃ t, exec (.leaseHold d n) s = .next t
          ∧ (getDie t d).hold = true ∧ (getDie t d).holdAt = hubGtc s ∧ t.mem = s.mem)
        ∧ ((getDie s d).hold = true → hubGtc s ≤ (getDie s d).holdAt + 1000000 → ∃ t, exec (.leaseHoldEnd d n) s = .next t ∧ (getDie t d).hold = false ∧ t.mem = s.mem)
        ∧ ((getDie s d).status = .up → exec (.dieReset d) s = .next (resetDie s d))
        ∧ ((getDie s d).status = .up → (getDie s d).dogAt + 10000000 ≤ hubGtc s → (getDie s d).bite = none →
          exec (.watchdogExpiry d) s = .next (logEvent
            (modDie s d fun x => { x with bite := some (hubGtc s), dogAt := hubGtc s }) (diePart s d) 0x0F d 255 (BitVec.ofNat 64 d) 0xFF))
        ∧ (∀ t, (getDie s d).status = .up → (getDie s d).dogAt + 10000000 ≤ hubGtc s → (getDie s d).bite = some t →
            hubGtc s < t + 10 ^ 9 →
            exec (.watchdogExpiry d) s = .next (resetDie s d)))
    ∧ (∀ d t, (getDie s d).status = .resetting → (getDie s d).resetAt = some t →
        (hubGtc s ≤ t + 50000000 → exec (.dieRestart d) s = .next (modDie s d fun x => { x with status := .up }))
        ∧ (t + 50000000 < hubGtc s → exec (.dieFailed d) s = .next (failChanges (modDie s d fun x => { x with status := .failed }) d)))
    ∧ (∀ p k n, (getPart s p).live = true →
        (1 ≤ k → k ≤ 7 → ∃ t, exec (.correctableError p k) s = .next t
          ∧ mapGet 0 (getPart t p).cecnt k = mapGet 0 (getPart s p).cecnt k + 1 ∧ t.mem = s.mem)
        ∧ ∃ t, exec (.patrolScrub p n) s = .next t
          ∧ mapGet 0 (getPart t p).cecnt 6 = mapGet 0 (getPart s p).cecnt 6 + BitVec.ofNat 64 n ∧ t.mem = s.mem)
    ∧ (∀ key, let w := key / 32 * 32
        exec (.uncorrectableError (.hbm key)) s = .next (poisonWord s key 6)
        ∧ exec (.uncorrectableError (.home key)) s = .next (poisonWord s key 5)
        ∧ w ∈ (poisonWord s key 6).poison ∧ (∀ k, k ∈ (poisonWord s key 6).poison → k = w ∨ k ∈ s.poison)
        ∧ (poisonWord s key 6).mem = s.mem ∧ (poisonWord s key 6).hub.ue = s.hub.ue + 1)
    ∧ (∀ g va, (getGroup s g).status.live = true → (groupBlock s g).here = true →
        let x := getGroup s g
        let d := coreDie (slotCore g)
        exec (.uncorrectableError (.regFile g)) s = .next (loseBlock (countUe s (diePart s d)) x.block (memberOn (groupBlock s g) (slotCore g)) 1 false 0 0)
        ∧ exec (.uncorrectableError (.poisonRead g va)) s = .next (loseBlock s x.block x.member 6 true va 0))
    ∧ (∀ c n, let owner := s.blocks.find? fun e => e.2.here && (e.2.sqrs.getD (memberOn e.2 c) []).contains n && e.2.cores.contains c
        (∀ e, owner = some e → exec (.uncorrectableError (.lattice c n)) s = .next (loseOn s e.1 c 2))
        ∧ (owner = none → ∃ t, exec (.uncorrectableError (.lattice c n)) s = .next t ∧ t.hub.ue = s.hub.ue + 1 ∧ t.blocks = s.blocks
            ∧ t.mem = s.mem ∧ (getCore t c).lat = (getCore s c).lat.filter fun e => decide (e.1 / 8192 ≠ n))
        ∧ (∀ b, (getCore s c).token = some b → exec (.uncorrectableError (.accum c)) s = .next (loseOn s b c 3))
        ∧ ((getCore s c).token = none → ∃ t, exec (.uncorrectableError (.accum c)) s = .next t ∧ t.hub.ue = s.hub.ue + 1
            ∧ t.blocks = s.blocks ∧ t.mem = s.mem ∧ (getCore t c).acc = [])
        ∧ exec (.uncorrectableError (.sched c)) s = .next (coreError s c 7)
        ∧ exec (.uncorrectableError (.logic c)) s = .next (coreError s c 8))
    ∧ (∀ i e, getElem s i = some e → e.done = false →
        exec (.uncorrectableError (.request i)) s = .next (loseOn s e.block e.core 2))
    ∧ (∀ b c n, (getBlock s b).here = true → loseOn s b c n =
        loseBlock (countUe s (diePart s (coreDie c))) b (memberOn (getBlock s b) c) n false 0 0)
    ∧ (∀ c l x, getCopy s c l = some x → let p := diePart s (coreDie c)
        ∃ t, exec (.uncorrectableError (.l1 c l)) s = .next t ∧ getCopy t c l = some { x with bytes := [], expiry := some 0 }
          ∧ mapGet 0 (getPart t p).cecnt 4 = mapGet 0 (getPart s p).cecnt 4 + 1 ∧ t.mem = s.mem ∧ t.hub.ue = s.hub.ue)
    ∧ (∀ d l, let p := diePart s d
        (homeDie s (128 * l) = d → exec (.uncorrectableError (.l2 d l)) s = .next (poisonWord s (128 * l) 5))
        ∧ (homeDie s (128 * l) ≠ d → ∃ t, exec (.uncorrectableError (.l2 d l)) s = .next t ∧ getCopy t (l2Holder d) l = none
          ∧ mapGet 0 (getPart t p).cecnt 5 = mapGet 0 (getPart s p).cecnt 5 + 1 ∧ t.mem = s.mem ∧ t.hub.ue = s.hub.ue))
    ∧ (∀ d l n, exec (.uncorrectableError (.dark d l n)) s = .next (darkError s d l n))
    ∧ (∀ g lane, let u := doomLane (logUe s (groupSpace s g).1 (groupDie g) 0) g lane 7 0x3F
        exec (.uncorrectableError (.txnLog g lane)) s = .next u ∧ exec (.uncorrectableError (.txnSlice g lane)) s = .next u)
    ∧ (∀ k, k < 12 → s.hub.stacksFailed.getLsbD k = false → ∃ t, exec (.stackFailure k) s = .next t
        ∧ t.hub.stacksFailed = s.hub.stacksFailed ||| 1#12 <<< k ∧ t.mem = s.mem)
    ∧ (s.hub.power = .up → (∃ t, exec .fatalState s = .next t ∧ t.hub.power = .fatal
          ∧ t.hub.ue = s.hub.ue + 1 ∧ t.hub.logSeq = s.hub.logSeq + 1 ∧ t.mem = s.mem)
        ∧ ∃ t, exec .thermalTrip s = .next t ∧ t.hub.power = .off ∧ t.groups = [] ∧ t.gtc = s.gtc)
    ∧ ∀ cause,
        let steps (down : Bool) (clock issue : Nat) : Prop := ∃ t, exec (.clockStep cause down) s = .next t ∧ t.hub.clock = clock
          ∧ t.hub.issueOf16 = issue ∧ t.hub.logSeq = s.hub.logSeq + 1 ∧ t.mem = s.mem ∧ t.gtc = s.gtc
        (cause ≠ .withhold → (1000 < s.hub.clock → steps true (s.hub.clock - 100) s.hub.issueOf16)
          ∧ (s.hub.clock < 2000 → s.hub.issueOf16 = 16 → steps false (s.hub.clock + 100) 16))
        ∧ (s.hub.clock ≤ 1000 → 1 < s.hub.issueOf16 → steps true s.hub.clock (s.hub.issueOf16 - 1))
        ∧ (s.hub.issueOf16 < 16 → steps false s.hub.clock (s.hub.issueOf16 + 1))
end

