-- ==== Sys2Proof/Laws/Maps.lean ====
section
/-! SUPPORT. Lemmas of the sparse tables and of the memory's canonical byte list: what a write puts where, and that the
canonical form is kept. -/

namespace Sys2Proof.Machine

/-! ## Tables -/

@[simp] theorem mapFind_nil {α : Type} (k : Nat) : mapFind ([] : AMap α) k = none := rfl

@[simp] theorem mapFind_mapSet_same {α : Type} (m : AMap α) (k : Nat) (v : α) : mapFind (mapSet m k v) k = some v := by
  induction m with
  | nil => simp [mapSet, mapFind]
  | cons e r ih =>
    simp only [mapSet]
    split
    · simp [mapFind]
    · split
      · simp [mapFind]
      · simp only [mapFind]
        rw [if_neg (by omega)]
        exact ih

@[simp] theorem mapFind_mapSet_ne {α : Type} (m : AMap α) {k j : Nat} (v : α) (h : j ≠ k) :
    mapFind (mapSet m k v) j = mapFind m j := by
  induction m with
  | nil => simp [mapSet, mapFind, Ne.symm h]
  | cons e r ih =>
    simp only [mapSet]
    split
    · simp [mapFind, Ne.symm h]
    · split
      · next e' => subst e'; simp [mapFind, Ne.symm h]
      · simp only [mapFind, ih]

@[simp] theorem mapGet_mapSet_same {α : Type} (d : α) (m : AMap α) (k : Nat) (v : α) : mapGet d (mapSet m k v) k = v := by
  simp [mapGet]

@[simp] theorem mapGet_mapSet_ne {α : Type} (d : α) (m : AMap α) {k j : Nat} (v : α) (h : j ≠ k) :
    mapGet d (mapSet m k v) j = mapGet d m j := by
  simp [mapGet, h]

theorem mapGet_mapSet {α : Type} (d : α) (m : AMap α) (k j : Nat) (v : α) :
    mapGet d (mapSet m k v) j = if j = k then v else mapGet d m j := by
  split
  · next h => subst h; simp
  · next h => simp [h]

theorem mapGet_mapMod {α : Type} (d : α) (m : AMap α) (k j : Nat) (f : α → α) :
    mapGet d (mapMod d m k f) j = if j = k then f (mapGet d m k) else mapGet d m j := by
  rw [mapMod, mapGet_mapSet]

/-- Writing a key twice keeps the second value only. -/
@[simp] theorem mapSet_mapSet {α : Type} (m : AMap α) (k : Nat) (v w : α) : mapSet (mapSet m k v) k w = mapSet m k w := by
  induction m with
  | nil => simp [mapSet]
  | cons e r ih =>
    simp only [mapSet]
    split
    · simp [mapSet]
    · split
      · simp [mapSet]
      · simp only [mapSet]
        rw [if_neg (by assumption), if_neg (by assumption), ih]

/-! ## One byte of memory -/

/-- Below the lower bound of a canonical list every byte is unlisted. -/
theorem memRead_below {m : List Host.Cell} {lo a : Nat} (h : memWfFrom lo m = true) (ha : a < lo) :
    memRead m a = unlistedByte := by
  induction m generalizing lo with
  | nil => rfl
  | cons e r ih =>
    simp only [memWfFrom, Bool.and_eq_true, decide_eq_true_eq] at h
    simp only [memRead]
    rw [if_neg (by omega)]
    exact ih h.2 (by omega)

theorem memWfFrom_mono {m : List Host.Cell} {lo lo' : Nat} (h : memWfFrom lo m = true) (hl : lo' ≤ lo) :
    memWfFrom lo' m = true := by
  cases m with
  | nil => rfl
  | cons e r =>
    simp only [memWfFrom, Bool.and_eq_true, decide_eq_true_eq] at h ⊢
    exact ⟨⟨by omega, h.1.2⟩, h.2⟩

theorem memWrite_wfFrom {m : List Host.Cell} {lo a : Nat} (b : Byte) (h : memWfFrom lo m = true) (ha : lo ≤ a) :
    memWfFrom lo (memWrite m a b) = true := by
  induction m generalizing lo with
  | nil =>
    simp only [memWrite]
    split <;> simp_all [memWfFrom]
  | cons e r ih =>
    obtain ⟨j, w⟩ := e
    have h0 := h
    simp only [memWfFrom, Bool.and_eq_true, decide_eq_true_eq] at h
    simp only [memWrite]
    split
    · split
      · exact h0
      · simp_all [memWfFrom]
    · split
      · split
        · exact memWfFrom_mono h.2 (by omega)
        · simp_all [memWfFrom]
      · simp only [memWfFrom, Bool.and_eq_true, decide_eq_true_eq]
        exact ⟨h.1, ih h.2 (by omega)⟩

/-- A byte written keeps the canonical form. -/
theorem memWrite_wf {m : List Host.Cell} (a : Nat) (b : Byte) (h : Memory.wf m = true) : Memory.wf (memWrite m a b) = true :=
  memWrite_wfFrom b h (Nat.zero_le a)

/-- A byte reads as it was written, and every other byte as before. -/
theorem memRead_memWrite_from {m : List Host.Cell} {lo : Nat} (a c : Nat) (b : Byte) (h : memWfFrom lo m = true) :
    memRead (memWrite m a b) c = if c = a then b else memRead m c := by
  induction m generalizing lo with
  | nil =>
    simp only [memWrite]
    split
    · next e => split <;> simp_all [memRead]
    · simp only [memRead]
      split <;> split <;> simp_all
  | cons e r ih =>
    obtain ⟨j, w⟩ := e
    simp only [memWfFrom, Bool.and_eq_true, decide_eq_true_eq] at h
    have below : c ≤ j → memRead r c = unlistedByte := fun hc => memRead_below h.2 (by omega)
    have rest := ih h.2
    simp only [memWrite]
    split
    · split
      · simp only [memRead]
        split <;> split <;> first | omega | rfl | skip
        next h1 h2 => subst h2; rw [below (by omega)]; simp_all
      · simp only [memRead]
        by_cases h2 : c = a
        · simp [h2]
        · rw [if_neg (Ne.symm h2), if_neg h2]
    · split
      · next e =>
        subst e
        split
        · simp only [memRead]
          split
          · next h2 => subst h2; rw [below (by omega)]; simp_all
          · rw [if_neg (by omega)]
        · simp only [memRead]
          split <;> split <;> first | omega | rfl
      · simp only [memRead, rest]
        split <;> split <;> first | omega | rfl

theorem memRead_memWrite {m : List Host.Cell} (a c : Nat) (b : Byte) (h : Memory.wf m = true) :
    memRead (memWrite m a b) c = if c = a then b else memRead m c := memRead_memWrite_from a c b h

/-! ## Runs of bytes -/

/-- Bytes written keep the canonical form. -/
theorem memPut_wf {m : List Host.Cell} (a : Nat) (bs : List Byte) (h : Memory.wf m = true) :
    Memory.wf (memPut m a bs) = true := by
  induction bs generalizing m a with
  | nil => exact h
  | cons b r ih => exact ih (a + 1) (memWrite_wf a b h)

/-- Bytes read as they were written, and every other byte as before. -/
theorem memRead_memPut {m : List Host.Cell} (a c : Nat) (bs : List Byte) (h : Memory.wf m = true) :
    memRead (memPut m a bs) c = if a ≤ c ∧ c < a + bs.length then bs.getD (c - a) 0 else memRead m c := by
  induction bs generalizing m a with
  | nil => simp [memPut]
  | cons b r ih =>
    rw [memPut, ih (a + 1) (memWrite_wf a b h), memRead_memWrite a c b h]
    by_cases h1 : c = a
    · subst h1
      rw [if_neg (by omega)]
      simp
    · by_cases h2 : a + 1 ≤ c ∧ c < a + 1 + r.length
      · rw [if_pos h2, if_pos (by simp; omega)]
        obtain ⟨n, hn⟩ : ∃ n, c - a = n + 1 := ⟨c - a - 1, by omega⟩
        rw [hn, show c - (a + 1) = n by omega]
        simp
      · rw [if_neg h2, if_neg h1, if_neg (by simp; omega)]

/-- Dropping entries keeps the canonical form. -/
theorem memWfFrom_filter {m : List Host.Cell} {lo : Nat} (p : Host.Cell → Bool) (h : memWfFrom lo m = true) :
    memWfFrom lo (m.filter p) = true := by
  induction m generalizing lo with
  | nil => rfl
  | cons e r ih =>
    simp only [memWfFrom, Bool.and_eq_true, decide_eq_true_eq] at h
    simp only [List.filter]
    split
    · simp only [memWfFrom, Bool.and_eq_true, decide_eq_true_eq]
      exact ⟨h.1, ih h.2⟩
    · exact memWfFrom_mono (ih h.2) (by omega)

theorem memFilter_wf {m : List Host.Cell} (p : Host.Cell → Bool) (h : Memory.wf m = true) : Memory.wf (m.filter p) = true :=
  memWfFrom_filter p h

@[simp] theorem memBytes_length (m : List Host.Cell) (a n : Nat) : (memBytes m a n).length = n := by
  induction n generalizing a with
  | zero => rfl
  | succ n ih => simp [memBytes, ih]

@[simp] theorem leBytes_length (n x : Nat) : (leBytes n x).length = n := by
  induction n generalizing x with
  | zero => rfl
  | succ n ih => simp [leBytes, ih]

/-- A number comes back from its little-endian bytes. -/
theorem leNat_leBytes (n x : Nat) : leNat (leBytes n x) = x % 256 ^ n := by
  induction n generalizing x with
  | zero => simp [leBytes, leNat, Nat.mod_one]
  | succ n ih =>
    simp only [leBytes, leNat, ih, BitVec.toNat_ofNat]
    rw [show (256 : Nat) ^ (n + 1) = 256 * 256 ^ n from by rw [Nat.pow_succ, Nat.mul_comm], Nat.mod_mul]

end Sys2Proof.Machine
end

