-- ==== Sys2Proof/Laws/State.lean ====
section
/-! SUPPORT. The named updates of the state: which field each writes, and that it leaves every other field alone. One lemma for
each field and each update, so that no proof unfolds a record update. -/

namespace Sys2Proof.Machine

/-! ## setGroup writes `groups` only -/

@[simp] theorem setGroup_tick (s : State) (g : Nat) (x : Group) : (setGroup s g x).tick = s.tick := rfl
@[simp] theorem setGroup_agenda (s : State) (g : Nat) (x : Group) : (setGroup s g x).agenda = s.agenda := rfl
@[simp] theorem setGroup_sched (s : State) (g : Nat) (x : Group) : (setGroup s g x).sched = s.sched := rfl
@[simp] theorem setGroup_slot0 (s : State) (g : Nat) (x : Group) : (setGroup s g x).slot0 = s.slot0 := rfl
@[simp] theorem setGroup_late (s : State) (g : Nat) (x : Group) : (setGroup s g x).late = s.late := rfl
@[simp] theorem setGroup_cur (s : State) (g : Nat) (x : Group) : (setGroup s g x).cur = s.cur := rfl
@[simp] theorem setGroup_gtc (s : State) (g : Nat) (x : Group) : (setGroup s g x).gtc = s.gtc := rfl
@[simp] theorem setGroup_cyc (s : State) (g : Nat) (x : Group) : (setGroup s g x).cyc = s.cyc := rfl
@[simp] theorem setGroup_mem (s : State) (g : Nat) (x : Group) : (setGroup s g x).mem = s.mem := rfl
@[simp] theorem setGroup_poison (s : State) (g : Nat) (x : Group) : (setGroup s g x).poison = s.poison := rfl
@[simp] theorem setGroup_fills (s : State) (g : Nat) (x : Group) : (setGroup s g x).fills = s.fills := rfl
@[simp] theorem setGroup_losses (s : State) (g : Nat) (x : Group) : (setGroup s g x).losses = s.losses := rfl
@[simp] theorem setGroup_stale (s : State) (g : Nat) (x : Group) : (setGroup s g x).stale = s.stale := rfl
@[simp] theorem setGroup_homes (s : State) (g : Nat) (x : Group) : (setGroup s g x).homes = s.homes := rfl
@[simp] theorem setGroup_copies (s : State) (g : Nat) (x : Group) : (setGroup s g x).copies = s.copies := rfl
@[simp] theorem setGroup_dark (s : State) (g : Nat) (x : Group) : (setGroup s g x).dark = s.dark := rfl
@[simp] theorem setGroup_wbs (s : State) (g : Nat) (x : Group) : (setGroup s g x).wbs = s.wbs := rfl
@[simp] theorem setGroup_stores (s : State) (g : Nat) (x : Group) : (setGroup s g x).stores = s.stores := rfl
@[simp] theorem setGroup_loads (s : State) (g : Nat) (x : Group) : (setGroup s g x).loads = s.loads := rfl
@[simp] theorem setGroup_elems (s : State) (g : Nat) (x : Group) : (setGroup s g x).elems = s.elems := rfl
@[simp] theorem setGroup_tlb (s : State) (g : Nat) (x : Group) : (setGroup s g x).tlb = s.tlb := rfl
@[simp] theorem setGroup_blocks (s : State) (g : Nat) (x : Group) : (setGroup s g x).blocks = s.blocks := rfl
@[simp] theorem setGroup_grids (s : State) (g : Nat) (x : Group) : (setGroup s g x).grids = s.grids := rfl
@[simp] theorem setGroup_csaved (s : State) (g : Nat) (x : Group) : (setGroup s g x).csaved = s.csaved := rfl
@[simp] theorem setGroup_owed (s : State) (g : Nat) (x : Group) : (setGroup s g x).owed = s.owed := rfl
@[simp] theorem setGroup_cores (s : State) (g : Nat) (x : Group) : (setGroup s g x).cores = s.cores := rfl
@[simp] theorem setGroup_dies (s : State) (g : Nat) (x : Group) : (setGroup s g x).dies = s.dies := rfl
@[simp] theorem setGroup_parts (s : State) (g : Nat) (x : Group) : (setGroup s g x).parts = s.parts := rfl
@[simp] theorem setGroup_nextId (s : State) (g : Nat) (x : Group) : (setGroup s g x).nextId = s.nextId := rfl
@[simp] theorem setGroup_gridSeq (s : State) (g : Nat) (x : Group) : (setGroup s g x).gridSeq = s.gridSeq := rfl
@[simp] theorem setGroup_msix (s : State) (g : Nat) (x : Group) : (setGroup s g x).msix = s.msix := rfl
@[simp] theorem setGroup_aer (s : State) (g : Nat) (x : Group) : (setGroup s g x).aer = s.aer := rfl
@[simp] theorem setGroup_sent (s : State) (g : Nat) (x : Group) : (setGroup s g x).sent = s.sent := rfl
@[simp] theorem setGroup_applied (s : State) (g : Nat) (x : Group) : (setGroup s g x).applied = s.applied := rfl
@[simp] theorem setGroup_sources (s : State) (g : Nat) (x : Group) : (setGroup s g x).sources = s.sources := rfl
@[simp] theorem setGroup_seqs (s : State) (g : Nat) (x : Group) : (setGroup s g x).seqs = s.seqs := rfl
@[simp] theorem setGroup_unreach (s : State) (g : Nat) (x : Group) : (setGroup s g x).unreach = s.unreach := rfl
@[simp] theorem setGroup_replies (s : State) (g : Nat) (x : Group) : (setGroup s g x).replies = s.replies := rfl
@[simp] theorem setGroup_carried (s : State) (g : Nat) (x : Group) : (setGroup s g x).carried = s.carried := rfl
@[simp] theorem setGroup_notices (s : State) (g : Nat) (x : Group) : (setGroup s g x).notices = s.notices := rfl
@[simp] theorem setGroup_links (s : State) (g : Nat) (x : Group) : (setGroup s g x).links = s.links := rfl
@[simp] theorem setGroup_hub (s : State) (g : Nat) (x : Group) : (setGroup s g x).hub = s.hub := rfl

/-! ## modGroup writes `groups` only -/

@[simp] theorem modGroup_tick (s : State) (g : Nat) (f : Group → Group) : (modGroup s g f).tick = s.tick := rfl
@[simp] theorem modGroup_agenda (s : State) (g : Nat) (f : Group → Group) : (modGroup s g f).agenda = s.agenda := rfl
@[simp] theorem modGroup_sched (s : State) (g : Nat) (f : Group → Group) : (modGroup s g f).sched = s.sched := rfl
@[simp] theorem modGroup_slot0 (s : State) (g : Nat) (f : Group → Group) : (modGroup s g f).slot0 = s.slot0 := rfl
@[simp] theorem modGroup_late (s : State) (g : Nat) (f : Group → Group) : (modGroup s g f).late = s.late := rfl
@[simp] theorem modGroup_cur (s : State) (g : Nat) (f : Group → Group) : (modGroup s g f).cur = s.cur := rfl
@[simp] theorem modGroup_gtc (s : State) (g : Nat) (f : Group → Group) : (modGroup s g f).gtc = s.gtc := rfl
@[simp] theorem modGroup_cyc (s : State) (g : Nat) (f : Group → Group) : (modGroup s g f).cyc = s.cyc := rfl
@[simp] theorem modGroup_mem (s : State) (g : Nat) (f : Group → Group) : (modGroup s g f).mem = s.mem := rfl
@[simp] theorem modGroup_poison (s : State) (g : Nat) (f : Group → Group) : (modGroup s g f).poison = s.poison := rfl
@[simp] theorem modGroup_fills (s : State) (g : Nat) (f : Group → Group) : (modGroup s g f).fills = s.fills := rfl
@[simp] theorem modGroup_losses (s : State) (g : Nat) (f : Group → Group) : (modGroup s g f).losses = s.losses := rfl
@[simp] theorem modGroup_stale (s : State) (g : Nat) (f : Group → Group) : (modGroup s g f).stale = s.stale := rfl
@[simp] theorem modGroup_homes (s : State) (g : Nat) (f : Group → Group) : (modGroup s g f).homes = s.homes := rfl
@[simp] theorem modGroup_copies (s : State) (g : Nat) (f : Group → Group) : (modGroup s g f).copies = s.copies := rfl
@[simp] theorem modGroup_dark (s : State) (g : Nat) (f : Group → Group) : (modGroup s g f).dark = s.dark := rfl
@[simp] theorem modGroup_wbs (s : State) (g : Nat) (f : Group → Group) : (modGroup s g f).wbs = s.wbs := rfl
@[simp] theorem modGroup_stores (s : State) (g : Nat) (f : Group → Group) : (modGroup s g f).stores = s.stores := rfl
@[simp] theorem modGroup_loads (s : State) (g : Nat) (f : Group → Group) : (modGroup s g f).loads = s.loads := rfl
@[simp] theorem modGroup_elems (s : State) (g : Nat) (f : Group → Group) : (modGroup s g f).elems = s.elems := rfl
@[simp] theorem modGroup_tlb (s : State) (g : Nat) (f : Group → Group) : (modGroup s g f).tlb = s.tlb := rfl
@[simp] theorem modGroup_blocks (s : State) (g : Nat) (f : Group → Group) : (modGroup s g f).blocks = s.blocks := rfl
@[simp] theorem modGroup_grids (s : State) (g : Nat) (f : Group → Group) : (modGroup s g f).grids = s.grids := rfl
@[simp] theorem modGroup_csaved (s : State) (g : Nat) (f : Group → Group) : (modGroup s g f).csaved = s.csaved := rfl
@[simp] theorem modGroup_owed (s : State) (g : Nat) (f : Group → Group) : (modGroup s g f).owed = s.owed := rfl
@[simp] theorem modGroup_cores (s : State) (g : Nat) (f : Group → Group) : (modGroup s g f).cores = s.cores := rfl
@[simp] theorem modGroup_dies (s : State) (g : Nat) (f : Group → Group) : (modGroup s g f).dies = s.dies := rfl
@[simp] theorem modGroup_parts (s : State) (g : Nat) (f : Group → Group) : (modGroup s g f).parts = s.parts := rfl
@[simp] theorem modGroup_nextId (s : State) (g : Nat) (f : Group → Group) : (modGroup s g f).nextId = s.nextId := rfl
@[simp] theorem modGroup_gridSeq (s : State) (g : Nat) (f : Group → Group) : (modGroup s g f).gridSeq = s.gridSeq := rfl
@[simp] theorem modGroup_msix (s : State) (g : Nat) (f : Group → Group) : (modGroup s g f).msix = s.msix := rfl
@[simp] theorem modGroup_aer (s : State) (g : Nat) (f : Group → Group) : (modGroup s g f).aer = s.aer := rfl
@[simp] theorem modGroup_sent (s : State) (g : Nat) (f : Group → Group) : (modGroup s g f).sent = s.sent := rfl
@[simp] theorem modGroup_applied (s : State) (g : Nat) (f : Group → Group) : (modGroup s g f).applied = s.applied := rfl
@[simp] theorem modGroup_sources (s : State) (g : Nat) (f : Group → Group) : (modGroup s g f).sources = s.sources := rfl
@[simp] theorem modGroup_seqs (s : State) (g : Nat) (f : Group → Group) : (modGroup s g f).seqs = s.seqs := rfl
@[simp] theorem modGroup_unreach (s : State) (g : Nat) (f : Group → Group) : (modGroup s g f).unreach = s.unreach := rfl
@[simp] theorem modGroup_replies (s : State) (g : Nat) (f : Group → Group) : (modGroup s g f).replies = s.replies := rfl
@[simp] theorem modGroup_carried (s : State) (g : Nat) (f : Group → Group) : (modGroup s g f).carried = s.carried := rfl
@[simp] theorem modGroup_notices (s : State) (g : Nat) (f : Group → Group) : (modGroup s g f).notices = s.notices := rfl
@[simp] theorem modGroup_links (s : State) (g : Nat) (f : Group → Group) : (modGroup s g f).links = s.links := rfl
@[simp] theorem modGroup_hub (s : State) (g : Nat) (f : Group → Group) : (modGroup s g f).hub = s.hub := rfl

/-! ## setCur writes `groups` only -/

@[simp] theorem setCur_tick (s : State) (x : Group) : (setCur s x).tick = s.tick := rfl
@[simp] theorem setCur_agenda (s : State) (x : Group) : (setCur s x).agenda = s.agenda := rfl
@[simp] theorem setCur_sched (s : State) (x : Group) : (setCur s x).sched = s.sched := rfl
@[simp] theorem setCur_slot0 (s : State) (x : Group) : (setCur s x).slot0 = s.slot0 := rfl
@[simp] theorem setCur_late (s : State) (x : Group) : (setCur s x).late = s.late := rfl
@[simp] theorem setCur_cur (s : State) (x : Group) : (setCur s x).cur = s.cur := rfl
@[simp] theorem setCur_gtc (s : State) (x : Group) : (setCur s x).gtc = s.gtc := rfl
@[simp] theorem setCur_cyc (s : State) (x : Group) : (setCur s x).cyc = s.cyc := rfl
@[simp] theorem setCur_mem (s : State) (x : Group) : (setCur s x).mem = s.mem := rfl
@[simp] theorem setCur_poison (s : State) (x : Group) : (setCur s x).poison = s.poison := rfl
@[simp] theorem setCur_fills (s : State) (x : Group) : (setCur s x).fills = s.fills := rfl
@[simp] theorem setCur_losses (s : State) (x : Group) : (setCur s x).losses = s.losses := rfl
@[simp] theorem setCur_stale (s : State) (x : Group) : (setCur s x).stale = s.stale := rfl
@[simp] theorem setCur_homes (s : State) (x : Group) : (setCur s x).homes = s.homes := rfl
@[simp] theorem setCur_copies (s : State) (x : Group) : (setCur s x).copies = s.copies := rfl
@[simp] theorem setCur_dark (s : State) (x : Group) : (setCur s x).dark = s.dark := rfl
@[simp] theorem setCur_wbs (s : State) (x : Group) : (setCur s x).wbs = s.wbs := rfl
@[simp] theorem setCur_stores (s : State) (x : Group) : (setCur s x).stores = s.stores := rfl
@[simp] theorem setCur_loads (s : State) (x : Group) : (setCur s x).loads = s.loads := rfl
@[simp] theorem setCur_elems (s : State) (x : Group) : (setCur s x).elems = s.elems := rfl
@[simp] theorem setCur_tlb (s : State) (x : Group) : (setCur s x).tlb = s.tlb := rfl
@[simp] theorem setCur_blocks (s : State) (x : Group) : (setCur s x).blocks = s.blocks := rfl
@[simp] theorem setCur_grids (s : State) (x : Group) : (setCur s x).grids = s.grids := rfl
@[simp] theorem setCur_csaved (s : State) (x : Group) : (setCur s x).csaved = s.csaved := rfl
@[simp] theorem setCur_owed (s : State) (x : Group) : (setCur s x).owed = s.owed := rfl
@[simp] theorem setCur_cores (s : State) (x : Group) : (setCur s x).cores = s.cores := rfl
@[simp] theorem setCur_dies (s : State) (x : Group) : (setCur s x).dies = s.dies := rfl
@[simp] theorem setCur_parts (s : State) (x : Group) : (setCur s x).parts = s.parts := rfl
@[simp] theorem setCur_nextId (s : State) (x : Group) : (setCur s x).nextId = s.nextId := rfl
@[simp] theorem setCur_gridSeq (s : State) (x : Group) : (setCur s x).gridSeq = s.gridSeq := rfl
@[simp] theorem setCur_msix (s : State) (x : Group) : (setCur s x).msix = s.msix := rfl
@[simp] theorem setCur_aer (s : State) (x : Group) : (setCur s x).aer = s.aer := rfl
@[simp] theorem setCur_sent (s : State) (x : Group) : (setCur s x).sent = s.sent := rfl
@[simp] theorem setCur_applied (s : State) (x : Group) : (setCur s x).applied = s.applied := rfl
@[simp] theorem setCur_sources (s : State) (x : Group) : (setCur s x).sources = s.sources := rfl
@[simp] theorem setCur_seqs (s : State) (x : Group) : (setCur s x).seqs = s.seqs := rfl
@[simp] theorem setCur_unreach (s : State) (x : Group) : (setCur s x).unreach = s.unreach := rfl
@[simp] theorem setCur_replies (s : State) (x : Group) : (setCur s x).replies = s.replies := rfl
@[simp] theorem setCur_carried (s : State) (x : Group) : (setCur s x).carried = s.carried := rfl
@[simp] theorem setCur_notices (s : State) (x : Group) : (setCur s x).notices = s.notices := rfl
@[simp] theorem setCur_links (s : State) (x : Group) : (setCur s x).links = s.links := rfl
@[simp] theorem setCur_hub (s : State) (x : Group) : (setCur s x).hub = s.hub := rfl

/-! ## setBlock writes `blocks` only -/

@[simp] theorem setBlock_tick (s : State) (b : Nat) (x : Block) : (setBlock s b x).tick = s.tick := rfl
@[simp] theorem setBlock_agenda (s : State) (b : Nat) (x : Block) : (setBlock s b x).agenda = s.agenda := rfl
@[simp] theorem setBlock_sched (s : State) (b : Nat) (x : Block) : (setBlock s b x).sched = s.sched := rfl
@[simp] theorem setBlock_slot0 (s : State) (b : Nat) (x : Block) : (setBlock s b x).slot0 = s.slot0 := rfl
@[simp] theorem setBlock_late (s : State) (b : Nat) (x : Block) : (setBlock s b x).late = s.late := rfl
@[simp] theorem setBlock_cur (s : State) (b : Nat) (x : Block) : (setBlock s b x).cur = s.cur := rfl
@[simp] theorem setBlock_gtc (s : State) (b : Nat) (x : Block) : (setBlock s b x).gtc = s.gtc := rfl
@[simp] theorem setBlock_cyc (s : State) (b : Nat) (x : Block) : (setBlock s b x).cyc = s.cyc := rfl
@[simp] theorem setBlock_mem (s : State) (b : Nat) (x : Block) : (setBlock s b x).mem = s.mem := rfl
@[simp] theorem setBlock_poison (s : State) (b : Nat) (x : Block) : (setBlock s b x).poison = s.poison := rfl
@[simp] theorem setBlock_fills (s : State) (b : Nat) (x : Block) : (setBlock s b x).fills = s.fills := rfl
@[simp] theorem setBlock_losses (s : State) (b : Nat) (x : Block) : (setBlock s b x).losses = s.losses := rfl
@[simp] theorem setBlock_stale (s : State) (b : Nat) (x : Block) : (setBlock s b x).stale = s.stale := rfl
@[simp] theorem setBlock_homes (s : State) (b : Nat) (x : Block) : (setBlock s b x).homes = s.homes := rfl
@[simp] theorem setBlock_copies (s : State) (b : Nat) (x : Block) : (setBlock s b x).copies = s.copies := rfl
@[simp] theorem setBlock_dark (s : State) (b : Nat) (x : Block) : (setBlock s b x).dark = s.dark := rfl
@[simp] theorem setBlock_wbs (s : State) (b : Nat) (x : Block) : (setBlock s b x).wbs = s.wbs := rfl
@[simp] theorem setBlock_stores (s : State) (b : Nat) (x : Block) : (setBlock s b x).stores = s.stores := rfl
@[simp] theorem setBlock_loads (s : State) (b : Nat) (x : Block) : (setBlock s b x).loads = s.loads := rfl
@[simp] theorem setBlock_elems (s : State) (b : Nat) (x : Block) : (setBlock s b x).elems = s.elems := rfl
@[simp] theorem setBlock_tlb (s : State) (b : Nat) (x : Block) : (setBlock s b x).tlb = s.tlb := rfl
@[simp] theorem setBlock_groups (s : State) (b : Nat) (x : Block) : (setBlock s b x).groups = s.groups := rfl
@[simp] theorem setBlock_grids (s : State) (b : Nat) (x : Block) : (setBlock s b x).grids = s.grids := rfl
@[simp] theorem setBlock_csaved (s : State) (b : Nat) (x : Block) : (setBlock s b x).csaved = s.csaved := rfl
@[simp] theorem setBlock_owed (s : State) (b : Nat) (x : Block) : (setBlock s b x).owed = s.owed := rfl
@[simp] theorem setBlock_cores (s : State) (b : Nat) (x : Block) : (setBlock s b x).cores = s.cores := rfl
@[simp] theorem setBlock_dies (s : State) (b : Nat) (x : Block) : (setBlock s b x).dies = s.dies := rfl
@[simp] theorem setBlock_parts (s : State) (b : Nat) (x : Block) : (setBlock s b x).parts = s.parts := rfl
@[simp] theorem setBlock_nextId (s : State) (b : Nat) (x : Block) : (setBlock s b x).nextId = s.nextId := rfl
@[simp] theorem setBlock_gridSeq (s : State) (b : Nat) (x : Block) : (setBlock s b x).gridSeq = s.gridSeq := rfl
@[simp] theorem setBlock_msix (s : State) (b : Nat) (x : Block) : (setBlock s b x).msix = s.msix := rfl
@[simp] theorem setBlock_aer (s : State) (b : Nat) (x : Block) : (setBlock s b x).aer = s.aer := rfl
@[simp] theorem setBlock_sent (s : State) (b : Nat) (x : Block) : (setBlock s b x).sent = s.sent := rfl
@[simp] theorem setBlock_applied (s : State) (b : Nat) (x : Block) : (setBlock s b x).applied = s.applied := rfl
@[simp] theorem setBlock_sources (s : State) (b : Nat) (x : Block) : (setBlock s b x).sources = s.sources := rfl
@[simp] theorem setBlock_seqs (s : State) (b : Nat) (x : Block) : (setBlock s b x).seqs = s.seqs := rfl
@[simp] theorem setBlock_unreach (s : State) (b : Nat) (x : Block) : (setBlock s b x).unreach = s.unreach := rfl
@[simp] theorem setBlock_replies (s : State) (b : Nat) (x : Block) : (setBlock s b x).replies = s.replies := rfl
@[simp] theorem setBlock_carried (s : State) (b : Nat) (x : Block) : (setBlock s b x).carried = s.carried := rfl
@[simp] theorem setBlock_notices (s : State) (b : Nat) (x : Block) : (setBlock s b x).notices = s.notices := rfl
@[simp] theorem setBlock_links (s : State) (b : Nat) (x : Block) : (setBlock s b x).links = s.links := rfl
@[simp] theorem setBlock_hub (s : State) (b : Nat) (x : Block) : (setBlock s b x).hub = s.hub := rfl

/-! ## modBlock writes `blocks` only -/

@[simp] theorem modBlock_tick (s : State) (b : Nat) (f : Block → Block) : (modBlock s b f).tick = s.tick := rfl
@[simp] theorem modBlock_agenda (s : State) (b : Nat) (f : Block → Block) : (modBlock s b f).agenda = s.agenda := rfl
@[simp] theorem modBlock_sched (s : State) (b : Nat) (f : Block → Block) : (modBlock s b f).sched = s.sched := rfl
@[simp] theorem modBlock_slot0 (s : State) (b : Nat) (f : Block → Block) : (modBlock s b f).slot0 = s.slot0 := rfl
@[simp] theorem modBlock_late (s : State) (b : Nat) (f : Block → Block) : (modBlock s b f).late = s.late := rfl
@[simp] theorem modBlock_cur (s : State) (b : Nat) (f : Block → Block) : (modBlock s b f).cur = s.cur := rfl
@[simp] theorem modBlock_gtc (s : State) (b : Nat) (f : Block → Block) : (modBlock s b f).gtc = s.gtc := rfl
@[simp] theorem modBlock_cyc (s : State) (b : Nat) (f : Block → Block) : (modBlock s b f).cyc = s.cyc := rfl
@[simp] theorem modBlock_mem (s : State) (b : Nat) (f : Block → Block) : (modBlock s b f).mem = s.mem := rfl
@[simp] theorem modBlock_poison (s : State) (b : Nat) (f : Block → Block) : (modBlock s b f).poison = s.poison := rfl
@[simp] theorem modBlock_fills (s : State) (b : Nat) (f : Block → Block) : (modBlock s b f).fills = s.fills := rfl
@[simp] theorem modBlock_losses (s : State) (b : Nat) (f : Block → Block) : (modBlock s b f).losses = s.losses := rfl
@[simp] theorem modBlock_stale (s : State) (b : Nat) (f : Block → Block) : (modBlock s b f).stale = s.stale := rfl
@[simp] theorem modBlock_homes (s : State) (b : Nat) (f : Block → Block) : (modBlock s b f).homes = s.homes := rfl
@[simp] theorem modBlock_copies (s : State) (b : Nat) (f : Block → Block) : (modBlock s b f).copies = s.copies := rfl
@[simp] theorem modBlock_dark (s : State) (b : Nat) (f : Block → Block) : (modBlock s b f).dark = s.dark := rfl
@[simp] theorem modBlock_wbs (s : State) (b : Nat) (f : Block → Block) : (modBlock s b f).wbs = s.wbs := rfl
@[simp] theorem modBlock_stores (s : State) (b : Nat) (f : Block → Block) : (modBlock s b f).stores = s.stores := rfl
@[simp] theorem modBlock_loads (s : State) (b : Nat) (f : Block → Block) : (modBlock s b f).loads = s.loads := rfl
@[simp] theorem modBlock_elems (s : State) (b : Nat) (f : Block → Block) : (modBlock s b f).elems = s.elems := rfl
@[simp] theorem modBlock_tlb (s : State) (b : Nat) (f : Block → Block) : (modBlock s b f).tlb = s.tlb := rfl
@[simp] theorem modBlock_groups (s : State) (b : Nat) (f : Block → Block) : (modBlock s b f).groups = s.groups := rfl
@[simp] theorem modBlock_grids (s : State) (b : Nat) (f : Block → Block) : (modBlock s b f).grids = s.grids := rfl
@[simp] theorem modBlock_csaved (s : State) (b : Nat) (f : Block → Block) : (modBlock s b f).csaved = s.csaved := rfl
@[simp] theorem modBlock_owed (s : State) (b : Nat) (f : Block → Block) : (modBlock s b f).owed = s.owed := rfl
@[simp] theorem modBlock_cores (s : State) (b : Nat) (f : Block → Block) : (modBlock s b f).cores = s.cores := rfl
@[simp] theorem modBlock_dies (s : State) (b : Nat) (f : Block → Block) : (modBlock s b f).dies = s.dies := rfl
@[simp] theorem modBlock_parts (s : State) (b : Nat) (f : Block → Block) : (modBlock s b f).parts = s.parts := rfl
@[simp] theorem modBlock_nextId (s : State) (b : Nat) (f : Block → Block) : (modBlock s b f).nextId = s.nextId := rfl
@[simp] theorem modBlock_gridSeq (s : State) (b : Nat) (f : Block → Block) : (modBlock s b f).gridSeq = s.gridSeq := rfl
@[simp] theorem modBlock_msix (s : State) (b : Nat) (f : Block → Block) : (modBlock s b f).msix = s.msix := rfl
@[simp] theorem modBlock_aer (s : State) (b : Nat) (f : Block → Block) : (modBlock s b f).aer = s.aer := rfl
@[simp] theorem modBlock_sent (s : State) (b : Nat) (f : Block → Block) : (modBlock s b f).sent = s.sent := rfl
@[simp] theorem modBlock_applied (s : State) (b : Nat) (f : Block → Block) : (modBlock s b f).applied = s.applied := rfl
@[simp] theorem modBlock_sources (s : State) (b : Nat) (f : Block → Block) : (modBlock s b f).sources = s.sources := rfl
@[simp] theorem modBlock_seqs (s : State) (b : Nat) (f : Block → Block) : (modBlock s b f).seqs = s.seqs := rfl
@[simp] theorem modBlock_unreach (s : State) (b : Nat) (f : Block → Block) : (modBlock s b f).unreach = s.unreach := rfl
@[simp] theorem modBlock_replies (s : State) (b : Nat) (f : Block → Block) : (modBlock s b f).replies = s.replies := rfl
@[simp] theorem modBlock_carried (s : State) (b : Nat) (f : Block → Block) : (modBlock s b f).carried = s.carried := rfl
@[simp] theorem modBlock_notices (s : State) (b : Nat) (f : Block → Block) : (modBlock s b f).notices = s.notices := rfl
@[simp] theorem modBlock_links (s : State) (b : Nat) (f : Block → Block) : (modBlock s b f).links = s.links := rfl
@[simp] theorem modBlock_hub (s : State) (b : Nat) (f : Block → Block) : (modBlock s b f).hub = s.hub := rfl

/-! ## setGrid writes `grids` only -/

@[simp] theorem setGrid_tick (s : State) (i : Nat) (x : Grid) : (setGrid s i x).tick = s.tick := rfl
@[simp] theorem setGrid_agenda (s : State) (i : Nat) (x : Grid) : (setGrid s i x).agenda = s.agenda := rfl
@[simp] theorem setGrid_sched (s : State) (i : Nat) (x : Grid) : (setGrid s i x).sched = s.sched := rfl
@[simp] theorem setGrid_slot0 (s : State) (i : Nat) (x : Grid) : (setGrid s i x).slot0 = s.slot0 := rfl
@[simp] theorem setGrid_late (s : State) (i : Nat) (x : Grid) : (setGrid s i x).late = s.late := rfl
@[simp] theorem setGrid_cur (s : State) (i : Nat) (x : Grid) : (setGrid s i x).cur = s.cur := rfl
@[simp] theorem setGrid_gtc (s : State) (i : Nat) (x : Grid) : (setGrid s i x).gtc = s.gtc := rfl
@[simp] theorem setGrid_cyc (s : State) (i : Nat) (x : Grid) : (setGrid s i x).cyc = s.cyc := rfl
@[simp] theorem setGrid_mem (s : State) (i : Nat) (x : Grid) : (setGrid s i x).mem = s.mem := rfl
@[simp] theorem setGrid_poison (s : State) (i : Nat) (x : Grid) : (setGrid s i x).poison = s.poison := rfl
@[simp] theorem setGrid_fills (s : State) (i : Nat) (x : Grid) : (setGrid s i x).fills = s.fills := rfl
@[simp] theorem setGrid_losses (s : State) (i : Nat) (x : Grid) : (setGrid s i x).losses = s.losses := rfl
@[simp] theorem setGrid_stale (s : State) (i : Nat) (x : Grid) : (setGrid s i x).stale = s.stale := rfl
@[simp] theorem setGrid_homes (s : State) (i : Nat) (x : Grid) : (setGrid s i x).homes = s.homes := rfl
@[simp] theorem setGrid_copies (s : State) (i : Nat) (x : Grid) : (setGrid s i x).copies = s.copies := rfl
@[simp] theorem setGrid_dark (s : State) (i : Nat) (x : Grid) : (setGrid s i x).dark = s.dark := rfl
@[simp] theorem setGrid_wbs (s : State) (i : Nat) (x : Grid) : (setGrid s i x).wbs = s.wbs := rfl
@[simp] theorem setGrid_stores (s : State) (i : Nat) (x : Grid) : (setGrid s i x).stores = s.stores := rfl
@[simp] theorem setGrid_loads (s : State) (i : Nat) (x : Grid) : (setGrid s i x).loads = s.loads := rfl
@[simp] theorem setGrid_elems (s : State) (i : Nat) (x : Grid) : (setGrid s i x).elems = s.elems := rfl
@[simp] theorem setGrid_tlb (s : State) (i : Nat) (x : Grid) : (setGrid s i x).tlb = s.tlb := rfl
@[simp] theorem setGrid_groups (s : State) (i : Nat) (x : Grid) : (setGrid s i x).groups = s.groups := rfl
@[simp] theorem setGrid_blocks (s : State) (i : Nat) (x : Grid) : (setGrid s i x).blocks = s.blocks := rfl
@[simp] theorem setGrid_csaved (s : State) (i : Nat) (x : Grid) : (setGrid s i x).csaved = s.csaved := rfl
@[simp] theorem setGrid_owed (s : State) (i : Nat) (x : Grid) : (setGrid s i x).owed = s.owed := rfl
@[simp] theorem setGrid_cores (s : State) (i : Nat) (x : Grid) : (setGrid s i x).cores = s.cores := rfl
@[simp] theorem setGrid_dies (s : State) (i : Nat) (x : Grid) : (setGrid s i x).dies = s.dies := rfl
@[simp] theorem setGrid_parts (s : State) (i : Nat) (x : Grid) : (setGrid s i x).parts = s.parts := rfl
@[simp] theorem setGrid_nextId (s : State) (i : Nat) (x : Grid) : (setGrid s i x).nextId = s.nextId := rfl
@[simp] theorem setGrid_gridSeq (s : State) (i : Nat) (x : Grid) : (setGrid s i x).gridSeq = s.gridSeq := rfl
@[simp] theorem setGrid_msix (s : State) (i : Nat) (x : Grid) : (setGrid s i x).msix = s.msix := rfl
@[simp] theorem setGrid_aer (s : State) (i : Nat) (x : Grid) : (setGrid s i x).aer = s.aer := rfl
@[simp] theorem setGrid_sent (s : State) (i : Nat) (x : Grid) : (setGrid s i x).sent = s.sent := rfl
@[simp] theorem setGrid_applied (s : State) (i : Nat) (x : Grid) : (setGrid s i x).applied = s.applied := rfl
@[simp] theorem setGrid_sources (s : State) (i : Nat) (x : Grid) : (setGrid s i x).sources = s.sources := rfl
@[simp] theorem setGrid_seqs (s : State) (i : Nat) (x : Grid) : (setGrid s i x).seqs = s.seqs := rfl
@[simp] theorem setGrid_unreach (s : State) (i : Nat) (x : Grid) : (setGrid s i x).unreach = s.unreach := rfl
@[simp] theorem setGrid_replies (s : State) (i : Nat) (x : Grid) : (setGrid s i x).replies = s.replies := rfl
@[simp] theorem setGrid_carried (s : State) (i : Nat) (x : Grid) : (setGrid s i x).carried = s.carried := rfl
@[simp] theorem setGrid_notices (s : State) (i : Nat) (x : Grid) : (setGrid s i x).notices = s.notices := rfl
@[simp] theorem setGrid_links (s : State) (i : Nat) (x : Grid) : (setGrid s i x).links = s.links := rfl
@[simp] theorem setGrid_hub (s : State) (i : Nat) (x : Grid) : (setGrid s i x).hub = s.hub := rfl

/-! ## modGrid writes `grids` only -/

@[simp] theorem modGrid_tick (s : State) (i : Nat) (f : Grid → Grid) : (modGrid s i f).tick = s.tick := rfl
@[simp] theorem modGrid_agenda (s : State) (i : Nat) (f : Grid → Grid) : (modGrid s i f).agenda = s.agenda := rfl
@[simp] theorem modGrid_sched (s : State) (i : Nat) (f : Grid → Grid) : (modGrid s i f).sched = s.sched := rfl
@[simp] theorem modGrid_slot0 (s : State) (i : Nat) (f : Grid → Grid) : (modGrid s i f).slot0 = s.slot0 := rfl
@[simp] theorem modGrid_late (s : State) (i : Nat) (f : Grid → Grid) : (modGrid s i f).late = s.late := rfl
@[simp] theorem modGrid_cur (s : State) (i : Nat) (f : Grid → Grid) : (modGrid s i f).cur = s.cur := rfl
@[simp] theorem modGrid_gtc (s : State) (i : Nat) (f : Grid → Grid) : (modGrid s i f).gtc = s.gtc := rfl
@[simp] theorem modGrid_cyc (s : State) (i : Nat) (f : Grid → Grid) : (modGrid s i f).cyc = s.cyc := rfl
@[simp] theorem modGrid_mem (s : State) (i : Nat) (f : Grid → Grid) : (modGrid s i f).mem = s.mem := rfl
@[simp] theorem modGrid_poison (s : State) (i : Nat) (f : Grid → Grid) : (modGrid s i f).poison = s.poison := rfl
@[simp] theorem modGrid_fills (s : State) (i : Nat) (f : Grid → Grid) : (modGrid s i f).fills = s.fills := rfl
@[simp] theorem modGrid_losses (s : State) (i : Nat) (f : Grid → Grid) : (modGrid s i f).losses = s.losses := rfl
@[simp] theorem modGrid_stale (s : State) (i : Nat) (f : Grid → Grid) : (modGrid s i f).stale = s.stale := rfl
@[simp] theorem modGrid_homes (s : State) (i : Nat) (f : Grid → Grid) : (modGrid s i f).homes = s.homes := rfl
@[simp] theorem modGrid_copies (s : State) (i : Nat) (f : Grid → Grid) : (modGrid s i f).copies = s.copies := rfl
@[simp] theorem modGrid_dark (s : State) (i : Nat) (f : Grid → Grid) : (modGrid s i f).dark = s.dark := rfl
@[simp] theorem modGrid_wbs (s : State) (i : Nat) (f : Grid → Grid) : (modGrid s i f).wbs = s.wbs := rfl
@[simp] theorem modGrid_stores (s : State) (i : Nat) (f : Grid → Grid) : (modGrid s i f).stores = s.stores := rfl
@[simp] theorem modGrid_loads (s : State) (i : Nat) (f : Grid → Grid) : (modGrid s i f).loads = s.loads := rfl
@[simp] theorem modGrid_elems (s : State) (i : Nat) (f : Grid → Grid) : (modGrid s i f).elems = s.elems := rfl
@[simp] theorem modGrid_tlb (s : State) (i : Nat) (f : Grid → Grid) : (modGrid s i f).tlb = s.tlb := rfl
@[simp] theorem modGrid_groups (s : State) (i : Nat) (f : Grid → Grid) : (modGrid s i f).groups = s.groups := rfl
@[simp] theorem modGrid_blocks (s : State) (i : Nat) (f : Grid → Grid) : (modGrid s i f).blocks = s.blocks := rfl
@[simp] theorem modGrid_csaved (s : State) (i : Nat) (f : Grid → Grid) : (modGrid s i f).csaved = s.csaved := rfl
@[simp] theorem modGrid_owed (s : State) (i : Nat) (f : Grid → Grid) : (modGrid s i f).owed = s.owed := rfl
@[simp] theorem modGrid_cores (s : State) (i : Nat) (f : Grid → Grid) : (modGrid s i f).cores = s.cores := rfl
@[simp] theorem modGrid_dies (s : State) (i : Nat) (f : Grid → Grid) : (modGrid s i f).dies = s.dies := rfl
@[simp] theorem modGrid_parts (s : State) (i : Nat) (f : Grid → Grid) : (modGrid s i f).parts = s.parts := rfl
@[simp] theorem modGrid_nextId (s : State) (i : Nat) (f : Grid → Grid) : (modGrid s i f).nextId = s.nextId := rfl
@[simp] theorem modGrid_gridSeq (s : State) (i : Nat) (f : Grid → Grid) : (modGrid s i f).gridSeq = s.gridSeq := rfl
@[simp] theorem modGrid_msix (s : State) (i : Nat) (f : Grid → Grid) : (modGrid s i f).msix = s.msix := rfl
@[simp] theorem modGrid_aer (s : State) (i : Nat) (f : Grid → Grid) : (modGrid s i f).aer = s.aer := rfl
@[simp] theorem modGrid_sent (s : State) (i : Nat) (f : Grid → Grid) : (modGrid s i f).sent = s.sent := rfl
@[simp] theorem modGrid_applied (s : State) (i : Nat) (f : Grid → Grid) : (modGrid s i f).applied = s.applied := rfl
@[simp] theorem modGrid_sources (s : State) (i : Nat) (f : Grid → Grid) : (modGrid s i f).sources = s.sources := rfl
@[simp] theorem modGrid_seqs (s : State) (i : Nat) (f : Grid → Grid) : (modGrid s i f).seqs = s.seqs := rfl
@[simp] theorem modGrid_unreach (s : State) (i : Nat) (f : Grid → Grid) : (modGrid s i f).unreach = s.unreach := rfl
@[simp] theorem modGrid_replies (s : State) (i : Nat) (f : Grid → Grid) : (modGrid s i f).replies = s.replies := rfl
@[simp] theorem modGrid_carried (s : State) (i : Nat) (f : Grid → Grid) : (modGrid s i f).carried = s.carried := rfl
@[simp] theorem modGrid_notices (s : State) (i : Nat) (f : Grid → Grid) : (modGrid s i f).notices = s.notices := rfl
@[simp] theorem modGrid_links (s : State) (i : Nat) (f : Grid → Grid) : (modGrid s i f).links = s.links := rfl
@[simp] theorem modGrid_hub (s : State) (i : Nat) (f : Grid → Grid) : (modGrid s i f).hub = s.hub := rfl

/-! ## setCore writes `cores` only -/

@[simp] theorem setCore_tick (s : State) (c : Nat) (x : Core) : (setCore s c x).tick = s.tick := rfl
@[simp] theorem setCore_agenda (s : State) (c : Nat) (x : Core) : (setCore s c x).agenda = s.agenda := rfl
@[simp] theorem setCore_sched (s : State) (c : Nat) (x : Core) : (setCore s c x).sched = s.sched := rfl
@[simp] theorem setCore_slot0 (s : State) (c : Nat) (x : Core) : (setCore s c x).slot0 = s.slot0 := rfl
@[simp] theorem setCore_late (s : State) (c : Nat) (x : Core) : (setCore s c x).late = s.late := rfl
@[simp] theorem setCore_cur (s : State) (c : Nat) (x : Core) : (setCore s c x).cur = s.cur := rfl
@[simp] theorem setCore_gtc (s : State) (c : Nat) (x : Core) : (setCore s c x).gtc = s.gtc := rfl
@[simp] theorem setCore_cyc (s : State) (c : Nat) (x : Core) : (setCore s c x).cyc = s.cyc := rfl
@[simp] theorem setCore_mem (s : State) (c : Nat) (x : Core) : (setCore s c x).mem = s.mem := rfl
@[simp] theorem setCore_poison (s : State) (c : Nat) (x : Core) : (setCore s c x).poison = s.poison := rfl
@[simp] theorem setCore_fills (s : State) (c : Nat) (x : Core) : (setCore s c x).fills = s.fills := rfl
@[simp] theorem setCore_losses (s : State) (c : Nat) (x : Core) : (setCore s c x).losses = s.losses := rfl
@[simp] theorem setCore_stale (s : State) (c : Nat) (x : Core) : (setCore s c x).stale = s.stale := rfl
@[simp] theorem setCore_homes (s : State) (c : Nat) (x : Core) : (setCore s c x).homes = s.homes := rfl
@[simp] theorem setCore_copies (s : State) (c : Nat) (x : Core) : (setCore s c x).copies = s.copies := rfl
@[simp] theorem setCore_dark (s : State) (c : Nat) (x : Core) : (setCore s c x).dark = s.dark := rfl
@[simp] theorem setCore_wbs (s : State) (c : Nat) (x : Core) : (setCore s c x).wbs = s.wbs := rfl
@[simp] theorem setCore_stores (s : State) (c : Nat) (x : Core) : (setCore s c x).stores = s.stores := rfl
@[simp] theorem setCore_loads (s : State) (c : Nat) (x : Core) : (setCore s c x).loads = s.loads := rfl
@[simp] theorem setCore_elems (s : State) (c : Nat) (x : Core) : (setCore s c x).elems = s.elems := rfl
@[simp] theorem setCore_tlb (s : State) (c : Nat) (x : Core) : (setCore s c x).tlb = s.tlb := rfl
@[simp] theorem setCore_groups (s : State) (c : Nat) (x : Core) : (setCore s c x).groups = s.groups := rfl
@[simp] theorem setCore_blocks (s : State) (c : Nat) (x : Core) : (setCore s c x).blocks = s.blocks := rfl
@[simp] theorem setCore_grids (s : State) (c : Nat) (x : Core) : (setCore s c x).grids = s.grids := rfl
@[simp] theorem setCore_csaved (s : State) (c : Nat) (x : Core) : (setCore s c x).csaved = s.csaved := rfl
@[simp] theorem setCore_owed (s : State) (c : Nat) (x : Core) : (setCore s c x).owed = s.owed := rfl
@[simp] theorem setCore_dies (s : State) (c : Nat) (x : Core) : (setCore s c x).dies = s.dies := rfl
@[simp] theorem setCore_parts (s : State) (c : Nat) (x : Core) : (setCore s c x).parts = s.parts := rfl
@[simp] theorem setCore_nextId (s : State) (c : Nat) (x : Core) : (setCore s c x).nextId = s.nextId := rfl
@[simp] theorem setCore_gridSeq (s : State) (c : Nat) (x : Core) : (setCore s c x).gridSeq = s.gridSeq := rfl
@[simp] theorem setCore_msix (s : State) (c : Nat) (x : Core) : (setCore s c x).msix = s.msix := rfl
@[simp] theorem setCore_aer (s : State) (c : Nat) (x : Core) : (setCore s c x).aer = s.aer := rfl
@[simp] theorem setCore_sent (s : State) (c : Nat) (x : Core) : (setCore s c x).sent = s.sent := rfl
@[simp] theorem setCore_applied (s : State) (c : Nat) (x : Core) : (setCore s c x).applied = s.applied := rfl
@[simp] theorem setCore_sources (s : State) (c : Nat) (x : Core) : (setCore s c x).sources = s.sources := rfl
@[simp] theorem setCore_seqs (s : State) (c : Nat) (x : Core) : (setCore s c x).seqs = s.seqs := rfl
@[simp] theorem setCore_unreach (s : State) (c : Nat) (x : Core) : (setCore s c x).unreach = s.unreach := rfl
@[simp] theorem setCore_replies (s : State) (c : Nat) (x : Core) : (setCore s c x).replies = s.replies := rfl
@[simp] theorem setCore_carried (s : State) (c : Nat) (x : Core) : (setCore s c x).carried = s.carried := rfl
@[simp] theorem setCore_notices (s : State) (c : Nat) (x : Core) : (setCore s c x).notices = s.notices := rfl
@[simp] theorem setCore_links (s : State) (c : Nat) (x : Core) : (setCore s c x).links = s.links := rfl
@[simp] theorem setCore_hub (s : State) (c : Nat) (x : Core) : (setCore s c x).hub = s.hub := rfl

/-! ## modCore writes `cores` only -/

@[simp] theorem modCore_tick (s : State) (c : Nat) (f : Core → Core) : (modCore s c f).tick = s.tick := rfl
@[simp] theorem modCore_agenda (s : State) (c : Nat) (f : Core → Core) : (modCore s c f).agenda = s.agenda := rfl
@[simp] theorem modCore_sched (s : State) (c : Nat) (f : Core → Core) : (modCore s c f).sched = s.sched := rfl
@[simp] theorem modCore_slot0 (s : State) (c : Nat) (f : Core → Core) : (modCore s c f).slot0 = s.slot0 := rfl
@[simp] theorem modCore_late (s : State) (c : Nat) (f : Core → Core) : (modCore s c f).late = s.late := rfl
@[simp] theorem modCore_cur (s : State) (c : Nat) (f : Core → Core) : (modCore s c f).cur = s.cur := rfl
@[simp] theorem modCore_gtc (s : State) (c : Nat) (f : Core → Core) : (modCore s c f).gtc = s.gtc := rfl
@[simp] theorem modCore_cyc (s : State) (c : Nat) (f : Core → Core) : (modCore s c f).cyc = s.cyc := rfl
@[simp] theorem modCore_mem (s : State) (c : Nat) (f : Core → Core) : (modCore s c f).mem = s.mem := rfl
@[simp] theorem modCore_poison (s : State) (c : Nat) (f : Core → Core) : (modCore s c f).poison = s.poison := rfl
@[simp] theorem modCore_fills (s : State) (c : Nat) (f : Core → Core) : (modCore s c f).fills = s.fills := rfl
@[simp] theorem modCore_losses (s : State) (c : Nat) (f : Core → Core) : (modCore s c f).losses = s.losses := rfl
@[simp] theorem modCore_stale (s : State) (c : Nat) (f : Core → Core) : (modCore s c f).stale = s.stale := rfl
@[simp] theorem modCore_homes (s : State) (c : Nat) (f : Core → Core) : (modCore s c f).homes = s.homes := rfl
@[simp] theorem modCore_copies (s : State) (c : Nat) (f : Core → Core) : (modCore s c f).copies = s.copies := rfl
@[simp] theorem modCore_dark (s : State) (c : Nat) (f : Core → Core) : (modCore s c f).dark = s.dark := rfl
@[simp] theorem modCore_wbs (s : State) (c : Nat) (f : Core → Core) : (modCore s c f).wbs = s.wbs := rfl
@[simp] theorem modCore_stores (s : State) (c : Nat) (f : Core → Core) : (modCore s c f).stores = s.stores := rfl
@[simp] theorem modCore_loads (s : State) (c : Nat) (f : Core → Core) : (modCore s c f).loads = s.loads := rfl
@[simp] theorem modCore_elems (s : State) (c : Nat) (f : Core → Core) : (modCore s c f).elems = s.elems := rfl
@[simp] theorem modCore_tlb (s : State) (c : Nat) (f : Core → Core) : (modCore s c f).tlb = s.tlb := rfl
@[simp] theorem modCore_groups (s : State) (c : Nat) (f : Core → Core) : (modCore s c f).groups = s.groups := rfl
@[simp] theorem modCore_blocks (s : State) (c : Nat) (f : Core → Core) : (modCore s c f).blocks = s.blocks := rfl
@[simp] theorem modCore_grids (s : State) (c : Nat) (f : Core → Core) : (modCore s c f).grids = s.grids := rfl
@[simp] theorem modCore_csaved (s : State) (c : Nat) (f : Core → Core) : (modCore s c f).csaved = s.csaved := rfl
@[simp] theorem modCore_owed (s : State) (c : Nat) (f : Core → Core) : (modCore s c f).owed = s.owed := rfl
@[simp] theorem modCore_dies (s : State) (c : Nat) (f : Core → Core) : (modCore s c f).dies = s.dies := rfl
@[simp] theorem modCore_parts (s : State) (c : Nat) (f : Core → Core) : (modCore s c f).parts = s.parts := rfl
@[simp] theorem modCore_nextId (s : State) (c : Nat) (f : Core → Core) : (modCore s c f).nextId = s.nextId := rfl
@[simp] theorem modCore_gridSeq (s : State) (c : Nat) (f : Core → Core) : (modCore s c f).gridSeq = s.gridSeq := rfl
@[simp] theorem modCore_msix (s : State) (c : Nat) (f : Core → Core) : (modCore s c f).msix = s.msix := rfl
@[simp] theorem modCore_aer (s : State) (c : Nat) (f : Core → Core) : (modCore s c f).aer = s.aer := rfl
@[simp] theorem modCore_sent (s : State) (c : Nat) (f : Core → Core) : (modCore s c f).sent = s.sent := rfl
@[simp] theorem modCore_applied (s : State) (c : Nat) (f : Core → Core) : (modCore s c f).applied = s.applied := rfl
@[simp] theorem modCore_sources (s : State) (c : Nat) (f : Core → Core) : (modCore s c f).sources = s.sources := rfl
@[simp] theorem modCore_seqs (s : State) (c : Nat) (f : Core → Core) : (modCore s c f).seqs = s.seqs := rfl
@[simp] theorem modCore_unreach (s : State) (c : Nat) (f : Core → Core) : (modCore s c f).unreach = s.unreach := rfl
@[simp] theorem modCore_replies (s : State) (c : Nat) (f : Core → Core) : (modCore s c f).replies = s.replies := rfl
@[simp] theorem modCore_carried (s : State) (c : Nat) (f : Core → Core) : (modCore s c f).carried = s.carried := rfl
@[simp] theorem modCore_notices (s : State) (c : Nat) (f : Core → Core) : (modCore s c f).notices = s.notices := rfl
@[simp] theorem modCore_links (s : State) (c : Nat) (f : Core → Core) : (modCore s c f).links = s.links := rfl
@[simp] theorem modCore_hub (s : State) (c : Nat) (f : Core → Core) : (modCore s c f).hub = s.hub := rfl

/-! ## modDie writes `dies` only -/

@[simp] theorem modDie_tick (s : State) (d : Nat) (f : Die → Die) : (modDie s d f).tick = s.tick := rfl
@[simp] theorem modDie_agenda (s : State) (d : Nat) (f : Die → Die) : (modDie s d f).agenda = s.agenda := rfl
@[simp] theorem modDie_sched (s : State) (d : Nat) (f : Die → Die) : (modDie s d f).sched = s.sched := rfl
@[simp] theorem modDie_slot0 (s : State) (d : Nat) (f : Die → Die) : (modDie s d f).slot0 = s.slot0 := rfl
@[simp] theorem modDie_late (s : State) (d : Nat) (f : Die → Die) : (modDie s d f).late = s.late := rfl
@[simp] theorem modDie_cur (s : State) (d : Nat) (f : Die → Die) : (modDie s d f).cur = s.cur := rfl
@[simp] theorem modDie_gtc (s : State) (d : Nat) (f : Die → Die) : (modDie s d f).gtc = s.gtc := rfl
@[simp] theorem modDie_cyc (s : State) (d : Nat) (f : Die → Die) : (modDie s d f).cyc = s.cyc := rfl
@[simp] theorem modDie_mem (s : State) (d : Nat) (f : Die → Die) : (modDie s d f).mem = s.mem := rfl
@[simp] theorem modDie_poison (s : State) (d : Nat) (f : Die → Die) : (modDie s d f).poison = s.poison := rfl
@[simp] theorem modDie_fills (s : State) (d : Nat) (f : Die → Die) : (modDie s d f).fills = s.fills := rfl
@[simp] theorem modDie_losses (s : State) (d : Nat) (f : Die → Die) : (modDie s d f).losses = s.losses := rfl
@[simp] theorem modDie_stale (s : State) (d : Nat) (f : Die → Die) : (modDie s d f).stale = s.stale := rfl
@[simp] theorem modDie_homes (s : State) (d : Nat) (f : Die → Die) : (modDie s d f).homes = s.homes := rfl
@[simp] theorem modDie_copies (s : State) (d : Nat) (f : Die → Die) : (modDie s d f).copies = s.copies := rfl
@[simp] theorem modDie_dark (s : State) (d : Nat) (f : Die → Die) : (modDie s d f).dark = s.dark := rfl
@[simp] theorem modDie_wbs (s : State) (d : Nat) (f : Die → Die) : (modDie s d f).wbs = s.wbs := rfl
@[simp] theorem modDie_stores (s : State) (d : Nat) (f : Die → Die) : (modDie s d f).stores = s.stores := rfl
@[simp] theorem modDie_loads (s : State) (d : Nat) (f : Die → Die) : (modDie s d f).loads = s.loads := rfl
@[simp] theorem modDie_elems (s : State) (d : Nat) (f : Die → Die) : (modDie s d f).elems = s.elems := rfl
@[simp] theorem modDie_tlb (s : State) (d : Nat) (f : Die → Die) : (modDie s d f).tlb = s.tlb := rfl
@[simp] theorem modDie_groups (s : State) (d : Nat) (f : Die → Die) : (modDie s d f).groups = s.groups := rfl
@[simp] theorem modDie_blocks (s : State) (d : Nat) (f : Die → Die) : (modDie s d f).blocks = s.blocks := rfl
@[simp] theorem modDie_grids (s : State) (d : Nat) (f : Die → Die) : (modDie s d f).grids = s.grids := rfl
@[simp] theorem modDie_csaved (s : State) (d : Nat) (f : Die → Die) : (modDie s d f).csaved = s.csaved := rfl
@[simp] theorem modDie_owed (s : State) (d : Nat) (f : Die → Die) : (modDie s d f).owed = s.owed := rfl
@[simp] theorem modDie_cores (s : State) (d : Nat) (f : Die → Die) : (modDie s d f).cores = s.cores := rfl
@[simp] theorem modDie_parts (s : State) (d : Nat) (f : Die → Die) : (modDie s d f).parts = s.parts := rfl
@[simp] theorem modDie_nextId (s : State) (d : Nat) (f : Die → Die) : (modDie s d f).nextId = s.nextId := rfl
@[simp] theorem modDie_gridSeq (s : State) (d : Nat) (f : Die → Die) : (modDie s d f).gridSeq = s.gridSeq := rfl
@[simp] theorem modDie_msix (s : State) (d : Nat) (f : Die → Die) : (modDie s d f).msix = s.msix := rfl
@[simp] theorem modDie_aer (s : State) (d : Nat) (f : Die → Die) : (modDie s d f).aer = s.aer := rfl
@[simp] theorem modDie_sent (s : State) (d : Nat) (f : Die → Die) : (modDie s d f).sent = s.sent := rfl
@[simp] theorem modDie_applied (s : State) (d : Nat) (f : Die → Die) : (modDie s d f).applied = s.applied := rfl
@[simp] theorem modDie_sources (s : State) (d : Nat) (f : Die → Die) : (modDie s d f).sources = s.sources := rfl
@[simp] theorem modDie_seqs (s : State) (d : Nat) (f : Die → Die) : (modDie s d f).seqs = s.seqs := rfl
@[simp] theorem modDie_unreach (s : State) (d : Nat) (f : Die → Die) : (modDie s d f).unreach = s.unreach := rfl
@[simp] theorem modDie_replies (s : State) (d : Nat) (f : Die → Die) : (modDie s d f).replies = s.replies := rfl
@[simp] theorem modDie_carried (s : State) (d : Nat) (f : Die → Die) : (modDie s d f).carried = s.carried := rfl
@[simp] theorem modDie_notices (s : State) (d : Nat) (f : Die → Die) : (modDie s d f).notices = s.notices := rfl
@[simp] theorem modDie_links (s : State) (d : Nat) (f : Die → Die) : (modDie s d f).links = s.links := rfl
@[simp] theorem modDie_hub (s : State) (d : Nat) (f : Die → Die) : (modDie s d f).hub = s.hub := rfl

/-! ## modPart writes `parts` only -/

@[simp] theorem modPart_tick (s : State) (p : Nat) (f : Partition → Partition) : (modPart s p f).tick = s.tick := rfl
@[simp] theorem modPart_agenda (s : State) (p : Nat) (f : Partition → Partition) : (modPart s p f).agenda = s.agenda := rfl
@[simp] theorem modPart_sched (s : State) (p : Nat) (f : Partition → Partition) : (modPart s p f).sched = s.sched := rfl
@[simp] theorem modPart_slot0 (s : State) (p : Nat) (f : Partition → Partition) : (modPart s p f).slot0 = s.slot0 := rfl
@[simp] theorem modPart_late (s : State) (p : Nat) (f : Partition → Partition) : (modPart s p f).late = s.late := rfl
@[simp] theorem modPart_cur (s : State) (p : Nat) (f : Partition → Partition) : (modPart s p f).cur = s.cur := rfl
@[simp] theorem modPart_gtc (s : State) (p : Nat) (f : Partition → Partition) : (modPart s p f).gtc = s.gtc := rfl
@[simp] theorem modPart_cyc (s : State) (p : Nat) (f : Partition → Partition) : (modPart s p f).cyc = s.cyc := rfl
@[simp] theorem modPart_mem (s : State) (p : Nat) (f : Partition → Partition) : (modPart s p f).mem = s.mem := rfl
@[simp] theorem modPart_poison (s : State) (p : Nat) (f : Partition → Partition) : (modPart s p f).poison = s.poison := rfl
@[simp] theorem modPart_fills (s : State) (p : Nat) (f : Partition → Partition) : (modPart s p f).fills = s.fills := rfl
@[simp] theorem modPart_losses (s : State) (p : Nat) (f : Partition → Partition) : (modPart s p f).losses = s.losses := rfl
@[simp] theorem modPart_stale (s : State) (p : Nat) (f : Partition → Partition) : (modPart s p f).stale = s.stale := rfl
@[simp] theorem modPart_homes (s : State) (p : Nat) (f : Partition → Partition) : (modPart s p f).homes = s.homes := rfl
@[simp] theorem modPart_copies (s : State) (p : Nat) (f : Partition → Partition) : (modPart s p f).copies = s.copies := rfl
@[simp] theorem modPart_dark (s : State) (p : Nat) (f : Partition → Partition) : (modPart s p f).dark = s.dark := rfl
@[simp] theorem modPart_wbs (s : State) (p : Nat) (f : Partition → Partition) : (modPart s p f).wbs = s.wbs := rfl
@[simp] theorem modPart_stores (s : State) (p : Nat) (f : Partition → Partition) : (modPart s p f).stores = s.stores := rfl
@[simp] theorem modPart_loads (s : State) (p : Nat) (f : Partition → Partition) : (modPart s p f).loads = s.loads := rfl
@[simp] theorem modPart_elems (s : State) (p : Nat) (f : Partition → Partition) : (modPart s p f).elems = s.elems := rfl
@[simp] theorem modPart_tlb (s : State) (p : Nat) (f : Partition → Partition) : (modPart s p f).tlb = s.tlb := rfl
@[simp] theorem modPart_groups (s : State) (p : Nat) (f : Partition → Partition) : (modPart s p f).groups = s.groups := rfl
@[simp] theorem modPart_blocks (s : State) (p : Nat) (f : Partition → Partition) : (modPart s p f).blocks = s.blocks := rfl
@[simp] theorem modPart_grids (s : State) (p : Nat) (f : Partition → Partition) : (modPart s p f).grids = s.grids := rfl
@[simp] theorem modPart_csaved (s : State) (p : Nat) (f : Partition → Partition) : (modPart s p f).csaved = s.csaved := rfl
@[simp] theorem modPart_owed (s : State) (p : Nat) (f : Partition → Partition) : (modPart s p f).owed = s.owed := rfl
@[simp] theorem modPart_cores (s : State) (p : Nat) (f : Partition → Partition) : (modPart s p f).cores = s.cores := rfl
@[simp] theorem modPart_dies (s : State) (p : Nat) (f : Partition → Partition) : (modPart s p f).dies = s.dies := rfl
@[simp] theorem modPart_nextId (s : State) (p : Nat) (f : Partition → Partition) : (modPart s p f).nextId = s.nextId := rfl
@[simp] theorem modPart_gridSeq (s : State) (p : Nat) (f : Partition → Partition) : (modPart s p f).gridSeq = s.gridSeq := rfl
@[simp] theorem modPart_msix (s : State) (p : Nat) (f : Partition → Partition) : (modPart s p f).msix = s.msix := rfl
@[simp] theorem modPart_aer (s : State) (p : Nat) (f : Partition → Partition) : (modPart s p f).aer = s.aer := rfl
@[simp] theorem modPart_sent (s : State) (p : Nat) (f : Partition → Partition) : (modPart s p f).sent = s.sent := rfl
@[simp] theorem modPart_applied (s : State) (p : Nat) (f : Partition → Partition) : (modPart s p f).applied = s.applied := rfl
@[simp] theorem modPart_sources (s : State) (p : Nat) (f : Partition → Partition) : (modPart s p f).sources = s.sources := rfl
@[simp] theorem modPart_seqs (s : State) (p : Nat) (f : Partition → Partition) : (modPart s p f).seqs = s.seqs := rfl
@[simp] theorem modPart_unreach (s : State) (p : Nat) (f : Partition → Partition) : (modPart s p f).unreach = s.unreach := rfl
@[simp] theorem modPart_replies (s : State) (p : Nat) (f : Partition → Partition) : (modPart s p f).replies = s.replies := rfl
@[simp] theorem modPart_carried (s : State) (p : Nat) (f : Partition → Partition) : (modPart s p f).carried = s.carried := rfl
@[simp] theorem modPart_notices (s : State) (p : Nat) (f : Partition → Partition) : (modPart s p f).notices = s.notices := rfl
@[simp] theorem modPart_links (s : State) (p : Nat) (f : Partition → Partition) : (modPart s p f).links = s.links := rfl
@[simp] theorem modPart_hub (s : State) (p : Nat) (f : Partition → Partition) : (modPart s p f).hub = s.hub := rfl

/-! ## modCtx writes `parts` only -/

@[simp] theorem modCtx_tick (s : State) (p c : Nat) (f : Ctx → Ctx) : (modCtx s p c f).tick = s.tick := rfl
@[simp] theorem modCtx_agenda (s : State) (p c : Nat) (f : Ctx → Ctx) : (modCtx s p c f).agenda = s.agenda := rfl
@[simp] theorem modCtx_sched (s : State) (p c : Nat) (f : Ctx → Ctx) : (modCtx s p c f).sched = s.sched := rfl
@[simp] theorem modCtx_slot0 (s : State) (p c : Nat) (f : Ctx → Ctx) : (modCtx s p c f).slot0 = s.slot0 := rfl
@[simp] theorem modCtx_late (s : State) (p c : Nat) (f : Ctx → Ctx) : (modCtx s p c f).late = s.late := rfl
@[simp] theorem modCtx_cur (s : State) (p c : Nat) (f : Ctx → Ctx) : (modCtx s p c f).cur = s.cur := rfl
@[simp] theorem modCtx_gtc (s : State) (p c : Nat) (f : Ctx → Ctx) : (modCtx s p c f).gtc = s.gtc := rfl
@[simp] theorem modCtx_cyc (s : State) (p c : Nat) (f : Ctx → Ctx) : (modCtx s p c f).cyc = s.cyc := rfl
@[simp] theorem modCtx_mem (s : State) (p c : Nat) (f : Ctx → Ctx) : (modCtx s p c f).mem = s.mem := rfl
@[simp] theorem modCtx_poison (s : State) (p c : Nat) (f : Ctx → Ctx) : (modCtx s p c f).poison = s.poison := rfl
@[simp] theorem modCtx_fills (s : State) (p c : Nat) (f : Ctx → Ctx) : (modCtx s p c f).fills = s.fills := rfl
@[simp] theorem modCtx_losses (s : State) (p c : Nat) (f : Ctx → Ctx) : (modCtx s p c f).losses = s.losses := rfl
@[simp] theorem modCtx_stale (s : State) (p c : Nat) (f : Ctx → Ctx) : (modCtx s p c f).stale = s.stale := rfl
@[simp] theorem modCtx_homes (s : State) (p c : Nat) (f : Ctx → Ctx) : (modCtx s p c f).homes = s.homes := rfl
@[simp] theorem modCtx_copies (s : State) (p c : Nat) (f : Ctx → Ctx) : (modCtx s p c f).copies = s.copies := rfl
@[simp] theorem modCtx_dark (s : State) (p c : Nat) (f : Ctx → Ctx) : (modCtx s p c f).dark = s.dark := rfl
@[simp] theorem modCtx_wbs (s : State) (p c : Nat) (f : Ctx → Ctx) : (modCtx s p c f).wbs = s.wbs := rfl
@[simp] theorem modCtx_stores (s : State) (p c : Nat) (f : Ctx → Ctx) : (modCtx s p c f).stores = s.stores := rfl
@[simp] theorem modCtx_loads (s : State) (p c : Nat) (f : Ctx → Ctx) : (modCtx s p c f).loads = s.loads := rfl
@[simp] theorem modCtx_elems (s : State) (p c : Nat) (f : Ctx → Ctx) : (modCtx s p c f).elems = s.elems := rfl
@[simp] theorem modCtx_tlb (s : State) (p c : Nat) (f : Ctx → Ctx) : (modCtx s p c f).tlb = s.tlb := rfl
@[simp] theorem modCtx_groups (s : State) (p c : Nat) (f : Ctx → Ctx) : (modCtx s p c f).groups = s.groups := rfl
@[simp] theorem modCtx_blocks (s : State) (p c : Nat) (f : Ctx → Ctx) : (modCtx s p c f).blocks = s.blocks := rfl
@[simp] theorem modCtx_grids (s : State) (p c : Nat) (f : Ctx → Ctx) : (modCtx s p c f).grids = s.grids := rfl
@[simp] theorem modCtx_csaved (s : State) (p c : Nat) (f : Ctx → Ctx) : (modCtx s p c f).csaved = s.csaved := rfl
@[simp] theorem modCtx_owed (s : State) (p c : Nat) (f : Ctx → Ctx) : (modCtx s p c f).owed = s.owed := rfl
@[simp] theorem modCtx_cores (s : State) (p c : Nat) (f : Ctx → Ctx) : (modCtx s p c f).cores = s.cores := rfl
@[simp] theorem modCtx_dies (s : State) (p c : Nat) (f : Ctx → Ctx) : (modCtx s p c f).dies = s.dies := rfl
@[simp] theorem modCtx_nextId (s : State) (p c : Nat) (f : Ctx → Ctx) : (modCtx s p c f).nextId = s.nextId := rfl
@[simp] theorem modCtx_gridSeq (s : State) (p c : Nat) (f : Ctx → Ctx) : (modCtx s p c f).gridSeq = s.gridSeq := rfl
@[simp] theorem modCtx_msix (s : State) (p c : Nat) (f : Ctx → Ctx) : (modCtx s p c f).msix = s.msix := rfl
@[simp] theorem modCtx_aer (s : State) (p c : Nat) (f : Ctx → Ctx) : (modCtx s p c f).aer = s.aer := rfl
@[simp] theorem modCtx_sent (s : State) (p c : Nat) (f : Ctx → Ctx) : (modCtx s p c f).sent = s.sent := rfl
@[simp] theorem modCtx_applied (s : State) (p c : Nat) (f : Ctx → Ctx) : (modCtx s p c f).applied = s.applied := rfl
@[simp] theorem modCtx_sources (s : State) (p c : Nat) (f : Ctx → Ctx) : (modCtx s p c f).sources = s.sources := rfl
@[simp] theorem modCtx_seqs (s : State) (p c : Nat) (f : Ctx → Ctx) : (modCtx s p c f).seqs = s.seqs := rfl
@[simp] theorem modCtx_unreach (s : State) (p c : Nat) (f : Ctx → Ctx) : (modCtx s p c f).unreach = s.unreach := rfl
@[simp] theorem modCtx_replies (s : State) (p c : Nat) (f : Ctx → Ctx) : (modCtx s p c f).replies = s.replies := rfl
@[simp] theorem modCtx_carried (s : State) (p c : Nat) (f : Ctx → Ctx) : (modCtx s p c f).carried = s.carried := rfl
@[simp] theorem modCtx_notices (s : State) (p c : Nat) (f : Ctx → Ctx) : (modCtx s p c f).notices = s.notices := rfl
@[simp] theorem modCtx_links (s : State) (p c : Nat) (f : Ctx → Ctx) : (modCtx s p c f).links = s.links := rfl
@[simp] theorem modCtx_hub (s : State) (p c : Nat) (f : Ctx → Ctx) : (modCtx s p c f).hub = s.hub := rfl

/-! ## modQueue writes `parts` only -/

@[simp] theorem modQueue_tick (s : State) (q : QRef) (f : Queue → Queue) : (modQueue s q f).tick = s.tick := rfl
@[simp] theorem modQueue_agenda (s : State) (q : QRef) (f : Queue → Queue) : (modQueue s q f).agenda = s.agenda := rfl
@[simp] theorem modQueue_sched (s : State) (q : QRef) (f : Queue → Queue) : (modQueue s q f).sched = s.sched := rfl
@[simp] theorem modQueue_slot0 (s : State) (q : QRef) (f : Queue → Queue) : (modQueue s q f).slot0 = s.slot0 := rfl
@[simp] theorem modQueue_late (s : State) (q : QRef) (f : Queue → Queue) : (modQueue s q f).late = s.late := rfl
@[simp] theorem modQueue_cur (s : State) (q : QRef) (f : Queue → Queue) : (modQueue s q f).cur = s.cur := rfl
@[simp] theorem modQueue_gtc (s : State) (q : QRef) (f : Queue → Queue) : (modQueue s q f).gtc = s.gtc := rfl
@[simp] theorem modQueue_cyc (s : State) (q : QRef) (f : Queue → Queue) : (modQueue s q f).cyc = s.cyc := rfl
@[simp] theorem modQueue_mem (s : State) (q : QRef) (f : Queue → Queue) : (modQueue s q f).mem = s.mem := rfl
@[simp] theorem modQueue_poison (s : State) (q : QRef) (f : Queue → Queue) : (modQueue s q f).poison = s.poison := rfl
@[simp] theorem modQueue_fills (s : State) (q : QRef) (f : Queue → Queue) : (modQueue s q f).fills = s.fills := rfl
@[simp] theorem modQueue_losses (s : State) (q : QRef) (f : Queue → Queue) : (modQueue s q f).losses = s.losses := rfl
@[simp] theorem modQueue_stale (s : State) (q : QRef) (f : Queue → Queue) : (modQueue s q f).stale = s.stale := rfl
@[simp] theorem modQueue_homes (s : State) (q : QRef) (f : Queue → Queue) : (modQueue s q f).homes = s.homes := rfl
@[simp] theorem modQueue_copies (s : State) (q : QRef) (f : Queue → Queue) : (modQueue s q f).copies = s.copies := rfl
@[simp] theorem modQueue_dark (s : State) (q : QRef) (f : Queue → Queue) : (modQueue s q f).dark = s.dark := rfl
@[simp] theorem modQueue_wbs (s : State) (q : QRef) (f : Queue → Queue) : (modQueue s q f).wbs = s.wbs := rfl
@[simp] theorem modQueue_stores (s : State) (q : QRef) (f : Queue → Queue) : (modQueue s q f).stores = s.stores := rfl
@[simp] theorem modQueue_loads (s : State) (q : QRef) (f : Queue → Queue) : (modQueue s q f).loads = s.loads := rfl
@[simp] theorem modQueue_elems (s : State) (q : QRef) (f : Queue → Queue) : (modQueue s q f).elems = s.elems := rfl
@[simp] theorem modQueue_tlb (s : State) (q : QRef) (f : Queue → Queue) : (modQueue s q f).tlb = s.tlb := rfl
@[simp] theorem modQueue_groups (s : State) (q : QRef) (f : Queue → Queue) : (modQueue s q f).groups = s.groups := rfl
@[simp] theorem modQueue_blocks (s : State) (q : QRef) (f : Queue → Queue) : (modQueue s q f).blocks = s.blocks := rfl
@[simp] theorem modQueue_grids (s : State) (q : QRef) (f : Queue → Queue) : (modQueue s q f).grids = s.grids := rfl
@[simp] theorem modQueue_csaved (s : State) (q : QRef) (f : Queue → Queue) : (modQueue s q f).csaved = s.csaved := rfl
@[simp] theorem modQueue_owed (s : State) (q : QRef) (f : Queue → Queue) : (modQueue s q f).owed = s.owed := rfl
@[simp] theorem modQueue_cores (s : State) (q : QRef) (f : Queue → Queue) : (modQueue s q f).cores = s.cores := rfl
@[simp] theorem modQueue_dies (s : State) (q : QRef) (f : Queue → Queue) : (modQueue s q f).dies = s.dies := rfl
@[simp] theorem modQueue_nextId (s : State) (q : QRef) (f : Queue → Queue) : (modQueue s q f).nextId = s.nextId := rfl
@[simp] theorem modQueue_gridSeq (s : State) (q : QRef) (f : Queue → Queue) : (modQueue s q f).gridSeq = s.gridSeq := rfl
@[simp] theorem modQueue_msix (s : State) (q : QRef) (f : Queue → Queue) : (modQueue s q f).msix = s.msix := rfl
@[simp] theorem modQueue_aer (s : State) (q : QRef) (f : Queue → Queue) : (modQueue s q f).aer = s.aer := rfl
@[simp] theorem modQueue_sent (s : State) (q : QRef) (f : Queue → Queue) : (modQueue s q f).sent = s.sent := rfl
@[simp] theorem modQueue_applied (s : State) (q : QRef) (f : Queue → Queue) : (modQueue s q f).applied = s.applied := rfl
@[simp] theorem modQueue_sources (s : State) (q : QRef) (f : Queue → Queue) : (modQueue s q f).sources = s.sources := rfl
@[simp] theorem modQueue_seqs (s : State) (q : QRef) (f : Queue → Queue) : (modQueue s q f).seqs = s.seqs := rfl
@[simp] theorem modQueue_unreach (s : State) (q : QRef) (f : Queue → Queue) : (modQueue s q f).unreach = s.unreach := rfl
@[simp] theorem modQueue_replies (s : State) (q : QRef) (f : Queue → Queue) : (modQueue s q f).replies = s.replies := rfl
@[simp] theorem modQueue_carried (s : State) (q : QRef) (f : Queue → Queue) : (modQueue s q f).carried = s.carried := rfl
@[simp] theorem modQueue_notices (s : State) (q : QRef) (f : Queue → Queue) : (modQueue s q f).notices = s.notices := rfl
@[simp] theorem modQueue_links (s : State) (q : QRef) (f : Queue → Queue) : (modQueue s q f).links = s.links := rfl
@[simp] theorem modQueue_hub (s : State) (q : QRef) (f : Queue → Queue) : (modQueue s q f).hub = s.hub := rfl

/-! ## setHome writes `homes` only -/

@[simp] theorem setHome_tick (s : State) (l : Nat) (h : HomeLine) : (setHome s l h).tick = s.tick := rfl
@[simp] theorem setHome_agenda (s : State) (l : Nat) (h : HomeLine) : (setHome s l h).agenda = s.agenda := rfl
@[simp] theorem setHome_sched (s : State) (l : Nat) (h : HomeLine) : (setHome s l h).sched = s.sched := rfl
@[simp] theorem setHome_slot0 (s : State) (l : Nat) (h : HomeLine) : (setHome s l h).slot0 = s.slot0 := rfl
@[simp] theorem setHome_late (s : State) (l : Nat) (h : HomeLine) : (setHome s l h).late = s.late := rfl
@[simp] theorem setHome_cur (s : State) (l : Nat) (h : HomeLine) : (setHome s l h).cur = s.cur := rfl
@[simp] theorem setHome_gtc (s : State) (l : Nat) (h : HomeLine) : (setHome s l h).gtc = s.gtc := rfl
@[simp] theorem setHome_cyc (s : State) (l : Nat) (h : HomeLine) : (setHome s l h).cyc = s.cyc := rfl
@[simp] theorem setHome_mem (s : State) (l : Nat) (h : HomeLine) : (setHome s l h).mem = s.mem := rfl
@[simp] theorem setHome_poison (s : State) (l : Nat) (h : HomeLine) : (setHome s l h).poison = s.poison := rfl
@[simp] theorem setHome_fills (s : State) (l : Nat) (h : HomeLine) : (setHome s l h).fills = s.fills := rfl
@[simp] theorem setHome_losses (s : State) (l : Nat) (h : HomeLine) : (setHome s l h).losses = s.losses := rfl
@[simp] theorem setHome_stale (s : State) (l : Nat) (h : HomeLine) : (setHome s l h).stale = s.stale := rfl
@[simp] theorem setHome_copies (s : State) (l : Nat) (h : HomeLine) : (setHome s l h).copies = s.copies := rfl
@[simp] theorem setHome_dark (s : State) (l : Nat) (h : HomeLine) : (setHome s l h).dark = s.dark := rfl
@[simp] theorem setHome_wbs (s : State) (l : Nat) (h : HomeLine) : (setHome s l h).wbs = s.wbs := rfl
@[simp] theorem setHome_stores (s : State) (l : Nat) (h : HomeLine) : (setHome s l h).stores = s.stores := rfl
@[simp] theorem setHome_loads (s : State) (l : Nat) (h : HomeLine) : (setHome s l h).loads = s.loads := rfl
@[simp] theorem setHome_elems (s : State) (l : Nat) (h : HomeLine) : (setHome s l h).elems = s.elems := rfl
@[simp] theorem setHome_tlb (s : State) (l : Nat) (h : HomeLine) : (setHome s l h).tlb = s.tlb := rfl
@[simp] theorem setHome_groups (s : State) (l : Nat) (h : HomeLine) : (setHome s l h).groups = s.groups := rfl
@[simp] theorem setHome_blocks (s : State) (l : Nat) (h : HomeLine) : (setHome s l h).blocks = s.blocks := rfl
@[simp] theorem setHome_grids (s : State) (l : Nat) (h : HomeLine) : (setHome s l h).grids = s.grids := rfl
@[simp] theorem setHome_csaved (s : State) (l : Nat) (h : HomeLine) : (setHome s l h).csaved = s.csaved := rfl
@[simp] theorem setHome_owed (s : State) (l : Nat) (h : HomeLine) : (setHome s l h).owed = s.owed := rfl
@[simp] theorem setHome_cores (s : State) (l : Nat) (h : HomeLine) : (setHome s l h).cores = s.cores := rfl
@[simp] theorem setHome_dies (s : State) (l : Nat) (h : HomeLine) : (setHome s l h).dies = s.dies := rfl
@[simp] theorem setHome_parts (s : State) (l : Nat) (h : HomeLine) : (setHome s l h).parts = s.parts := rfl
@[simp] theorem setHome_nextId (s : State) (l : Nat) (h : HomeLine) : (setHome s l h).nextId = s.nextId := rfl
@[simp] theorem setHome_gridSeq (s : State) (l : Nat) (h : HomeLine) : (setHome s l h).gridSeq = s.gridSeq := rfl
@[simp] theorem setHome_msix (s : State) (l : Nat) (h : HomeLine) : (setHome s l h).msix = s.msix := rfl
@[simp] theorem setHome_aer (s : State) (l : Nat) (h : HomeLine) : (setHome s l h).aer = s.aer := rfl
@[simp] theorem setHome_sent (s : State) (l : Nat) (h : HomeLine) : (setHome s l h).sent = s.sent := rfl
@[simp] theorem setHome_applied (s : State) (l : Nat) (h : HomeLine) : (setHome s l h).applied = s.applied := rfl
@[simp] theorem setHome_sources (s : State) (l : Nat) (h : HomeLine) : (setHome s l h).sources = s.sources := rfl
@[simp] theorem setHome_seqs (s : State) (l : Nat) (h : HomeLine) : (setHome s l h).seqs = s.seqs := rfl
@[simp] theorem setHome_unreach (s : State) (l : Nat) (h : HomeLine) : (setHome s l h).unreach = s.unreach := rfl
@[simp] theorem setHome_replies (s : State) (l : Nat) (h : HomeLine) : (setHome s l h).replies = s.replies := rfl
@[simp] theorem setHome_carried (s : State) (l : Nat) (h : HomeLine) : (setHome s l h).carried = s.carried := rfl
@[simp] theorem setHome_notices (s : State) (l : Nat) (h : HomeLine) : (setHome s l h).notices = s.notices := rfl
@[simp] theorem setHome_links (s : State) (l : Nat) (h : HomeLine) : (setHome s l h).links = s.links := rfl
@[simp] theorem setHome_hub (s : State) (l : Nat) (h : HomeLine) : (setHome s l h).hub = s.hub := rfl

/-! ## setElem writes `elems` only -/

@[simp] theorem setElem_tick (s : State) (i : Nat) (e : Elem) : (setElem s i e).tick = s.tick := rfl
@[simp] theorem setElem_agenda (s : State) (i : Nat) (e : Elem) : (setElem s i e).agenda = s.agenda := rfl
@[simp] theorem setElem_sched (s : State) (i : Nat) (e : Elem) : (setElem s i e).sched = s.sched := rfl
@[simp] theorem setElem_slot0 (s : State) (i : Nat) (e : Elem) : (setElem s i e).slot0 = s.slot0 := rfl
@[simp] theorem setElem_late (s : State) (i : Nat) (e : Elem) : (setElem s i e).late = s.late := rfl
@[simp] theorem setElem_cur (s : State) (i : Nat) (e : Elem) : (setElem s i e).cur = s.cur := rfl
@[simp] theorem setElem_gtc (s : State) (i : Nat) (e : Elem) : (setElem s i e).gtc = s.gtc := rfl
@[simp] theorem setElem_cyc (s : State) (i : Nat) (e : Elem) : (setElem s i e).cyc = s.cyc := rfl
@[simp] theorem setElem_mem (s : State) (i : Nat) (e : Elem) : (setElem s i e).mem = s.mem := rfl
@[simp] theorem setElem_poison (s : State) (i : Nat) (e : Elem) : (setElem s i e).poison = s.poison := rfl
@[simp] theorem setElem_fills (s : State) (i : Nat) (e : Elem) : (setElem s i e).fills = s.fills := rfl
@[simp] theorem setElem_losses (s : State) (i : Nat) (e : Elem) : (setElem s i e).losses = s.losses := rfl
@[simp] theorem setElem_stale (s : State) (i : Nat) (e : Elem) : (setElem s i e).stale = s.stale := rfl
@[simp] theorem setElem_homes (s : State) (i : Nat) (e : Elem) : (setElem s i e).homes = s.homes := rfl
@[simp] theorem setElem_copies (s : State) (i : Nat) (e : Elem) : (setElem s i e).copies = s.copies := rfl
@[simp] theorem setElem_dark (s : State) (i : Nat) (e : Elem) : (setElem s i e).dark = s.dark := rfl
@[simp] theorem setElem_wbs (s : State) (i : Nat) (e : Elem) : (setElem s i e).wbs = s.wbs := rfl
@[simp] theorem setElem_stores (s : State) (i : Nat) (e : Elem) : (setElem s i e).stores = s.stores := rfl
@[simp] theorem setElem_loads (s : State) (i : Nat) (e : Elem) : (setElem s i e).loads = s.loads := rfl
@[simp] theorem setElem_tlb (s : State) (i : Nat) (e : Elem) : (setElem s i e).tlb = s.tlb := rfl
@[simp] theorem setElem_groups (s : State) (i : Nat) (e : Elem) : (setElem s i e).groups = s.groups := rfl
@[simp] theorem setElem_blocks (s : State) (i : Nat) (e : Elem) : (setElem s i e).blocks = s.blocks := rfl
@[simp] theorem setElem_grids (s : State) (i : Nat) (e : Elem) : (setElem s i e).grids = s.grids := rfl
@[simp] theorem setElem_csaved (s : State) (i : Nat) (e : Elem) : (setElem s i e).csaved = s.csaved := rfl
@[simp] theorem setElem_owed (s : State) (i : Nat) (e : Elem) : (setElem s i e).owed = s.owed := rfl
@[simp] theorem setElem_cores (s : State) (i : Nat) (e : Elem) : (setElem s i e).cores = s.cores := rfl
@[simp] theorem setElem_dies (s : State) (i : Nat) (e : Elem) : (setElem s i e).dies = s.dies := rfl
@[simp] theorem setElem_parts (s : State) (i : Nat) (e : Elem) : (setElem s i e).parts = s.parts := rfl
@[simp] theorem setElem_nextId (s : State) (i : Nat) (e : Elem) : (setElem s i e).nextId = s.nextId := rfl
@[simp] theorem setElem_gridSeq (s : State) (i : Nat) (e : Elem) : (setElem s i e).gridSeq = s.gridSeq := rfl
@[simp] theorem setElem_msix (s : State) (i : Nat) (e : Elem) : (setElem s i e).msix = s.msix := rfl
@[simp] theorem setElem_aer (s : State) (i : Nat) (e : Elem) : (setElem s i e).aer = s.aer := rfl
@[simp] theorem setElem_sent (s : State) (i : Nat) (e : Elem) : (setElem s i e).sent = s.sent := rfl
@[simp] theorem setElem_applied (s : State) (i : Nat) (e : Elem) : (setElem s i e).applied = s.applied := rfl
@[simp] theorem setElem_sources (s : State) (i : Nat) (e : Elem) : (setElem s i e).sources = s.sources := rfl
@[simp] theorem setElem_seqs (s : State) (i : Nat) (e : Elem) : (setElem s i e).seqs = s.seqs := rfl
@[simp] theorem setElem_unreach (s : State) (i : Nat) (e : Elem) : (setElem s i e).unreach = s.unreach := rfl
@[simp] theorem setElem_replies (s : State) (i : Nat) (e : Elem) : (setElem s i e).replies = s.replies := rfl
@[simp] theorem setElem_carried (s : State) (i : Nat) (e : Elem) : (setElem s i e).carried = s.carried := rfl
@[simp] theorem setElem_notices (s : State) (i : Nat) (e : Elem) : (setElem s i e).notices = s.notices := rfl
@[simp] theorem setElem_links (s : State) (i : Nat) (e : Elem) : (setElem s i e).links = s.links := rfl
@[simp] theorem setElem_hub (s : State) (i : Nat) (e : Elem) : (setElem s i e).hub = s.hub := rfl

/-! ## fresh takes one identifier -/

@[simp] theorem fresh_tick (s : State) : (fresh s).2.tick = s.tick := rfl
@[simp] theorem fresh_agenda (s : State) : (fresh s).2.agenda = s.agenda := rfl
@[simp] theorem fresh_sched (s : State) : (fresh s).2.sched = s.sched := rfl
@[simp] theorem fresh_slot0 (s : State) : (fresh s).2.slot0 = s.slot0 := rfl
@[simp] theorem fresh_late (s : State) : (fresh s).2.late = s.late := rfl
@[simp] theorem fresh_cur (s : State) : (fresh s).2.cur = s.cur := rfl
@[simp] theorem fresh_gtc (s : State) : (fresh s).2.gtc = s.gtc := rfl
@[simp] theorem fresh_cyc (s : State) : (fresh s).2.cyc = s.cyc := rfl
@[simp] theorem fresh_mem (s : State) : (fresh s).2.mem = s.mem := rfl
@[simp] theorem fresh_poison (s : State) : (fresh s).2.poison = s.poison := rfl
@[simp] theorem fresh_fills (s : State) : (fresh s).2.fills = s.fills := rfl
@[simp] theorem fresh_losses (s : State) : (fresh s).2.losses = s.losses := rfl
@[simp] theorem fresh_stale (s : State) : (fresh s).2.stale = s.stale := rfl
@[simp] theorem fresh_homes (s : State) : (fresh s).2.homes = s.homes := rfl
@[simp] theorem fresh_copies (s : State) : (fresh s).2.copies = s.copies := rfl
@[simp] theorem fresh_dark (s : State) : (fresh s).2.dark = s.dark := rfl
@[simp] theorem fresh_wbs (s : State) : (fresh s).2.wbs = s.wbs := rfl
@[simp] theorem fresh_stores (s : State) : (fresh s).2.stores = s.stores := rfl
@[simp] theorem fresh_loads (s : State) : (fresh s).2.loads = s.loads := rfl
@[simp] theorem fresh_elems (s : State) : (fresh s).2.elems = s.elems := rfl
@[simp] theorem fresh_tlb (s : State) : (fresh s).2.tlb = s.tlb := rfl
@[simp] theorem fresh_groups (s : State) : (fresh s).2.groups = s.groups := rfl
@[simp] theorem fresh_blocks (s : State) : (fresh s).2.blocks = s.blocks := rfl
@[simp] theorem fresh_grids (s : State) : (fresh s).2.grids = s.grids := rfl
@[simp] theorem fresh_csaved (s : State) : (fresh s).2.csaved = s.csaved := rfl
@[simp] theorem fresh_owed (s : State) : (fresh s).2.owed = s.owed := rfl
@[simp] theorem fresh_cores (s : State) : (fresh s).2.cores = s.cores := rfl
@[simp] theorem fresh_dies (s : State) : (fresh s).2.dies = s.dies := rfl
@[simp] theorem fresh_parts (s : State) : (fresh s).2.parts = s.parts := rfl
@[simp] theorem fresh_gridSeq (s : State) : (fresh s).2.gridSeq = s.gridSeq := rfl
@[simp] theorem fresh_msix (s : State) : (fresh s).2.msix = s.msix := rfl
@[simp] theorem fresh_aer (s : State) : (fresh s).2.aer = s.aer := rfl
@[simp] theorem fresh_sent (s : State) : (fresh s).2.sent = s.sent := rfl
@[simp] theorem fresh_applied (s : State) : (fresh s).2.applied = s.applied := rfl
@[simp] theorem fresh_sources (s : State) : (fresh s).2.sources = s.sources := rfl
@[simp] theorem fresh_seqs (s : State) : (fresh s).2.seqs = s.seqs := rfl
@[simp] theorem fresh_unreach (s : State) : (fresh s).2.unreach = s.unreach := rfl
@[simp] theorem fresh_replies (s : State) : (fresh s).2.replies = s.replies := rfl
@[simp] theorem fresh_carried (s : State) : (fresh s).2.carried = s.carried := rfl
@[simp] theorem fresh_notices (s : State) : (fresh s).2.notices = s.notices := rfl
@[simp] theorem fresh_links (s : State) : (fresh s).2.links = s.links := rfl
@[simp] theorem fresh_hub (s : State) : (fresh s).2.hub = s.hub := rfl
@[simp] theorem fresh_id (s : State) : (fresh s).1 = s.nextId := rfl
@[simp] theorem fresh_nextId (s : State) : (fresh s).2.nextId = s.nextId + 1 := rfl

/-! ## What the updates put where -/

@[simp] theorem getGroup_setGroup_same (s : State) (g : Nat) (x : Group) : getGroup (setGroup s g x) g = x := by
  simp [getGroup, setGroup]
@[simp] theorem getGroup_setGroup_ne (s : State) {g h : Nat} (x : Group) (e : h ≠ g) :
    getGroup (setGroup s g x) h = getGroup s h := by
  simp [getGroup, setGroup, e]
@[simp] theorem getGroup_modGroup_same (s : State) (g : Nat) (f : Group → Group) :
    getGroup (modGroup s g f) g = f (getGroup s g) := by simp [modGroup]
@[simp] theorem getGroup_modGroup_ne (s : State) {g h : Nat} (f : Group → Group) (e : h ≠ g) :
    getGroup (modGroup s g f) h = getGroup s h := by simp [modGroup, e]
@[simp] theorem curGroup_setCur (s : State) (x : Group) : curGroup (setCur s x) = x := by simp [curGroup, setCur]
@[simp] theorem getGroup_setCur_ne (s : State) {g : Nat} (x : Group) (e : g ≠ s.cur) :
    getGroup (setCur s x) g = getGroup s g := by simp [setCur, e]
@[simp] theorem setGroup_setGroup (s : State) (g : Nat) (x y : Group) : setGroup (setGroup s g x) g y = setGroup s g y := by
  simp [setGroup]
@[simp] theorem setCur_setCur (s : State) (x y : Group) : setCur (setCur s x) y = setCur s y := by simp [setCur]
@[simp] theorem getBlock_setBlock_same (s : State) (b : Nat) (x : Block) : getBlock (setBlock s b x) b = x := by
  simp [getBlock, setBlock]
@[simp] theorem getBlock_setBlock_ne (s : State) {b c : Nat} (x : Block) (e : c ≠ b) :
    getBlock (setBlock s b x) c = getBlock s c := by simp [getBlock, setBlock, e]
@[simp] theorem getGrid_setGrid_same (s : State) (i : Nat) (x : Grid) : getGrid (setGrid s i x) i = x := by
  simp [getGrid, setGrid]
@[simp] theorem getGrid_setGrid_ne (s : State) {i j : Nat} (x : Grid) (e : j ≠ i) :
    getGrid (setGrid s i x) j = getGrid s j := by simp [getGrid, setGrid, e]
@[simp] theorem getCore_setCore_same (s : State) (c : Nat) (x : Core) : getCore (setCore s c x) c = x := by
  simp [getCore, setCore]
@[simp] theorem getCore_setCore_ne (s : State) {c d : Nat} (x : Core) (e : d ≠ c) :
    getCore (setCore s c x) d = getCore s d := by simp [getCore, setCore, e]
@[simp] theorem getCore_modCore_same (s : State) (c : Nat) (f : Core → Core) :
    getCore (modCore s c f) c = f (getCore s c) := by simp [modCore]
@[simp] theorem getElem_setElem_same (s : State) (i : Nat) (e : Elem) : getElem (setElem s i e) i = some e := by
  simp [getElem, setElem]
@[simp] theorem getHome_setHome_same (s : State) (l : Nat) (h : HomeLine) : getHome (setHome s l h) l = h := by
  simp [getHome, setHome]
@[simp] theorem getPart_modPart_same (s : State) (p : Nat) (f : Partition → Partition) :
    getPart (modPart s p f) p = f (getPart s p) := by simp [getPart, modPart, mapGet_mapMod]
@[simp] theorem getPart_modPart_ne (s : State) {p q : Nat} (f : Partition → Partition) (e : q ≠ p) :
    getPart (modPart s p f) q = getPart s q := by simp [getPart, modPart, mapGet_mapMod, e]
@[simp] theorem getCtx_modCtx_same (s : State) (p c : Nat) (f : Ctx → Ctx) :
    getCtx (modCtx s p c f) p c = f (getCtx s p c) := by simp [getCtx, modCtx, mapGet_mapMod]
@[simp] theorem getDie_modDie_same (s : State) (d : Nat) (f : Die → Die) : getDie (modDie s d f) d = f (getDie s d) := by
  simp [getDie, modDie, mapGet_mapMod]

/-! ## Reads of tables that an update of another table leaves alone -/

@[simp] theorem getGroup_setBlock (s : State) (b : Nat) (x : Block) (j : Nat) : getGroup (setBlock s b x) j = getGroup s j := rfl
@[simp] theorem getGroup_modBlock (s : State) (b : Nat) (f : Block → Block) (j : Nat) : getGroup (modBlock s b f) j = getGroup s j := rfl
@[simp] theorem getGroup_setGrid (s : State) (i : Nat) (x : Grid) (j : Nat) : getGroup (setGrid s i x) j = getGroup s j := rfl
@[simp] theorem getGroup_modGrid (s : State) (i : Nat) (f : Grid → Grid) (j : Nat) : getGroup (modGrid s i f) j = getGroup s j := rfl
@[simp] theorem getGroup_setCore (s : State) (c : Nat) (x : Core) (j : Nat) : getGroup (setCore s c x) j = getGroup s j := rfl
@[simp] theorem getGroup_modCore (s : State) (c : Nat) (f : Core → Core) (j : Nat) : getGroup (modCore s c f) j = getGroup s j := rfl
@[simp] theorem getGroup_modDie (s : State) (d : Nat) (f : Die → Die) (j : Nat) : getGroup (modDie s d f) j = getGroup s j := rfl
@[simp] theorem getGroup_modPart (s : State) (p : Nat) (f : Partition → Partition) (j : Nat) : getGroup (modPart s p f) j = getGroup s j := rfl
@[simp] theorem getGroup_modCtx (s : State) (p c : Nat) (f : Ctx → Ctx) (j : Nat) : getGroup (modCtx s p c f) j = getGroup s j := rfl
@[simp] theorem getGroup_modQueue (s : State) (q : QRef) (f : Queue → Queue) (j : Nat) : getGroup (modQueue s q f) j = getGroup s j := rfl
@[simp] theorem getGroup_setHome (s : State) (l : Nat) (h : HomeLine) (j : Nat) : getGroup (setHome s l h) j = getGroup s j := rfl
@[simp] theorem getGroup_setElem (s : State) (i : Nat) (e : Elem) (j : Nat) : getGroup (setElem s i e) j = getGroup s j := rfl
@[simp] theorem getBlock_setGroup (s : State) (g : Nat) (x : Group) (j : Nat) : getBlock (setGroup s g x) j = getBlock s j := rfl
@[simp] theorem getBlock_modGroup (s : State) (g : Nat) (f : Group → Group) (j : Nat) : getBlock (modGroup s g f) j = getBlock s j := rfl
@[simp] theorem getBlock_setCur (s : State) (x : Group) (j : Nat) : getBlock (setCur s x) j = getBlock s j := rfl
@[simp] theorem getBlock_setGrid (s : State) (i : Nat) (x : Grid) (j : Nat) : getBlock (setGrid s i x) j = getBlock s j := rfl
@[simp] theorem getBlock_modGrid (s : State) (i : Nat) (f : Grid → Grid) (j : Nat) : getBlock (modGrid s i f) j = getBlock s j := rfl
@[simp] theorem getBlock_setCore (s : State) (c : Nat) (x : Core) (j : Nat) : getBlock (setCore s c x) j = getBlock s j := rfl
@[simp] theorem getBlock_modCore (s : State) (c : Nat) (f : Core → Core) (j : Nat) : getBlock (modCore s c f) j = getBlock s j := rfl
@[simp] theorem getBlock_modDie (s : State) (d : Nat) (f : Die → Die) (j : Nat) : getBlock (modDie s d f) j = getBlock s j := rfl
@[simp] theorem getBlock_modPart (s : State) (p : Nat) (f : Partition → Partition) (j : Nat) : getBlock (modPart s p f) j = getBlock s j := rfl
@[simp] theorem getBlock_modCtx (s : State) (p c : Nat) (f : Ctx → Ctx) (j : Nat) : getBlock (modCtx s p c f) j = getBlock s j := rfl
@[simp] theorem getBlock_modQueue (s : State) (q : QRef) (f : Queue → Queue) (j : Nat) : getBlock (modQueue s q f) j = getBlock s j := rfl
@[simp] theorem getBlock_setHome (s : State) (l : Nat) (h : HomeLine) (j : Nat) : getBlock (setHome s l h) j = getBlock s j := rfl
@[simp] theorem getBlock_setElem (s : State) (i : Nat) (e : Elem) (j : Nat) : getBlock (setElem s i e) j = getBlock s j := rfl
@[simp] theorem getGrid_setGroup (s : State) (g : Nat) (x : Group) (j : Nat) : getGrid (setGroup s g x) j = getGrid s j := rfl
@[simp] theorem getGrid_modGroup (s : State) (g : Nat) (f : Group → Group) (j : Nat) : getGrid (modGroup s g f) j = getGrid s j := rfl
@[simp] theorem getGrid_setCur (s : State) (x : Group) (j : Nat) : getGrid (setCur s x) j = getGrid s j := rfl
@[simp] theorem getGrid_setBlock (s : State) (b : Nat) (x : Block) (j : Nat) : getGrid (setBlock s b x) j = getGrid s j := rfl
@[simp] theorem getGrid_modBlock (s : State) (b : Nat) (f : Block → Block) (j : Nat) : getGrid (modBlock s b f) j = getGrid s j := rfl
@[simp] theorem getGrid_setCore (s : State) (c : Nat) (x : Core) (j : Nat) : getGrid (setCore s c x) j = getGrid s j := rfl
@[simp] theorem getGrid_modCore (s : State) (c : Nat) (f : Core → Core) (j : Nat) : getGrid (modCore s c f) j = getGrid s j := rfl
@[simp] theorem getGrid_modDie (s : State) (d : Nat) (f : Die → Die) (j : Nat) : getGrid (modDie s d f) j = getGrid s j := rfl
@[simp] theorem getGrid_modPart (s : State) (p : Nat) (f : Partition → Partition) (j : Nat) : getGrid (modPart s p f) j = getGrid s j := rfl
@[simp] theorem getGrid_modCtx (s : State) (p c : Nat) (f : Ctx → Ctx) (j : Nat) : getGrid (modCtx s p c f) j = getGrid s j := rfl
@[simp] theorem getGrid_modQueue (s : State) (q : QRef) (f : Queue → Queue) (j : Nat) : getGrid (modQueue s q f) j = getGrid s j := rfl
@[simp] theorem getGrid_setHome (s : State) (l : Nat) (h : HomeLine) (j : Nat) : getGrid (setHome s l h) j = getGrid s j := rfl
@[simp] theorem getGrid_setElem (s : State) (i : Nat) (e : Elem) (j : Nat) : getGrid (setElem s i e) j = getGrid s j := rfl
@[simp] theorem getCore_setGroup (s : State) (g : Nat) (x : Group) (j : Nat) : getCore (setGroup s g x) j = getCore s j := rfl
@[simp] theorem getCore_modGroup (s : State) (g : Nat) (f : Group → Group) (j : Nat) : getCore (modGroup s g f) j = getCore s j := rfl
@[simp] theorem getCore_setCur (s : State) (x : Group) (j : Nat) : getCore (setCur s x) j = getCore s j := rfl
@[simp] theorem getCore_setBlock (s : State) (b : Nat) (x : Block) (j : Nat) : getCore (setBlock s b x) j = getCore s j := rfl
@[simp] theorem getCore_modBlock (s : State) (b : Nat) (f : Block → Block) (j : Nat) : getCore (modBlock s b f) j = getCore s j := rfl
@[simp] theorem getCore_setGrid (s : State) (i : Nat) (x : Grid) (j : Nat) : getCore (setGrid s i x) j = getCore s j := rfl
@[simp] theorem getCore_modGrid (s : State) (i : Nat) (f : Grid → Grid) (j : Nat) : getCore (modGrid s i f) j = getCore s j := rfl
@[simp] theorem getCore_modDie (s : State) (d : Nat) (f : Die → Die) (j : Nat) : getCore (modDie s d f) j = getCore s j := rfl
@[simp] theorem getCore_modPart (s : State) (p : Nat) (f : Partition → Partition) (j : Nat) : getCore (modPart s p f) j = getCore s j := rfl
@[simp] theorem getCore_modCtx (s : State) (p c : Nat) (f : Ctx → Ctx) (j : Nat) : getCore (modCtx s p c f) j = getCore s j := rfl
@[simp] theorem getCore_modQueue (s : State) (q : QRef) (f : Queue → Queue) (j : Nat) : getCore (modQueue s q f) j = getCore s j := rfl
@[simp] theorem getCore_setHome (s : State) (l : Nat) (h : HomeLine) (j : Nat) : getCore (setHome s l h) j = getCore s j := rfl
@[simp] theorem getCore_setElem (s : State) (i : Nat) (e : Elem) (j : Nat) : getCore (setElem s i e) j = getCore s j := rfl
@[simp] theorem getDie_setGroup (s : State) (g : Nat) (x : Group) (j : Nat) : getDie (setGroup s g x) j = getDie s j := rfl
@[simp] theorem getDie_modGroup (s : State) (g : Nat) (f : Group → Group) (j : Nat) : getDie (modGroup s g f) j = getDie s j := rfl
@[simp] theorem getDie_setCur (s : State) (x : Group) (j : Nat) : getDie (setCur s x) j = getDie s j := rfl
@[simp] theorem getDie_setBlock (s : State) (b : Nat) (x : Block) (j : Nat) : getDie (setBlock s b x) j = getDie s j := rfl
@[simp] theorem getDie_modBlock (s : State) (b : Nat) (f : Block → Block) (j : Nat) : getDie (modBlock s b f) j = getDie s j := rfl
@[simp] theorem getDie_setGrid (s : State) (i : Nat) (x : Grid) (j : Nat) : getDie (setGrid s i x) j = getDie s j := rfl
@[simp] theorem getDie_modGrid (s : State) (i : Nat) (f : Grid → Grid) (j : Nat) : getDie (modGrid s i f) j = getDie s j := rfl
@[simp] theorem getDie_setCore (s : State) (c : Nat) (x : Core) (j : Nat) : getDie (setCore s c x) j = getDie s j := rfl
@[simp] theorem getDie_modCore (s : State) (c : Nat) (f : Core → Core) (j : Nat) : getDie (modCore s c f) j = getDie s j := rfl
@[simp] theorem getDie_modPart (s : State) (p : Nat) (f : Partition → Partition) (j : Nat) : getDie (modPart s p f) j = getDie s j := rfl
@[simp] theorem getDie_modCtx (s : State) (p c : Nat) (f : Ctx → Ctx) (j : Nat) : getDie (modCtx s p c f) j = getDie s j := rfl
@[simp] theorem getDie_modQueue (s : State) (q : QRef) (f : Queue → Queue) (j : Nat) : getDie (modQueue s q f) j = getDie s j := rfl
@[simp] theorem getDie_setHome (s : State) (l : Nat) (h : HomeLine) (j : Nat) : getDie (setHome s l h) j = getDie s j := rfl
@[simp] theorem getDie_setElem (s : State) (i : Nat) (e : Elem) (j : Nat) : getDie (setElem s i e) j = getDie s j := rfl
@[simp] theorem getPart_setGroup (s : State) (g : Nat) (x : Group) (j : Nat) : getPart (setGroup s g x) j = getPart s j := rfl
@[simp] theorem getPart_modGroup (s : State) (g : Nat) (f : Group → Group) (j : Nat) : getPart (modGroup s g f) j = getPart s j := rfl
@[simp] theorem getPart_setCur (s : State) (x : Group) (j : Nat) : getPart (setCur s x) j = getPart s j := rfl
@[simp] theorem getPart_setBlock (s : State) (b : Nat) (x : Block) (j : Nat) : getPart (setBlock s b x) j = getPart s j := rfl
@[simp] theorem getPart_modBlock (s : State) (b : Nat) (f : Block → Block) (j : Nat) : getPart (modBlock s b f) j = getPart s j := rfl
@[simp] theorem getPart_setGrid (s : State) (i : Nat) (x : Grid) (j : Nat) : getPart (setGrid s i x) j = getPart s j := rfl
@[simp] theorem getPart_modGrid (s : State) (i : Nat) (f : Grid → Grid) (j : Nat) : getPart (modGrid s i f) j = getPart s j := rfl
@[simp] theorem getPart_setCore (s : State) (c : Nat) (x : Core) (j : Nat) : getPart (setCore s c x) j = getPart s j := rfl
@[simp] theorem getPart_modCore (s : State) (c : Nat) (f : Core → Core) (j : Nat) : getPart (modCore s c f) j = getPart s j := rfl
@[simp] theorem getPart_modDie (s : State) (d : Nat) (f : Die → Die) (j : Nat) : getPart (modDie s d f) j = getPart s j := rfl
@[simp] theorem getPart_setHome (s : State) (l : Nat) (h : HomeLine) (j : Nat) : getPart (setHome s l h) j = getPart s j := rfl
@[simp] theorem getPart_setElem (s : State) (i : Nat) (e : Elem) (j : Nat) : getPart (setElem s i e) j = getPart s j := rfl
@[simp] theorem getHome_setGroup (s : State) (g : Nat) (x : Group) (j : Nat) : getHome (setGroup s g x) j = getHome s j := rfl
@[simp] theorem getHome_modGroup (s : State) (g : Nat) (f : Group → Group) (j : Nat) : getHome (modGroup s g f) j = getHome s j := rfl
@[simp] theorem getHome_setCur (s : State) (x : Group) (j : Nat) : getHome (setCur s x) j = getHome s j := rfl
@[simp] theorem getHome_setBlock (s : State) (b : Nat) (x : Block) (j : Nat) : getHome (setBlock s b x) j = getHome s j := rfl
@[simp] theorem getHome_modBlock (s : State) (b : Nat) (f : Block → Block) (j : Nat) : getHome (modBlock s b f) j = getHome s j := rfl
@[simp] theorem getHome_setGrid (s : State) (i : Nat) (x : Grid) (j : Nat) : getHome (setGrid s i x) j = getHome s j := rfl
@[simp] theorem getHome_modGrid (s : State) (i : Nat) (f : Grid → Grid) (j : Nat) : getHome (modGrid s i f) j = getHome s j := rfl
@[simp] theorem getHome_setCore (s : State) (c : Nat) (x : Core) (j : Nat) : getHome (setCore s c x) j = getHome s j := rfl
@[simp] theorem getHome_modCore (s : State) (c : Nat) (f : Core → Core) (j : Nat) : getHome (modCore s c f) j = getHome s j := rfl
@[simp] theorem getHome_modDie (s : State) (d : Nat) (f : Die → Die) (j : Nat) : getHome (modDie s d f) j = getHome s j := rfl
@[simp] theorem getHome_modPart (s : State) (p : Nat) (f : Partition → Partition) (j : Nat) : getHome (modPart s p f) j = getHome s j := rfl
@[simp] theorem getHome_modCtx (s : State) (p c : Nat) (f : Ctx → Ctx) (j : Nat) : getHome (modCtx s p c f) j = getHome s j := rfl
@[simp] theorem getHome_modQueue (s : State) (q : QRef) (f : Queue → Queue) (j : Nat) : getHome (modQueue s q f) j = getHome s j := rfl
@[simp] theorem getHome_setElem (s : State) (i : Nat) (e : Elem) (j : Nat) : getHome (setElem s i e) j = getHome s j := rfl
@[simp] theorem getElem_setGroup (s : State) (g : Nat) (x : Group) (j : Nat) : getElem (setGroup s g x) j = getElem s j := rfl
@[simp] theorem getElem_modGroup (s : State) (g : Nat) (f : Group → Group) (j : Nat) : getElem (modGroup s g f) j = getElem s j := rfl
@[simp] theorem getElem_setCur (s : State) (x : Group) (j : Nat) : getElem (setCur s x) j = getElem s j := rfl
@[simp] theorem getElem_setBlock (s : State) (b : Nat) (x : Block) (j : Nat) : getElem (setBlock s b x) j = getElem s j := rfl
@[simp] theorem getElem_modBlock (s : State) (b : Nat) (f : Block → Block) (j : Nat) : getElem (modBlock s b f) j = getElem s j := rfl
@[simp] theorem getElem_setGrid (s : State) (i : Nat) (x : Grid) (j : Nat) : getElem (setGrid s i x) j = getElem s j := rfl
@[simp] theorem getElem_modGrid (s : State) (i : Nat) (f : Grid → Grid) (j : Nat) : getElem (modGrid s i f) j = getElem s j := rfl
@[simp] theorem getElem_setCore (s : State) (c : Nat) (x : Core) (j : Nat) : getElem (setCore s c x) j = getElem s j := rfl
@[simp] theorem getElem_modCore (s : State) (c : Nat) (f : Core → Core) (j : Nat) : getElem (modCore s c f) j = getElem s j := rfl
@[simp] theorem getElem_modDie (s : State) (d : Nat) (f : Die → Die) (j : Nat) : getElem (modDie s d f) j = getElem s j := rfl
@[simp] theorem getElem_modPart (s : State) (p : Nat) (f : Partition → Partition) (j : Nat) : getElem (modPart s p f) j = getElem s j := rfl
@[simp] theorem getElem_modCtx (s : State) (p c : Nat) (f : Ctx → Ctx) (j : Nat) : getElem (modCtx s p c f) j = getElem s j := rfl
@[simp] theorem getElem_modQueue (s : State) (q : QRef) (f : Queue → Queue) (j : Nat) : getElem (modQueue s q f) j = getElem s j := rfl
@[simp] theorem getElem_setHome (s : State) (l : Nat) (h : HomeLine) (j : Nat) : getElem (setHome s l h) j = getElem s j := rfl
@[simp] theorem getCtx_setGroup (s : State) (g : Nat) (x : Group) (j k : Nat) : getCtx (setGroup s g x) j k = getCtx s j k := rfl
@[simp] theorem getCtx_modGroup (s : State) (g : Nat) (f : Group → Group) (j k : Nat) : getCtx (modGroup s g f) j k = getCtx s j k := rfl
@[simp] theorem getCtx_setCur (s : State) (x : Group) (j k : Nat) : getCtx (setCur s x) j k = getCtx s j k := rfl
@[simp] theorem getCtx_setBlock (s : State) (b : Nat) (x : Block) (j k : Nat) : getCtx (setBlock s b x) j k = getCtx s j k := rfl
@[simp] theorem getCtx_modBlock (s : State) (b : Nat) (f : Block → Block) (j k : Nat) : getCtx (modBlock s b f) j k = getCtx s j k := rfl
@[simp] theorem getCtx_setGrid (s : State) (i : Nat) (x : Grid) (j k : Nat) : getCtx (setGrid s i x) j k = getCtx s j k := rfl
@[simp] theorem getCtx_modGrid (s : State) (i : Nat) (f : Grid → Grid) (j k : Nat) : getCtx (modGrid s i f) j k = getCtx s j k := rfl
@[simp] theorem getCtx_setCore (s : State) (c : Nat) (x : Core) (j k : Nat) : getCtx (setCore s c x) j k = getCtx s j k := rfl
@[simp] theorem getCtx_modCore (s : State) (c : Nat) (f : Core → Core) (j k : Nat) : getCtx (modCore s c f) j k = getCtx s j k := rfl
@[simp] theorem getCtx_modDie (s : State) (d : Nat) (f : Die → Die) (j k : Nat) : getCtx (modDie s d f) j k = getCtx s j k := rfl
@[simp] theorem getCtx_setHome (s : State) (l : Nat) (h : HomeLine) (j k : Nat) : getCtx (setHome s l h) j k = getCtx s j k := rfl
@[simp] theorem getCtx_setElem (s : State) (i : Nat) (e : Elem) (j k : Nat) : getCtx (setElem s i e) j k = getCtx s j k := rfl
@[simp] theorem curGroup_setBlock (s : State) (b : Nat) (x : Block) : curGroup (setBlock s b x) = curGroup s := rfl
@[simp] theorem curGroup_modBlock (s : State) (b : Nat) (f : Block → Block) : curGroup (modBlock s b f) = curGroup s := rfl
@[simp] theorem curGroup_setGrid (s : State) (i : Nat) (x : Grid) : curGroup (setGrid s i x) = curGroup s := rfl
@[simp] theorem curGroup_modGrid (s : State) (i : Nat) (f : Grid → Grid) : curGroup (modGrid s i f) = curGroup s := rfl
@[simp] theorem curGroup_setCore (s : State) (c : Nat) (x : Core) : curGroup (setCore s c x) = curGroup s := rfl
@[simp] theorem curGroup_modCore (s : State) (c : Nat) (f : Core → Core) : curGroup (modCore s c f) = curGroup s := rfl
@[simp] theorem curGroup_modDie (s : State) (d : Nat) (f : Die → Die) : curGroup (modDie s d f) = curGroup s := rfl
@[simp] theorem curGroup_modPart (s : State) (p : Nat) (f : Partition → Partition) : curGroup (modPart s p f) = curGroup s := rfl
@[simp] theorem curGroup_modCtx (s : State) (p c : Nat) (f : Ctx → Ctx) : curGroup (modCtx s p c f) = curGroup s := rfl
@[simp] theorem curGroup_modQueue (s : State) (q : QRef) (f : Queue → Queue) : curGroup (modQueue s q f) = curGroup s := rfl
@[simp] theorem curGroup_setHome (s : State) (l : Nat) (h : HomeLine) : curGroup (setHome s l h) = curGroup s := rfl
@[simp] theorem curGroup_setElem (s : State) (i : Nat) (e : Elem) : curGroup (setElem s i e) = curGroup s := rfl

end Sys2Proof.Machine
end

