-- ==== Sys2Proof/Laws/Registers.lean ====
section
/-! SUPPORT. Register files of a group: what a write puts where, and which fields of the group each write leaves alone. -/

namespace Sys2Proof.Machine

/-! ## sWrite writes scalars only -/

@[simp] theorem sWrite_status (h : Bool) (g : Group) (n : Nat) (x : DWord) : (sWrite h g n x).status = g.status := by unfold sWrite; split <;> (try split) <;> rfl
@[simp] theorem sWrite_uid (h : Bool) (g : Group) (n : Nat) (x : DWord) : (sWrite h g n x).uid = g.uid := by unfold sWrite; split <;> (try split) <;> rfl
@[simp] theorem sWrite_block (h : Bool) (g : Group) (n : Nat) (x : DWord) : (sWrite h g n x).block = g.block := by unfold sWrite; split <;> (try split) <;> rfl
@[simp] theorem sWrite_gid (h : Bool) (g : Group) (n : Nat) (x : DWord) : (sWrite h g n x).gid = g.gid := by unfold sWrite; split <;> (try split) <;> rfl
@[simp] theorem sWrite_member (h : Bool) (g : Group) (n : Nat) (x : DWord) : (sWrite h g n x).member = g.member := by unfold sWrite; split <;> (try split) <;> rfl
@[simp] theorem sWrite_pc (h : Bool) (g : Group) (n : Nat) (x : DWord) : (sWrite h g n x).pc = g.pc := by unfold sWrite; split <;> (try split) <;> rfl
@[simp] theorem sWrite_xm (h : Bool) (g : Group) (n : Nat) (x : DWord) : (sWrite h g n x).xm = g.xm := by unfold sWrite; split <;> (try split) <;> rfl
@[simp] theorem sWrite_exited (h : Bool) (g : Group) (n : Nat) (x : DWord) : (sWrite h g n x).exited = g.exited := by unfold sWrite; split <;> (try split) <;> rfl
@[simp] theorem sWrite_range (h : Bool) (g : Group) (n : Nat) (x : DWord) : (sWrite h g n x).range = g.range := by unfold sWrite; split <;> (try split) <;> rfl
@[simp] theorem sWrite_v (h : Bool) (g : Group) (n : Nat) (x : DWord) : (sWrite h g n x).v = g.v := by unfold sWrite; split <;> (try split) <;> rfl
@[simp] theorem sWrite_p (h : Bool) (g : Group) (n : Nat) (x : DWord) : (sWrite h g n x).p = g.p := by unfold sWrite; split <;> (try split) <;> rfl
@[simp] theorem sWrite_latches (h : Bool) (g : Group) (n : Nat) (x : DWord) : (sWrite h g n x).latches = g.latches := by unfold sWrite; split <;> (try split) <;> rfl
@[simp] theorem sWrite_chainPc (h : Bool) (g : Group) (n : Nat) (x : DWord) : (sWrite h g n x).chainPc = g.chainPc := by unfold sWrite; split <;> (try split) <;> rfl
@[simp] theorem sWrite_chainLen (h : Bool) (g : Group) (n : Nat) (x : DWord) : (sWrite h g n x).chainLen = g.chainLen := by unfold sWrite; split <;> (try split) <;> rfl
@[simp] theorem sWrite_chainPush (h : Bool) (g : Group) (n : Nat) (x : DWord) : (sWrite h g n x).chainPush = g.chainPush := by unfold sWrite; split <;> (try split) <;> rfl
@[simp] theorem sWrite_div (h : Bool) (g : Group) (n : Nat) (x : DWord) : (sWrite h g n x).div = g.div := by unfold sWrite; split <;> (try split) <;> rfl
@[simp] theorem sWrite_divSpill (h : Bool) (g : Group) (n : Nat) (x : DWord) : (sWrite h g n x).divSpill = g.divSpill := by unfold sWrite; split <;> (try split) <;> rfl
@[simp] theorem sWrite_call (h : Bool) (g : Group) (n : Nat) (x : DWord) : (sWrite h g n x).call = g.call := by unfold sWrite; split <;> (try split) <;> rfl
@[simp] theorem sWrite_callSpill (h : Bool) (g : Group) (n : Nat) (x : DWord) : (sWrite h g n x).callSpill = g.callSpill := by unfold sWrite; split <;> (try split) <;> rfl
@[simp] theorem sWrite_prio (h : Bool) (g : Group) (n : Nat) (x : DWord) : (sWrite h g n x).prio = g.prio := by unfold sWrite; split <;> (try split) <;> rfl
@[simp] theorem sWrite_mark (h : Bool) (g : Group) (n : Nat) (x : DWord) : (sWrite h g n x).mark = g.mark := by unfold sWrite; split <;> (try split) <;> rfl
@[simp] theorem sWrite_fpflags (h : Bool) (g : Group) (n : Nat) (x : DWord) : (sWrite h g n x).fpflags = g.fpflags := by unfold sWrite; split <;> (try split) <;> rfl
@[simp] theorem sWrite_yielding (h : Bool) (g : Group) (n : Nat) (x : DWord) : (sWrite h g n x).yielding = g.yielding := by unfold sWrite; split <;> (try split) <;> rfl
@[simp] theorem sWrite_yieldAt (h : Bool) (g : Group) (n : Nat) (x : DWord) : (sWrite h g n x).yieldAt = g.yieldAt := by unfold sWrite; split <;> (try split) <;> rfl
@[simp] theorem sWrite_starve (h : Bool) (g : Group) (n : Nat) (x : DWord) : (sWrite h g n x).starve = g.starve := by unfold sWrite; split <;> (try split) <;> rfl
@[simp] theorem sWrite_issued (h : Bool) (g : Group) (n : Nat) (x : DWord) : (sWrite h g n x).issued = g.issued := by unfold sWrite; split <;> (try split) <;> rfl
@[simp] theorem sWrite_phaseIssues (h : Bool) (g : Group) (n : Nat) (x : DWord) : (sWrite h g n x).phaseIssues = g.phaseIssues := by unfold sWrite; split <;> (try split) <;> rfl
@[simp] theorem sWrite_cGrant (h : Bool) (g : Group) (n : Nat) (x : DWord) : (sWrite h g n x).cGrant = g.cGrant := by unfold sWrite; split <;> (try split) <;> rfl
@[simp] theorem sWrite_cMon (h : Bool) (g : Group) (n : Nat) (x : DWord) : (sWrite h g n x).cMon = g.cMon := by unfold sWrite; split <;> (try split) <;> rfl
@[simp] theorem sWrite_cBatch (h : Bool) (g : Group) (n : Nat) (x : DWord) : (sWrite h g n x).cBatch = g.cBatch := by unfold sWrite; split <;> (try split) <;> rfl
@[simp] theorem sWrite_cJoin (h : Bool) (g : Group) (n : Nat) (x : DWord) : (sWrite h g n x).cJoin = g.cJoin := by unfold sWrite; split <;> (try split) <;> rfl
@[simp] theorem sWrite_cQueue (h : Bool) (g : Group) (n : Nat) (x : DWord) : (sWrite h g n x).cQueue = g.cQueue := by unfold sWrite; split <;> (try split) <;> rfl
@[simp] theorem sWrite_cToken (h : Bool) (g : Group) (n : Nat) (x : DWord) : (sWrite h g n x).cToken = g.cToken := by unfold sWrite; split <;> (try split) <;> rfl
@[simp] theorem sWrite_monLine (h : Bool) (g : Group) (n : Nat) (x : DWord) : (sWrite h g n x).monLine = g.monLine := by unfold sWrite; split <;> (try split) <;> rfl
@[simp] theorem sWrite_monAt (h : Bool) (g : Group) (n : Nat) (x : DWord) : (sWrite h g n x).monAt = g.monAt := by unfold sWrite; split <;> (try split) <;> rfl
@[simp] theorem sWrite_tid (h : Bool) (g : Group) (n : Nat) (x : DWord) : (sWrite h g n x).tid = g.tid := by unfold sWrite; split <;> (try split) <;> rfl
@[simp] theorem sWrite_epc (h : Bool) (g : Group) (n : Nat) (x : DWord) : (sWrite h g n x).epc = g.epc := by unfold sWrite; split <;> (try split) <;> rfl
@[simp] theorem sWrite_ecause (h : Bool) (g : Group) (n : Nat) (x : DWord) : (sWrite h g n x).ecause = g.ecause := by unfold sWrite; split <;> (try split) <;> rfl
@[simp] theorem sWrite_erec (h : Bool) (g : Group) (n : Nat) (x : DWord) : (sWrite h g n x).erec = g.erec := by unfold sWrite; split <;> (try split) <;> rfl
@[simp] theorem sWrite_exm0 (h : Bool) (g : Group) (n : Nat) (x : DWord) : (sWrite h g n x).exm0 = g.exm0 := by unfold sWrite; split <;> (try split) <;> rfl
@[simp] theorem sWrite_exm1 (h : Bool) (g : Group) (n : Nat) (x : DWord) : (sWrite h g n x).exm1 = g.exm1 := by unfold sWrite; split <;> (try split) <;> rfl
@[simp] theorem sWrite_priv (h : Bool) (g : Group) (n : Nat) (x : DWord) : (sWrite h g n x).priv = g.priv := by unfold sWrite; split <;> (try split) <;> rfl
@[simp] theorem sWrite_faultMask (h : Bool) (g : Group) (n : Nat) (x : DWord) : (sWrite h g n x).faultMask = g.faultMask := by unfold sWrite; split <;> (try split) <;> rfl
@[simp] theorem sWrite_faultPerLane (h : Bool) (g : Group) (n : Nat) (x : DWord) : (sWrite h g n x).faultPerLane = g.faultPerLane := by unfold sWrite; split <;> (try split) <;> rfl
@[simp] theorem sWrite_faultElems (h : Bool) (g : Group) (n : Nat) (x : DWord) : (sWrite h g n x).faultElems = g.faultElems := by unfold sWrite; split <;> (try split) <;> rfl
@[simp] theorem sWrite_qph (h : Bool) (g : Group) (n : Nat) (x : DWord) : (sWrite h g n x).qph = g.qph := by unfold sWrite; split <;> (try split) <;> rfl
@[simp] theorem sWrite_qcl (h : Bool) (g : Group) (n : Nat) (x : DWord) : (sWrite h g n x).qcl = g.qcl := by unfold sWrite; split <;> (try split) <;> rfl
@[simp] theorem sWrite_stk (h : Bool) (g : Group) (n : Nat) (x : DWord) : (sWrite h g n x).stk = g.stk := by unfold sWrite; split <;> (try split) <;> rfl
@[simp] theorem sWrite_role (h : Bool) (g : Group) (n : Nat) (x : DWord) : (sWrite h g n x).role = g.role := by unfold sWrite; split <;> (try split) <;> rfl
@[simp] theorem sWrite_ring (h : Bool) (g : Group) (n : Nat) (x : DWord) : (sWrite h g n x).ring = g.ring := by unfold sWrite; split <;> (try split) <;> rfl
@[simp] theorem sWrite_txn (h : Bool) (g : Group) (n : Nat) (x : DWord) : (sWrite h g n x).txn = g.txn := by unfold sWrite; split <;> (try split) <;> rfl
@[simp] theorem sWrite_openCopies (h : Bool) (g : Group) (n : Nat) (x : DWord) : (sWrite h g n x).openCopies = g.openCopies := by unfold sWrite; split <;> (try split) <;> rfl
@[simp] theorem sWrite_batchSeq (h : Bool) (g : Group) (n : Nat) (x : DWord) : (sWrite h g n x).batchSeq = g.batchSeq := by unfold sWrite; split <;> (try split) <;> rfl
@[simp] theorem sWrite_batches (h : Bool) (g : Group) (n : Nat) (x : DWord) : (sWrite h g n x).batches = g.batches := by unfold sWrite; split <;> (try split) <;> rfl
@[simp] theorem sWrite_deferred (h : Bool) (g : Group) (n : Nat) (x : DWord) : (sWrite h g n x).deferred = g.deferred := by unfold sWrite; split <;> (try split) <;> rfl
@[simp] theorem sWrite_spawned (h : Bool) (g : Group) (n : Nat) (x : DWord) : (sWrite h g n x).spawned = g.spawned := by unfold sWrite; split <;> (try split) <;> rfl
@[simp] theorem sWrite_idle (h : Bool) (g : Group) (n : Nat) (x : DWord) : (sWrite h g n x).idle = g.idle := by unfold sWrite; split <;> (try split) <;> rfl
@[simp] theorem sWrite_pend (h : Bool) (g : Group) (n : Nat) (x : DWord) : (sWrite h g n x).pend = g.pend := by unfold sWrite; split <;> (try split) <;> rfl
@[simp] theorem sWrite_held (h : Bool) (g : Group) (n : Nat) (x : DWord) : (sWrite h g n x).held = g.held := by unfold sWrite; split <;> (try split) <;> rfl
@[simp] theorem sWrite_sieve (h : Bool) (g : Group) (n : Nat) (x : DWord) : (sWrite h g n x).sieve = g.sieve := by unfold sWrite; split <;> (try split) <;> rfl
@[simp] theorem sWrite_owedSieve (h : Bool) (g : Group) (n : Nat) (x : DWord) : (sWrite h g n x).owedSieve = g.owedSieve := by unfold sWrite; split <;> (try split) <;> rfl
@[simp] theorem sWrite_prologue (h : Bool) (g : Group) (n : Nat) (x : DWord) : (sWrite h g n x).prologue = g.prologue := by unfold sWrite; split <;> (try split) <;> rfl
@[simp] theorem sWrite_stopAsked (h : Bool) (g : Group) (n : Nat) (x : DWord) : (sWrite h g n x).stopAsked = g.stopAsked := by unfold sWrite; split <;> (try split) <;> rfl
@[simp] theorem sWrite_arriving (h : Bool) (g : Group) (n : Nat) (x : DWord) : (sWrite h g n x).arriving = g.arriving := by unfold sWrite; split <;> (try split) <;> rfl
@[simp] theorem sWrite_tlbiSeen (h : Bool) (g : Group) (n : Nat) (x : DWord) : (sWrite h g n x).tlbiSeen = g.tlbiSeen := by unfold sWrite; split <;> (try split) <;> rfl
@[simp] theorem sWrite_tlbiWait (h : Bool) (g : Group) (n : Nat) (x : DWord) : (sWrite h g n x).tlbiWait = g.tlbiWait := by unfold sWrite; split <;> (try split) <;> rfl
@[simp] theorem sWrite_fwd (h : Bool) (g : Group) (n : Nat) (x : DWord) : (sWrite h g n x).fwd = g.fwd := by unfold sWrite; split <;> (try split) <;> rfl
@[simp] theorem sWrite_pushed (h : Bool) (g : Group) (n : Nat) (x : DWord) : (sWrite h g n x).pushed = g.pushed := by unfold sWrite; split <;> (try split) <;> rfl

/-! ## pWrite writes predicates only -/

@[simp] theorem pWrite_status (g : Group) (n : Nat) (m x : LaneMask) : (pWrite g n m x).status = g.status := by unfold pWrite; split <;> rfl
@[simp] theorem pWrite_uid (g : Group) (n : Nat) (m x : LaneMask) : (pWrite g n m x).uid = g.uid := by unfold pWrite; split <;> rfl
@[simp] theorem pWrite_block (g : Group) (n : Nat) (m x : LaneMask) : (pWrite g n m x).block = g.block := by unfold pWrite; split <;> rfl
@[simp] theorem pWrite_gid (g : Group) (n : Nat) (m x : LaneMask) : (pWrite g n m x).gid = g.gid := by unfold pWrite; split <;> rfl
@[simp] theorem pWrite_member (g : Group) (n : Nat) (m x : LaneMask) : (pWrite g n m x).member = g.member := by unfold pWrite; split <;> rfl
@[simp] theorem pWrite_pc (g : Group) (n : Nat) (m x : LaneMask) : (pWrite g n m x).pc = g.pc := by unfold pWrite; split <;> rfl
@[simp] theorem pWrite_xm (g : Group) (n : Nat) (m x : LaneMask) : (pWrite g n m x).xm = g.xm := by unfold pWrite; split <;> rfl
@[simp] theorem pWrite_exited (g : Group) (n : Nat) (m x : LaneMask) : (pWrite g n m x).exited = g.exited := by unfold pWrite; split <;> rfl
@[simp] theorem pWrite_range (g : Group) (n : Nat) (m x : LaneMask) : (pWrite g n m x).range = g.range := by unfold pWrite; split <;> rfl
@[simp] theorem pWrite_v (g : Group) (n : Nat) (m x : LaneMask) : (pWrite g n m x).v = g.v := by unfold pWrite; split <;> rfl
@[simp] theorem pWrite_s (g : Group) (n : Nat) (m x : LaneMask) : (pWrite g n m x).s = g.s := by unfold pWrite; split <;> rfl
@[simp] theorem pWrite_hs (g : Group) (n : Nat) (m x : LaneMask) : (pWrite g n m x).hs = g.hs := by unfold pWrite; split <;> rfl
@[simp] theorem pWrite_latches (g : Group) (n : Nat) (m x : LaneMask) : (pWrite g n m x).latches = g.latches := by unfold pWrite; split <;> rfl
@[simp] theorem pWrite_chainPc (g : Group) (n : Nat) (m x : LaneMask) : (pWrite g n m x).chainPc = g.chainPc := by unfold pWrite; split <;> rfl
@[simp] theorem pWrite_chainLen (g : Group) (n : Nat) (m x : LaneMask) : (pWrite g n m x).chainLen = g.chainLen := by unfold pWrite; split <;> rfl
@[simp] theorem pWrite_chainPush (g : Group) (n : Nat) (m x : LaneMask) : (pWrite g n m x).chainPush = g.chainPush := by unfold pWrite; split <;> rfl
@[simp] theorem pWrite_div (g : Group) (n : Nat) (m x : LaneMask) : (pWrite g n m x).div = g.div := by unfold pWrite; split <;> rfl
@[simp] theorem pWrite_divSpill (g : Group) (n : Nat) (m x : LaneMask) : (pWrite g n m x).divSpill = g.divSpill := by unfold pWrite; split <;> rfl
@[simp] theorem pWrite_call (g : Group) (n : Nat) (m x : LaneMask) : (pWrite g n m x).call = g.call := by unfold pWrite; split <;> rfl
@[simp] theorem pWrite_callSpill (g : Group) (n : Nat) (m x : LaneMask) : (pWrite g n m x).callSpill = g.callSpill := by unfold pWrite; split <;> rfl
@[simp] theorem pWrite_prio (g : Group) (n : Nat) (m x : LaneMask) : (pWrite g n m x).prio = g.prio := by unfold pWrite; split <;> rfl
@[simp] theorem pWrite_mark (g : Group) (n : Nat) (m x : LaneMask) : (pWrite g n m x).mark = g.mark := by unfold pWrite; split <;> rfl
@[simp] theorem pWrite_fpflags (g : Group) (n : Nat) (m x : LaneMask) : (pWrite g n m x).fpflags = g.fpflags := by unfold pWrite; split <;> rfl
@[simp] theorem pWrite_yielding (g : Group) (n : Nat) (m x : LaneMask) : (pWrite g n m x).yielding = g.yielding := by unfold pWrite; split <;> rfl
@[simp] theorem pWrite_yieldAt (g : Group) (n : Nat) (m x : LaneMask) : (pWrite g n m x).yieldAt = g.yieldAt := by unfold pWrite; split <;> rfl
@[simp] theorem pWrite_starve (g : Group) (n : Nat) (m x : LaneMask) : (pWrite g n m x).starve = g.starve := by unfold pWrite; split <;> rfl
@[simp] theorem pWrite_issued (g : Group) (n : Nat) (m x : LaneMask) : (pWrite g n m x).issued = g.issued := by unfold pWrite; split <;> rfl
@[simp] theorem pWrite_phaseIssues (g : Group) (n : Nat) (m x : LaneMask) : (pWrite g n m x).phaseIssues = g.phaseIssues := by unfold pWrite; split <;> rfl
@[simp] theorem pWrite_cGrant (g : Group) (n : Nat) (m x : LaneMask) : (pWrite g n m x).cGrant = g.cGrant := by unfold pWrite; split <;> rfl
@[simp] theorem pWrite_cMon (g : Group) (n : Nat) (m x : LaneMask) : (pWrite g n m x).cMon = g.cMon := by unfold pWrite; split <;> rfl
@[simp] theorem pWrite_cBatch (g : Group) (n : Nat) (m x : LaneMask) : (pWrite g n m x).cBatch = g.cBatch := by unfold pWrite; split <;> rfl
@[simp] theorem pWrite_cJoin (g : Group) (n : Nat) (m x : LaneMask) : (pWrite g n m x).cJoin = g.cJoin := by unfold pWrite; split <;> rfl
@[simp] theorem pWrite_cQueue (g : Group) (n : Nat) (m x : LaneMask) : (pWrite g n m x).cQueue = g.cQueue := by unfold pWrite; split <;> rfl
@[simp] theorem pWrite_cToken (g : Group) (n : Nat) (m x : LaneMask) : (pWrite g n m x).cToken = g.cToken := by unfold pWrite; split <;> rfl
@[simp] theorem pWrite_monLine (g : Group) (n : Nat) (m x : LaneMask) : (pWrite g n m x).monLine = g.monLine := by unfold pWrite; split <;> rfl
@[simp] theorem pWrite_monAt (g : Group) (n : Nat) (m x : LaneMask) : (pWrite g n m x).monAt = g.monAt := by unfold pWrite; split <;> rfl
@[simp] theorem pWrite_tid (g : Group) (n : Nat) (m x : LaneMask) : (pWrite g n m x).tid = g.tid := by unfold pWrite; split <;> rfl
@[simp] theorem pWrite_epc (g : Group) (n : Nat) (m x : LaneMask) : (pWrite g n m x).epc = g.epc := by unfold pWrite; split <;> rfl
@[simp] theorem pWrite_ecause (g : Group) (n : Nat) (m x : LaneMask) : (pWrite g n m x).ecause = g.ecause := by unfold pWrite; split <;> rfl
@[simp] theorem pWrite_erec (g : Group) (n : Nat) (m x : LaneMask) : (pWrite g n m x).erec = g.erec := by unfold pWrite; split <;> rfl
@[simp] theorem pWrite_exm0 (g : Group) (n : Nat) (m x : LaneMask) : (pWrite g n m x).exm0 = g.exm0 := by unfold pWrite; split <;> rfl
@[simp] theorem pWrite_exm1 (g : Group) (n : Nat) (m x : LaneMask) : (pWrite g n m x).exm1 = g.exm1 := by unfold pWrite; split <;> rfl
@[simp] theorem pWrite_priv (g : Group) (n : Nat) (m x : LaneMask) : (pWrite g n m x).priv = g.priv := by unfold pWrite; split <;> rfl
@[simp] theorem pWrite_faultMask (g : Group) (n : Nat) (m x : LaneMask) : (pWrite g n m x).faultMask = g.faultMask := by unfold pWrite; split <;> rfl
@[simp] theorem pWrite_faultPerLane (g : Group) (n : Nat) (m x : LaneMask) : (pWrite g n m x).faultPerLane = g.faultPerLane := by unfold pWrite; split <;> rfl
@[simp] theorem pWrite_faultElems (g : Group) (n : Nat) (m x : LaneMask) : (pWrite g n m x).faultElems = g.faultElems := by unfold pWrite; split <;> rfl
@[simp] theorem pWrite_qph (g : Group) (n : Nat) (m x : LaneMask) : (pWrite g n m x).qph = g.qph := by unfold pWrite; split <;> rfl
@[simp] theorem pWrite_qcl (g : Group) (n : Nat) (m x : LaneMask) : (pWrite g n m x).qcl = g.qcl := by unfold pWrite; split <;> rfl
@[simp] theorem pWrite_stk (g : Group) (n : Nat) (m x : LaneMask) : (pWrite g n m x).stk = g.stk := by unfold pWrite; split <;> rfl
@[simp] theorem pWrite_role (g : Group) (n : Nat) (m x : LaneMask) : (pWrite g n m x).role = g.role := by unfold pWrite; split <;> rfl
@[simp] theorem pWrite_ring (g : Group) (n : Nat) (m x : LaneMask) : (pWrite g n m x).ring = g.ring := by unfold pWrite; split <;> rfl
@[simp] theorem pWrite_txn (g : Group) (n : Nat) (m x : LaneMask) : (pWrite g n m x).txn = g.txn := by unfold pWrite; split <;> rfl
@[simp] theorem pWrite_openCopies (g : Group) (n : Nat) (m x : LaneMask) : (pWrite g n m x).openCopies = g.openCopies := by unfold pWrite; split <;> rfl
@[simp] theorem pWrite_batchSeq (g : Group) (n : Nat) (m x : LaneMask) : (pWrite g n m x).batchSeq = g.batchSeq := by unfold pWrite; split <;> rfl
@[simp] theorem pWrite_batches (g : Group) (n : Nat) (m x : LaneMask) : (pWrite g n m x).batches = g.batches := by unfold pWrite; split <;> rfl
@[simp] theorem pWrite_deferred (g : Group) (n : Nat) (m x : LaneMask) : (pWrite g n m x).deferred = g.deferred := by unfold pWrite; split <;> rfl
@[simp] theorem pWrite_spawned (g : Group) (n : Nat) (m x : LaneMask) : (pWrite g n m x).spawned = g.spawned := by unfold pWrite; split <;> rfl
@[simp] theorem pWrite_idle (g : Group) (n : Nat) (m x : LaneMask) : (pWrite g n m x).idle = g.idle := by unfold pWrite; split <;> rfl
@[simp] theorem pWrite_pend (g : Group) (n : Nat) (m x : LaneMask) : (pWrite g n m x).pend = g.pend := by unfold pWrite; split <;> rfl
@[simp] theorem pWrite_held (g : Group) (n : Nat) (m x : LaneMask) : (pWrite g n m x).held = g.held := by unfold pWrite; split <;> rfl
@[simp] theorem pWrite_sieve (g : Group) (n : Nat) (m x : LaneMask) : (pWrite g n m x).sieve = g.sieve := by unfold pWrite; split <;> rfl
@[simp] theorem pWrite_owedSieve (g : Group) (n : Nat) (m x : LaneMask) : (pWrite g n m x).owedSieve = g.owedSieve := by unfold pWrite; split <;> rfl
@[simp] theorem pWrite_prologue (g : Group) (n : Nat) (m x : LaneMask) : (pWrite g n m x).prologue = g.prologue := by unfold pWrite; split <;> rfl
@[simp] theorem pWrite_stopAsked (g : Group) (n : Nat) (m x : LaneMask) : (pWrite g n m x).stopAsked = g.stopAsked := by unfold pWrite; split <;> rfl
@[simp] theorem pWrite_arriving (g : Group) (n : Nat) (m x : LaneMask) : (pWrite g n m x).arriving = g.arriving := by unfold pWrite; split <;> rfl
@[simp] theorem pWrite_tlbiSeen (g : Group) (n : Nat) (m x : LaneMask) : (pWrite g n m x).tlbiSeen = g.tlbiSeen := by unfold pWrite; split <;> rfl
@[simp] theorem pWrite_tlbiWait (g : Group) (n : Nat) (m x : LaneMask) : (pWrite g n m x).tlbiWait = g.tlbiWait := by unfold pWrite; split <;> rfl
@[simp] theorem pWrite_fwd (g : Group) (n : Nat) (m x : LaneMask) : (pWrite g n m x).fwd = g.fwd := by unfold pWrite; split <;> rfl
@[simp] theorem pWrite_pushed (g : Group) (n : Nat) (m x : LaneMask) : (pWrite g n m x).pushed = g.pushed := by unfold pWrite; split <;> rfl

/-! ## vWrite writes vector registers only -/

@[simp] theorem vWrite_status (g : Group) (n : Nat) (m : LaneMask) (x : Nat → Word) : (vWrite g n m x).status = g.status := rfl
@[simp] theorem vWrite_uid (g : Group) (n : Nat) (m : LaneMask) (x : Nat → Word) : (vWrite g n m x).uid = g.uid := rfl
@[simp] theorem vWrite_block (g : Group) (n : Nat) (m : LaneMask) (x : Nat → Word) : (vWrite g n m x).block = g.block := rfl
@[simp] theorem vWrite_gid (g : Group) (n : Nat) (m : LaneMask) (x : Nat → Word) : (vWrite g n m x).gid = g.gid := rfl
@[simp] theorem vWrite_member (g : Group) (n : Nat) (m : LaneMask) (x : Nat → Word) : (vWrite g n m x).member = g.member := rfl
@[simp] theorem vWrite_pc (g : Group) (n : Nat) (m : LaneMask) (x : Nat → Word) : (vWrite g n m x).pc = g.pc := rfl
@[simp] theorem vWrite_xm (g : Group) (n : Nat) (m : LaneMask) (x : Nat → Word) : (vWrite g n m x).xm = g.xm := rfl
@[simp] theorem vWrite_exited (g : Group) (n : Nat) (m : LaneMask) (x : Nat → Word) : (vWrite g n m x).exited = g.exited := rfl
@[simp] theorem vWrite_range (g : Group) (n : Nat) (m : LaneMask) (x : Nat → Word) : (vWrite g n m x).range = g.range := rfl
@[simp] theorem vWrite_s (g : Group) (n : Nat) (m : LaneMask) (x : Nat → Word) : (vWrite g n m x).s = g.s := rfl
@[simp] theorem vWrite_hs (g : Group) (n : Nat) (m : LaneMask) (x : Nat → Word) : (vWrite g n m x).hs = g.hs := rfl
@[simp] theorem vWrite_p (g : Group) (n : Nat) (m : LaneMask) (x : Nat → Word) : (vWrite g n m x).p = g.p := rfl
@[simp] theorem vWrite_latches (g : Group) (n : Nat) (m : LaneMask) (x : Nat → Word) : (vWrite g n m x).latches = g.latches := rfl
@[simp] theorem vWrite_chainPc (g : Group) (n : Nat) (m : LaneMask) (x : Nat → Word) : (vWrite g n m x).chainPc = g.chainPc := rfl
@[simp] theorem vWrite_chainLen (g : Group) (n : Nat) (m : LaneMask) (x : Nat → Word) : (vWrite g n m x).chainLen = g.chainLen := rfl
@[simp] theorem vWrite_chainPush (g : Group) (n : Nat) (m : LaneMask) (x : Nat → Word) : (vWrite g n m x).chainPush = g.chainPush := rfl
@[simp] theorem vWrite_div (g : Group) (n : Nat) (m : LaneMask) (x : Nat → Word) : (vWrite g n m x).div = g.div := rfl
@[simp] theorem vWrite_divSpill (g : Group) (n : Nat) (m : LaneMask) (x : Nat → Word) : (vWrite g n m x).divSpill = g.divSpill := rfl
@[simp] theorem vWrite_call (g : Group) (n : Nat) (m : LaneMask) (x : Nat → Word) : (vWrite g n m x).call = g.call := rfl
@[simp] theorem vWrite_callSpill (g : Group) (n : Nat) (m : LaneMask) (x : Nat → Word) : (vWrite g n m x).callSpill = g.callSpill := rfl
@[simp] theorem vWrite_prio (g : Group) (n : Nat) (m : LaneMask) (x : Nat → Word) : (vWrite g n m x).prio = g.prio := rfl
@[simp] theorem vWrite_mark (g : Group) (n : Nat) (m : LaneMask) (x : Nat → Word) : (vWrite g n m x).mark = g.mark := rfl
@[simp] theorem vWrite_fpflags (g : Group) (n : Nat) (m : LaneMask) (x : Nat → Word) : (vWrite g n m x).fpflags = g.fpflags := rfl
@[simp] theorem vWrite_yielding (g : Group) (n : Nat) (m : LaneMask) (x : Nat → Word) : (vWrite g n m x).yielding = g.yielding := rfl
@[simp] theorem vWrite_yieldAt (g : Group) (n : Nat) (m : LaneMask) (x : Nat → Word) : (vWrite g n m x).yieldAt = g.yieldAt := rfl
@[simp] theorem vWrite_starve (g : Group) (n : Nat) (m : LaneMask) (x : Nat → Word) : (vWrite g n m x).starve = g.starve := rfl
@[simp] theorem vWrite_issued (g : Group) (n : Nat) (m : LaneMask) (x : Nat → Word) : (vWrite g n m x).issued = g.issued := rfl
@[simp] theorem vWrite_phaseIssues (g : Group) (n : Nat) (m : LaneMask) (x : Nat → Word) : (vWrite g n m x).phaseIssues = g.phaseIssues := rfl
@[simp] theorem vWrite_cGrant (g : Group) (n : Nat) (m : LaneMask) (x : Nat → Word) : (vWrite g n m x).cGrant = g.cGrant := rfl
@[simp] theorem vWrite_cMon (g : Group) (n : Nat) (m : LaneMask) (x : Nat → Word) : (vWrite g n m x).cMon = g.cMon := rfl
@[simp] theorem vWrite_cBatch (g : Group) (n : Nat) (m : LaneMask) (x : Nat → Word) : (vWrite g n m x).cBatch = g.cBatch := rfl
@[simp] theorem vWrite_cJoin (g : Group) (n : Nat) (m : LaneMask) (x : Nat → Word) : (vWrite g n m x).cJoin = g.cJoin := rfl
@[simp] theorem vWrite_cQueue (g : Group) (n : Nat) (m : LaneMask) (x : Nat → Word) : (vWrite g n m x).cQueue = g.cQueue := rfl
@[simp] theorem vWrite_cToken (g : Group) (n : Nat) (m : LaneMask) (x : Nat → Word) : (vWrite g n m x).cToken = g.cToken := rfl
@[simp] theorem vWrite_monLine (g : Group) (n : Nat) (m : LaneMask) (x : Nat → Word) : (vWrite g n m x).monLine = g.monLine := rfl
@[simp] theorem vWrite_monAt (g : Group) (n : Nat) (m : LaneMask) (x : Nat → Word) : (vWrite g n m x).monAt = g.monAt := rfl
@[simp] theorem vWrite_tid (g : Group) (n : Nat) (m : LaneMask) (x : Nat → Word) : (vWrite g n m x).tid = g.tid := rfl
@[simp] theorem vWrite_epc (g : Group) (n : Nat) (m : LaneMask) (x : Nat → Word) : (vWrite g n m x).epc = g.epc := rfl
@[simp] theorem vWrite_ecause (g : Group) (n : Nat) (m : LaneMask) (x : Nat → Word) : (vWrite g n m x).ecause = g.ecause := rfl
@[simp] theorem vWrite_erec (g : Group) (n : Nat) (m : LaneMask) (x : Nat → Word) : (vWrite g n m x).erec = g.erec := rfl
@[simp] theorem vWrite_exm0 (g : Group) (n : Nat) (m : LaneMask) (x : Nat → Word) : (vWrite g n m x).exm0 = g.exm0 := rfl
@[simp] theorem vWrite_exm1 (g : Group) (n : Nat) (m : LaneMask) (x : Nat → Word) : (vWrite g n m x).exm1 = g.exm1 := rfl
@[simp] theorem vWrite_priv (g : Group) (n : Nat) (m : LaneMask) (x : Nat → Word) : (vWrite g n m x).priv = g.priv := rfl
@[simp] theorem vWrite_faultMask (g : Group) (n : Nat) (m : LaneMask) (x : Nat → Word) : (vWrite g n m x).faultMask = g.faultMask := rfl
@[simp] theorem vWrite_faultPerLane (g : Group) (n : Nat) (m : LaneMask) (x : Nat → Word) : (vWrite g n m x).faultPerLane = g.faultPerLane := rfl
@[simp] theorem vWrite_faultElems (g : Group) (n : Nat) (m : LaneMask) (x : Nat → Word) : (vWrite g n m x).faultElems = g.faultElems := rfl
@[simp] theorem vWrite_qph (g : Group) (n : Nat) (m : LaneMask) (x : Nat → Word) : (vWrite g n m x).qph = g.qph := rfl
@[simp] theorem vWrite_qcl (g : Group) (n : Nat) (m : LaneMask) (x : Nat → Word) : (vWrite g n m x).qcl = g.qcl := rfl
@[simp] theorem vWrite_stk (g : Group) (n : Nat) (m : LaneMask) (x : Nat → Word) : (vWrite g n m x).stk = g.stk := rfl
@[simp] theorem vWrite_role (g : Group) (n : Nat) (m : LaneMask) (x : Nat → Word) : (vWrite g n m x).role = g.role := rfl
@[simp] theorem vWrite_ring (g : Group) (n : Nat) (m : LaneMask) (x : Nat → Word) : (vWrite g n m x).ring = g.ring := rfl
@[simp] theorem vWrite_txn (g : Group) (n : Nat) (m : LaneMask) (x : Nat → Word) : (vWrite g n m x).txn = g.txn := rfl
@[simp] theorem vWrite_openCopies (g : Group) (n : Nat) (m : LaneMask) (x : Nat → Word) : (vWrite g n m x).openCopies = g.openCopies := rfl
@[simp] theorem vWrite_batchSeq (g : Group) (n : Nat) (m : LaneMask) (x : Nat → Word) : (vWrite g n m x).batchSeq = g.batchSeq := rfl
@[simp] theorem vWrite_batches (g : Group) (n : Nat) (m : LaneMask) (x : Nat → Word) : (vWrite g n m x).batches = g.batches := rfl
@[simp] theorem vWrite_deferred (g : Group) (n : Nat) (m : LaneMask) (x : Nat → Word) : (vWrite g n m x).deferred = g.deferred := rfl
@[simp] theorem vWrite_spawned (g : Group) (n : Nat) (m : LaneMask) (x : Nat → Word) : (vWrite g n m x).spawned = g.spawned := rfl
@[simp] theorem vWrite_idle (g : Group) (n : Nat) (m : LaneMask) (x : Nat → Word) : (vWrite g n m x).idle = g.idle := rfl
@[simp] theorem vWrite_pend (g : Group) (n : Nat) (m : LaneMask) (x : Nat → Word) : (vWrite g n m x).pend = g.pend := rfl
@[simp] theorem vWrite_held (g : Group) (n : Nat) (m : LaneMask) (x : Nat → Word) : (vWrite g n m x).held = g.held := rfl
@[simp] theorem vWrite_sieve (g : Group) (n : Nat) (m : LaneMask) (x : Nat → Word) : (vWrite g n m x).sieve = g.sieve := rfl
@[simp] theorem vWrite_owedSieve (g : Group) (n : Nat) (m : LaneMask) (x : Nat → Word) : (vWrite g n m x).owedSieve = g.owedSieve := rfl
@[simp] theorem vWrite_prologue (g : Group) (n : Nat) (m : LaneMask) (x : Nat → Word) : (vWrite g n m x).prologue = g.prologue := rfl
@[simp] theorem vWrite_stopAsked (g : Group) (n : Nat) (m : LaneMask) (x : Nat → Word) : (vWrite g n m x).stopAsked = g.stopAsked := rfl
@[simp] theorem vWrite_arriving (g : Group) (n : Nat) (m : LaneMask) (x : Nat → Word) : (vWrite g n m x).arriving = g.arriving := rfl
@[simp] theorem vWrite_tlbiSeen (g : Group) (n : Nat) (m : LaneMask) (x : Nat → Word) : (vWrite g n m x).tlbiSeen = g.tlbiSeen := rfl
@[simp] theorem vWrite_tlbiWait (g : Group) (n : Nat) (m : LaneMask) (x : Nat → Word) : (vWrite g n m x).tlbiWait = g.tlbiWait := rfl
@[simp] theorem vWrite_fwd (g : Group) (n : Nat) (m : LaneMask) (x : Nat → Word) : (vWrite g n m x).fwd = g.fwd := rfl
@[simp] theorem vWrite_pushed (g : Group) (n : Nat) (m : LaneMask) (x : Nat → Word) : (vWrite g n m x).pushed = g.pushed := rfl

/-! ## vPut writes vector registers only -/

@[simp] theorem vPut_status (g : Group) (n : Nat) (pair : Bool) (m : LaneMask) (x : Nat → DWord) : (vPut g n pair m x).status = g.status := by unfold vPut; cases pair <;> rfl
@[simp] theorem vPut_uid (g : Group) (n : Nat) (pair : Bool) (m : LaneMask) (x : Nat → DWord) : (vPut g n pair m x).uid = g.uid := by unfold vPut; cases pair <;> rfl
@[simp] theorem vPut_block (g : Group) (n : Nat) (pair : Bool) (m : LaneMask) (x : Nat → DWord) : (vPut g n pair m x).block = g.block := by unfold vPut; cases pair <;> rfl
@[simp] theorem vPut_gid (g : Group) (n : Nat) (pair : Bool) (m : LaneMask) (x : Nat → DWord) : (vPut g n pair m x).gid = g.gid := by unfold vPut; cases pair <;> rfl
@[simp] theorem vPut_member (g : Group) (n : Nat) (pair : Bool) (m : LaneMask) (x : Nat → DWord) : (vPut g n pair m x).member = g.member := by unfold vPut; cases pair <;> rfl
@[simp] theorem vPut_pc (g : Group) (n : Nat) (pair : Bool) (m : LaneMask) (x : Nat → DWord) : (vPut g n pair m x).pc = g.pc := by unfold vPut; cases pair <;> rfl
@[simp] theorem vPut_xm (g : Group) (n : Nat) (pair : Bool) (m : LaneMask) (x : Nat → DWord) : (vPut g n pair m x).xm = g.xm := by unfold vPut; cases pair <;> rfl
@[simp] theorem vPut_exited (g : Group) (n : Nat) (pair : Bool) (m : LaneMask) (x : Nat → DWord) : (vPut g n pair m x).exited = g.exited := by unfold vPut; cases pair <;> rfl
@[simp] theorem vPut_range (g : Group) (n : Nat) (pair : Bool) (m : LaneMask) (x : Nat → DWord) : (vPut g n pair m x).range = g.range := by unfold vPut; cases pair <;> rfl
@[simp] theorem vPut_s (g : Group) (n : Nat) (pair : Bool) (m : LaneMask) (x : Nat → DWord) : (vPut g n pair m x).s = g.s := by unfold vPut; cases pair <;> rfl
@[simp] theorem vPut_hs (g : Group) (n : Nat) (pair : Bool) (m : LaneMask) (x : Nat → DWord) : (vPut g n pair m x).hs = g.hs := by unfold vPut; cases pair <;> rfl
@[simp] theorem vPut_p (g : Group) (n : Nat) (pair : Bool) (m : LaneMask) (x : Nat → DWord) : (vPut g n pair m x).p = g.p := by unfold vPut; cases pair <;> rfl
@[simp] theorem vPut_latches (g : Group) (n : Nat) (pair : Bool) (m : LaneMask) (x : Nat → DWord) : (vPut g n pair m x).latches = g.latches := by unfold vPut; cases pair <;> rfl
@[simp] theorem vPut_chainPc (g : Group) (n : Nat) (pair : Bool) (m : LaneMask) (x : Nat → DWord) : (vPut g n pair m x).chainPc = g.chainPc := by unfold vPut; cases pair <;> rfl
@[simp] theorem vPut_chainLen (g : Group) (n : Nat) (pair : Bool) (m : LaneMask) (x : Nat → DWord) : (vPut g n pair m x).chainLen = g.chainLen := by unfold vPut; cases pair <;> rfl
@[simp] theorem vPut_chainPush (g : Group) (n : Nat) (pair : Bool) (m : LaneMask) (x : Nat → DWord) : (vPut g n pair m x).chainPush = g.chainPush := by unfold vPut; cases pair <;> rfl
@[simp] theorem vPut_div (g : Group) (n : Nat) (pair : Bool) (m : LaneMask) (x : Nat → DWord) : (vPut g n pair m x).div = g.div := by unfold vPut; cases pair <;> rfl
@[simp] theorem vPut_divSpill (g : Group) (n : Nat) (pair : Bool) (m : LaneMask) (x : Nat → DWord) : (vPut g n pair m x).divSpill = g.divSpill := by unfold vPut; cases pair <;> rfl
@[simp] theorem vPut_call (g : Group) (n : Nat) (pair : Bool) (m : LaneMask) (x : Nat → DWord) : (vPut g n pair m x).call = g.call := by unfold vPut; cases pair <;> rfl
@[simp] theorem vPut_callSpill (g : Group) (n : Nat) (pair : Bool) (m : LaneMask) (x : Nat → DWord) : (vPut g n pair m x).callSpill = g.callSpill := by unfold vPut; cases pair <;> rfl
@[simp] theorem vPut_prio (g : Group) (n : Nat) (pair : Bool) (m : LaneMask) (x : Nat → DWord) : (vPut g n pair m x).prio = g.prio := by unfold vPut; cases pair <;> rfl
@[simp] theorem vPut_mark (g : Group) (n : Nat) (pair : Bool) (m : LaneMask) (x : Nat → DWord) : (vPut g n pair m x).mark = g.mark := by unfold vPut; cases pair <;> rfl
@[simp] theorem vPut_fpflags (g : Group) (n : Nat) (pair : Bool) (m : LaneMask) (x : Nat → DWord) : (vPut g n pair m x).fpflags = g.fpflags := by unfold vPut; cases pair <;> rfl
@[simp] theorem vPut_yielding (g : Group) (n : Nat) (pair : Bool) (m : LaneMask) (x : Nat → DWord) : (vPut g n pair m x).yielding = g.yielding := by unfold vPut; cases pair <;> rfl
@[simp] theorem vPut_yieldAt (g : Group) (n : Nat) (pair : Bool) (m : LaneMask) (x : Nat → DWord) : (vPut g n pair m x).yieldAt = g.yieldAt := by unfold vPut; cases pair <;> rfl
@[simp] theorem vPut_starve (g : Group) (n : Nat) (pair : Bool) (m : LaneMask) (x : Nat → DWord) : (vPut g n pair m x).starve = g.starve := by unfold vPut; cases pair <;> rfl
@[simp] theorem vPut_issued (g : Group) (n : Nat) (pair : Bool) (m : LaneMask) (x : Nat → DWord) : (vPut g n pair m x).issued = g.issued := by unfold vPut; cases pair <;> rfl
@[simp] theorem vPut_phaseIssues (g : Group) (n : Nat) (pair : Bool) (m : LaneMask) (x : Nat → DWord) : (vPut g n pair m x).phaseIssues = g.phaseIssues := by unfold vPut; cases pair <;> rfl
@[simp] theorem vPut_cGrant (g : Group) (n : Nat) (pair : Bool) (m : LaneMask) (x : Nat → DWord) : (vPut g n pair m x).cGrant = g.cGrant := by unfold vPut; cases pair <;> rfl
@[simp] theorem vPut_cMon (g : Group) (n : Nat) (pair : Bool) (m : LaneMask) (x : Nat → DWord) : (vPut g n pair m x).cMon = g.cMon := by unfold vPut; cases pair <;> rfl
@[simp] theorem vPut_cBatch (g : Group) (n : Nat) (pair : Bool) (m : LaneMask) (x : Nat → DWord) : (vPut g n pair m x).cBatch = g.cBatch := by unfold vPut; cases pair <;> rfl
@[simp] theorem vPut_cJoin (g : Group) (n : Nat) (pair : Bool) (m : LaneMask) (x : Nat → DWord) : (vPut g n pair m x).cJoin = g.cJoin := by unfold vPut; cases pair <;> rfl
@[simp] theorem vPut_cQueue (g : Group) (n : Nat) (pair : Bool) (m : LaneMask) (x : Nat → DWord) : (vPut g n pair m x).cQueue = g.cQueue := by unfold vPut; cases pair <;> rfl
@[simp] theorem vPut_cToken (g : Group) (n : Nat) (pair : Bool) (m : LaneMask) (x : Nat → DWord) : (vPut g n pair m x).cToken = g.cToken := by unfold vPut; cases pair <;> rfl
@[simp] theorem vPut_monLine (g : Group) (n : Nat) (pair : Bool) (m : LaneMask) (x : Nat → DWord) : (vPut g n pair m x).monLine = g.monLine := by unfold vPut; cases pair <;> rfl
@[simp] theorem vPut_monAt (g : Group) (n : Nat) (pair : Bool) (m : LaneMask) (x : Nat → DWord) : (vPut g n pair m x).monAt = g.monAt := by unfold vPut; cases pair <;> rfl
@[simp] theorem vPut_tid (g : Group) (n : Nat) (pair : Bool) (m : LaneMask) (x : Nat → DWord) : (vPut g n pair m x).tid = g.tid := by unfold vPut; cases pair <;> rfl
@[simp] theorem vPut_epc (g : Group) (n : Nat) (pair : Bool) (m : LaneMask) (x : Nat → DWord) : (vPut g n pair m x).epc = g.epc := by unfold vPut; cases pair <;> rfl
@[simp] theorem vPut_ecause (g : Group) (n : Nat) (pair : Bool) (m : LaneMask) (x : Nat → DWord) : (vPut g n pair m x).ecause = g.ecause := by unfold vPut; cases pair <;> rfl
@[simp] theorem vPut_erec (g : Group) (n : Nat) (pair : Bool) (m : LaneMask) (x : Nat → DWord) : (vPut g n pair m x).erec = g.erec := by unfold vPut; cases pair <;> rfl
@[simp] theorem vPut_exm0 (g : Group) (n : Nat) (pair : Bool) (m : LaneMask) (x : Nat → DWord) : (vPut g n pair m x).exm0 = g.exm0 := by unfold vPut; cases pair <;> rfl
@[simp] theorem vPut_exm1 (g : Group) (n : Nat) (pair : Bool) (m : LaneMask) (x : Nat → DWord) : (vPut g n pair m x).exm1 = g.exm1 := by unfold vPut; cases pair <;> rfl
@[simp] theorem vPut_priv (g : Group) (n : Nat) (pair : Bool) (m : LaneMask) (x : Nat → DWord) : (vPut g n pair m x).priv = g.priv := by unfold vPut; cases pair <;> rfl
@[simp] theorem vPut_faultMask (g : Group) (n : Nat) (pair : Bool) (m : LaneMask) (x : Nat → DWord) : (vPut g n pair m x).faultMask = g.faultMask := by unfold vPut; cases pair <;> rfl
@[simp] theorem vPut_faultPerLane (g : Group) (n : Nat) (pair : Bool) (m : LaneMask) (x : Nat → DWord) : (vPut g n pair m x).faultPerLane = g.faultPerLane := by unfold vPut; cases pair <;> rfl
@[simp] theorem vPut_faultElems (g : Group) (n : Nat) (pair : Bool) (m : LaneMask) (x : Nat → DWord) : (vPut g n pair m x).faultElems = g.faultElems := by unfold vPut; cases pair <;> rfl
@[simp] theorem vPut_qph (g : Group) (n : Nat) (pair : Bool) (m : LaneMask) (x : Nat → DWord) : (vPut g n pair m x).qph = g.qph := by unfold vPut; cases pair <;> rfl
@[simp] theorem vPut_qcl (g : Group) (n : Nat) (pair : Bool) (m : LaneMask) (x : Nat → DWord) : (vPut g n pair m x).qcl = g.qcl := by unfold vPut; cases pair <;> rfl
@[simp] theorem vPut_stk (g : Group) (n : Nat) (pair : Bool) (m : LaneMask) (x : Nat → DWord) : (vPut g n pair m x).stk = g.stk := by unfold vPut; cases pair <;> rfl
@[simp] theorem vPut_role (g : Group) (n : Nat) (pair : Bool) (m : LaneMask) (x : Nat → DWord) : (vPut g n pair m x).role = g.role := by unfold vPut; cases pair <;> rfl
@[simp] theorem vPut_ring (g : Group) (n : Nat) (pair : Bool) (m : LaneMask) (x : Nat → DWord) : (vPut g n pair m x).ring = g.ring := by unfold vPut; cases pair <;> rfl
@[simp] theorem vPut_txn (g : Group) (n : Nat) (pair : Bool) (m : LaneMask) (x : Nat → DWord) : (vPut g n pair m x).txn = g.txn := by unfold vPut; cases pair <;> rfl
@[simp] theorem vPut_openCopies (g : Group) (n : Nat) (pair : Bool) (m : LaneMask) (x : Nat → DWord) : (vPut g n pair m x).openCopies = g.openCopies := by unfold vPut; cases pair <;> rfl
@[simp] theorem vPut_batchSeq (g : Group) (n : Nat) (pair : Bool) (m : LaneMask) (x : Nat → DWord) : (vPut g n pair m x).batchSeq = g.batchSeq := by unfold vPut; cases pair <;> rfl
@[simp] theorem vPut_batches (g : Group) (n : Nat) (pair : Bool) (m : LaneMask) (x : Nat → DWord) : (vPut g n pair m x).batches = g.batches := by unfold vPut; cases pair <;> rfl
@[simp] theorem vPut_deferred (g : Group) (n : Nat) (pair : Bool) (m : LaneMask) (x : Nat → DWord) : (vPut g n pair m x).deferred = g.deferred := by unfold vPut; cases pair <;> rfl
@[simp] theorem vPut_spawned (g : Group) (n : Nat) (pair : Bool) (m : LaneMask) (x : Nat → DWord) : (vPut g n pair m x).spawned = g.spawned := by unfold vPut; cases pair <;> rfl
@[simp] theorem vPut_idle (g : Group) (n : Nat) (pair : Bool) (m : LaneMask) (x : Nat → DWord) : (vPut g n pair m x).idle = g.idle := by unfold vPut; cases pair <;> rfl
@[simp] theorem vPut_pend (g : Group) (n : Nat) (pair : Bool) (m : LaneMask) (x : Nat → DWord) : (vPut g n pair m x).pend = g.pend := by unfold vPut; cases pair <;> rfl
@[simp] theorem vPut_held (g : Group) (n : Nat) (pair : Bool) (m : LaneMask) (x : Nat → DWord) : (vPut g n pair m x).held = g.held := by unfold vPut; cases pair <;> rfl
@[simp] theorem vPut_sieve (g : Group) (n : Nat) (pair : Bool) (m : LaneMask) (x : Nat → DWord) : (vPut g n pair m x).sieve = g.sieve := by unfold vPut; cases pair <;> rfl
@[simp] theorem vPut_owedSieve (g : Group) (n : Nat) (pair : Bool) (m : LaneMask) (x : Nat → DWord) : (vPut g n pair m x).owedSieve = g.owedSieve := by unfold vPut; cases pair <;> rfl
@[simp] theorem vPut_prologue (g : Group) (n : Nat) (pair : Bool) (m : LaneMask) (x : Nat → DWord) : (vPut g n pair m x).prologue = g.prologue := by unfold vPut; cases pair <;> rfl
@[simp] theorem vPut_stopAsked (g : Group) (n : Nat) (pair : Bool) (m : LaneMask) (x : Nat → DWord) : (vPut g n pair m x).stopAsked = g.stopAsked := by unfold vPut; cases pair <;> rfl
@[simp] theorem vPut_arriving (g : Group) (n : Nat) (pair : Bool) (m : LaneMask) (x : Nat → DWord) : (vPut g n pair m x).arriving = g.arriving := by unfold vPut; cases pair <;> rfl
@[simp] theorem vPut_tlbiSeen (g : Group) (n : Nat) (pair : Bool) (m : LaneMask) (x : Nat → DWord) : (vPut g n pair m x).tlbiSeen = g.tlbiSeen := by unfold vPut; cases pair <;> rfl
@[simp] theorem vPut_tlbiWait (g : Group) (n : Nat) (pair : Bool) (m : LaneMask) (x : Nat → DWord) : (vPut g n pair m x).tlbiWait = g.tlbiWait := by unfold vPut; cases pair <;> rfl
@[simp] theorem vPut_fwd (g : Group) (n : Nat) (pair : Bool) (m : LaneMask) (x : Nat → DWord) : (vPut g n pair m x).fwd = g.fwd := by unfold vPut; cases pair <;> rfl
@[simp] theorem vPut_pushed (g : Group) (n : Nat) (pair : Bool) (m : LaneMask) (x : Nat → DWord) : (vPut g n pair m x).pushed = g.pushed := by unfold vPut; cases pair <;> rfl

/-! ## putD writes register files only -/

@[simp] theorem putD_status (s : State) (g : Group) (f : XForm) (u pair : Bool) (x : Nat → DWord) : (putD s g f u pair x).status = g.status := by unfold putD; dsimp only; split <;> (try split) <;> simp
@[simp] theorem putD_uid (s : State) (g : Group) (f : XForm) (u pair : Bool) (x : Nat → DWord) : (putD s g f u pair x).uid = g.uid := by unfold putD; dsimp only; split <;> (try split) <;> simp
@[simp] theorem putD_block (s : State) (g : Group) (f : XForm) (u pair : Bool) (x : Nat → DWord) : (putD s g f u pair x).block = g.block := by unfold putD; dsimp only; split <;> (try split) <;> simp
@[simp] theorem putD_gid (s : State) (g : Group) (f : XForm) (u pair : Bool) (x : Nat → DWord) : (putD s g f u pair x).gid = g.gid := by unfold putD; dsimp only; split <;> (try split) <;> simp
@[simp] theorem putD_member (s : State) (g : Group) (f : XForm) (u pair : Bool) (x : Nat → DWord) : (putD s g f u pair x).member = g.member := by unfold putD; dsimp only; split <;> (try split) <;> simp
@[simp] theorem putD_pc (s : State) (g : Group) (f : XForm) (u pair : Bool) (x : Nat → DWord) : (putD s g f u pair x).pc = g.pc := by unfold putD; dsimp only; split <;> (try split) <;> simp
@[simp] theorem putD_xm (s : State) (g : Group) (f : XForm) (u pair : Bool) (x : Nat → DWord) : (putD s g f u pair x).xm = g.xm := by unfold putD; dsimp only; split <;> (try split) <;> simp
@[simp] theorem putD_exited (s : State) (g : Group) (f : XForm) (u pair : Bool) (x : Nat → DWord) : (putD s g f u pair x).exited = g.exited := by unfold putD; dsimp only; split <;> (try split) <;> simp
@[simp] theorem putD_range (s : State) (g : Group) (f : XForm) (u pair : Bool) (x : Nat → DWord) : (putD s g f u pair x).range = g.range := by unfold putD; dsimp only; split <;> (try split) <;> simp
@[simp] theorem putD_latches (s : State) (g : Group) (f : XForm) (u pair : Bool) (x : Nat → DWord) : (putD s g f u pair x).latches = g.latches := by unfold putD; dsimp only; split <;> (try split) <;> simp
@[simp] theorem putD_chainPc (s : State) (g : Group) (f : XForm) (u pair : Bool) (x : Nat → DWord) : (putD s g f u pair x).chainPc = g.chainPc := by unfold putD; dsimp only; split <;> (try split) <;> simp
@[simp] theorem putD_chainLen (s : State) (g : Group) (f : XForm) (u pair : Bool) (x : Nat → DWord) : (putD s g f u pair x).chainLen = g.chainLen := by unfold putD; dsimp only; split <;> (try split) <;> simp
@[simp] theorem putD_chainPush (s : State) (g : Group) (f : XForm) (u pair : Bool) (x : Nat → DWord) : (putD s g f u pair x).chainPush = g.chainPush := by unfold putD; dsimp only; split <;> (try split) <;> simp
@[simp] theorem putD_div (s : State) (g : Group) (f : XForm) (u pair : Bool) (x : Nat → DWord) : (putD s g f u pair x).div = g.div := by unfold putD; dsimp only; split <;> (try split) <;> simp
@[simp] theorem putD_divSpill (s : State) (g : Group) (f : XForm) (u pair : Bool) (x : Nat → DWord) : (putD s g f u pair x).divSpill = g.divSpill := by unfold putD; dsimp only; split <;> (try split) <;> simp
@[simp] theorem putD_call (s : State) (g : Group) (f : XForm) (u pair : Bool) (x : Nat → DWord) : (putD s g f u pair x).call = g.call := by unfold putD; dsimp only; split <;> (try split) <;> simp
@[simp] theorem putD_callSpill (s : State) (g : Group) (f : XForm) (u pair : Bool) (x : Nat → DWord) : (putD s g f u pair x).callSpill = g.callSpill := by unfold putD; dsimp only; split <;> (try split) <;> simp
@[simp] theorem putD_prio (s : State) (g : Group) (f : XForm) (u pair : Bool) (x : Nat → DWord) : (putD s g f u pair x).prio = g.prio := by unfold putD; dsimp only; split <;> (try split) <;> simp
@[simp] theorem putD_mark (s : State) (g : Group) (f : XForm) (u pair : Bool) (x : Nat → DWord) : (putD s g f u pair x).mark = g.mark := by unfold putD; dsimp only; split <;> (try split) <;> simp
@[simp] theorem putD_fpflags (s : State) (g : Group) (f : XForm) (u pair : Bool) (x : Nat → DWord) : (putD s g f u pair x).fpflags = g.fpflags := by unfold putD; dsimp only; split <;> (try split) <;> simp
@[simp] theorem putD_yielding (s : State) (g : Group) (f : XForm) (u pair : Bool) (x : Nat → DWord) : (putD s g f u pair x).yielding = g.yielding := by unfold putD; dsimp only; split <;> (try split) <;> simp
@[simp] theorem putD_yieldAt (s : State) (g : Group) (f : XForm) (u pair : Bool) (x : Nat → DWord) : (putD s g f u pair x).yieldAt = g.yieldAt := by unfold putD; dsimp only; split <;> (try split) <;> simp
@[simp] theorem putD_starve (s : State) (g : Group) (f : XForm) (u pair : Bool) (x : Nat → DWord) : (putD s g f u pair x).starve = g.starve := by unfold putD; dsimp only; split <;> (try split) <;> simp
@[simp] theorem putD_issued (s : State) (g : Group) (f : XForm) (u pair : Bool) (x : Nat → DWord) : (putD s g f u pair x).issued = g.issued := by unfold putD; dsimp only; split <;> (try split) <;> simp
@[simp] theorem putD_phaseIssues (s : State) (g : Group) (f : XForm) (u pair : Bool) (x : Nat → DWord) : (putD s g f u pair x).phaseIssues = g.phaseIssues := by unfold putD; dsimp only; split <;> (try split) <;> simp
@[simp] theorem putD_cGrant (s : State) (g : Group) (f : XForm) (u pair : Bool) (x : Nat → DWord) : (putD s g f u pair x).cGrant = g.cGrant := by unfold putD; dsimp only; split <;> (try split) <;> simp
@[simp] theorem putD_cMon (s : State) (g : Group) (f : XForm) (u pair : Bool) (x : Nat → DWord) : (putD s g f u pair x).cMon = g.cMon := by unfold putD; dsimp only; split <;> (try split) <;> simp
@[simp] theorem putD_cBatch (s : State) (g : Group) (f : XForm) (u pair : Bool) (x : Nat → DWord) : (putD s g f u pair x).cBatch = g.cBatch := by unfold putD; dsimp only; split <;> (try split) <;> simp
@[simp] theorem putD_cJoin (s : State) (g : Group) (f : XForm) (u pair : Bool) (x : Nat → DWord) : (putD s g f u pair x).cJoin = g.cJoin := by unfold putD; dsimp only; split <;> (try split) <;> simp
@[simp] theorem putD_cQueue (s : State) (g : Group) (f : XForm) (u pair : Bool) (x : Nat → DWord) : (putD s g f u pair x).cQueue = g.cQueue := by unfold putD; dsimp only; split <;> (try split) <;> simp
@[simp] theorem putD_cToken (s : State) (g : Group) (f : XForm) (u pair : Bool) (x : Nat → DWord) : (putD s g f u pair x).cToken = g.cToken := by unfold putD; dsimp only; split <;> (try split) <;> simp
@[simp] theorem putD_monLine (s : State) (g : Group) (f : XForm) (u pair : Bool) (x : Nat → DWord) : (putD s g f u pair x).monLine = g.monLine := by unfold putD; dsimp only; split <;> (try split) <;> simp
@[simp] theorem putD_monAt (s : State) (g : Group) (f : XForm) (u pair : Bool) (x : Nat → DWord) : (putD s g f u pair x).monAt = g.monAt := by unfold putD; dsimp only; split <;> (try split) <;> simp
@[simp] theorem putD_tid (s : State) (g : Group) (f : XForm) (u pair : Bool) (x : Nat → DWord) : (putD s g f u pair x).tid = g.tid := by unfold putD; dsimp only; split <;> (try split) <;> simp
@[simp] theorem putD_epc (s : State) (g : Group) (f : XForm) (u pair : Bool) (x : Nat → DWord) : (putD s g f u pair x).epc = g.epc := by unfold putD; dsimp only; split <;> (try split) <;> simp
@[simp] theorem putD_ecause (s : State) (g : Group) (f : XForm) (u pair : Bool) (x : Nat → DWord) : (putD s g f u pair x).ecause = g.ecause := by unfold putD; dsimp only; split <;> (try split) <;> simp
@[simp] theorem putD_erec (s : State) (g : Group) (f : XForm) (u pair : Bool) (x : Nat → DWord) : (putD s g f u pair x).erec = g.erec := by unfold putD; dsimp only; split <;> (try split) <;> simp
@[simp] theorem putD_exm0 (s : State) (g : Group) (f : XForm) (u pair : Bool) (x : Nat → DWord) : (putD s g f u pair x).exm0 = g.exm0 := by unfold putD; dsimp only; split <;> (try split) <;> simp
@[simp] theorem putD_exm1 (s : State) (g : Group) (f : XForm) (u pair : Bool) (x : Nat → DWord) : (putD s g f u pair x).exm1 = g.exm1 := by unfold putD; dsimp only; split <;> (try split) <;> simp
@[simp] theorem putD_priv (s : State) (g : Group) (f : XForm) (u pair : Bool) (x : Nat → DWord) : (putD s g f u pair x).priv = g.priv := by unfold putD; dsimp only; split <;> (try split) <;> simp
@[simp] theorem putD_faultMask (s : State) (g : Group) (f : XForm) (u pair : Bool) (x : Nat → DWord) : (putD s g f u pair x).faultMask = g.faultMask := by unfold putD; dsimp only; split <;> (try split) <;> simp
@[simp] theorem putD_faultPerLane (s : State) (g : Group) (f : XForm) (u pair : Bool) (x : Nat → DWord) : (putD s g f u pair x).faultPerLane = g.faultPerLane := by unfold putD; dsimp only; split <;> (try split) <;> simp
@[simp] theorem putD_faultElems (s : State) (g : Group) (f : XForm) (u pair : Bool) (x : Nat → DWord) : (putD s g f u pair x).faultElems = g.faultElems := by unfold putD; dsimp only; split <;> (try split) <;> simp
@[simp] theorem putD_qph (s : State) (g : Group) (f : XForm) (u pair : Bool) (x : Nat → DWord) : (putD s g f u pair x).qph = g.qph := by unfold putD; dsimp only; split <;> (try split) <;> simp
@[simp] theorem putD_qcl (s : State) (g : Group) (f : XForm) (u pair : Bool) (x : Nat → DWord) : (putD s g f u pair x).qcl = g.qcl := by unfold putD; dsimp only; split <;> (try split) <;> simp
@[simp] theorem putD_stk (s : State) (g : Group) (f : XForm) (u pair : Bool) (x : Nat → DWord) : (putD s g f u pair x).stk = g.stk := by unfold putD; dsimp only; split <;> (try split) <;> simp
@[simp] theorem putD_role (s : State) (g : Group) (f : XForm) (u pair : Bool) (x : Nat → DWord) : (putD s g f u pair x).role = g.role := by unfold putD; dsimp only; split <;> (try split) <;> simp
@[simp] theorem putD_ring (s : State) (g : Group) (f : XForm) (u pair : Bool) (x : Nat → DWord) : (putD s g f u pair x).ring = g.ring := by unfold putD; dsimp only; split <;> (try split) <;> simp
@[simp] theorem putD_txn (s : State) (g : Group) (f : XForm) (u pair : Bool) (x : Nat → DWord) : (putD s g f u pair x).txn = g.txn := by unfold putD; dsimp only; split <;> (try split) <;> simp
@[simp] theorem putD_openCopies (s : State) (g : Group) (f : XForm) (u pair : Bool) (x : Nat → DWord) : (putD s g f u pair x).openCopies = g.openCopies := by unfold putD; dsimp only; split <;> (try split) <;> simp
@[simp] theorem putD_batchSeq (s : State) (g : Group) (f : XForm) (u pair : Bool) (x : Nat → DWord) : (putD s g f u pair x).batchSeq = g.batchSeq := by unfold putD; dsimp only; split <;> (try split) <;> simp
@[simp] theorem putD_batches (s : State) (g : Group) (f : XForm) (u pair : Bool) (x : Nat → DWord) : (putD s g f u pair x).batches = g.batches := by unfold putD; dsimp only; split <;> (try split) <;> simp
@[simp] theorem putD_deferred (s : State) (g : Group) (f : XForm) (u pair : Bool) (x : Nat → DWord) : (putD s g f u pair x).deferred = g.deferred := by unfold putD; dsimp only; split <;> (try split) <;> simp
@[simp] theorem putD_spawned (s : State) (g : Group) (f : XForm) (u pair : Bool) (x : Nat → DWord) : (putD s g f u pair x).spawned = g.spawned := by unfold putD; dsimp only; split <;> (try split) <;> simp
@[simp] theorem putD_idle (s : State) (g : Group) (f : XForm) (u pair : Bool) (x : Nat → DWord) : (putD s g f u pair x).idle = g.idle := by unfold putD; dsimp only; split <;> (try split) <;> simp
@[simp] theorem putD_pend (s : State) (g : Group) (f : XForm) (u pair : Bool) (x : Nat → DWord) : (putD s g f u pair x).pend = g.pend := by unfold putD; dsimp only; split <;> (try split) <;> simp
@[simp] theorem putD_held (s : State) (g : Group) (f : XForm) (u pair : Bool) (x : Nat → DWord) : (putD s g f u pair x).held = g.held := by unfold putD; dsimp only; split <;> (try split) <;> simp
@[simp] theorem putD_sieve (s : State) (g : Group) (f : XForm) (u pair : Bool) (x : Nat → DWord) : (putD s g f u pair x).sieve = g.sieve := by unfold putD; dsimp only; split <;> (try split) <;> simp
@[simp] theorem putD_owedSieve (s : State) (g : Group) (f : XForm) (u pair : Bool) (x : Nat → DWord) : (putD s g f u pair x).owedSieve = g.owedSieve := by unfold putD; dsimp only; split <;> (try split) <;> simp
@[simp] theorem putD_prologue (s : State) (g : Group) (f : XForm) (u pair : Bool) (x : Nat → DWord) : (putD s g f u pair x).prologue = g.prologue := by unfold putD; dsimp only; split <;> (try split) <;> simp
@[simp] theorem putD_stopAsked (s : State) (g : Group) (f : XForm) (u pair : Bool) (x : Nat → DWord) : (putD s g f u pair x).stopAsked = g.stopAsked := by unfold putD; dsimp only; split <;> (try split) <;> simp
@[simp] theorem putD_arriving (s : State) (g : Group) (f : XForm) (u pair : Bool) (x : Nat → DWord) : (putD s g f u pair x).arriving = g.arriving := by unfold putD; dsimp only; split <;> (try split) <;> simp
@[simp] theorem putD_tlbiSeen (s : State) (g : Group) (f : XForm) (u pair : Bool) (x : Nat → DWord) : (putD s g f u pair x).tlbiSeen = g.tlbiSeen := by unfold putD; dsimp only; split <;> (try split) <;> simp
@[simp] theorem putD_tlbiWait (s : State) (g : Group) (f : XForm) (u pair : Bool) (x : Nat → DWord) : (putD s g f u pair x).tlbiWait = g.tlbiWait := by unfold putD; dsimp only; split <;> (try split) <;> simp
@[simp] theorem putD_fwd (s : State) (g : Group) (f : XForm) (u pair : Bool) (x : Nat → DWord) : (putD s g f u pair x).fwd = g.fwd := by unfold putD; dsimp only; split <;> (try split) <;> simp
@[simp] theorem putD_pushed (s : State) (g : Group) (f : XForm) (u pair : Bool) (x : Nat → DWord) : (putD s g f u pair x).pushed = g.pushed := by unfold putD; dsimp only; split <;> (try split) <;> simp

/-! ## advance moves the program counter and the latch chain only -/

@[simp] theorem advance_status (g : Group) (len : Nat) (reads result : Bool) (push : Option Latch) : (advance g len reads result push).status = g.status := rfl
@[simp] theorem advance_uid (g : Group) (len : Nat) (reads result : Bool) (push : Option Latch) : (advance g len reads result push).uid = g.uid := rfl
@[simp] theorem advance_block (g : Group) (len : Nat) (reads result : Bool) (push : Option Latch) : (advance g len reads result push).block = g.block := rfl
@[simp] theorem advance_gid (g : Group) (len : Nat) (reads result : Bool) (push : Option Latch) : (advance g len reads result push).gid = g.gid := rfl
@[simp] theorem advance_member (g : Group) (len : Nat) (reads result : Bool) (push : Option Latch) : (advance g len reads result push).member = g.member := rfl
@[simp] theorem advance_xm (g : Group) (len : Nat) (reads result : Bool) (push : Option Latch) : (advance g len reads result push).xm = g.xm := rfl
@[simp] theorem advance_exited (g : Group) (len : Nat) (reads result : Bool) (push : Option Latch) : (advance g len reads result push).exited = g.exited := rfl
@[simp] theorem advance_range (g : Group) (len : Nat) (reads result : Bool) (push : Option Latch) : (advance g len reads result push).range = g.range := rfl
@[simp] theorem advance_v (g : Group) (len : Nat) (reads result : Bool) (push : Option Latch) : (advance g len reads result push).v = g.v := rfl
@[simp] theorem advance_s (g : Group) (len : Nat) (reads result : Bool) (push : Option Latch) : (advance g len reads result push).s = g.s := rfl
@[simp] theorem advance_hs (g : Group) (len : Nat) (reads result : Bool) (push : Option Latch) : (advance g len reads result push).hs = g.hs := rfl
@[simp] theorem advance_p (g : Group) (len : Nat) (reads result : Bool) (push : Option Latch) : (advance g len reads result push).p = g.p := rfl
@[simp] theorem advance_div (g : Group) (len : Nat) (reads result : Bool) (push : Option Latch) : (advance g len reads result push).div = g.div := rfl
@[simp] theorem advance_divSpill (g : Group) (len : Nat) (reads result : Bool) (push : Option Latch) : (advance g len reads result push).divSpill = g.divSpill := rfl
@[simp] theorem advance_call (g : Group) (len : Nat) (reads result : Bool) (push : Option Latch) : (advance g len reads result push).call = g.call := rfl
@[simp] theorem advance_callSpill (g : Group) (len : Nat) (reads result : Bool) (push : Option Latch) : (advance g len reads result push).callSpill = g.callSpill := rfl
@[simp] theorem advance_prio (g : Group) (len : Nat) (reads result : Bool) (push : Option Latch) : (advance g len reads result push).prio = g.prio := rfl
@[simp] theorem advance_mark (g : Group) (len : Nat) (reads result : Bool) (push : Option Latch) : (advance g len reads result push).mark = g.mark := rfl
@[simp] theorem advance_fpflags (g : Group) (len : Nat) (reads result : Bool) (push : Option Latch) : (advance g len reads result push).fpflags = g.fpflags := rfl
@[simp] theorem advance_yielding (g : Group) (len : Nat) (reads result : Bool) (push : Option Latch) : (advance g len reads result push).yielding = g.yielding := rfl
@[simp] theorem advance_yieldAt (g : Group) (len : Nat) (reads result : Bool) (push : Option Latch) : (advance g len reads result push).yieldAt = g.yieldAt := rfl
@[simp] theorem advance_starve (g : Group) (len : Nat) (reads result : Bool) (push : Option Latch) : (advance g len reads result push).starve = g.starve := rfl
@[simp] theorem advance_issued (g : Group) (len : Nat) (reads result : Bool) (push : Option Latch) : (advance g len reads result push).issued = g.issued := rfl
@[simp] theorem advance_phaseIssues (g : Group) (len : Nat) (reads result : Bool) (push : Option Latch) : (advance g len reads result push).phaseIssues = g.phaseIssues := rfl
@[simp] theorem advance_cGrant (g : Group) (len : Nat) (reads result : Bool) (push : Option Latch) : (advance g len reads result push).cGrant = g.cGrant := rfl
@[simp] theorem advance_cMon (g : Group) (len : Nat) (reads result : Bool) (push : Option Latch) : (advance g len reads result push).cMon = g.cMon := rfl
@[simp] theorem advance_cBatch (g : Group) (len : Nat) (reads result : Bool) (push : Option Latch) : (advance g len reads result push).cBatch = g.cBatch := rfl
@[simp] theorem advance_cJoin (g : Group) (len : Nat) (reads result : Bool) (push : Option Latch) : (advance g len reads result push).cJoin = g.cJoin := rfl
@[simp] theorem advance_cQueue (g : Group) (len : Nat) (reads result : Bool) (push : Option Latch) : (advance g len reads result push).cQueue = g.cQueue := rfl
@[simp] theorem advance_cToken (g : Group) (len : Nat) (reads result : Bool) (push : Option Latch) : (advance g len reads result push).cToken = g.cToken := rfl
@[simp] theorem advance_monLine (g : Group) (len : Nat) (reads result : Bool) (push : Option Latch) : (advance g len reads result push).monLine = g.monLine := rfl
@[simp] theorem advance_monAt (g : Group) (len : Nat) (reads result : Bool) (push : Option Latch) : (advance g len reads result push).monAt = g.monAt := rfl
@[simp] theorem advance_tid (g : Group) (len : Nat) (reads result : Bool) (push : Option Latch) : (advance g len reads result push).tid = g.tid := rfl
@[simp] theorem advance_epc (g : Group) (len : Nat) (reads result : Bool) (push : Option Latch) : (advance g len reads result push).epc = g.epc := rfl
@[simp] theorem advance_ecause (g : Group) (len : Nat) (reads result : Bool) (push : Option Latch) : (advance g len reads result push).ecause = g.ecause := rfl
@[simp] theorem advance_erec (g : Group) (len : Nat) (reads result : Bool) (push : Option Latch) : (advance g len reads result push).erec = g.erec := rfl
@[simp] theorem advance_exm0 (g : Group) (len : Nat) (reads result : Bool) (push : Option Latch) : (advance g len reads result push).exm0 = g.exm0 := rfl
@[simp] theorem advance_exm1 (g : Group) (len : Nat) (reads result : Bool) (push : Option Latch) : (advance g len reads result push).exm1 = g.exm1 := rfl
@[simp] theorem advance_priv (g : Group) (len : Nat) (reads result : Bool) (push : Option Latch) : (advance g len reads result push).priv = g.priv := rfl
@[simp] theorem advance_faultMask (g : Group) (len : Nat) (reads result : Bool) (push : Option Latch) : (advance g len reads result push).faultMask = g.faultMask := rfl
@[simp] theorem advance_faultPerLane (g : Group) (len : Nat) (reads result : Bool) (push : Option Latch) : (advance g len reads result push).faultPerLane = g.faultPerLane := rfl
@[simp] theorem advance_faultElems (g : Group) (len : Nat) (reads result : Bool) (push : Option Latch) : (advance g len reads result push).faultElems = g.faultElems := rfl
@[simp] theorem advance_qph (g : Group) (len : Nat) (reads result : Bool) (push : Option Latch) : (advance g len reads result push).qph = g.qph := rfl
@[simp] theorem advance_qcl (g : Group) (len : Nat) (reads result : Bool) (push : Option Latch) : (advance g len reads result push).qcl = g.qcl := rfl
@[simp] theorem advance_stk (g : Group) (len : Nat) (reads result : Bool) (push : Option Latch) : (advance g len reads result push).stk = g.stk := rfl
@[simp] theorem advance_role (g : Group) (len : Nat) (reads result : Bool) (push : Option Latch) : (advance g len reads result push).role = g.role := rfl
@[simp] theorem advance_ring (g : Group) (len : Nat) (reads result : Bool) (push : Option Latch) : (advance g len reads result push).ring = g.ring := rfl
@[simp] theorem advance_txn (g : Group) (len : Nat) (reads result : Bool) (push : Option Latch) : (advance g len reads result push).txn = g.txn := rfl
@[simp] theorem advance_openCopies (g : Group) (len : Nat) (reads result : Bool) (push : Option Latch) : (advance g len reads result push).openCopies = g.openCopies := rfl
@[simp] theorem advance_batchSeq (g : Group) (len : Nat) (reads result : Bool) (push : Option Latch) : (advance g len reads result push).batchSeq = g.batchSeq := rfl
@[simp] theorem advance_batches (g : Group) (len : Nat) (reads result : Bool) (push : Option Latch) : (advance g len reads result push).batches = g.batches := rfl
@[simp] theorem advance_deferred (g : Group) (len : Nat) (reads result : Bool) (push : Option Latch) : (advance g len reads result push).deferred = g.deferred := rfl
@[simp] theorem advance_spawned (g : Group) (len : Nat) (reads result : Bool) (push : Option Latch) : (advance g len reads result push).spawned = g.spawned := rfl
@[simp] theorem advance_idle (g : Group) (len : Nat) (reads result : Bool) (push : Option Latch) : (advance g len reads result push).idle = g.idle := rfl
@[simp] theorem advance_pend (g : Group) (len : Nat) (reads result : Bool) (push : Option Latch) : (advance g len reads result push).pend = g.pend := rfl
@[simp] theorem advance_held (g : Group) (len : Nat) (reads result : Bool) (push : Option Latch) : (advance g len reads result push).held = g.held := rfl
@[simp] theorem advance_sieve (g : Group) (len : Nat) (reads result : Bool) (push : Option Latch) : (advance g len reads result push).sieve = g.sieve := rfl
@[simp] theorem advance_owedSieve (g : Group) (len : Nat) (reads result : Bool) (push : Option Latch) : (advance g len reads result push).owedSieve = g.owedSieve := rfl
@[simp] theorem advance_prologue (g : Group) (len : Nat) (reads result : Bool) (push : Option Latch) : (advance g len reads result push).prologue = g.prologue := rfl
@[simp] theorem advance_stopAsked (g : Group) (len : Nat) (reads result : Bool) (push : Option Latch) : (advance g len reads result push).stopAsked = g.stopAsked := rfl
@[simp] theorem advance_arriving (g : Group) (len : Nat) (reads result : Bool) (push : Option Latch) : (advance g len reads result push).arriving = g.arriving := rfl
@[simp] theorem advance_tlbiSeen (g : Group) (len : Nat) (reads result : Bool) (push : Option Latch) : (advance g len reads result push).tlbiSeen = g.tlbiSeen := rfl
@[simp] theorem advance_tlbiWait (g : Group) (len : Nat) (reads result : Bool) (push : Option Latch) : (advance g len reads result push).tlbiWait = g.tlbiWait := rfl
@[simp] theorem advance_fwd (g : Group) (len : Nat) (reads result : Bool) (push : Option Latch) : (advance g len reads result push).fwd = g.fwd := rfl
@[simp] theorem advance_pushed (g : Group) (len : Nat) (reads result : Bool) (push : Option Latch) : (advance g len reads result push).pushed = g.pushed := rfl

/-! ## unchained drops the latch chain only -/

@[simp] theorem unchained_status (g : Group) : (unchained g).status = g.status := rfl
@[simp] theorem unchained_uid (g : Group) : (unchained g).uid = g.uid := rfl
@[simp] theorem unchained_block (g : Group) : (unchained g).block = g.block := rfl
@[simp] theorem unchained_gid (g : Group) : (unchained g).gid = g.gid := rfl
@[simp] theorem unchained_member (g : Group) : (unchained g).member = g.member := rfl
@[simp] theorem unchained_pc (g : Group) : (unchained g).pc = g.pc := rfl
@[simp] theorem unchained_xm (g : Group) : (unchained g).xm = g.xm := rfl
@[simp] theorem unchained_exited (g : Group) : (unchained g).exited = g.exited := rfl
@[simp] theorem unchained_range (g : Group) : (unchained g).range = g.range := rfl
@[simp] theorem unchained_v (g : Group) : (unchained g).v = g.v := rfl
@[simp] theorem unchained_s (g : Group) : (unchained g).s = g.s := rfl
@[simp] theorem unchained_hs (g : Group) : (unchained g).hs = g.hs := rfl
@[simp] theorem unchained_p (g : Group) : (unchained g).p = g.p := rfl
@[simp] theorem unchained_div (g : Group) : (unchained g).div = g.div := rfl
@[simp] theorem unchained_divSpill (g : Group) : (unchained g).divSpill = g.divSpill := rfl
@[simp] theorem unchained_call (g : Group) : (unchained g).call = g.call := rfl
@[simp] theorem unchained_callSpill (g : Group) : (unchained g).callSpill = g.callSpill := rfl
@[simp] theorem unchained_prio (g : Group) : (unchained g).prio = g.prio := rfl
@[simp] theorem unchained_mark (g : Group) : (unchained g).mark = g.mark := rfl
@[simp] theorem unchained_fpflags (g : Group) : (unchained g).fpflags = g.fpflags := rfl
@[simp] theorem unchained_yielding (g : Group) : (unchained g).yielding = g.yielding := rfl
@[simp] theorem unchained_yieldAt (g : Group) : (unchained g).yieldAt = g.yieldAt := rfl
@[simp] theorem unchained_starve (g : Group) : (unchained g).starve = g.starve := rfl
@[simp] theorem unchained_issued (g : Group) : (unchained g).issued = g.issued := rfl
@[simp] theorem unchained_phaseIssues (g : Group) : (unchained g).phaseIssues = g.phaseIssues := rfl
@[simp] theorem unchained_cGrant (g : Group) : (unchained g).cGrant = g.cGrant := rfl
@[simp] theorem unchained_cMon (g : Group) : (unchained g).cMon = g.cMon := rfl
@[simp] theorem unchained_cBatch (g : Group) : (unchained g).cBatch = g.cBatch := rfl
@[simp] theorem unchained_cJoin (g : Group) : (unchained g).cJoin = g.cJoin := rfl
@[simp] theorem unchained_cQueue (g : Group) : (unchained g).cQueue = g.cQueue := rfl
@[simp] theorem unchained_cToken (g : Group) : (unchained g).cToken = g.cToken := rfl
@[simp] theorem unchained_monLine (g : Group) : (unchained g).monLine = g.monLine := rfl
@[simp] theorem unchained_monAt (g : Group) : (unchained g).monAt = g.monAt := rfl
@[simp] theorem unchained_tid (g : Group) : (unchained g).tid = g.tid := rfl
@[simp] theorem unchained_epc (g : Group) : (unchained g).epc = g.epc := rfl
@[simp] theorem unchained_ecause (g : Group) : (unchained g).ecause = g.ecause := rfl
@[simp] theorem unchained_erec (g : Group) : (unchained g).erec = g.erec := rfl
@[simp] theorem unchained_exm0 (g : Group) : (unchained g).exm0 = g.exm0 := rfl
@[simp] theorem unchained_exm1 (g : Group) : (unchained g).exm1 = g.exm1 := rfl
@[simp] theorem unchained_priv (g : Group) : (unchained g).priv = g.priv := rfl
@[simp] theorem unchained_faultMask (g : Group) : (unchained g).faultMask = g.faultMask := rfl
@[simp] theorem unchained_faultPerLane (g : Group) : (unchained g).faultPerLane = g.faultPerLane := rfl
@[simp] theorem unchained_faultElems (g : Group) : (unchained g).faultElems = g.faultElems := rfl
@[simp] theorem unchained_qph (g : Group) : (unchained g).qph = g.qph := rfl
@[simp] theorem unchained_qcl (g : Group) : (unchained g).qcl = g.qcl := rfl
@[simp] theorem unchained_stk (g : Group) : (unchained g).stk = g.stk := rfl
@[simp] theorem unchained_role (g : Group) : (unchained g).role = g.role := rfl
@[simp] theorem unchained_ring (g : Group) : (unchained g).ring = g.ring := rfl
@[simp] theorem unchained_txn (g : Group) : (unchained g).txn = g.txn := rfl
@[simp] theorem unchained_openCopies (g : Group) : (unchained g).openCopies = g.openCopies := rfl
@[simp] theorem unchained_batchSeq (g : Group) : (unchained g).batchSeq = g.batchSeq := rfl
@[simp] theorem unchained_batches (g : Group) : (unchained g).batches = g.batches := rfl
@[simp] theorem unchained_deferred (g : Group) : (unchained g).deferred = g.deferred := rfl
@[simp] theorem unchained_spawned (g : Group) : (unchained g).spawned = g.spawned := rfl
@[simp] theorem unchained_idle (g : Group) : (unchained g).idle = g.idle := rfl
@[simp] theorem unchained_pend (g : Group) : (unchained g).pend = g.pend := rfl
@[simp] theorem unchained_held (g : Group) : (unchained g).held = g.held := rfl
@[simp] theorem unchained_sieve (g : Group) : (unchained g).sieve = g.sieve := rfl
@[simp] theorem unchained_owedSieve (g : Group) : (unchained g).owedSieve = g.owedSieve := rfl
@[simp] theorem unchained_prologue (g : Group) : (unchained g).prologue = g.prologue := rfl
@[simp] theorem unchained_stopAsked (g : Group) : (unchained g).stopAsked = g.stopAsked := rfl
@[simp] theorem unchained_arriving (g : Group) : (unchained g).arriving = g.arriving := rfl
@[simp] theorem unchained_tlbiSeen (g : Group) : (unchained g).tlbiSeen = g.tlbiSeen := rfl
@[simp] theorem unchained_tlbiWait (g : Group) : (unchained g).tlbiWait = g.tlbiWait := rfl
@[simp] theorem unchained_fwd (g : Group) : (unchained g).fwd = g.fwd := rfl
@[simp] theorem unchained_pushed (g : Group) : (unchained g).pushed = g.pushed := rfl

/-! ## Scalars (R10, R341) -/

@[simp] theorem sRead_zero (h : Bool) (g : Group) : sRead h g 0 = 0 := rfl
@[simp] theorem sWrite_zero (h : Bool) (g : Group) (x : DWord) : sWrite h g 0 x = g := rfl

/-- A scalar reads as it was written, and every other scalar as before. -/
theorem sRead_sWrite (h : Bool) (g : Group) (n m : Nat) (x : DWord) :
    sRead h (sWrite h g n x) m = if m = n ∧ n ≠ 0 then x else sRead h g m := by
  by_cases hn : n = 0
  · simp [hn]
  · by_cases hm : m = 0
    · subst hm
      rw [sRead_zero, sRead_zero, if_neg (fun c => hn c.1.symm)]
    · simp only [sRead, sWrite, if_neg hn, if_neg hm]
      cases h <;> by_cases h8 : 88 ≤ n <;> by_cases h9 : 88 ≤ m <;> simp [h8, h9, mapGet_mapSet, hn] <;> omega

/-! ## Predicates (R10, R154) -/

@[simp] theorem pRead_zero (g : Group) : pRead g 0 = LaneMask.full := rfl
@[simp] theorem pWrite_zero (g : Group) (m x : LaneMask) : pWrite g 0 m x = g := rfl

/-- A predicate reads as it was written in the lanes of the mask, and every other bit as before. -/
theorem pRead_pWrite (g : Group) (n k : Nat) (m x : LaneMask) :
    pRead (pWrite g n m x) k = if k = n ∧ n ≠ 0 then (pRead g n &&& ~~~m) ||| (x &&& m) else pRead g k := by
  by_cases hn : n = 0
  · simp [hn]
  · by_cases hk : k = 0
    · subst hk
      rw [pRead_zero, pRead_zero, if_neg (fun c => hn c.1.symm)]
    · rw [pWrite, if_neg hn]
      by_cases e : k = n
      · subst e; simp [pRead, hn]
      · simp [pRead, hk, e]

/-! ## Vector registers (R10, R115) -/

/-- A lane reads as it was written where the mask has the lane, and every other lane as before. -/
theorem vRead_vWrite (g : Group) (n k i : Nat) (m : LaneMask) (x : Nat → Word) (hi : i < 128) :
    vRead (vWrite g n m x) k i = if k = n ∧ m.getLsbD i = true then x i else vRead g k i := by
  unfold vRead vWrite vReg
  dsimp only
  rw [mapGet_mapSet]
  by_cases e : k = n
  · subst e
    simp only [if_true, true_and]
    rw [Vector.getElem?_eq_getElem hi, Vector.getElem?_eq_getElem hi]
    simp [Vector.getElem_ofFn, BitVec.getLsbD_eq_getElem hi]
  · simp [e]

/-- A register or a pair reads in a lane of the mask as its half of the doubleword, and as before elsewhere. -/
theorem vRead_vPut (g : Group) (n k i : Nat) (pair : Bool) (m : LaneMask) (x : Nat → DWord) (hi : i < 128) :
    vRead (vPut g n pair m x) k i =
      if m.getLsbD i = true ∧ k = n then (x i).setWidth 32
      else if m.getLsbD i = true ∧ pair = true ∧ k = n + 1 then (x i >>> 32).setWidth 32
      else vRead g k i := by
  unfold vPut
  cases pair
  · simp only [Bool.false_eq_true, if_false, false_and, and_false]
    rw [vRead_vWrite _ _ _ _ _ _ hi]
    by_cases a : k = n <;> by_cases b : m.getLsbD i = true <;> simp [a, b]
  · simp only [if_true, true_and]
    rw [vRead_vWrite _ _ _ _ _ _ hi, vRead_vWrite _ _ _ _ _ _ hi]
    by_cases a : k = n
    · subst a; simp
    · by_cases b : m.getLsbD i = true <;> simp [a, b]

/-! ## Masks (R14, R24, R116) -/

theorem maskOf_foldl_getLsbD (l : List Nat) (a : LaneMask) (i : Nat) :
    (l.foldl (fun m j => m ||| BitVec.twoPow 128 j) a).getLsbD i = (a.getLsbD i || decide (i < 128 ∧ i ∈ l)) := by
  induction l generalizing a with
  | nil => simp
  | cons j r ih =>
    rw [List.foldl_cons, ih]
    simp only [BitVec.getLsbD_or, BitVec.getLsbD_twoPow, List.mem_cons]
    by_cases h2 : i < 128
    · by_cases h : i = j
      · subst h; simp [h2]
      · simp [h, h2, Ne.symm h]
    · simp [h2]; omega

/-- The lanes of the mask of a list are those of the list. -/
theorem getLsbD_maskOf (l : List Nat) (i : Nat) : (maskOf l).getLsbD i = decide (i < 128 ∧ i ∈ l) := by
  rw [maskOf, maskOf_foldl_getLsbD]; simp

/-- The lanes of the mask of a test are those that pass it. -/
@[simp] theorem getLsbD_maskWhere (p : Nat → Bool) (i : Nat) : (maskWhere p).getLsbD i = (decide (i < 128) && p i) := by
  rw [maskWhere, getLsbD_maskOf]
  by_cases h : i < 128 <;> simp [h]

theorem mem_lanes (m : LaneMask) (i : Nat) : i ∈ lanes m ↔ m.getLsbD i = true := by
  simp only [lanes, List.mem_filter, List.mem_range]
  refine ⟨fun h => h.2, fun h => ⟨?_, h⟩⟩
  exact BitVec.lt_of_getLsbD h

/-- Lane L is a lane. -/
theorem lu_lt (g : Group) : lu g < 128 := by
  unfold lu
  cases h : lanes g.xm with
  | nil => simp
  | cons a r =>
    have : a ∈ lanes g.xm := by rw [h]; simp
    simp only [lanes, List.mem_filter, List.mem_range] at this
    simpa using this.1

/-! ## Advancing (R41, R114) -/

@[simp] theorem advance_pc (g : Group) (len : Nat) (reads result : Bool) (push : Option Latch) :
    (advance g len reads result push).pc = g.pc + BitVec.ofNat 64 len := rfl
@[simp] theorem unchained_latches (g : Group) : (unchained g).latches = [] := rfl

/-- At most four latches are kept. -/
theorem advance_latches_le (g : Group) (len : Nat) (reads result : Bool) (push : Option Latch) :
    (advance g len reads result push).latches.length ≤ 4 := by
  simp [advance]

end Sys2Proof.Machine
end

