-- ==== Sys2Proof/Laws/Ops.lean ====
section
/-! SUPPORT. The shared operations of instructions: the checks at issue, guards, completion, and the shape of every
instruction that computes one value per lane or one for the group. -/

namespace Sys2Proof.Machine

/-! ## Checks at issue and guards (R116, R335) -/

theorem issue_pass {s : State} {k : Issue} (go : Out) (h : issueFault s k = none) : issue s k go = go := by
  unfold issue; rw [h]

theorem issue_fail {s : State} {k : Issue} (go : Out) {c d : Nat} (h : issueFault s k = some (c, d)) :
    issue s k go = trapI s k c d := by
  unfold issue; rw [h]

theorem guarded_on {s : State} {f : XForm} {k : Issue} (go : Out) (h : issueFault s k = none)
    (r : runs (curGroup s) f = true) : guarded s f k go = go := by
  unfold guarded; rw [issue_pass _ h, if_pos r]

theorem guarded_off {s : State} {f : XForm} {k : Issue} (go : Out) (h : issueFault s k = none)
    (r : runs (curGroup s) f = false) : guarded s f k go = complete s k := by
  unfold guarded; rw [issue_pass _ h, r]; rfl

/-! ## Floating flags (R76, R77) -/

@[simp] theorem enabledFlags_zero (x : DWord) : enabledFlags x 0 = 0 := by simp [enabledFlags]
@[simp] theorem raiseFlags_zero (x : DWord) : raiseFlags x 0 = x := by simp [raiseFlags]

/-! ## Completion -/

theorem finish_next {s : State} {x : Group} {k : Issue} {b : Bool} {p : Option Latch} {fl : FFlags}
    (h : enabledFlags x.fpflags fl = 0) :
    finish s x k b p fl = .next (setCur s (advance { x with fpflags := raiseFlags x.fpflags fl } k.len (readsLatch k) b p)) := by
  simp [finish, h, retire]

theorem complete_eq (s : State) (k : Issue) :
    complete s k = .next (setCur s (advance (curGroup s) k.len (readsLatch k) false none)) := rfl

theorem goTo_eq (s : State) (k : Issue) (pc : DWord) :
    goTo s k pc = .next (setCur s { advance (curGroup s) k.len (readsLatch k) false none with pc }) := rfl

/-- What a per-lane or uniform instruction leaves in the issuing group. -/
def performed (s : State) (f : XForm) (k : Issue) (u pair : Bool) (y : Nat → DWord) (fl : FFlags) : Group :=
  let g := curGroup s
  advance { putD s g f u pair y with fpflags := raiseFlags g.fpflags fl } k.len (readsLatch k) (pushes f)
    (if pushes f then pushOf s g f u (if u then y else laneValue pair y) else none)

/-- The flags that a per-lane or uniform instruction raises; under a zero mask none (R76). -/
def flagsOf (g : Group) (f : XForm) (u : Bool) (fl : Nat → FFlags) : FFlags :=
  if u then (if runs g f && g.xm ≠ 0 then fl (lu g) else 0) else (lanes (live g f)).foldl (fun a i => a ||| fl i) 0

/-- The shape of every instruction that computes values: it completes, writes the issuing group only, and that group is
`performed`. -/
theorem performAt_next {s : State} {f : XForm} {k : Issue} {m : Mode} {pair : Bool} {x : Nat → DWord × FFlags}
    (h : issueFault s k = none)
    (e : enabledFlags (curGroup s).fpflags (flagsOf (curGroup s) f (uniform m f) fun i => (x i).2) = 0) :
    performAt s f k m pair x = .next (setCur s (performed s f k (uniform m f) pair (fun i => (x i).1)
      (flagsOf (curGroup s) f (uniform m f) fun i => (x i).2))) := by
  unfold performAt
  dsimp only
  rw [issue_pass _ h, finish_next]
  · simp only [performed, putD_fpflags]; rfl
  · rw [putD_fpflags]; exact e

theorem flagsOf_zero (g : Group) (f : XForm) (u : Bool) : flagsOf g f u (fun _ => 0) = 0 := by
  unfold flagsOf
  have : ∀ l : List Nat, l.foldl (fun (a : FFlags) _ => a ||| 0) 0 = 0 := by
    intro l
    induction l with
    | nil => rfl
    | cons a r ih => exact ih
  cases u
  · simp only [Bool.false_eq_true, if_false]; exact this _
  · simp

/-- An instruction that raises no flag completes whatever flags are enabled. -/
theorem perform_next {s : State} {f : XForm} {len : Nat} {top : Option Nat} {pair : Bool} {x : Nat → DWord}
    (h : issueFault s (xIssue f len top) = none) :
    perform s f len top pair x =
      .next (setCur s (performed s f (xIssue f len top) (uniform .auto f) pair x 0)) := by
  unfold perform
  rw [performAt_next h]
  · rw [flagsOf_zero]
  · rw [flagsOf_zero]; exact enabledFlags_zero _

/-! ## Destinations (R115 to R117) -/

/-- What a destination write leaves in a lane of a vector register. -/
theorem vRead_putD (s : State) (g : Group) (f : XForm) (u pair : Bool) (x : Nat → DWord) (k i : Nat) (hi : i < 128) :
    vRead (putD s g f u pair x) k i =
      match f.d with
      | .v n =>
        if (writes g f u).getLsbD i = true ∧ k = n.val then (if u then x (lu g) else x i).setWidth 32
        else if (writes g f u).getLsbD i = true ∧ pair = true ∧ k = n.val + 1 then
          ((if u then x (lu g) else x i) >>> 32).setWidth 32
        else vRead g k i
      | _ => vRead g k i := by
  unfold putD
  dsimp only
  cases hd : f.d with
  | v n =>
    dsimp only
    rw [vRead_vPut _ _ _ _ _ _ _ hi]
    cases u <;> rfl
  | s n =>
    dsimp only
    split
    · unfold vRead vReg; rw [sWrite_v]
    · rfl
  | p n => dsimp only; unfold vRead vReg; rw [pWrite_v]
  | _ => rfl

/-- What a destination write leaves in a scalar register of the bank that the group sees. -/
theorem sRead_putD (s : State) (g : Group) (f : XForm) (u pair : Bool) (x : Nat → DWord) (k : Nat) :
    sRead (hidden s s.cur) (putD s g f u pair x) k =
      match f.d with
      | .s n => if runs g f = true ∧ k = n.val ∧ n.val ≠ 0 then x (lu g) else sRead (hidden s s.cur) g k
      | _ => sRead (hidden s s.cur) g k := by
  unfold putD
  dsimp only
  cases hd : f.d with
  | v n => dsimp only; unfold sRead; rw [vPut_s, vPut_hs]
  | s n =>
    dsimp only
    split
    · next h => rw [sRead_sWrite]; simp only [h, true_and]
    · next h => rw [if_neg fun c => h c.1]
  | p n => dsimp only; unfold sRead; rw [pWrite_s, pWrite_hs]
  | _ => rfl

/-- What a destination write leaves in a lane of a predicate. -/
theorem pRead_putD (s : State) (g : Group) (f : XForm) (u pair : Bool) (x : Nat → DWord) (k i : Nat) (hi : i < 128) :
    (pRead (putD s g f u pair x) k).getLsbD i =
      match f.d with
      | .p n =>
        if k = n.val ∧ n.val ≠ 0 ∧ (writes g f u).getLsbD i = true then (if u then x (lu g) else x i).getLsbD 0
        else (pRead g k).getLsbD i
      | _ => (pRead g k).getLsbD i := by
  unfold putD
  dsimp only
  cases hd : f.d with
  | v n => dsimp only; unfold pRead; rw [vPut_p]
  | s n =>
    dsimp only
    split
    · unfold pRead; rw [sWrite_p]
    · rfl
  | p n =>
    dsimp only
    rw [pRead_pWrite]
    by_cases a : k = n.val
    · by_cases b : n.val = 0
      · rw [if_neg (show ¬(k = n.val ∧ n.val ≠ 0) from fun c => c.2 b),
          if_neg (show ¬(k = n.val ∧ n.val ≠ 0 ∧ (writes g f u).getLsbD i = true) from fun c => c.2.1 b)]
      · rw [if_pos (show k = n.val ∧ n.val ≠ 0 from ⟨a, b⟩)]
        simp only [BitVec.getLsbD_or, BitVec.getLsbD_and, BitVec.getLsbD_not, hi, decide_true, Bool.true_and]
        by_cases c : (writes g f u).getLsbD i = true
        · rw [if_pos (show k = n.val ∧ n.val ≠ 0 ∧ (writes g f u).getLsbD i = true from ⟨a, b, c⟩), c]
          cases u
          · simp only [Bool.false_eq_true, if_false, getLsbD_maskWhere, hi]; simp
          · simp only [if_true]
            cases d : (x (lu g)).getLsbD 0
            · simp
            · simp only [LaneMask.full, if_true, BitVec.getLsbD_allOnes, hi]; simp
        · rw [if_neg (show ¬(k = n.val ∧ n.val ≠ 0 ∧ (writes g f u).getLsbD i = true) from fun e => c e.2.2)]
          simp only [Bool.not_eq_true] at c
          rw [c, a]; simp
    · rw [if_neg (show ¬(k = n.val ∧ n.val ≠ 0) from fun c => a c.1),
        if_neg (show ¬(k = n.val ∧ n.val ≠ 0 ∧ (writes g f u).getLsbD i = true) from fun c => a c.1)]
  | _ => rfl

end Sys2Proof.Machine
end

