-- ==== Sys2Proof/Laws/Access.lean ====
section
/-! SUPPORT. The shared operations of accesses: what the shared-memory writes keep of the canonical form, what filling the
TLBs leaves alone, and the next state of an access that meets no fault and nothing in its way. -/

namespace Sys2Proof.Machine

/-! ## The canonical form of memory -/

/-- Bytes of a line written keep the canonical form. -/
theorem putOffsets_wf {m : List Host.Cell} (l : Nat) (bs : AMap Byte) (h : Memory.wf m = true) :
    Memory.wf (putOffsets m l bs) = true := by
  induction bs generalizing m with
  | nil => exact h
  | cons e r ih => exact ih (memWrite_wf _ _ h)

/-- The memory that a fetched word stands in has the canonical form. -/
theorem fetchMem_wf {m : List Host.Cell} (nbits w : Nat) (h : Memory.wf m = true) : Memory.wf (State.fetchMem m nbits w) = true :=
  memPut_wf _ _ (memPut_wf _ _ (memPut_wf _ _ h))

/-! ## Translations that an access fills in (R345, R366) -/

/-- What filling a TLB, and serving a line that waits for nothing, leave alone. -/
structure Kept (s t : State) : Prop where
  cur : t.cur = s.cur
  groups : t.groups = s.groups
  mem : t.mem = s.mem
  stores : t.stores = s.stores
  blocks : t.blocks = s.blocks
  grids : t.grids = s.grids
  dies : t.dies = s.dies
  parts : t.parts = s.parts
  tick : t.tick = s.tick
  loads : t.loads = s.loads
  cores : t.cores = s.cores

theorem Kept.refl (a : State) : Kept a a := by constructor <;> rfl

theorem Kept.trans {a b c : State} (h : Kept a b) (k : Kept b c) : Kept a c :=
  ⟨k.cur.trans h.cur, k.groups.trans h.groups, k.mem.trans h.mem, k.stores.trans h.stores, k.blocks.trans h.blocks,
   k.grids.trans h.grids, k.dies.trans h.dies, k.parts.trans h.parts, k.tick.trans h.tick, k.loads.trans h.loads,
   k.cores.trans h.cores⟩

theorem Kept.curGroup {a b : State} (h : Kept a b) : curGroup b = curGroup a := by
  simp [Machine.curGroup, getGroup, h.cur, h.groups]

theorem Kept.hidden {a b : State} (h : Kept a b) : Machine.hidden b b.cur = Machine.hidden a a.cur := by
  simp only [Machine.hidden, getGroup, h.cur, h.groups, isFirmwareCore, getDie, h.dies]; rfl

theorem Kept.putD {a b : State} (h : Kept a b) (g : Group) (f : XForm) (u p : Bool) (y : Nat → DWord) :
    Machine.putD b g f u p y = Machine.putD a g f u p y := by
  unfold Machine.putD; rw [h.hidden]

theorem tlbFill_kept (s : State) (p c : Nat) (va : DWord) : Kept s (tlbFill s p c va) := by
  unfold tlbFill
  split
  · dsimp only
    split <;> constructor <;> rfl
  · constructor <;> rfl

theorem fillTlb_kept (s : State) (ts : List Tried) : Kept s (fillTlb s ts) := by
  unfold fillTlb
  dsimp only
  generalize groupSpace s s.cur = sp
  induction ts generalizing s with
  | nil => exact Kept.refl s
  | cons a r ih => exact (tlbFill_kept s sp.1 sp.2 a.va).trans (ih _)

/-! ## Accesses (R335, R341) -/

@[simp] theorem putVals_fpflags (s : State) (g : Group) (f : XForm) (u pair : Bool) (v : List (Nat × DWord)) :
    (putVals s g f u pair v).fpflags = g.fpflags := by
  unfold putVals
  split
  · split
    · rfl
    · simp
  · split <;> simp

/-- A lane with no open transaction makes its accesses outside one. -/
theorem laneMode_plain (s : State) (i : Nat) (b : Bool) (h : (mapGet {} (curGroup s).txn i).isOpen = false) :
    laneMode s s.cur i b = .plain := by
  unfold laneMode
  have : (mapGet {} (getGroup s s.cur).txn i).isOpen = false := h
  simp [this]

/-- The one lane that a uniform access outside a transaction tries. -/
theorem tryLanes_uniform (s : State) (f : XForm) (a : Access) (hu : a.uni = true) (hr : runs (curGroup s) f = true)
    (hm : laneMode s s.cur (lu (curGroup s)) a.inside = .plain) (x : Place)
    (hx : reach s (groupSpace s s.cur).1 (groupSpace s s.cur).2 a.need a.n false (a.va (lu (curGroup s))) = .ok x) :
    tryLanes s f a = [{ lane := lu (curGroup s), va := a.va (lu (curGroup s)), mode := .plain, at_ := .ok x }] := by
  simp [tryLanes, hu, hr, hm]
  exact hx

/-- A plain lane that reaches a place acts as the instruction says, unless poison has been read before. -/
theorem laneStep_plain (a : Access) (reads : Bool) (f : Nat → Nat → Option Nat) (put : Nat → DWord)
    (plain : Got → Tried × Place → Got) (r : Got) (l : Nat) (va : DWord) (x : Place) (h : r.lost = none) :
    laneStep a reads f put plain r { lane := l, va, mode := .plain, at_ := .ok x }
      = plain r ({ lane := l, va, mode := .plain, at_ := .ok x }, x) := by
  simp [laneStep, h]

/-- Where no lane of a store is in a transaction, its lanes' bytes make one access to each line. -/
theorem storeLanes_one (s : State) (a : Access) (l : Nat) (va : DWord) (x : Place) (data : Nat → List Byte) :
    storeLanes s a [{ lane := l, va, mode := .plain, at_ := .ok x }] data
      = { s := plainStores s [({ lane := l, va, mode := .plain, at_ := .ok x }, x)] data } := by
  simp [storeLanes]

/-- The next state of an access whose lanes reach places that are free, lose nothing and fault nowhere: the group's destination gets the values, over the state in which the lanes were served and the TLBs filled. -/
theorem accesses_next (s : State) (f : XForm) (k : Issue) (a : Access) (pair : Bool) (go : List Tried → Got × FFlags)
    (ts : List Tried) (r : Got) (fl : FFlags) (hp : issueFault s k = none) (hts : tryLanes s f a = ts)
    (ha : absentLanes ts = []) (hb : (reached_ ts).any (laneBusy s) = false) (hg : go ts = (r, fl))
    (hl : r.lost = none) (hf : r.faults = []) :
    let t := fillTlb r.s ts
    accesses s f k a pair go = .next (setCur t (advance
      { putVals t (curGroup t) f a.uni pair r.vals with fpflags := raiseFlags (curGroup t).fpflags fl } k.len (readsLatch k)
      (pushes f) (pushVals t (curGroup t) f a.uni pair r.vals))) := by
  subst hts
  unfold accesses
  rw [issue_pass _ hp]
  simp [ha, hb, finishAccess, hg, hl, hf, retire]

end Sys2Proof.Machine
end

