-- ==== Sys2Proof/Laws/Home.lean ====
section
/-! SUPPORT. What the shared operations on caches, stores in flight and forwarded bytes leave alone: none of them writes memory. -/

namespace Sys2Proof.Machine

/-! ## Groups by identity, counters -/

/-- A change of the group with an identity writes neither memory nor a store in flight. -/
theorem modUid_kept (s : State) (uid : Nat) (f : Group → Group) : (modUid s uid f).mem = s.mem ∧ (modUid s uid f).stores = s.stores := by
  unfold modUid; split <;> exact ⟨rfl, rfl⟩

/-- A fold of steps, each of which keeps memory and the stores in flight, keeps them. -/
theorem foldl_kept {α : Type} (f : State → α → State) (h : ∀ s a, (f s a).mem = s.mem ∧ (f s a).stores = s.stores) (l : List α) (s : State) :
    (l.foldl f s).mem = s.mem ∧ (l.foldl f s).stores = s.stores := by
  induction l generalizing s with
  | nil => exact ⟨rfl, rfl⟩
  | cons a r ih => exact ⟨(ih _).1.trans (h s a).1, (ih _).2.trans (h s a).2⟩

theorem reroute_kept (s : State) (p : Nat) (v : BitVec 4 × BitVec 4) : (reroute s p v).mem = s.mem ∧ (reroute s p v).stores = s.stores := by
  unfold reroute; split <;> exact ⟨rfl, rfl⟩

/-! ## Forwarded bytes -/

theorem unforward_kept (s : State) (uid l : Nat) (b : AMap Byte) :
    (unforward s uid l b).mem = s.mem ∧ (unforward s uid l b).stores = s.stores := by
  unfold unforward
  split
  · exact ⟨rfl, rfl⟩
  · split
    · exact modUid_kept _ _ _
    · exact ⟨rfl, rfl⟩

/-- A group to which nothing of a line is forwarded is left as it is. -/
theorem unforward_eq (s : State) (uid l : Nat) (b : AMap Byte)
    (h : ∀ y, findUid s uid = some y → (y.fwd.any fun e => e.1 = l) = false) : unforward s uid l b = s := by
  unfold unforward
  split
  · rfl
  · rename_i y hy
    simp [h y hy]

theorem forward_kept (s : State) (us : List Nat) (l : Nat) (b : AMap Byte) :
    (forward s us l b).mem = s.mem ∧ (forward s us l b).stores = s.stores := by
  unfold forward
  split
  · exact ⟨rfl, rfl⟩
  · split
    · exact ⟨rfl, rfl⟩
    · exact foldl_kept _ (fun s u => modUid_kept s u _) us s

/-- Where no image waits, nothing is forwarded. -/
theorem forward_eq (s : State) (us : List Nat) (l : Nat) (b : AMap Byte) (h : lastVisible (getHome s l) = none) : forward s us l b = s := by
  unfold forward; rw [h]

/-! ## Copies in caches -/

theorem setCopy_kept (s : State) (h l : Nat) (c : Copy) : (setCopy s h l c).mem = s.mem ∧ (setCopy s h l c).stores = s.stores := ⟨rfl, rfl⟩

theorem dropCopy_kept (s : State) (h l : Nat) : (dropCopy s h l).mem = s.mem ∧ (dropCopy s h l).stores = s.stores := ⟨rfl, rfl⟩
theorem dropDark_kept (s : State) (d l : Nat) : (dropDark s d l).mem = s.mem ∧ (dropDark s d l).stores = s.stores := ⟨rfl, rfl⟩
theorem setDark_kept (s : State) (d l : Nat) (x : DarkLine) : (setDark s d l x).mem = s.mem ∧ (setDark s d l x).stores = s.stores := ⟨rfl, rfl⟩
theorem addWriteBack_kept (s : State) (w : WriteBack) : (addWriteBack s w).mem = s.mem ∧ (addWriteBack s w).stores = s.stores := ⟨rfl, rfl⟩

/-- A write-back that no group asks for leaves a die: its bytes are on their way, and no memory has changed. -/
theorem writeBack_kept (s : State) (d l : Nat) : (writeBack s d l none).mem = s.mem ∧ (writeBack s d l none).stores = s.stores := by
  unfold writeBack
  dsimp only
  split
  · exact ⟨rfl, rfl⟩
  · split
    · exact ⟨rfl, rfl⟩
    · exact ⟨(addWriteBack_kept _ _).1.trans (setDark_kept s d l _).1, (addWriteBack_kept _ _).2.trans (setDark_kept s d l _).2⟩

/-- Room in an L2 costs no memory: the state stays, or a copy goes, or a darkroom line that has been written back. -/
theorem l2Room_cases (s : State) (d : Nat) : l2Room s d = s ∨ (∃ l, l2Room s d = dropCopy s (l2Holder d) l)
    ∨ ∃ l, l2Room s d = dropDark (writeBack s d l none) d l := by
  unfold l2Room
  generalize Config.l2Lines d = n
  dsimp only
  split
  · exact .inl rfl
  · split
    · exact .inr (.inl ⟨_, rfl⟩)
    · exact .inr (.inr ⟨_, rfl⟩)
    · exact .inl rfl

theorem l2Room_kept (s : State) (d : Nat) : (l2Room s d).mem = s.mem ∧ (l2Room s d).stores = s.stores := by
  obtain h | ⟨l, h⟩ | ⟨l, h⟩ := l2Room_cases s d <;> rw [h]
  · exact ⟨rfl, rfl⟩
  · exact dropCopy_kept _ _ _
  · exact ⟨(dropDark_kept _ _ _).1.trans (writeBack_kept s d l).1, (dropDark_kept _ _ _).2.trans (writeBack_kept s d l).2⟩

theorem addStore_mem (s : State) (t : PStore) : (addStore s t).mem = s.mem := rfl

/-- The sums of an update-only line leave for their home, and no memory has changed. -/
theorem sendGather_mem (s : State) (c l : Nat) : (sendGather s c l).mem = s.mem := by
  have hf (g : Gather) (m : List (Nat × DWord)) (t : State) :
      (m.foldl (fun s e => addStore s (gatherStore c l g e)) t).mem = t.mem := by
    induction m generalizing t with
    | nil => rfl
    | cons a r ih => exact (ih _).trans (addStore_mem _ _)
  unfold sendGather
  split
  · rfl
  · exact (hf _ _ _).trans rfl

/-- Room in an L1 costs no memory. -/
theorem l1Room_mem (s : State) (h : Nat) : (l1Room s h).mem = s.mem := by
  unfold l1Room
  split
  · split
    · exact (dropCopy_kept _ _ _).1
    · exact sendGather_mem _ _ _
    · rfl
  · rfl

theorem l1Room_eq (s : State) (h : Nat) (hr : l1Full s h = false) : l1Room s h = s := by
  unfold l1Room; rw [hr]; rfl

/-- An L1 with room takes a copy as it is. -/
theorem putCopy_room (s : State) (h l : Nat) (c : Copy) (hh : h < l2Holder 0) (hr : l1Full s h = false) : putCopy s h l c = setCopy s h l c := by
  unfold putCopy
  split
  · rfl
  · rw [l1Room_eq s h hr, if_neg (by simp [hr])]

theorem putCopy_mem (s : State) (h l : Nat) (c : Copy) : (putCopy s h l c).mem = s.mem := by
  unfold putCopy
  by_cases h1 : (getCopy s h l).isSome = true
  · rw [if_pos h1]; exact (setCopy_kept _ _ _ _).1
  · rw [if_neg h1]
    by_cases h2 : h < l2Holder 0
    · rw [if_pos h2]
      by_cases h3 : l1Full (l1Room s h) h = true
      · rw [if_pos h3]; exact l1Room_mem s h
      · rw [if_neg h3]; exact (setCopy_kept _ _ _ _).1.trans (l1Room_mem s h)
    · rw [if_neg h2]; exact (setCopy_kept _ _ _ _).1.trans (l2Room_kept s _).1

/-- Bytes that an access has written at the home without its L1 change no memory. -/
theorem ownAtomic_kept (s : State) (us : List Nat) (h l : Nat) (b : AMap Byte) :
    (ownAtomic s us h l b).mem = s.mem ∧ (ownAtomic s us h l b).stores = s.stores := by
  unfold ownAtomic
  dsimp only
  split
  · split <;> exact ⟨rfl, rfl⟩
  · exact forward_kept _ _ _ _

theorem ownWritten_kept (s : State) (us : List Nat) (h l : Nat) (b : AMap Byte) :
    (ownWritten s us h l b).mem = s.mem ∧ (ownWritten s us h l b).stores = s.stores := by
  have h1 := ownAtomic_kept (us.foldl (fun s u => unforward s u l b) s) us h l b
  have h2 := foldl_kept (fun s u => unforward s u l b) (fun s u => unforward_kept s u l b) us s
  exact ⟨h1.1.trans h2.1, h1.2.trans h2.2⟩

end Sys2Proof.Machine
end

