-- ==== Sys2Proof/Laws/PerInstr.lean ====
section
/-! SUPPORT. Statements made once per constructor of `Instr`: the family `Encoding`, how long an instruction's encoding is. -/

namespace Sys2Proof.Laws

open Sys2Proof

/-- `wordsOf n` gives `n` words. -/
theorem wordsOf_length (n x : Nat) : (wordsOf n x).length = n := by
  induction n generalizing x with
  | zero => rfl
  | succ n ih => simp [wordsOf, ih]

/-- R90, R94, R99, R104: an instruction that has an encoding takes one, three or five words; a step of the device or of the
outside has none. -/
def Encoding.Statement (i : Instr) : Prop :=
  (i.encoded = true → (encode i).length ∈ [1, 3, 5]) ∧ (i.encoded = false → encode i = [])

/-- The statement holds of every instruction: its length is chosen by its layout alone. -/
theorem encoding_all (i : Instr) : Encoding.Statement i := by
  unfold Encoding.Statement Instr.encoded encode encodeBits
  rw [wordsOf_length]
  generalize Machine.xspec i = x
  generalize Machine.mspec i = m
  generalize Machine.baseWord i = b
  match x, m, b with
  | some y, m, b =>
    obtain ⟨xop, sp, f⟩ := y
    refine ⟨fun _ => ?_, fun h => Bool.noConfusion (show true = false from h)⟩
    dsimp only
    by_cases hb : f.form = .bl
    · rw [if_pos hb]; dsimp only; decide
    · rw [if_neg hb]; dsimp only; split <;> decide
  | none, some y, b => exact ⟨fun _ => by dsimp only; decide, fun h => Bool.noConfusion (show true = false from h)⟩
  | none, none, some y => exact ⟨fun _ => by dsimp only; decide, fun h => Bool.noConfusion (show true = false from h)⟩
  | none, none, none =>
    cases i <;> first
      | exact ⟨fun _ => by dsimp only; decide, fun h => Bool.noConfusion (show true = false from h)⟩
      | exact ⟨fun h => Bool.noConfusion (show false = true from h), fun _ => by dsimp only; rw [Nat.zero_div]; rfl⟩

end Sys2Proof.Laws

namespace Sys2Proof.Laws

open Sys2Proof

theorem Encoding.nopBase (g : Fin 4) : Encoding.Statement (.nopBase g) := encoding_all _
theorem Encoding.addBase (f : BForm) : Encoding.Statement (.addBase f) := encoding_all _
theorem Encoding.subBase (f : BForm) : Encoding.Statement (.subBase f) := encoding_all _
theorem Encoding.mulBase (f : BForm) : Encoding.Statement (.mulBase f) := encoding_all _
theorem Encoding.mulhBase (f : BForm) : Encoding.Statement (.mulhBase f) := encoding_all _
theorem Encoding.minBase (f : BForm) : Encoding.Statement (.minBase f) := encoding_all _
theorem Encoding.maxBase (f : BForm) : Encoding.Statement (.maxBase f) := encoding_all _
theorem Encoding.andBase (f : BForm) : Encoding.Statement (.andBase f) := encoding_all _
theorem Encoding.orBase (f : BForm) : Encoding.Statement (.orBase f) := encoding_all _
theorem Encoding.xorBase (f : BForm) : Encoding.Statement (.xorBase f) := encoding_all _
theorem Encoding.andnBase (f : BForm) : Encoding.Statement (.andnBase f) := encoding_all _
theorem Encoding.shlBase (f : BForm) : Encoding.Statement (.shlBase f) := encoding_all _
theorem Encoding.shrBase (f : BForm) : Encoding.Statement (.shrBase f) := encoding_all _
theorem Encoding.sarBase (f : BForm) : Encoding.Statement (.sarBase f) := encoding_all _
theorem Encoding.rotlBase (f : BForm) : Encoding.Statement (.rotlBase f) := encoding_all _
theorem Encoding.movBase (f : BForm) : Encoding.Statement (.movBase f) := encoding_all _
theorem Encoding.faddBase (f : BForm) : Encoding.Statement (.faddBase f) := encoding_all _
theorem Encoding.fsubBase (f : BForm) : Encoding.Statement (.fsubBase f) := encoding_all _
theorem Encoding.fmulBase (f : BForm) : Encoding.Statement (.fmulBase f) := encoding_all _
theorem Encoding.fminBase (f : BForm) : Encoding.Statement (.fminBase f) := encoding_all _
theorem Encoding.fmaxBase (f : BForm) : Encoding.Statement (.fmaxBase f) := encoding_all _
theorem Encoding.cmpEqBase (f : BForm) : Encoding.Statement (.cmpEqBase f) := encoding_all _
theorem Encoding.cmpNeBase (f : BForm) : Encoding.Statement (.cmpNeBase f) := encoding_all _
theorem Encoding.cmpLtBase (f : BForm) : Encoding.Statement (.cmpLtBase f) := encoding_all _
theorem Encoding.cmpLeBase (f : BForm) : Encoding.Statement (.cmpLeBase f) := encoding_all _
theorem Encoding.cmpGtBase (f : BForm) : Encoding.Statement (.cmpGtBase f) := encoding_all _
theorem Encoding.cmpGeBase (f : BForm) : Encoding.Statement (.cmpGeBase f) := encoding_all _
theorem Encoding.braBase (g : Fin 4) (off : BitVec 20) : Encoding.Statement (.braBase g off) := encoding_all _
theorem Encoding.joinBase : Encoding.Statement (.joinBase) := encoding_all _
theorem Encoding.exitBase (g : Fin 4) : Encoding.Statement (.exitBase g) := encoding_all _
theorem Encoding.pandBase (f : BForm) : Encoding.Statement (.pandBase f) := encoding_all _
theorem Encoding.porBase (f : BForm) : Encoding.Statement (.porBase f) := encoding_all _
theorem Encoding.pxorBase (f : BForm) : Encoding.Statement (.pxorBase f) := encoding_all _
theorem Encoding.bra (f : XForm) : Encoding.Statement (.bra f) := encoding_all _
theorem Encoding.brc (f : XForm) : Encoding.Statement (.brc f) := encoding_all _
theorem Encoding.brd (f : XForm) : Encoding.Statement (.brd f) := encoding_all _
theorem Encoding.brx (f : XForm) : Encoding.Statement (.brx f) := encoding_all _
theorem Encoding.call (f : XForm) : Encoding.Statement (.call f) := encoding_all _
theorem Encoding.callx (f : XForm) : Encoding.Statement (.callx f) := encoding_all _
theorem Encoding.ret (f : XForm) : Encoding.Statement (.ret f) := encoding_all _
theorem Encoding.join (f : XForm) : Encoding.Statement (.join f) := encoding_all _
theorem Encoding.exit (f : XForm) : Encoding.Statement (.exit f) := encoding_all _
theorem Encoding.elect (f : XForm) : Encoding.Statement (.elect f) := encoding_all _
theorem Encoding.vote (f : XForm) : Encoding.Statement (.vote f) := encoding_all _
theorem Encoding.nop (f : XForm) : Encoding.Statement (.nop f) := encoding_all _
theorem Encoding.wait (f : XForm) : Encoding.Statement (.wait f) := encoding_all _
theorem Encoding.yield (f : XForm) : Encoding.Statement (.yield f) := encoding_all _
theorem Encoding.yieldEnd (g : Nat) : Encoding.Statement (.yieldEnd g) := encoding_all _
theorem Encoding.prio (f : XForm) : Encoding.Statement (.prio f) := encoding_all _
theorem Encoding.mark (f : XForm) : Encoding.Statement (.mark f) := encoding_all _
theorem Encoding.trap (f : XForm) : Encoding.Statement (.trap f) := encoding_all _
theorem Encoding.bkpt (f : XForm) : Encoding.Statement (.bkpt f) := encoding_all _
theorem Encoding.add (f : XForm) : Encoding.Statement (.add f) := encoding_all _
theorem Encoding.sub (f : XForm) : Encoding.Statement (.sub f) := encoding_all _
theorem Encoding.addc (f : XForm) : Encoding.Statement (.addc f) := encoding_all _
theorem Encoding.subb (f : XForm) : Encoding.Statement (.subb f) := encoding_all _
theorem Encoding.mul (f : XForm) : Encoding.Statement (.mul f) := encoding_all _
theorem Encoding.mulh (f : XForm) : Encoding.Statement (.mulh f) := encoding_all _
theorem Encoding.mad (f : XForm) : Encoding.Statement (.mad f) := encoding_all _
theorem Encoding.min (f : XForm) : Encoding.Statement (.min f) := encoding_all _
theorem Encoding.max (f : XForm) : Encoding.Statement (.max f) := encoding_all _
theorem Encoding.abs (f : XForm) : Encoding.Statement (.abs f) := encoding_all _
theorem Encoding.neg (f : XForm) : Encoding.Statement (.neg f) := encoding_all _
theorem Encoding.and (f : XForm) : Encoding.Statement (.and f) := encoding_all _
theorem Encoding.or (f : XForm) : Encoding.Statement (.or f) := encoding_all _
theorem Encoding.xor (f : XForm) : Encoding.Statement (.xor f) := encoding_all _
theorem Encoding.andn (f : XForm) : Encoding.Statement (.andn f) := encoding_all _
theorem Encoding.not (f : XForm) : Encoding.Statement (.not f) := encoding_all _
theorem Encoding.shl (f : XForm) : Encoding.Statement (.shl f) := encoding_all _
theorem Encoding.shr (f : XForm) : Encoding.Statement (.shr f) := encoding_all _
theorem Encoding.sar (f : XForm) : Encoding.Statement (.sar f) := encoding_all _
theorem Encoding.rotl (f : XForm) : Encoding.Statement (.rotl f) := encoding_all _
theorem Encoding.bfx (f : XForm) : Encoding.Statement (.bfx f) := encoding_all _
theorem Encoding.bfi (f : XForm) : Encoding.Statement (.bfi f) := encoding_all _
theorem Encoding.clz (f : XForm) : Encoding.Statement (.clz f) := encoding_all _
theorem Encoding.popc (f : XForm) : Encoding.Statement (.popc f) := encoding_all _
theorem Encoding.brev (f : XForm) : Encoding.Statement (.brev f) := encoding_all _
theorem Encoding.cmp (f : XForm) : Encoding.Statement (.cmp f) := encoding_all _
theorem Encoding.sel (f : XForm) : Encoding.Statement (.sel f) := encoding_all _
theorem Encoding.mov (f : XForm) : Encoding.Statement (.mov f) := encoding_all _
theorem Encoding.li (f : XForm) : Encoding.Statement (.li f) := encoding_all _
theorem Encoding.cvt (f : XForm) : Encoding.Statement (.cvt f) := encoding_all _
theorem Encoding.fadd (f : XForm) : Encoding.Statement (.fadd f) := encoding_all _
theorem Encoding.fsub (f : XForm) : Encoding.Statement (.fsub f) := encoding_all _
theorem Encoding.fmul (f : XForm) : Encoding.Statement (.fmul f) := encoding_all _
theorem Encoding.ffma (f : XForm) : Encoding.Statement (.ffma f) := encoding_all _
theorem Encoding.fdiv (f : XForm) : Encoding.Statement (.fdiv f) := encoding_all _
theorem Encoding.fmin (f : XForm) : Encoding.Statement (.fmin f) := encoding_all _
theorem Encoding.fmax (f : XForm) : Encoding.Statement (.fmax f) := encoding_all _
theorem Encoding.fcmp (f : XForm) : Encoding.Statement (.fcmp f) := encoding_all _
theorem Encoding.fcls (f : XForm) : Encoding.Statement (.fcls f) := encoding_all _
theorem Encoding.frnd (f : XForm) : Encoding.Statement (.frnd f) := encoding_all _
theorem Encoding.frcp (f : XForm) : Encoding.Statement (.frcp f) := encoding_all _
theorem Encoding.frsq (f : XForm) : Encoding.Statement (.frsq f) := encoding_all _
theorem Encoding.fsqrt (f : XForm) : Encoding.Statement (.fsqrt f) := encoding_all _
theorem Encoding.fexp2 (f : XForm) : Encoding.Statement (.fexp2 f) := encoding_all _
theorem Encoding.flog2 (f : XForm) : Encoding.Statement (.flog2 f) := encoding_all _
theorem Encoding.fsin (f : XForm) : Encoding.Statement (.fsin f) := encoding_all _
theorem Encoding.fcos (f : XForm) : Encoding.Statement (.fcos f) := encoding_all _
theorem Encoding.pand (f : XForm) : Encoding.Statement (.pand f) := encoding_all _
theorem Encoding.por (f : XForm) : Encoding.Statement (.por f) := encoding_all _
theorem Encoding.pxor (f : XForm) : Encoding.Statement (.pxor f) := encoding_all _
theorem Encoding.pnot (f : XForm) : Encoding.Statement (.pnot f) := encoding_all _
theorem Encoding.pmov (f : XForm) : Encoding.Statement (.pmov f) := encoding_all _
theorem Encoding.red (f : XForm) : Encoding.Statement (.red f) := encoding_all _
theorem Encoding.scan (f : XForm) : Encoding.Statement (.scan f) := encoding_all _
theorem Encoding.topki (f : XForm) : Encoding.Statement (.topki f) := encoding_all _
theorem Encoding.sieve (f : XForm) : Encoding.Statement (.sieve f) := encoding_all _
theorem Encoding.sieveExchange (blk : Nat) : Encoding.Statement (.sieveExchange blk) := encoding_all _
theorem Encoding.ld (f : XForm) : Encoding.Statement (.ld f) := encoding_all _
theorem Encoding.st (f : XForm) : Encoding.Statement (.st f) := encoding_all _
theorem Encoding.lds (f : XForm) : Encoding.Statement (.lds f) := encoding_all _
theorem Encoding.sts (f : XForm) : Encoding.Statement (.sts f) := encoding_all _
theorem Encoding.ldl (f : XForm) : Encoding.Statement (.ldl f) := encoding_all _
theorem Encoding.stl (f : XForm) : Encoding.Statement (.stl f) := encoding_all _
theorem Encoding.pref (f : XForm) : Encoding.Statement (.pref f) := encoding_all _
theorem Encoding.pfa (f : XForm) : Encoding.Statement (.pfa f) := encoding_all _
theorem Encoding.atom (f : XForm) : Encoding.Statement (.atom f) := encoding_all _
theorem Encoding.atomf (f : XForm) : Encoding.Statement (.atomf f) := encoding_all _
theorem Encoding.atomx (f : XForm) : Encoding.Statement (.atomx f) := encoding_all _
theorem Encoding.cas (f : XForm) : Encoding.Statement (.cas f) := encoding_all _
theorem Encoding.txb (f : XForm) : Encoding.Statement (.txb f) := encoding_all _
theorem Encoding.txe (f : XForm) : Encoding.Statement (.txe f) := encoding_all _
theorem Encoding.txa (f : XForm) : Encoding.Statement (.txa f) := encoding_all _
theorem Encoding.txq (f : XForm) : Encoding.Statement (.txq f) := encoding_all _
theorem Encoding.fence (f : XForm) : Encoding.Statement (.fence f) := encoding_all _
theorem Encoding.mon (f : XForm) : Encoding.Statement (.mon f) := encoding_all _
theorem Encoding.rwb (f : XForm) : Encoding.Statement (.rwb f) := encoding_all _
theorem Encoding.rinv (f : XForm) : Encoding.Statement (.rinv f) := encoding_all _
theorem Encoding.locq (f : XForm) : Encoding.Statement (.locq f) := encoding_all _
theorem Encoding.cpy (f : XForm) : Encoding.Statement (.cpy f) := encoding_all _
theorem Encoding.seal (f : XForm) : Encoding.Statement (.seal f) := encoding_all _
theorem Encoding.bari (f : XForm) : Encoding.Statement (.bari f) := encoding_all _
theorem Encoding.bara (f : XForm) : Encoding.Statement (.bara f) := encoding_all _
theorem Encoding.barx (f : XForm) : Encoding.Statement (.barx f) := encoding_all _
theorem Encoding.barq (f : XForm) : Encoding.Statement (.barq f) := encoding_all _
theorem Encoding.flag (f : XForm) : Encoding.Statement (.flag f) := encoding_all _
theorem Encoding.mxm (f : MForm) : Encoding.Statement (.mxm f) := encoding_all _
theorem Encoding.mxg (f : MForm) : Encoding.Statement (.mxg f) := encoding_all _
theorem Encoding.mxz (f : XForm) : Encoding.Statement (.mxz f) := encoding_all _
theorem Encoding.mxld (f : MForm) : Encoding.Statement (.mxld f) := encoding_all _
theorem Encoding.mxst (f : MForm) : Encoding.Statement (.mxst f) := encoding_all _
theorem Encoding.mxw (f : XForm) : Encoding.Statement (.mxw f) := encoding_all _
theorem Encoding.mxta (f : XForm) : Encoding.Statement (.mxta f) := encoding_all _
theorem Encoding.mxtr (f : XForm) : Encoding.Statement (.mxtr f) := encoding_all _
theorem Encoding.mxp (f : XForm) : Encoding.Statement (.mxp f) := encoding_all _
theorem Encoding.mxq (f : XForm) : Encoding.Statement (.mxq f) := encoding_all _
theorem Encoding.matrixRetire (core : Nat) : Encoding.Statement (.matrixRetire core) := encoding_all _
theorem Encoding.engineLeaseEnd (core : Nat) : Encoding.Statement (.engineLeaseEnd core) := encoding_all _
theorem Encoding.claq (f : XForm) : Encoding.Statement (.claq f) := encoding_all _
theorem Encoding.clrl (f : XForm) : Encoding.Statement (.clrl f) := encoding_all _
theorem Encoding.clq (f : XForm) : Encoding.Statement (.clq f) := encoding_all _
theorem Encoding.spawn (f : XForm) : Encoding.Statement (.spawn f) := encoding_all _
theorem Encoding.await (f : XForm) : Encoding.Statement (.await f) := encoding_all _
theorem Encoding.qpop (f : XForm) : Encoding.Statement (.qpop f) := encoding_all _
theorem Encoding.qpush (f : XForm) : Encoding.Statement (.qpush f) := encoding_all _
theorem Encoding.qwput (f : XForm) : Encoding.Statement (.qwput f) := encoding_all _
theorem Encoding.qwget (f : XForm) : Encoding.Statement (.qwget f) := encoding_all _
theorem Encoding.wlapp (f : XForm) : Encoding.Statement (.wlapp f) := encoding_all _
theorem Encoding.itemInList (part : Nat) : Encoding.Statement (.itemInList part) := encoding_all _
theorem Encoding.wlpop (f : XForm) : Encoding.Statement (.wlpop f) := encoding_all _
theorem Encoding.term (f : XForm) : Encoding.Statement (.term f) := encoding_all _
theorem Encoding.movs (f : XForm) : Encoding.Statement (.movs f) := encoding_all _
theorem Encoding.movw (f : XForm) : Encoding.Statement (.movw f) := encoding_all _
theorem Encoding.sysc (f : XForm) : Encoding.Statement (.sysc f) := encoding_all _
theorem Encoding.rft (f : XForm) : Encoding.Statement (.rft f) := encoding_all _
theorem Encoding.tlbi (f : XForm) : Encoding.Statement (.tlbi f) := encoding_all _
theorem Encoding.icinv (f : XForm) : Encoding.Statement (.icinv f) := encoding_all _
theorem Encoding.csave (f : XForm) : Encoding.Statement (.csave f) := encoding_all _
theorem Encoding.crest (f : XForm) : Encoding.Statement (.crest f) := encoding_all _
theorem Encoding.gstop (f : XForm) : Encoding.Statement (.gstop f) := encoding_all _
theorem Encoding.groupPark (g : Nat) : Encoding.Statement (.groupPark g) := encoding_all _
theorem Encoding.loadAtHome (id : Nat) : Encoding.Statement (.loadAtHome id) := encoding_all _
theorem Encoding.loadResult (id : Nat) : Encoding.Statement (.loadResult id) := encoding_all _
theorem Encoding.storePerformed (id : Nat) : Encoding.Statement (.storePerformed id) := encoding_all _
theorem Encoding.atomicAtHome (id : Nat) : Encoding.Statement (.atomicAtHome id) := encoding_all _
theorem Encoding.leaseExpiry (holder line : Nat) : Encoding.Statement (.leaseExpiry holder line) := encoding_all _
theorem Encoding.monitorEviction (g : Nat) : Encoding.Statement (.monitorEviction g) := encoding_all _
theorem Encoding.stallEnd (g : Nat) : Encoding.Statement (.stallEnd g) := encoding_all _
theorem Encoding.commit (g lane : Nat) : Encoding.Statement (.commit g lane) := encoding_all _
theorem Encoding.commitVisibility (line : Nat) : Encoding.Statement (.commitVisibility line) := encoding_all _
theorem Encoding.tokenReservationLapse (part : Nat) : Encoding.Statement (.tokenReservationLapse part) := encoding_all _
theorem Encoding.darkroomMerge (id : Nat) : Encoding.Statement (.darkroomMerge id) := encoding_all _
theorem Encoding.copyLanding (elem piece : Nat) : Encoding.Statement (.copyLanding elem piece) := encoding_all _
theorem Encoding.copyElementFault (elem : Nat) : Encoding.Statement (.copyElementFault elem) := encoding_all _
theorem Encoding.trapEntry (g : Nat) : Encoding.Statement (.trapEntry g) := encoding_all _
theorem Encoding.blockPlacement (grid : Nat) : Encoding.Statement (.blockPlacement grid) := encoding_all _
theorem Encoding.starvationLift (g : Nat) : Encoding.Statement (.starvationLift g) := encoding_all _
theorem Encoding.contactSheetUpdate (part ctx : Nat) : Encoding.Statement (.contactSheetUpdate part ctx) := encoding_all _
theorem Encoding.tickBoundary (q : QRef) : Encoding.Statement (.tickBoundary q) := encoding_all _
theorem Encoding.prologueFault (g : Nat) : Encoding.Statement (.prologueFault g) := encoding_all _
theorem Encoding.tileFlagRelease (grid : Nat) : Encoding.Statement (.tileFlagRelease grid) := encoding_all _
theorem Encoding.gridCompletion (grid : Nat) : Encoding.Statement (.gridCompletion grid) := encoding_all _
theorem Encoding.childLaunch (die : Nat) : Encoding.Statement (.childLaunch die) := encoding_all _
theorem Encoding.blockSave (blk : Nat) : Encoding.Statement (.blockSave blk) := encoding_all _
theorem Encoding.hardSave (grid : Nat) : Encoding.Statement (.hardSave grid) := encoding_all _
theorem Encoding.preemptionDeadline (grid : Nat) : Encoding.Statement (.preemptionDeadline grid) := encoding_all _
theorem Encoding.awaitSave (blk : Nat) : Encoding.Statement (.awaitSave blk) := encoding_all _
theorem Encoding.blockRestore (blk : Nat) : Encoding.Statement (.blockRestore blk) := encoding_all _
theorem Encoding.waitSatisfied (q : QRef) : Encoding.Statement (.waitSatisfied q) := encoding_all _
theorem Encoding.launch (q : QRef) (e : CmdEntry) : Encoding.Statement (.launch q e) := encoding_all _
theorem Encoding.launchPinned (q : QRef) (e : CmdEntry) : Encoding.Statement (.launchPinned q e) := encoding_all _
theorem Encoding.jointLaunch (q : QRef) (e : CmdEntry) : Encoding.Statement (.jointLaunch q e) := encoding_all _
theorem Encoding.preempt (q : QRef) (e : CmdEntry) : Encoding.Statement (.preempt q e) := encoding_all _
theorem Encoding.restore (q : QRef) (e : CmdEntry) : Encoding.Statement (.restore q e) := encoding_all _
theorem Encoding.signal (q : QRef) (e : CmdEntry) : Encoding.Statement (.signal q e) := encoding_all _
theorem Encoding.waitCommand (q : QRef) (e : CmdEntry) : Encoding.Statement (.waitCommand q e) := encoding_all _
theorem Encoding.copyCmd (q : QRef) (e : CmdEntry) : Encoding.Statement (.copyCmd q e) := encoding_all _
theorem Encoding.copyCommandDone (q : QRef) : Encoding.Statement (.copyCommandDone q) := encoding_all _
theorem Encoding.mapContext (q : QRef) (e : CmdEntry) : Encoding.Statement (.mapContext q e) := encoding_all _
theorem Encoding.mapQueue (q : QRef) (e : CmdEntry) : Encoding.Statement (.mapQueue q e) := encoding_all _
theorem Encoding.mapContactSheet (q : QRef) (e : CmdEntry) : Encoding.Statement (.mapContactSheet q e) := encoding_all _
theorem Encoding.mapAperture (q : QRef) (e : CmdEntry) : Encoding.Statement (.mapAperture q e) := encoding_all _
theorem Encoding.mapTrapDescriptor (q : QRef) (e : CmdEntry) : Encoding.Statement (.mapTrapDescriptor q e) := encoding_all _
theorem Encoding.mapSaveRegion (q : QRef) (e : CmdEntry) : Encoding.Statement (.mapSaveRegion q e) := encoding_all _
theorem Encoding.unmapRange (q : QRef) (e : CmdEntry) : Encoding.Statement (.unmapRange q e) := encoding_all _
theorem Encoding.unmapContext (q : QRef) (e : CmdEntry) : Encoding.Statement (.unmapContext q e) := encoding_all _
theorem Encoding.unmapQueue (q : QRef) (e : CmdEntry) : Encoding.Statement (.unmapQueue q e) := encoding_all _
theorem Encoding.unmapAperture (q : QRef) (e : CmdEntry) : Encoding.Statement (.unmapAperture q e) := encoding_all _
theorem Encoding.partitionMerge (q : QRef) (e : CmdEntry) : Encoding.Statement (.partitionMerge q e) := encoding_all _
theorem Encoding.partitionSplit (q : QRef) (e : CmdEntry) : Encoding.Statement (.partitionSplit q e) := encoding_all _
theorem Encoding.mergeHandshakeTimeout (part : Nat) : Encoding.Statement (.mergeHandshakeTimeout part) := encoding_all _
theorem Encoding.attest (q : QRef) (e : CmdEntry) : Encoding.Statement (.attest q e) := encoding_all _
theorem Encoding.versionCmd (q : QRef) (e : CmdEntry) : Encoding.Statement (.versionCmd q e) := encoding_all _
theorem Encoding.resetContext (q : QRef) (e : CmdEntry) : Encoding.Statement (.resetContext q e) := encoding_all _
theorem Encoding.resetPartition (q : QRef) (e : CmdEntry) : Encoding.Statement (.resetPartition q e) := encoding_all _
theorem Encoding.resetPatch (q : QRef) (e : CmdEntry) : Encoding.Statement (.resetPatch q e) := encoding_all _
theorem Encoding.logCmd (q : QRef) (e : CmdEntry) : Encoding.Statement (.logCmd q e) := encoding_all _
theorem Encoding.doorbell (fn ctx q : Nat) (tail : Word) : Encoding.Statement (.doorbell fn ctx q tail) := encoding_all _
theorem Encoding.aqctl (fn : Nat) (val : DWord) : Encoding.Statement (.aqctl fn val) := encoding_all _
theorem Encoding.registerWrite (fn off : Nat) (val : DWord) : Encoding.Statement (.registerWrite fn off val) := encoding_all _
theorem Encoding.functionLevelReset (fn : Nat) : Encoding.Statement (.functionLevelReset fn) := encoding_all _
theorem Encoding.ptmDialogue (fn : Nat) (master : DWord) : Encoding.Statement (.ptmDialogue fn master) := encoding_all _
theorem Encoding.coldReset : Encoding.Statement (.coldReset) := encoding_all _
theorem Encoding.leaseHold (die diff : Nat) : Encoding.Statement (.leaseHold die diff) := encoding_all _
theorem Encoding.leaseHoldEnd (die diff : Nat) : Encoding.Statement (.leaseHoldEnd die diff) := encoding_all _
theorem Encoding.fabricRequest (fn : Nat) (r : FabReq) : Encoding.Statement (.fabricRequest fn r) := encoding_all _
theorem Encoding.acknowledgement (id : Nat) (data : DWord) : Encoding.Statement (.acknowledgement id data) := encoding_all _
theorem Encoding.fabricReplay (id : Nat) : Encoding.Statement (.fabricReplay id) := encoding_all _
theorem Encoding.linkDown (link : Nat) : Encoding.Statement (.linkDown link) := encoding_all _
theorem Encoding.linkUp (link ver : Nat) : Encoding.Statement (.linkUp link ver) := encoding_all _
theorem Encoding.targetUnreachable (module : Nat) : Encoding.Statement (.targetUnreachable module) := encoding_all _
theorem Encoding.targetReachable (module : Nat) : Encoding.Statement (.targetReachable module) := encoding_all _
theorem Encoding.staleResponse (die : Nat) (life : BitVec 16) : Encoding.Statement (.staleResponse die life) := encoding_all _
theorem Encoding.dieReset (die : Nat) : Encoding.Statement (.dieReset die) := encoding_all _
theorem Encoding.dieFailed (die : Nat) : Encoding.Statement (.dieFailed die) := encoding_all _
theorem Encoding.tableSwitch (part table : Nat) : Encoding.Statement (.tableSwitch part table) := encoding_all _
theorem Encoding.forcedTableSwitch (part table : Nat) : Encoding.Statement (.forcedTableSwitch part table) := encoding_all _
theorem Encoding.misrouted (part : Nat) : Encoding.Statement (.misrouted part) := encoding_all _
theorem Encoding.watchdogExpiry (die : Nat) : Encoding.Statement (.watchdogExpiry die) := encoding_all _
theorem Encoding.correctableError (part str : Nat) : Encoding.Statement (.correctableError part str) := encoding_all _
theorem Encoding.uncorrectableError (site : ErrSite) : Encoding.Statement (.uncorrectableError site) := encoding_all _
theorem Encoding.patrolScrub (part errors : Nat) : Encoding.Statement (.patrolScrub part errors) := encoding_all _
theorem Encoding.stackFailure (stack : Nat) : Encoding.Statement (.stackFailure stack) := encoding_all _
theorem Encoding.fatalState : Encoding.Statement (.fatalState) := encoding_all _
theorem Encoding.clockStep (cause : ClockCause) (down : Bool) : Encoding.Statement (.clockStep cause down) := encoding_all _
theorem Encoding.thermalTrip : Encoding.Statement (.thermalTrip) := encoding_all _
theorem Encoding.getVersion : Encoding.Statement .getVersion := encoding_all _
theorem Encoding.getHealth : Encoding.Statement (.getHealth) := encoding_all _
theorem Encoding.getTelemetry : Encoding.Statement (.getTelemetry) := encoding_all _
theorem Encoding.setPowerLimit (watts : Nat) : Encoding.Statement (.setPowerLimit watts) := encoding_all _
theorem Encoding.getPowerLimit : Encoding.Statement (.getPowerLimit) := encoding_all _
theorem Encoding.safelightResetModule : Encoding.Statement (.safelightResetModule) := encoding_all _
theorem Encoding.safelightResetFunction (fn : Nat) : Encoding.Statement (.safelightResetFunction fn) := encoding_all _
theorem Encoding.safelightResetMain : Encoding.Statement (.safelightResetMain) := encoding_all _
theorem Encoding.getLog (off n : Nat) : Encoding.Statement (.getLog off n) := encoding_all _
theorem Encoding.setPartitionDefault (masks : List (BitVec 4)) : Encoding.Statement (.setPartitionDefault masks) := encoding_all _
theorem Encoding.loadPatch (image : List Byte) : Encoding.Statement (.loadPatch image) := encoding_all _
theorem Encoding.spdmGetVersion (port : SpdmPort) : Encoding.Statement (.spdmGetVersion port) := encoding_all _
theorem Encoding.getCapabilities (port : SpdmPort) : Encoding.Statement (.getCapabilities port) := encoding_all _
theorem Encoding.negotiateAlgorithms (port : SpdmPort) : Encoding.Statement (.negotiateAlgorithms port) := encoding_all _
theorem Encoding.getDigests (port : SpdmPort) : Encoding.Statement (.getDigests port) := encoding_all _
theorem Encoding.getCertificate (port : SpdmPort) (slot off len : Nat) : Encoding.Statement (.getCertificate port slot off len) := encoding_all _
theorem Encoding.challenge (port : SpdmPort) (slot : Nat) (nonce : List Byte) : Encoding.Statement (.challenge port slot nonce) := encoding_all _
theorem Encoding.getMeasurements (port : SpdmPort) (index : Nat) : Encoding.Statement (.getMeasurements port index) := encoding_all _
theorem Encoding.linkRetried (link : Nat) : Encoding.Statement (.linkRetried link) := encoding_all _
theorem Encoding.dieRestart (die : Nat) : Encoding.Statement (.dieRestart die) := encoding_all _
theorem Encoding.blockNotSavedByBound (blk : Nat) (why : LateReason) : Encoding.Statement (.blockNotSavedByBound blk why) := encoding_all _
theorem Encoding.hostPortError (fn code : Nat) : Encoding.Statement (.hostPortError fn code) := encoding_all _

end Sys2Proof.Laws
end

