-- ==== Sys2Proof/Tests/Slice0.lean ====
section
/-! SUPPORT. Tests on the spec's own words and values, and witnesses: states and operands that meet the hypotheses of the
statements together. -/

namespace Sys2Proof.Slice0

open Sys2Proof Sys2Proof.Machine Sys2Proof.Stated

set_option Elab.async false

/-! ## Decoding the spec's words -/

/-- N35: `and v1, v0, 63` is 0x070C103F. -/
theorem test_decode_N35 : decodeBytes [0x3F, 0x10, 0x0C, 0x07] = .ok (.andBase { cl := 3, d := 1, a := 0, b := 63 }, 4) := rfl

/-- N38: `mul v3, v1, b0` is 0x0300307C. -/
theorem test_decode_N38 : decodeBytes [0x7C, 0x30, 0x00, 0x03] = .ok (.mulBase { d := 3, a := 1, b := 60 }, 4) := rfl

/-- N37: `sel _, p2, s10, s11` is the 12 bytes of the spec. -/
theorem test_decode_N37 : decodeBytes [0x00, 0x20, 0xA0, 0x45, 0x00, 0x00, 0xB0, 0x20, 0x05, 0x09, 0x10, 0x00]
    = .ok (.sel { sup := true, a := .p 2, b := .s 10, c := .s 11 }, 12) := rfl

/-- N44: `cpy lat[v7], [v4:v5+v3], 128, lat[0x4000]` is the 20 bytes of the spec. -/
theorem test_decode_N44 :
    decodeBytes [0x00, 0x00, 0x50, 0xD1, 0x00, 0x00, 0x00, 0xE0, 0x01, 0x10, 0xE0, 0x00, 0x80, 0x00, 0x00, 0x20, 0, 0, 0, 0]
      = .ok (.cpy { form := .xl, d := .v 7, a := .v 4, b := .v 3, c := .imm 0x20000080 }, 20) := rfl

/-- N47: `mxm` with M = N = 64, K = 64, B at 0x2000 and its format block at 0x4010 is the 20 bytes of the spec. -/
theorem test_decode_N47 :
    decodeBytes [0x00, 0x40, 0x00, 0xD4, 0x00, 0x19, 0x03, 0x60, 0x00, 0x03, 0x18, 0xC0, 0x00, 0x00, 0x20, 0x40, 0, 1, 0, 0]
      = .ok (.mxm { msz := 3, nsz := 3, ksz := 1, boff := 0x40, coff := 0x401 }, 20) := rfl

/-- The SIEVE of the expert programs, `sieve.n32 v12, v8, v9, s24`. -/
theorem test_decode_sieve : decodeBytes [0x00, 0x0E, 0x30, 0x4C, 0x00, 0x00, 0x80, 0xA1, 0x04, 0x20, 0x80, 0x01]
    = .ok (.sieve { ty := .n32, d := .v 12, a := .v 8, b := .v 9, c := .s 24 }, 12) := rfl

/-- R98, R100: `add s1, s2, 7` with a literal: OP 0x01, CL 0b10, LEN 0b10. -/
theorem test_decode_literal : decodeBytes [0x80, 0x10, 0x08, 0x81, 7, 0, 0, 0, 0, 0, 0, 0]
    = .ok (.add { form := .bl, col := true, d := .s 1, a := .s 2, b := .imm 7 }, 12) := rfl

/-- R99, R105: `fadd.f64` has XOP 0x080, TY 12 in bits 12 to 9; D `v2` at bits 93 to 85, A `v4`, B `v6`. -/
theorem test_decode_fadd : decodeTableWord 96 (0x48001800 + 2 * 2 ^ 85 + 4 * 2 ^ 74 + 6 * 2 ^ 63)
    = some (.fadd { ty := .f64, d := .v 2, a := .v 4, b := .v 6 }) := by decide

/-- R163: `ld v4, [v2:v3 + s5]` has XOP 0x100; B is of class 0b01. -/
theorem test_decode_ld : decodeTableWord 96 (0x50000000 + 4 * 2 ^ 85 + 2 * 2 ^ 74 + 1 * 2 ^ 72 + 5 * 2 ^ 63)
    = some (.ld { d := .v 4, a := .v 2, b := .s 5 }) := by decide

/-- R234: `clrl s3` has XOP 0x181; A is of class 0b01. -/
theorem test_decode_clrl : decodeTableWord 96 (0x58100000 + 1 * 2 ^ 83 + 3 * 2 ^ 74) = some (.clrl { a := .s 3 }) := by decide

/-- R245: `gstop s3` has XOP 0x1C8. -/
theorem test_decode_gstop : decodeTableWord 96 (0x5C800000 + 1 * 2 ^ 83 + 3 * 2 ^ 74) = some (.gstop { a := .s 3 }) := by decide

/-- R97: `pand p1, p2, p3` is OP 0x1E with its predicates in D, A and B. -/
theorem test_decode_pand : decodeBytes [0x83, 0x10, 0x00, 0x1E] = .ok (.pandBase { d := 1, a := 2, b := 3 }, 4) := rfl

/-- R92: BRA to itself minus eight bytes under `p2`. -/
theorem test_decode_bra : decodeBytes [0xFE, 0xFF, 0x8F, 0x1B] = .ok (.braBase 2 0xFFFFE#20, 4) := rfl

/-- R97: an unassigned OP is refused with DETAIL 1. -/
theorem test_decode_unassigned : decodeBytes [0, 0, 0, 0x21] = .error 1 := rfl

/-- R96: `v60` cannot be named as a destination. -/
theorem test_decode_latch_destination : decodeBytes [0, 0xC0, 0x03, 0x01] = .error 6 := rfl

/-- R94, R98: the words of a base instruction are the fields of the spec. -/
theorem test_encode_base : encode (.andBase { cl := 3, d := 1, a := 0, b := 63 }) = [0x070C103F] := by decide

/-- The words of an extended instruction are those of N37. -/
theorem test_encode_extended : encode (.sel { sup := true, a := .p 2, b := .s 10, c := .s 11 }) = [0x45A02000, 0x20B00000, 0x100905] := by
  decide

/-! ## Well-formed instructions: one ill-formed term for each check -/

/-- A form that the operation does not have: two immediates without a literal (R101). -/
theorem wf_form : (Instr.add { d := .v 1, a := .imm 1, b := .imm 2 }).wf = false := by decide

/-- An immediate that does not fit its field (R101). -/
theorem wf_immediate : (Instr.add { d := .v 1, a := .v 1, b := .imm 2048 }).wf = false := by decide

/-- The negation of `p0` as a guard (R102). -/
theorem wf_guard : (Instr.add { gn := true, d := .v 1, a := .v 1, b := .v 2 }).wf = false := by decide

/-- A type that the operation does not allow (R136). -/
theorem wf_type : (Instr.add { ty := .f32, d := .v 1, a := .v 1, b := .v 2 }).wf = false := by decide

/-- A rounding that the operation does not allow (R144). -/
theorem wf_rounding : (Instr.fmin { rm := .rz, d := .v 1, a := .v 1, b := .v 2 }).wf = false := by decide

/-- A scope that the operation does not allow (R167). -/
theorem wf_scope : (Instr.fence { sc := .none }).wf = false := by decide

/-- An orientation that the operation does not allow (R205). -/
theorem wf_orientation : (Instr.add { col := true, d := .v 1, a := .v 1, b := .v 2 }).wf = false := by decide

/-- A cache policy that the operation does not allow (R163). -/
theorem wf_policy : (Instr.atom { cp := .ev, ty := .i32, d := .v 1, a := .v 2, b := .imm 0, c := .v 3 }).wf = false := by decide

/-- An FN code that the operation does not allow (R140). -/
theorem wf_fn : (Instr.cmp { fn := 6, d := .p 1, a := .v 1, b := .v 2 }).wf = false := by decide

/-- `.uni` on an operation that never executes once (R229). -/
theorem wf_uniform : (Instr.red { uni := true, ty := .i32, d := .v 1, a := .v 2 }).wf = false := by decide

/-- A guard on JOIN (R125). -/
theorem wf_unguarded : (Instr.join { gp := 1 }).wf = false := by decide

/-- A suppressed destination on an operation that writes no register (R107). -/
theorem wf_suppressed : (Instr.st { sup := true, a := .v 2, b := .imm 0, c := .v 4 }).wf = false := by decide

/-- WellFormed: `_` for the destination of CMP, which R136 gives as a predicate or a scalar (R107). -/
theorem wf_suppressed_compare : (Instr.cmp { sup := true, a := .v 1, b := .v 2 }).wf = false := by decide

/-- WellFormed: `.uni` on MXTA, whose other fields are zero (R226). -/
theorem wf_uniform_token : (Instr.mxta { uni := true, d := .s 2 }).wf = false := by decide

/-- A suppressed destination that is not empty (R107). -/
theorem wf_suppressed_named : (Instr.add { sup := true, d := .v 1, a := .v 1, b := .v 2 }).wf = false := by decide

/-- An operand of a class that the operation does not allow (R136). -/
theorem wf_class : (Instr.add { d := .v 1, a := .p 1, b := .v 2 }).wf = false := by decide

/-- An operand that the operation does not use (R107). -/
theorem wf_unused : (Instr.add { d := .v 1, a := .v 1, b := .v 2, c := .v 3 }).wf = false := by decide

/-- A latch as a destination (R107). -/
theorem wf_latch : (Instr.add { d := .b 1, a := .v 1, b := .v 2 }).wf = false := by decide

/-- A pair at an odd register (R100). -/
theorem wf_pair : (Instr.add { ty := .i64, d := .v 1, a := .v 2, b := .v 4 }).wf = false := by decide

/-- A scalar destination of lanes (R117). -/
theorem wf_scalar : (Instr.add { d := .s 1, a := .v 2, b := .v 4 }).wf = false := by decide

/-- A rule of one entry: BRC compares with zero or with B, not both (R120). -/
theorem wf_entry : (Instr.brc { fn := 8, a := .s 1, b := .s 2, c := .imm 3 }).wf = false := by decide

/-- A branch offset that does not fit (R103). -/
theorem wf_branch : (Instr.bra { c := .imm (2 ^ 22) }).wf = false := by decide

/-- A base word with literal and a guard above `p3` (R95). -/
theorem wf_literal : (Instr.add { form := .bl, gp := 4, d := .v 1, a := .v 2, b := .imm 7 }).wf = false := by decide

/-- A base word whose float has the class of immediates (R98). -/
theorem wf_base : (Instr.faddBase { cl := 3, d := 1, a := 1, b := 1 }).wf = false := by decide

/-- A predicate beyond `p15` in a base word (R96). -/
theorem wf_base_predicate : (Instr.pandBase { d := 1, a := 16, b := 1 }).wf = false := by decide

/-- A matrix instruction that is not uniform (R214). -/
theorem wf_matrix : (Instr.mxm { uni := false }).wf = false := by decide

/-- A tile of more than 192 columns (R214). -/
theorem wf_tile : (Instr.mxld { ty := .f32, nsz := 12 }).wf = false := by decide

/-- A well-formed instruction of each layout. -/
theorem wf_good : (Instr.add { d := .v 1, a := .v 1, b := .imm 2047 }).wf = true ∧ (Instr.bra { c := .imm 3 }).wf = true
    ∧ (Instr.andBase { cl := 3, d := 1, a := 0, b := 63 }).wf = true ∧ (Instr.mxm { msz := 3 }).wf = true
    ∧ (Instr.add { form := .bl, d := .v 1, a := .v 2, b := .imm 7 }).wf = true := by decide

/-! ## The states of the witnesses -/

/-- A machine with one group of one block in context 1 of partition 0, at address 0. -/
def demo : State := State.reset.withFetchWord 32 0

/-- The same with its group changed. -/
def demoWith (x : Group → Group) : State := modGroup demo 0 x

/-- A machine whose virtual address 0 holds some bits, so that the group can fetch them. -/
def demoAt (nbits w : Nat) : State := State.reset.withFetchWord nbits w

/-- A trap of class C with one record. -/
def demoTrap : PendTrap :=
  { cls := .C, code := 0x07, sw := 5, recs := [plainRec demo 0 0x07 5], epc := 4, uniform := false, elems := [] }

/-- The context of the group has a trap descriptor: its handler at 0x1000, its records in a page of a peer's memory at 2^30. -/
def demoTraps : State :=
  let s := { demo with mem := memPut demo.mem 0x100008 (leBytes 8 0x400000000003) }
  modCtx (modPart s 0 fun p => { p with aps := [(0, { valid := true })] }) 0 1 fun c => { c with trap := { hent := 0x1000, recb := 0x40000000, nring := 0x2000, nlcap := 4, nvec := 0 } }

/-! ## Witnesses: steps and traps -/

/-- StepKeepsMemoryCanonical: a step that answers a next state from a canonical memory. -/
theorem witness_StepKeepsMemoryCanonical : Memory.wf demo.mem = true ∧ (∃ t, step (demoAt 32 0x0300307C) = .next t) :=
  ⟨by decide +kernel, ⟨_, rfl⟩⟩

/-- DecodeEncode: an instruction of each layout. -/
theorem witness_DecodeEncode : ∀ i ∈ [Instr.add { d := .v 1, a := .v 1, b := .imm 2047 }, .bra { c := .imm 3 }, .mxm { msz := 3 },
    .andBase { cl := 3, d := 1, a := 0, b := 63 }, .add { form := .bl, d := .v 1, a := .v 2, b := .imm 7 }, .exitBase 3],
    i.encoded = true ∧ i.wf = true := by decide

/-- StepRunsDecodedInstruction: the group of the machine fetches `mul v3, v1, v0`, and nothing else can happen. -/
theorem witness_StepRunsDecodedInstruction :
    let s := demoAt 32 0x03003040
    let u := issuing (advanceTime s) 0
    s.agenda = [] ∧ s.hub.power = .up ∧ nextWork (advanceTime s) = none ∧ pick (advanceTime s) = some 0
      ∧ (∃ ws, fetch u (groupSpace u 0).1 (groupSpace u 0).2 (curGroup u).pc = .ok ws
        ∧ decodeBits (bitsOf ws) = .ok (.mulBase { d := 3, a := 1, b := 0 }, 4)) ∧ (97 : Nat) ≠ 0 ∧ slotSub 97 ≠ slotSub 0
      ∧ ([(0 : DWord), 16].all fun d => match xlat s (groupSpace s 0).1 (groupSpace s 0).2 ((getGroup s 0).pc + d) with
          | .ok pa _ _ => (match space (groupSpace s 0).1 pa with | .peer _ _ => false | _ => true)
          | _ => false) = true :=
  ⟨by decide +kernel, by decide +kernel, by decide +kernel, by decide +kernel, ⟨_, rfl, rfl⟩, by decide, by decide, by decide +kernel⟩

/-- ReservedEncodingTraps: the bits of an unassigned operation. -/
theorem witness_ReservedEncodingTraps :
    let u := issuing (demoAt 32 0x3F000000) 0
    ∃ ws, fetch u (groupSpace u 0).1 (groupSpace u 0).2 (curGroup u).pc = .ok ws ∧ decodeBits (bitsOf ws) = .error 1 := ⟨_, rfl, rfl⟩

/-- NothingIssuesWithoutPower: the fatal state, with nothing chosen and with an event that needs the main domain. -/
theorem witness_NothingIssuesWithoutPower :
    let s : State := { demo with hub := { demo.hub with power := .fatal } }
    s.hub.power ≠ .up ∧ s.agenda = [] ∧ alwaysOn (.dieReset 0) = false := by decide +kernel

/-- ChecksAtIssue: a register at the group's range of 512 registers cannot be named, so the range is 8; and a privileged one. -/
theorem witness_ChecksAtIssue :
    let s := demoWith fun x => { x with range := 8 }
    let f : XForm := { d := .v 8, a := .v 0, b := .v 0 }
    let k : Issue := { len := 12, top := some 8, priv := true }
    integerOf (.add f) = some (f, 12, iAdd) ∧ issueFault s (xIssue f 12 (typedTop f)) = some (0x03, 8 + 8 * 2 ^ 16)
      ∧ k.top = some 8 ∧ (curGroup s).range ≤ 8 ∧ k.priv = true ∧ privileged s s.cur = false :=
  ⟨rfl, by decide +kernel, rfl, by decide +kernel, rfl, by decide +kernel⟩

/-- ChecksAtIssue: a program group is not privileged. -/
theorem witness_ChecksAtIssue_privilege : (∃ k, privilegedOf (.rft {}) = some k) ∧ (∃ k, privilegedOf (.movs { d := .sy 25, a := .s 1 }) = some k)
    ∧ privileged demo demo.cur = false := ⟨⟨_, rfl⟩, ⟨_, rfl⟩, by decide +kernel⟩

/-- TrapDelivered: a trap whose fields fit their places in `sy.ecause`. -/
theorem witness_TrapDelivered : demoTrap.code < 256 ∧ demoTrap.recs.length ≤ 128 ∧ demoTrap.sw < 4096 ∧ (1 : Nat) ≠ 0 := by
  decide +kernel

/-- TrapTaken: a context with a handler and a place for records that can be written. -/
theorem witness_TrapTaken :
    let d := (getCtx demoTraps (groupSpace demoTraps 0).1 (groupSpace demoTraps 0).2).trap
    pendingOf demoTraps 0 = [] ∧ (getGroup demoTraps 0).prologue = none ∧ d.recb ≠ 0 ∧ d.hent ≠ 0 ∧ hidden demoTraps 0 = false
      ∧ (groupGrid demoTraps 0).hdr.remove = false ∧ (writeRecords demoTraps 0 (if isFirmwareCore demoTraps (slotCore 0) then 128 else 0) demoTrap.recs true).isSome = true := by
  decide +kernel

/-- ReturnFromTrapCompletes: a group in its handler. -/
theorem witness_ReturnFromTrapCompletes :
    let s := demoWith fun x => { x with priv := true, epc := 0x40, exm0 := 5, ecause := 0x07 }
    Passes s { xIssue {} 12 (addrTop {} 0 0) with priv := true } ∧ runs (curGroup s) {} = true
      ∧ ((curGroup s).ecause.getLsbD 63 = false ∨ (curGroup s).faultPerLane = false) ∧ (curGroup s).faultElems = []
      ∧ batchesOf (setCur s { unchained (curGroup s) with pc := 0x40, xm := 5, priv := false, faultElems := [] }) (curGroup s).uid = [] := by
  decide +kernel

/-- ReturnFromTrapCompletes with RMV: lanes 0 and 2 come back; lane 0 leaves, and then both do, with a rejoin entry of other lanes
under an entry of none, and without an entry; and both leave a group of which nothing else is left, alone in its block or not. -/
theorem witness_ReturnFromTrapCompletes_remove :
    let e (m : LaneMask) : DivEntry := { pc := 0x80, mask := m, reconv := 0 }
    let s (m : LaneMask) (d : List DivEntry) (gone : LaneMask) := demoWith fun x =>
      { x with priv := true, epc := 0x40, exm0 := 5, ecause := 0x8000000000000007, faultPerLane := true, faultMask := m, div := d, exited := gone }
    let mask (s : State) : LaneMask := ((curGroup s).exm1 ++ (curGroup s).exm0 : BitVec 128) &&& ~~~(curGroup s).exited
    (∀ t ∈ [s 1 [] 0, s 5 [e 5, e 0x14] 0, s 5 [] 0, s 5 [] (~~~(5 : LaneMask))],
        Passes t { xIssue {} 12 (addrTop {} 0 0) with priv := true } ∧ runs (curGroup t) {} = true ∧ (curGroup t).faultElems = []
          ∧ batchesOf (restored t) (curGroup t).uid = [] ∧ (curGroup t).ecause.getLsbD 63 = true ∧ (curGroup t).faultPerLane = true
          ∧ (curGroup t).divSpill = 0 ∧ (curGroup t).callSpill = 0)
      ∧ mask (s 1 [] 0) &&& ~~~(1 : LaneMask) ≠ 0 ∧ mask (s 5 [] 0) &&& ~~~(5 : LaneMask) = 0 ∧ (5 : LaneMask) ≠ LaneMask.full
      ∧ (([e 5, e 0x14].map fun e => { e with mask := e.mask &&& ~~~(5 : LaneMask) }).dropWhile fun e => decide (e.mask = 0)) = [e 0x10]
      ∧ ~~~(5 : LaneMask) ||| 5 = LaneMask.full ∧ (getBlock demo 1).groups = [0] ∧ (getBlock demo 1).away = [] ∧ (getBlock demo 1).here = true := by
  decide +kernel

/-- SoftwareTraps: TRAP, SYSC and BKPT under `p0`. -/
theorem witness_SoftwareTraps :
    let f : XForm := { a := .imm 3 }
    Passes demo (ctlIssue f 12) ∧ runs (curGroup demo) f = true ∧ (curGroup demo).prologue = none := by decide +kernel

/-- TrapWaitsForChain: a group outside a chain, and one that has read a latch and whose next instruction reads one too. -/
theorem witness_TrapWaitsForChain :
    (chainGoesOn demo demo.cur = false ∧ (curGroup demo).pend = [])
      ∧ ∃ s, chainGoesOn s s.cur = true :=
  ⟨by decide +kernel, ⟨modGroup (demoAt 32 0x0300307C) 0 fun x => { x with chainLen := 1, latches := [.scalar 3], chainPush := 1 }, by decide +kernel⟩⟩

/-! ## Witnesses: registers, computing instructions -/

/-- An instruction that adds two vector registers. -/
def demoAdd : XForm := { d := .v 1, a := .v 2, b := .v 3 }
/-- The same for doublewords. -/
def demoWide : XForm := { ty := .i64, d := .v 2, a := .v 4, b := .v 6 }
/-- A predicate instruction. -/
def demoPred : XForm := { d := .p 1, a := .p 2, b := .p 3 }

/-- RegisterZeros: no lane in `xm`, a predicate destination, and the scalars at the two ends of the handler's bank. -/
theorem witness_RegisterZeros :
    let s := demoWith fun x => { x with xm := 0 }
    (curGroup s).xm = 0 ∧ predicateOf (.pand demoPred) = some (demoPred, 12, (· && ·)) ∧ Passes s (xIssue demoPred 12 none)
      ∧ Passes s (xIssue { d := .p 1, a := .v 2 } 12 (topReg [(.p 1, 1), (.v 2, 1)]))
      ∧ demoPred.d = .p 1 ∧ (88 : Nat) ≤ 88 ∧ (88 : Nat) ≤ 95 ∧ (88 : Nat) ≠ 0 :=
  ⟨by decide +kernel, rfl, by decide +kernel, by decide +kernel, rfl, by decide, by decide, by decide⟩

/-- RegisterZeros, the last sentence of R154: PXOR of `p1` with itself, and POR of a predicate with `p0`, base form and extended. -/
theorem witness_RegisterZeros_clear :
    let b : BForm := { d := 1, a := 1, b := 1 }
    let h : XForm := { d := .p 1, a := .p 2, b := .p 0 }
    (predicateOf (.pxorBase b) = some (basePred b, 4, (· != ·)) ∧ (basePred b).d = .p 1 ∧ (basePred b).a = (basePred b).b
        ∧ Passes demo (xIssue (basePred b) 4 none))
      ∧ predicateOf (.por h) = some (h, 12, (· || ·)) ∧ h.b = .p 0 ∧ Passes demo (xIssue h 12 none) :=
  ⟨⟨rfl, by decide +kernel, rfl, by decide +kernel⟩, rfl, rfl, by decide +kernel⟩

/-- IntegerResult: a base word, a word with literal, an extended form, and a pair. -/
theorem witness_IntegerResult :
    let b : BForm := { d := 3, a := 1, b := 0 }
    let l : XForm := { form := .bl, d := .v 1, a := .v 2, b := .imm 7 }
    (integerOf (.mulBase b) = some (baseForm b, 4, iMul) ∧ Passes demo (xIssue (baseForm b) 4 (typedTop (baseForm b))))
      ∧ (integerOf (.add l) = some (l, 12, iAdd) ∧ Passes demo (xIssue l 12 (typedTop l)))
      ∧ (integerOf (.add demoWide) = some (demoWide, 12, iAdd) ∧ Passes demo (xIssue demoWide 12 (typedTop demoWide))) :=
  ⟨⟨rfl, by decide +kernel⟩, ⟨rfl, by decide +kernel⟩, ⟨rfl, by decide +kernel⟩⟩

/-- CarryResult: a carry in `p1`, and a destination that is a vector register. -/
theorem witness_CarryResult :
    let f : XForm := { demoAdd with c := .p 1 }
    f.c = .p 1 ∧ (∀ d, f.d ≠ .p d) ∧ Passes demo (xIssue f 12 (typedTop f)) := by
  exact ⟨rfl, fun d h => (nomatch h), by decide +kernel⟩

/-- CompareSelectAffine: a base comparison and an extended one. -/
theorem witness_CompareSelectAffine :
    let b : BForm := { d := 3, a := 1, b := 0 }
    let f : XForm := { fn := 5, d := .p 1, a := .v 2, b := .v 3 }
    (compareOf (.cmpLtBase b) = some (baseCmp b 2, 4) ∧ Passes demo (xIssue (baseCmp b 2) 4 (typedTop (baseCmp b 2))))
      ∧ (compareOf (.cmp f) = some (f, 12) ∧ Passes demo (xIssue f 12 (typedTop f))) := by decide +kernel

/-- CompareSelectAffine: SEL and LI. -/
theorem witness_CompareSelectAffine_select :
    let f : XForm := { d := .v 1, a := .p 1, b := .v 2, c := .v 3 }
    let l : XForm := { d := .v 1, a := .imm 3, b := .imm 4 }
    (f.a = .p 1 ∧ Passes demo (xIssue f 12 (typedTop f))) ∧ Passes demo (xIssue l 12 (typedTop l)) := by decide +kernel

/-- PredicateResult. -/
theorem witness_PredicateResult :
    let m : XForm := { d := .v 1, a := .p 1 }
    predicateOf (.pnot demoPred) = some (demoPred, 12, fun a _ => !a) ∧ Passes demo (xIssue demoPred 12 none)
      ∧ Passes demo (xIssue m 12 (topReg [(m.d, 1), (m.a, 1)])) := ⟨rfl, by decide +kernel, by decide +kernel⟩

/-- One over three: a division that is inexact in every lane. -/
def demoThird : State :=
  demoWith fun x => vWrite (vWrite x 2 LaneMask.full fun _ => 0x3F800000) 3 LaneMask.full fun _ => 0x40400000

/-- The operation of `fdiv` on the lanes of `demoThird`. -/
def demoQuotient (j : Nat) : DWord × FFlags :=
  opFdiv (fltTy demoAdd) demoAdd.rm (opnd demoThird (curGroup demoThird) false demoAdd.a j)
    (opnd demoThird (curGroup demoThird) false demoAdd.b j) 0

/-- FloatingResult: the flags of the lanes are not enabled; and a conversion. -/
theorem witness_FloatingResult :
    let f : XForm := { ty := .f32, fn := 3, d := .v 1, a := .v 2 }
    floatingOf (.fdiv demoAdd) = some (demoAdd, 12, opFdiv) ∧ Passes demoThird (xIssue demoAdd 12 (typedTop demoAdd))
      ∧ (curGroup demoThird).fpflags = 0 ∧ (∀ fl, enabledFlags 0 fl = 0)
      ∧ Passes demoThird (xIssue f 12 (topReg [(f.d, span (wide f.ty)), (f.a, span (wide (tyOfCode f.fn.toNat)))])) := by
  refine ⟨rfl, by decide +kernel, by decide +kernel, ?_, by decide +kernel⟩
  intro fl; simp [enabledFlags]

/-- FloatingException: the same division in one lane, with the flags enabled. -/
theorem witness_FloatingException :
    let s : State := setCur demoThird { curGroup demoThird with fpflags := 0x1F00, xm := 1 }
    Passes s (xIssue demoAdd 12 (typedTop demoAdd))
      ∧ enabledFlags (curGroup s).fpflags
          (flagsRaised (curGroup s) demoAdd (uniform .auto demoAdd) fun j => (demoQuotient j).2) ≠ 0 := by
  decide +kernel

/-- FloatingValues and ConversionValues: 1.0, −2.0, the least subnormal, both zeros, an infinity, and a quiet and a signalling NaN; a
value between two integers, and the integer types. -/
theorem witness_FloatingValues :
    let f := fmtOf .f32
    realOf f 0x3F800000 = some 1 ∧ realOf f 0xC0000000 = some (-2) ∧ realOf f 0 = some 0 ∧ realOf f 0x80000000 = some 0
      ∧ realOf f 0x3FC00000 = some (3 / 2) ∧ realOf (fmtOf .f64) 0xC000000000000000 = some (-2) ∧ realOf (fmtOf .f16) 1 = some (1 / 2 ^ 24)
      ∧ orderOf f 0x3F800000 = some ((1 : ℚ) : WithTop ℚ) ∧ orderOf f 0xFF800000 = some ⊥
      ∧ isInf f 0x7F800000 = true ∧ isNan f 0x7FC00000 = true ∧ isSig f 0x7FC00000 = false ∧ isSig f 0x7F800001 = true
      ∧ tyInt .i32 = true ∧ tyFloat .f32 = true ∧ tyFloat .fx = false ∧ tyInt .fx = false := by
  decide +kernel

/-- ApproximationValues: 3 is no power of two, and one half no integer. -/
theorem three_no_power (i : ℤ) : (3 : ℚ) ≠ 2 ^ i := by
  intro h
  rcases le_or_gt 2 i with g | g
  · have := zpow_le_zpow_right₀ (by norm_num : (1 : ℚ) ≤ 2) g
    norm_num at this; linarith
  · have := zpow_le_zpow_right₀ (by norm_num : (1 : ℚ) ≤ 2) (show i ≤ 1 by omega)
    norm_num at this; linarith

theorem half_no_integer (i : ℤ) : (1 / 2 : ℚ) ≠ i := by
  intro h
  have : (1 : ℚ) = 2 * i := by linarith
  have : (1 : ℤ) = 2 * i := by exact_mod_cast this
  omega

/-- ApproximationValues: the references of FEXP2 of one half, of FLOG2 of 3, and of FSIN and FCOS of 1 are in their range; the 16-bit one and
the one of `.f32` are the same number. -/
theorem witness_ApproximationValues :
    (fxExp2 (((1 / 2 : ℚ) * 2 ^ 320).floor)).natAbs < 2 ^ 448 ∧ realOf (fmtOf .f32) 0x40400000 = some 3
      ∧ fval (fmtOf .f32) 0x40400000 = .num false 12582912 (-22) ∧ (fxLog2 12582912 (-22)).natAbs < 2 ^ 448
      ∧ (fxSin (((1 : ℚ) * 2 ^ 320).floor)).natAbs < 2 ^ 324 ∧ (fxCos (((1 : ℚ) * 2 ^ 320).floor)).natAbs < 2 ^ 324
      ∧ orderOf (fmtOf .f32) 0x3F800000 = orderOf (fmtOf .f16) 0x3C00 ∧ negBit (fmtOf .f32) 0x3F800000 = negBit (fmtOf .f16) 0x3C00 := by
  decide +kernel

/-- FloatingException: a conversion of 2^24 + 1 to `f32`, and a sum and prefix sums of 1 and 2^-30, with the flags enabled. -/
theorem witness_FloatingException_more :
    let s : State := demoWith fun x =>
      { vWrite (vWrite x 2 LaneMask.full fun _ => 0x01000001) 3 LaneMask.full fun j => if j = 0 then 0x3F800000 else 0x30800000 with
        fpflags := 0x1F00, xm := 3 }
    let g := curGroup s
    let c : XForm := { ty := .f32, fn := 3, d := .v 1, a := .v 2 }
    let r : XForm := { ty := .f32, d := .v 1, a := .v 3 }
    let from_ := tyOfCode c.fn.toNat
    let t := treeOf s g r
    Passes s (xIssue c (xLen c) (topReg [(c.d, span (wide c.ty)), (c.a, span (wide from_))]))
      ∧ enabledFlags g.fpflags (flagsRaised g c (uniform .auto c) fun j =>
          (convert from_ c.ty c.rm (pointOf c.c) (opnd s g (wide from_) c.a j)).2) ≠ 0
      ∧ Passes s (xIssue r 12 (typedTop r)) ∧ enabledFlags g.fpflags (flagsRaised g r false fun _ => (treeNode t 7 0).2) ≠ 0
      ∧ enabledFlags g.fpflags (flagsRaised g r false fun j => (prefixOf (joinNodes r.fn.toNat r.ty r.rm) t j).2) ≠ 0 := by
  decide +kernel

/-- CrossLaneResult: a sum of lanes of an integer type raises no flag, and neither does a floating sum of zeros. -/
theorem witness_CrossLaneResult :
    let f : XForm := { ty := .f32, d := .v 1, a := .v 2 }
    let g := curGroup demo
    Passes demo (xIssue f 12 (typedTop f)) ∧ (∀ fl, enabledFlags g.fpflags fl = 0)
      ∧ Passes demo (xIssue { d := .v 1 } 12 (topReg [(.v 1, 1)])) ∧ Passes demo (xIssue demoAdd 12 (addrTop demoAdd 1 0)) := by
  refine ⟨by decide +kernel, ?_, by decide +kernel, by decide +kernel⟩
  intro fl
  have : (curGroup demo).fpflags = 0 := by decide +kernel
  simp [enabledFlags, this]

/-! ## Witnesses: control -/

/-- Lanes 1 and 3 hold `p1`, and `s1` holds 8. -/
def demoCtl : State := demoWith fun x => { x with p := [(1, 0b1010)], s := [(1, 8)] }

/-- FalseGuardOnlyAdvances: `p2` is false in lane 0, for each of the forms of a label, a plain and a privileged instruction
(the last in privileged mode). -/
theorem witness_FalseGuardOnlyAdvances :
    let f : XForm := { gp := 2, c := .imm 3 }
    let t := setCur demoCtl { curGroup demoCtl with priv := true }
    (∃ k, guardedOf (.bra f) = some (f, k) ∧ Passes demoCtl k) ∧ (∃ k, guardedOf (.seal f) = some (f, k) ∧ Passes demoCtl k)
      ∧ (∃ k, guardedOf (.gstop f) = some (f, k) ∧ Passes t k) ∧ (∃ k, guardedOf (.nopBase 2) = some ({ gp := 2 }, k) ∧ Passes demoCtl k)
      ∧ runs (curGroup demoCtl) f = false ∧ runs (curGroup t) f = false :=
  ⟨⟨_, rfl, by decide +kernel⟩, ⟨_, rfl, by decide +kernel⟩, ⟨_, rfl, by decide +kernel⟩, ⟨_, rfl, by decide +kernel⟩, by decide +kernel,
    by decide +kernel⟩

/-- FalseGuardOnlyAdvances: an ICINV of lanes, none of which is live; and one of the group. -/
theorem witness_FalseGuardOnlyAdvances_icinv :
    let v : XForm := { gp := 2, a := .v 1, b := .imm 0 }
    let u : XForm := { gp := 2, a := .s 1, b := .imm 0 }
    uniform .auto v = false ∧ Passes demoCtl (xIssue v (xLen v) (addrTop v 0 0)) ∧ live (curGroup demoCtl) v = 0
      ∧ (∃ k, guardedOf (.icinv u) = some (u, k) ∧ Passes demoCtl k) ∧ runs (curGroup demoCtl) u = false :=
  ⟨by decide +kernel, by decide +kernel, by decide +kernel, ⟨_, rfl, by decide +kernel⟩, by decide +kernel⟩

/-- BranchesGo: `s1` holds a target that is a multiple of 4; `s2` would hold one that is not. -/
theorem witness_BranchesGo :
    let f : XForm := { a := .s 1, c := .imm 3 }
    let t := setCur demoCtl { curGroup demoCtl with s := [(1, 6)] }
    let u := setCur demoCtl { curGroup demoCtl with s := [(1, 2 ^ 60)] }
    Passes demoCtl { len := 4 } ∧ (pRead (curGroup demoCtl) 0).getLsbD (lu (curGroup demoCtl)) = true ∧ Passes demoCtl (ctlIssue f 12)
      ∧ runs (curGroup demoCtl) f = true ∧ (opnd demoCtl (curGroup demoCtl) false f.a 0).toNat % 4 = 0
      ∧ canonical (opnd demoCtl (curGroup demoCtl) false f.a 0) = true
      ∧ Passes t (ctlIssue f 12) ∧ runs (curGroup t) f = true ∧ (opnd t (curGroup t) false f.a 0).toNat % 4 ≠ 0
      ∧ Passes u (ctlIssue f 12) ∧ runs (curGroup u) f = true ∧ canonical (opnd u (curGroup u) false f.a 0) = false := by decide +kernel

/-- DivergentBranch: no lane, all lanes, none, and some take it; thirty entries leave room. -/
theorem witness_DivergentBranch :
    let f : XForm := { form := .xl, gp := 1, c := .imm 3, b := .imm 9 }
    let x := curGroup demoCtl
    let taken := x.xm &&& guardMask x f.gn f.gp
    Passes demoCtl (ctlIssue f 20)
      ∧ (setCur demoCtl { x with xm := 0 }).groups ≠ [] ∧ Passes (setCur demoCtl { x with xm := 0 }) (ctlIssue f 20)
      ∧ (x.xm ≠ 0 ∧ (List.replicate 30 ({ pc := 0, mask := 0, reconv := 0 } : DivEntry)).length < 31
        ∧ taken ≠ 0 ∧ x.xm &&& ~~~taken ≠ 0 ∧ x.xm &&& ~~~(x.xm &&& guardMask x false 0) = 0 ∧ x.xm &&& guardMask x false 2 = 0) := by
  decide +kernel

/-- JoinPops: an empty stack, an entry of another address, one of an outer call, and one of this JOIN. -/
theorem witness_JoinPops :
    let e : DivEntry := { pc := 0x21, mask := 3, reconv := 0 }
    let s := setCur demoCtl { curGroup demoCtl with div := [e] }
    let t := setCur demoCtl { curGroup demoCtl with div := [e], call := [{ ret := 0, depth := 1 }] }
    Passes demoCtl { len := 4 } ∧ Passes demoCtl (ctlIssue {} 12) ∧ (curGroup demoCtl).div = []
      ∧ Passes s { len := 4 } ∧ (curGroup s).div = [e] ∧ e.reconv = (curGroup s).pc ∧ frameDepth (curGroup s) < depthD (curGroup s)
      ∧ e.mask ≠ 0 ∧ (curGroup s).divSpill = 0 ∧ depthD (curGroup t) ≤ frameDepth (curGroup t)
      ∧ e.reconv ≠ (curGroup (setCur s { curGroup s with pc := 4 })).pc := by decide +kernel

/-- CallAndReturn: fifteen frames leave room for one; an entry of the depth, one of another, and none. -/
theorem witness_CallAndReturn :
    let f : XForm := { a := .s 1, c := .imm 3 }
    let c : CallEntry := { ret := 0x40, depth := 0 }
    let s := setCur demoCtl { curGroup demoCtl with call := List.replicate 15 c }
    let t := setCur demoCtl { curGroup demoCtl with call := [{ ret := 0x40, depth := 1 }] }
    let u := setCur demoCtl { curGroup demoCtl with s := [(1, 2)] }
    let v := setCur demoCtl { curGroup demoCtl with s := [(1, 0x8000000000000000)] }
    Passes u (ctlIssue f 12) ∧ runs (curGroup u) f = true ∧ (opnd u (curGroup u) false f.a 0).toNat % 4 = 2
      ∧ Passes v (ctlIssue f 12) ∧ canonical (opnd v (curGroup v) false f.a 0) = false ∧ Passes s (ctlIssue f 12) ∧ runs (curGroup s) f = true ∧ (curGroup s).call.length < 16
      ∧ (opnd s (curGroup s) false f.a 0).toNat % 4 = 0 ∧ canonical (opnd s (curGroup s) false f.a 0) = true
      ∧ c.depth.toNat = depthD (curGroup s) ∧ (curGroup s).callSpill = 0
      ∧ Passes t (ctlIssue f 12) ∧ (1 : DWord).toNat ≠ depthD (curGroup t) ∧ (curGroup demoCtl).call = [] := by decide +kernel

/-- ExitLeavesLanes: no live lane under `p2`, and two of all under `p1`. -/
theorem witness_ExitLeavesLanes :
    let x := curGroup demoCtl
    Passes demoCtl { len := 4 } ∧ Passes demoCtl (ctlIssue { gp := 1 } 12) ∧ x.xm &&& pRead x 2 = 0 ∧ x.xm &&& pRead x 1 ≠ 0
      ∧ x.xm &&& ~~~(x.xm &&& pRead x 1) ≠ 0 ∧ x.exited ||| (x.xm &&& pRead x 1) ≠ LaneMask.full := by decide +kernel

/-- ExitLeavesLanes: the lanes of `p1` are the last of `xm`: over an entry of none and a pending entry of other lanes, over nothing, and
when the others have exited, with the group alone in its block or beside one that has not ended. -/
theorem witness_ExitLeavesLanes_last :
    let e (m : LaneMask) : DivEntry := { pc := 0x81, mask := m, reconv := 0 }
    let m : LaneMask := 0b1010
    let s (d : List DivEntry) (gone : LaneMask) := setCur demoCtl { curGroup demoCtl with xm := m, div := d, exited := gone }
    (∀ t ∈ [s [e 2, e 0x14] 0, s [] 0, s [] (~~~m)], Passes t (ctlIssue { gp := 1 } 12)
        ∧ (curGroup t).xm &&& guardMask (curGroup t) false 1 = m ∧ (curGroup t).xm &&& ~~~m = 0
        ∧ hidden t t.cur = false ∧ (curGroup t).divSpill = 0 ∧ (curGroup t).callSpill = 0)
      ∧ m ≠ 0 ∧ (0 : LaneMask) ||| m ≠ LaneMask.full ∧ ~~~m ||| m = LaneMask.full
      ∧ (([e 2, e 0x14].map fun e => { e with mask := e.mask &&& ~~~m }).dropWhile fun e => decide (e.mask = 0)) = [e 0x14]
      ∧ (getBlock demoCtl 1).here = true ∧ (getBlock demoCtl 1).groups = [0] ∧ (getBlock demoCtl 1).away = []
      ∧ (modBlock demoCtl 1 fun b => { b with away := [7] }).blocks ≠ [] := by
  decide +kernel

/-- ElectChooses: a predicate and a scalar destination, with lanes and without any. -/
theorem witness_ElectChooses :
    let f : XForm := { gp := 1, d := .p 3 }
    let g : XForm := { gp := 1, d := .s 3 }
    Passes demoCtl (ctlIssue f 12) ∧ Passes demoCtl (ctlIssue g 12) ∧ f.d = .p 3 ∧ (∀ n, g.d ≠ .p n)
      ∧ (curGroup demoCtl).xm &&& guardMask (curGroup demoCtl) false 1 ≠ 0
      ∧ (curGroup demoCtl).xm &&& guardMask (curGroup demoCtl) false 2 = 0 :=
  ⟨by decide +kernel, by decide +kernel, rfl, fun _ h => (nomatch h), by decide +kernel, by decide +kernel⟩

/-- VoteCounts: the three functions. -/
theorem witness_VoteCounts :
    let f (n : BitVec 8) : XForm := { fn := n, d := .s 2, a := .p 1 }
    (f 0).a = .p 1 ∧ (∀ n ∈ [0, 1, 2], Passes demoCtl (ctlIssue (f n) 12) ∧ runs (curGroup demoCtl) (f n) = true) ∧ (f 2).d = .s 2 := by
  decide +kernel

/-- WaitSleepsOrGoes: an event of the group, an object in the window, one beyond it, and AWAIT. -/
theorem witness_WaitSleepsOrGoes :
    let f : XForm := { d := .ev .grant, a := .s 1 }
    let g (a : DWord) : XForm := { d := .ev .bar, a := .s 1, b := .imm a }
    let b := getBlock demoCtl (curGroup demoCtl).block
    Passes demoCtl (ctlIssue f 12) ∧ runs (curGroup demoCtl) f = true ∧ Passes demoCtl (ctlIssue (g 16) 12) ∧ barOk b 16 = true
      ∧ barOk b 0x3FF0 = true ∧ barOk b 0x4000 = false ∧ barOk b 8 = false ∧ Passes demoCtl (ctlIssue {} 12) := by decide +kernel

/-- SchedulerInstructions: the checks, and a group that gives way. -/
theorem witness_SchedulerInstructions :
    let f : XForm := { a := .s 1 }
    runs (curGroup demoCtl) f = true ∧ Passes demoCtl (ctlIssue f 12) ∧ Passes demoCtl { len := 4 }
      ∧ (pRead (curGroup demoCtl) 0).getLsbD (lu (curGroup demoCtl)) = true
      ∧ (curGroup demoCtl).mark ≠ (opnd demoCtl (curGroup demoCtl) false f.a 0).setWidth 16
      ∧ (curGroup demoCtl).mark = (opnd demoCtl (curGroup demoCtl) false (.imm 0) 0).setWidth 16 := by decide +kernel

/-- SchedulerInstructions: a group that gives way, at the 65th clock after its YIELD and at the 64th. -/
theorem witness_SchedulerInstructions_yield :
    let s (n : DWord) : State := { demoWith (fun x => { x with yielding := true, yieldAt := 5 }) with cyc := [(0, n)] }
    let since (n : DWord) : Nat := (mapGet 0 (s n).cyc (groupDie 0) - (getGroup (s n) 0).yieldAt).toNat
    (getGroup (s 0) 0).yielding = true ∧ 64 < since 70 ∧ since 69 ≤ 64 := by decide +kernel

/-! ## Witnesses: memory -/

/-- `s1` holds the address 0x100 of the group's page, which lies at 2^30 of partition 0. -/
def demoMem : State := demoWith fun x => { x with s := [(1, 0x100)] }
/-- A load or store with one address. -/
def demoLd : XForm := { d := .s 2, a := .s 1, b := .imm 0, uni := true }
/-- A store of `s1` at that address. -/
def demoSt : XForm := { a := .s 1, b := .imm 0, c := .s 1, uni := true }
/-- An addition at it that returns the old value. -/
def demoAtom : XForm := { ty := .i32, d := .s 2, a := .s 1, b := .imm 0, c := .s 1, uni := true }
/-- The key of the byte. -/
def demoKey : Nat := 0x40000100

/-- An access reaches a coherent byte of HBM4E. -/
def reaches (key : Nat) : Except AccFault Place → Bool
  | .ok x => decide (x.space = .hbm key) && !x.dark
  | .error _ => false

/-- The line of the byte is quiet, and no transaction of the lane is open. -/
theorem demo_quiet : QuietLine demoMem demoMem.cur demoKey 8 ∧ QuietLine demoMem demoMem.cur demoKey 4
    ∧ (curGroup demoMem).prologue = none ∧ (mapGet {} (curGroup demoMem).txn (lu (curGroup demoMem))).isOpen = false
    ∧ demoMem.late = [] ∧ requestsStopped demoMem 0 = false ∧ (getCore demoMem (l1Holder demoMem 0 demoKey)).gather = []
    ∧ (mapGet [] demoMem.copies (l1Holder demoMem 0 demoKey)).length + (getCore demoMem (l1Holder demoMem 0 demoKey)).gather.length < Config.l1Lines := by
  unfold QuietLine; decide +kernel

/-- The same with two lanes in `xm`. -/
def demoTwo : State := setCur demoMem { curGroup demoMem with xm := 0b101 }

theorem demoTwo_quiet : QuietLine demoTwo demoTwo.cur demoKey 4 := by
  unfold QuietLine; decide +kernel

/-- Loads, stores and atomics by lanes: two live lanes at that address, and no form of one address. -/
theorem witness_lanes :
    let x : XForm := { d := .v 4, a := .s 1, b := .imm 0, c := .v 6 }
    let va := globalAt demoTwo (curGroup demoTwo) x.a x.b
    uniform .laneUni x = false ∧ x.sup = false ∧ lanes (live (curGroup demoTwo) x) = [0, 2] ∧ (curGroup demoTwo).prologue = none
      ∧ (∀ j ∈ [0, 2], (mapGet ({} : Txn) (curGroup demoTwo).txn j).isOpen = false ∧ demoKey % 128 + 4 ≤ 128
        ∧ (∀ need ∈ [Need.read, .write, .atom .none], reaches demoKey (reach demoTwo 0 1 need 4 false (va j)) = true)
        ∧ (mapGet [] demoTwo.copies 0).length + (getCore demoTwo 0).gather.length + 2 ≤ Config.l1Lines)
      ∧ Passes demoTwo (xIssue x 12 (addrTop x 1 0)) ∧ Passes demoTwo (xIssue { x with d := .unused } 12 (addrTop { x with d := .unused } 0 1))
      ∧ Passes demoTwo (atomIssue { x with ty := .i32 } 1 1) := by
  decide +kernel

/-- A group with a stack area of 1,024 bytes at 0x1000 and four lanes in `xm`. -/
def demoArea (x : Group → Group) : State :=
  let s := demoWith fun g => x { g with stk := 0x1000, xm := 0b1111, p := [(1, 0b1010)] }
  modGrid s (groupBlock s 0).grid fun r => { r with hdr := { r.hdr with stk := 1024 } }

/-- A divergence entry of its own of a JOIN at 0, with and without lanes, and one of another. -/
def demoEntry (m : LaneMask) (j : DWord) : DivEntry := { pc := 0x81, mask := m, reconv := j }
/-- The bytes of the area: 2^30 further on in memory. -/
def demoSlot (b : Nat) (n : Nat) (i : Nat) : Nat := 0x40001000 + b + n * i

/-- The stacks full: 32 divergence and 16 call-return entries; and with one entry on the chip and eight in the area. -/
def demoFull : State := demoArea fun g => { g with div := List.replicate 32 (demoEntry 3 8), call := List.replicate 16 { ret := 0x40, depth := 0 } }
def demoBack (m : LaneMask) : State :=
  demoArea fun g => { g with div := [demoEntry m 0], divSpill := 8, call := [{ ret := 0x40, depth := 9 }] }
def demoReturn : State := demoArea fun g => { g with call := [{ ret := 0x40, depth := 0 }], callSpill := 8 }

/-- A place of the group and its key. -/
def demoSlotOk (s : State) (va : DWord) (key n : Nat) : Bool :=
  (match placeOf 0 (xlat s 0 1 va) with | some p => decide (p.space = .hbm key) && !p.dark | none => false)
    && va.toNat % 128 + n ≤ 128 && key % 128 + n ≤ 128

/-- DivergentBranch, JoinPops, CallAndReturn and ExitLeavesLanes with the stack area: pushes on full stacks, with room in the area and
(without one) too little, and pops of the last entry. -/
theorem witness_stacks :
    let f : XForm := { form := .xl, gp := 1, c := .imm 3, b := .imm 9 }
    let x := curGroup demoFull
    (Passes demoFull (ctlIssue f 20) ∧ x.xm ≠ 0 ∧ x.div.length = 32 ∧ x.call.length = 16 ∧ stackSize demoFull 0 = 1024
        ∧ areaFault demoFull 0 false true 32 ((List.range 8).map fun i => x.stk + BitVec.ofNat 64 (32 * (x.divSpill + i))) = none
        ∧ areaFault demoFull 0 true true 16 ((List.range 8).map fun i => x.stk + 1024 - BitVec.ofNat 64 (16 * (x.callSpill + i + 1))) = none
        ∧ slotOfUid demoFull x.uid = some demoFull.cur ∧ Memory.wf demoFull.mem = true ∧ stackSize demo 0 < 256)
      ∧ (∀ i ∈ List.range 8, demoSlotOk demoFull (x.stk + BitVec.ofNat 64 (32 * i)) (demoSlot 0 32 i) 32 = true
        ∧ demoSlotOk demoFull (x.stk + 1024 - BitVec.ofNat 64 (16 * (i + 1))) (demoSlot 1008 0 0 - 16 * i) 16 = true
        ∧ (getHome demoFull (lineOf (demoSlot 0 32 i))).watchers = [])
      ∧ (let x := curGroup (demoBack 3)
         Passes (demoBack 3) { len := 4 } ∧ x.pc = 0 ∧ frameDepth x = 9 ∧ depthD x = 9)
      ∧ (let s := setCur (demoBack 3) { curGroup (demoBack 3) with call := [] }
         Passes s { len := 4 } ∧ frameDepth (curGroup s) < depthD (curGroup s)
        ∧ areaFault s 0 false false 32 ((List.range 8).map fun i => x.stk + BitVec.ofNat 64 (32 * (8 - 1 - i))) = none)
      ∧ (Passes demoReturn (ctlIssue {} 12) ∧ runs (curGroup demoReturn) {} = true ∧ depthD (curGroup demoReturn) = 0
        ∧ areaFault demoReturn 0 true false 16 ((List.range 8).map fun i => x.stk + 1024 - BitVec.ofNat 64 (16 * (8 - 1 - i + 1))) = none)
      ∧ (let s := demoBack 2
         (curGroup s).xm &&& ~~~0b1111 = 0 ∧ (2 : LaneMask) &&& ~~~0b1111 = 0 ∧ hidden s 0 = false ∧ (curGroup s).callSpill = 0
          ∧ (curGroup s).exited ||| 0b1111 ≠ LaneMask.full) := by
  decide +kernel

theorem witness_stacks_quiet : ∀ i ∈ List.range 8,
    QuietLine demoFull 0 (demoSlot 0 32 i) 32 ∧ QuietLine (demoBack 3) 0 (demoSlot 0 32 i) 32
      ∧ QuietLine demoReturn 0 (demoSlot 1008 0 0 - 16 * i) 16 := by
  unfold QuietLine; decide +kernel

/-- ExitLeavesLanes: the entries read back, of which the newest has a lane that does not exit. -/
theorem witness_ExitLeavesLanes_back :
    let e := demoEntry 0x10 8
    let mem := memPut (demoBack 2).mem (demoSlot 0 32 7) (divBytes e)
    let s : State := { demoBack 2 with mem }
    Passes s (ctlIssue {} 12) ∧ (curGroup s).xm = 0b1111
      ∧ ((List.range 8).map fun j => divOf 0b1111 (memBytes s.mem (demoSlot 0 32 (7 - j)) 32)).head? = some { e with mask := 0x10 }
      ∧ (curGroup s).divSpill < 16 := by
  decide +kernel

/-- JoinPops: two entries of its own without lanes, over one with lanes and over one of another JOIN. -/
theorem witness_JoinPops_again :
    let z := [demoEntry 0 0, demoEntry 0 0]
    let s := demoWith fun g => { g with div := z ++ [demoEntry 3 0] }
    let t := demoWith fun g => { g with div := z ++ [demoEntry 3 8] }
    (∀ e ∈ z, e.mask = 0 ∧ e.reconv = (curGroup s).pc) ∧ z.length ≤ depthD (curGroup s) - frameDepth (curGroup s)
      ∧ frameDepth (curGroup s) < depthD (curGroup s) - z.length ∧ (demoEntry 3 8).reconv ≠ (curGroup t).pc ∧ (curGroup s).divSpill = 0
      ∧ Passes s { len := 4 } ∧ Passes t { len := 4 } := by
  decide +kernel

/-- LoadResult: LDS and `ld.uni` from that address. -/
theorem witness_LoadResult :
    let va := globalAt demoMem (curGroup demoMem) demoLd.a demoLd.b (lu (curGroup demoMem))
    uniform .once demoLd = true ∧ uniform .laneUni demoLd = true ∧ Passes demoMem (xIssue demoLd 12 (addrTop demoLd 1 0))
      ∧ runs (curGroup demoMem) demoLd = true
      ∧ reaches demoKey (reach demoMem 0 1 .read 4 false va) = true := by
  decide +kernel

/-- The group's page reached from an address in `s1`, with two lanes in `xm`. -/
def demoFrom (a : DWord) : State := demoWith fun x => { x with s := [(1, a)], xm := 0b101 }

/-- MisalignedAccessTraps: the address 0x102 for a word. -/
theorem witness_MisalignedAccessTraps :
    let s := demoFrom 0x102
    let va := globalAt s (curGroup s) demoLd.a demoLd.b (lu (curGroup s))
    uniform .once demoLd = true ∧ (curGroup s).prologue = none ∧ (mapGet {} (curGroup s).txn (lu (curGroup s))).isOpen = false
      ∧ Passes s (xIssue demoLd 12 (addrTop demoLd 1 0)) ∧ Passes s (xIssue demoSt 12 (addrTop demoSt 0 1))
      ∧ runs (curGroup s) demoLd = true ∧ xlat s 0 1 va = .ok 0x40000102 0x40000003 1 ∧ va.toNat % 4 ≠ 0 := by
  decide +kernel

/-- StoreSentAndPerformed: a store is sent. -/
theorem witness_StoreSentAndPerformed_sent :
    let va := globalAt demoMem (curGroup demoMem) demoSt.a demoSt.b (lu (curGroup demoMem))
    uniform .once demoSt = true ∧ uniform .laneUni demoSt = true ∧ demoSt.d = .unused ∧ demoSt.sup = false
      ∧ Passes demoMem (xIssue demoSt 12 (addrTop demoSt 0 1)) ∧ runs (curGroup demoMem) demoSt = true
      ∧ slotOfUid demoMem (curGroup demoMem).uid = some demoMem.cur ∧ reaches demoKey (reach demoMem 0 1 .write 4 false va) = true := by
  decide +kernel

/-- A store in flight to that line, with bytes at both ends of it. -/
def demoInFlight : PStore :=
  { id := 7, uid := 1, grid := 1, core := 0, addr := demoKey, va := 0x100, op := .bytes [(0, 1), (127, 2)] }

/-- StoreSentAndPerformed: the only store is ready; behind an earlier one of its core to the line it is not. -/
theorem witness_StoreSentAndPerformed :
    let s : State := { demoMem with stores := [demoInFlight] }
    let t : State := { demoMem with stores := [{ demoInFlight with id := 6 }, demoInFlight] }
    Memory.wf s.mem = true ∧ s.stores.find? (fun u => u.id = 7) = some demoInFlight ∧ demoInFlight.op = .bytes [(0, 1), (127, 2)]
      ∧ storeReady s demoInFlight = true ∧ (getHome s (lineOf demoKey)).next = [] ∧ homeGone s (128 * lineOf demoKey) = false
      ∧ ([(0, 1), (127, 2)] : List (Nat × Byte)).map (·.1) = [0, 127] ∧ [0, 127].Nodup ∧ (127 : Nat) < 128
      ∧ t.stores.find? (fun u => u.id = 7) = some demoInFlight ∧ storeReady t demoInFlight = false := by decide +kernel

/-- AtomicResult: each of the four instructions, on words, doublewords and the 8 bytes of ATOMX. -/
theorem witness_AtomicResult :
    let g := curGroup demoMem
    let va := globalAt demoMem g demoAtom.a demoAtom.b (lu g)
    (∀ f ∈ [demoAtom, { demoAtom with ty := .f32 }, { demoAtom with ty := .fx }],
        f.sup = false ∧ uniform .laneUni f = true ∧ runs g f = true
          ∧ Passes demoMem (atomIssue f (span (wide f.ty)) (span (wide f.ty))) ∧ Passes demoMem (atomIssue f 2 (span (wide f.ty))))
      ∧ Memory.wf demoMem.mem = true ∧ (getHome demoMem (lineOf demoKey)).watchers = [] ∧ demoKey % 128 + 8 ≤ 128
      ∧ slotOfUid demoMem g.uid = some demoMem.cur
      ∧ reaches demoKey (reach demoMem 0 1 (.atom .none) 4 false va) = true
      ∧ reaches demoKey (reach demoMem 0 1 (.atom .none) 8 false va) = true := by
  decide +kernel

/-- AccessesComplete: two lanes load, store or adds at one address; no page is absent, no home busy, and no lane faults. -/
theorem witness_AccessesComplete :
    let f : XForm := { d := .v 4, a := .s 1, b := .imm 0 }
    let st : XForm := { a := .s 1, b := .imm 0, c := .v 4 }
    let at_ : XForm := { f with ty := .i32, c := .v 6 }
    let g := curGroup demoTwo
    let acc (f : XForm) (m : Mode) (need : Need) (n : Nat) : Access :=
      { uni := uniform m f, inside := decide (m ≠ .once), need, n, va := globalAt demoTwo g f.a f.b }
    (∀ x ∈ [(f, acc f .laneUni .read 4), (demoLd, acc demoLd .once .read 4), (st, acc st .laneUni .write 4), (demoSt, acc demoSt .once .write 4),
        (at_, acc at_ .laneUni (.atom .none) 4)],
      let ts := tryLanes demoTwo x.1 x.2
      absentLanes ts = [] ∧ (reached_ ts).any (laneBusy demoTwo) = false
        ∧ readsWait demoTwo ts x.2.n true = false ∧ readsWait demoTwo ts x.2.n false = false ∧ mixedWait demoTwo ts = false)
      ∧ noRoom demoTwo (storeLanes demoTwo (acc st .laneUni .write 4) (tryLanes demoTwo st (acc st .laneUni .write 4)) fun _ => [1, 2, 3, 4]).s = false
      ∧ Passes demoTwo (xIssue f 12 (addrTop f 1 0)) ∧ Passes demoTwo (xIssue st 12 (addrTop st 0 1)) ∧ Passes demoTwo (atomIssue at_ 1 1) := by
  decide +kernel

/-- AccessesComplete: the lanes of the load meet no fault and no poison. -/
theorem witness_AccessesComplete_logs :
    let f : XForm := { d := .v 4, a := .s 1, b := .imm 0 }
    let a : Access := { uni := false, inside := true, need := .read, n := 4, va := globalAt demoTwo (curGroup demoTwo) f.a f.b }
    let r := (tryLanes demoTwo f a).foldl (laneStep a true (fun _ _ => none) (loadValue f.ty) (plainLoad false f a)) { s := demoTwo }
    r.lost = none ∧ r.faults = [] := by
  decide +kernel

/-- The lanes that act have their addresses in the window, aligned. -/
def inside (s : State) (f : XForm) : Bool :=
  (lanes (live (curGroup s) f)).all fun j =>
    inWindow (getBlock s 1) (latticeAt s (curGroup s) f.a f.b j) 4 && latticeAt s (curGroup s) f.a f.b j % 4 = 0

/-- LatticeAccess: the first and the last word of the window. -/
theorem witness_LatticeAccess :
    let f : XForm := { d := .v 4, a := .s 1, b := .imm 0 }
    let st : XForm := { a := .s 1, b := .imm 0, c := .v 4 }
    inside (demoFrom 0) f = true ∧ inside (demoFrom 0x3FFC) f = true ∧ (∀ d, f.d ≠ .p d) ∧ (∀ d, f.d = .s d → uniform .auto f = true)
      ∧ Passes (demoFrom 0) (xIssue f 12 (topReg [(f.d, 1), (f.b, 1)])) ∧ st.d = .unused ∧ st.sup = false
      ∧ Passes (demoFrom 0) (xIssue st 12 (topReg [(st.b, 1), (st.c, 1)])) := by decide +kernel

/-- HintsComplete. -/
theorem witness_HintsComplete : Passes demoMem (xIssue demoSt 12 (addrTop demoSt 0 0)) ∧ (∀ l, (getHome demoMem l).next = [])
    ∧ ∀ l, gatherers demoMem l = [] := by
  refine ⟨by decide +kernel, ?_, ?_⟩ <;> intro l <;> rfl

/-! ## Witnesses: transactions, ordering, copies, barrier objects -/

/-- Two lanes, the second with an open transaction that has read one byte. -/
def demoTxn : State :=
  demoWith fun x => { x with xm := 0b11, s := [(1, 0x100)], txn := [(1, { isOpen := true, depth := 1, reads := [(0x800000, [(0, 0)])] })] }

/-- TransactionInstructions: a lane below its limit with none open and one of depth 1; a commit that validates, a nested end and
a doomed one; the greatest depth that TXB still deepens. -/
theorem witness_TransactionInstructions :
    let f : XForm := { a := .v 1 }
    let e : XForm := { d := .v 1, a := .p 1 }
    let x := curGroup demoTxn
    let t : Txn := mapGet {} x.txn 1
    Passes demoTxn (xIssue f 12 (topReg [(f.a, 1)])) ∧ Passes demoTxn (xIssue { a := .imm 3 } 12 none)
      ∧ Passes demoTxn (xIssue e 12 (topReg [(e.d, 1)]))
      ∧ ((lanes (live x f)).all fun j => if (mapGet ({} : Txn) x.txn j).isOpen then (mapGet ({} : Txn) x.txn j).depth < 15
          else (opnd demoTxn x false f.a j).toNat % 2 ^ 32 < 8) = true
      ∧ (txePoison demoTxn 0 (lanes (live x e))).isNone = true ∧ commitBusy demoTxn t = false
      ∧ t.isOpen = true ∧ t.depth = 1 ∧ t.doomed = none ∧ t.irr = false ∧ ((logLines t).all fun l => (getHome demoTxn l).lock = none) = true
      ∧ validate ((logLines t).foldl (readyLine demoTxn.cur) demoTxn) t.reads = none
      ∧ (mapGet ({} : Txn) x.txn 0).isOpen = false ∧ (doomTxn t 4 7).doomed = some (4, 7) ∧ (1 : Nat) < ({ t with depth := 15 } : Txn).depth := by
  decide +kernel

/-- TransactionInstructions: a lane past its limit while the token is free, while it is reserved for the lane, and while another holds it;
an irrevocable lane that has locked a line. -/
theorem witness_TransactionInstructions_token :
    let f : XForm := { a := .imm 9 }
    let s : State := demoWith fun x => { x with xm := 0b100 }
    let queued : State := modPart s 0 fun p => { p with tokQ := [((curGroup s).uid, 2)], resv := some 0 }
    let taken : State := modPart s 0 fun p => { p with tok := some (77, 0) }
    let irr : Txn := { isOpen := true, depth := 1, irr := true, lines := [5], writes := [(5, [(0, 1)])] }
    let u : State := setHome (demoWith fun x => { x with txn := [(2, irr)] }) 5 { lock := some ((curGroup s).uid, 2) }
    (∀ t ∈ [s, queued, taken], Passes t (xIssue f 12 (topReg [(f.a, 1)])) ∧ (lanes (live (curGroup t) f)) = [2]
        ∧ 8 ≤ (opnd t (curGroup t) false f.a 2).toNat % 2 ^ 32 ∧ (mapGet ({} : Txn) (curGroup t).txn 2).isOpen = false)
      ∧ (getPart s 0).tok = none ∧ (getPart s 0).tokQ = [] ∧ (mapGet ({} : Txn) (getGroup u 0).txn 2) = irr ∧ irr.doomed = none
      ∧ (∀ l ∈ logLines irr, heldOwn u (getGroup u 0).uid l = [] ∧ homeGone u (128 * l) = false) ∧ (irr.writes.map (·.1)).Nodup := by
  decide +kernel

/-- The place of the byte. -/
def demoPlace : Place := { space := .hbm demoKey, entry := 0x40000003, level := 1 }

/-- ReleasesWait: a group without stores in flight goes on; one with a store in flight does not. -/
theorem witness_ReleasesWait :
    let f : XForm := { sc := .sys, a := .s 1, b := .imm 0, c := .s 1 }
    let t := beforeRelease demoMem .sys
    let u : State := { demoMem with stores := [demoInFlight] }
    runs (curGroup demoMem) f = true ∧ Passes demoMem (xIssue f 12 none) ∧ Passes demoMem (xIssue f 12 (addrTop f 0 0))
      ∧ lostStore t t.cur = none ∧ storesComplete t t.cur .sys = true ∧ storesComplete (beforeRelease u .prt) u.cur .prt = false
      ∧ reaches demoKey (reach demoMem 0 1 .write 8 false (globalAt demoMem (curGroup demoMem) f.a f.b (lu (curGroup demoMem)))) = true
      ∧ placeBusy demoMem demoMem.cur demoPlace = false ∧ lineHeld t (lineOf demoKey) = false
      ∧ uniform .auto f = true ∧ uniform .auto { f with a := .v 1 } = false ∧ lanes (live (curGroup demoMem) { f with a := .v 1 }) ≠ []
      ∧ Passes demoMem (xIssue { f with a := .v 1 } 12 (addrTop { f with a := .v 1 } 0 0)) := by
  decide +kernel

/-- MonitorsAndDarkrooms: a line of an ordinary page, and a range of the two sizes at the bound. -/
theorem witness_MonitorsAndDarkrooms :
    let f (n : DWord) : XForm := { d := .s 2, a := .s 1, b := .imm 0, c := .imm n }
    let n (w : DWord) : Nat := (opnd demoMem (curGroup demoMem) false (f w).c (lu (curGroup demoMem))).toNat
    let va := globalAt demoMem (curGroup demoMem) (f 0).a (f 0).b (lu (curGroup demoMem))
    runs (curGroup demoMem) (f 0) = true ∧ Passes demoMem (xIssue (f 0) 12 (addrTop (f 0) 0 0)) ∧ Passes demoMem (xIssue (f 0) 12 none)
      ∧ reaches demoKey (reach demoMem 0 1 .read 1 false va) = true ∧ xlat demoMem 0 1 va = .ok demoKey 0x40000003 1
      ∧ requestsStopped demoMem (groupSpace demoMem demoMem.cur).1 = false ∧ pteDEV 0x40000003 = false ∧ placeBusy demoMem demoMem.cur demoPlace = false ∧ n (2 ^ 32 - 1) < 2 ^ 32 ∧ 2 ^ 32 ≤ n (2 ^ 32) := by
  decide +kernel

/-- A copy element of 256 bytes from the group's page into its window. -/
def demoElem (toLat : Bool) (glob : DWord) (sent : List (Nat × Nat)) : Elem :=
  { g := 0, uid := 1, grid := 1, block := 1, lane := 0, toLat, glob, lat := 0, len := 256, bar := none, core := 0, chan := 0, pc := 0,
    word := 0, part := 0, ctx := 1, sent }

/-- CopiesOpen: a copy of 64 bytes into the first and the last place of the window, and 31 batches that have not completed. -/
theorem witness_CopiesOpen :
    let w : DWord := 0x80040
    let f : XForm := { form := .xl, d := .s 1, a := .s 2, b := .imm 0, c := .imm w, uni := true }
    let s (a : DWord) := demoWith fun x => { x with s := [(1, a), (2, 0x100)], batches := List.replicate 31 { no := 1, elems := [5] } }
    let side (a : DWord) : Bool := inWindow (getBlock (s a) 1) (cpyLat (s a) (curGroup (s a)) f 0) (cpyLen w)
      && cpyLat (s a) (curGroup (s a)) f 0 % 8 = 0
    f.c = .imm w ∧ Passes (s 0) { xIssue f 20 (topReg [(f.d, 1), (f.a, 2), (f.b, 1)]) with full := true }
      ∧ groupChan (s 0) 0 = some 0 ∧ cpyBar w = some 16 ∧ barOk (getBlock (s 0) 1) 16 = true ∧ side 0 = true ∧ side 0x3FC0 = true
      ∧ (ringOf (s 0) 0).length + 1 ≤ 128 ∧ Passes (s 0) (xIssue {} 12 none) ∧ runs (curGroup (s 0)) {} = true
      ∧ batchesLeft (setElem (s 0) 5 (demoElem true 0x100 [])) true (curGroup (s 0)).batches = 31 ∧ (31 : Nat) < 32 ∧ (curGroup (s 0)).txn = [] := by
  decide +kernel

/-- BarrierObjects: an object of two arrivals for two lanes, the bounds of BARI's count, the two ends of the window, and an
update that completes a phase. -/
theorem witness_BarrierObjects :
    let f : XForm := { a := .imm 1, b := .imm 2 }
    let s := barWrite demoTwo (getBlock demoTwo 1) 16 { arv := 2, exp := 2, byt := 0, ph := 0 }
    let u := beforeRelease (setCur s { curGroup s with arriving := some 16 }) .blk
    Passes s (xIssue f 12 none) ∧ runs (curGroup s) f = true ∧ barObj s (curGroup s) f.a = 16 ∧ barOk (getBlock s 1) 16 = true
      ∧ barOk (getBlock s 1) 0 = true ∧ barOk (getBlock s 1) 0x3FF0 = true ∧ (1 ≤ (1 : Nat) ∧ (65535 : Nat) ≤ 65535)
      ∧ (65535 : Nat) < 65536 ∧ laneCount ((curGroup s).xm &&& ~~~(doomedLanes s)) = 2
      ∧ (barRead s (getBlock s 1) 16).arv.toNat = 2 ∧ storesComplete u u.cur .blk = true ∧ (barRead s (getBlock s 1) 0).arv.toNat < 2
      ∧ barOk (getBlock s 1) 0x4000 = false := by
  decide +kernel

/-! ## Witnesses: the matrix engine -/

/-- The block of the witnesses holds the token of its core, a lease of 64 and all the rows, and its window has 16 KiB. -/
def demoMx : State :=
  let s := modBlock demoMem 1 fun b => { b with win := [some (0, 191)] }
  modCore s 0 fun c => { c with token := some 1, lease := 64 }

/-- The engine starts a counted instruction on the last 16 rows, or on all of them. -/
theorem demo_engine : EngineReady demoMx mIssue true true false false (some (176, 191))
    ∧ EngineReady demoMx (ctlIssue { a := .imm 0, b := .imm 191 } 12) true true false false (some (0, 191)) := by
  constructor <;>
    exact ⟨by decide +kernel, by decide +kernel, fun _ => by decide +kernel, by decide +kernel, rfl,
      fun r h => ⟨(0, 191), by decide +kernel, by cases h; decide⟩, fun h => (nomatch h), rfl, by decide +kernel,
      fun _ => by decide +kernel⟩

/-- Two members of a gang, of which this is the first: both have the token, the grant and all the rows. -/
def demoGang : State :=
  let s := modBlock demoMx 1 fun b => { b with cores := [0, 1], mxe := [true, true], win := [some (0, 191), some (0, 191)] }
  modCore s 1 fun c => { c with token := some 1, lease := 64 }

/-- The engine starts an instruction that spans two arrays. -/
theorem demo_engine_wide : EngineReady demoGang mIssue true true true false (some (0, 15)) :=
  ⟨by decide +kernel, by decide +kernel, fun _ => by decide +kernel, by decide +kernel, rfl,
    fun r h => ⟨(0, 191), by decide +kernel, by cases h; decide⟩,
    fun _ => ⟨by decide +kernel, (0, 15), rfl, by decide +kernel⟩, rfl, by decide +kernel, fun _ => by decide +kernel⟩

/-- A tile or product of 16 by 16 cells in the last rows. -/
def demoTile : MForm := { row := 176, aoff := 2, boff := 4, coff := 1 }

/-- MatrixInstructions: MXM, MXG (whose one adapter is missing), MXLD and MXST on 16 by 16 cells. -/
theorem witness_MatrixInstructions :
    let f := demoTile
    let g : MForm := { f with toff := 8 }
    let x := curGroup demoMx
    let b := getBlock demoMx 1
    mRuns x f = true ∧ mSpan f = (176, 191) ∧ decide (192 < mCols f) = false ∧ operandFault demoMx b f false = none
      ∧ operandFault demoMx b g true = none ∧ adapterFault demoMx g = none ∧ x.fpflags = 0 ∧ panelOk b (tilePanel demoMx { f with ty := .f32 }) = true := by
  decide +kernel

/-- MatrixCellValues: the products of floating operands are numbers, and of plain integers integers. -/
theorem witness_MatrixCellValues :
    let o := mOperands demoMx demoTile (latNat demoMx (getBlock demoMx 1) (mAddr demoMx demoTile.c demoTile.coff.toNat 16) 16)
    (o.1.f.plainInt && o.2.f.plainInt) = false ∧ (fmtWord 2).plainInt = true ∧ ratOf (fval (fmtOf .bf16) 0x3F80) = some 1
      ∧ 0 < mRows demoTile ∧ 0 < mCols demoTile ∧ 0 < mDepth demoTile / 32 := by
  decide +kernel

/-- MatrixInstructions: the table of MXG names no adapter. -/
theorem witness_MatrixInstructions_adapters :
    fetchAdapters demoMx { demoTile with toff := 8 } (List.range 1) (readSources demoMx 1 demoMx.nextId) [] = some (demoMx, []) := rfl

/-- The flags that MXST and MXG could raise are not enabled: no instruction of the engine touches `sy.fpflags`. -/
theorem witness_MatrixInstructions_flags : (curGroup (product demoMx demoTile).1).fpflags = 0
    ∧ (curGroup (readSources demoMx 1 demoMx.nextId)).fpflags = 0 ∧ ∀ fl, enabledFlags 0 fl = 0 := by
  refine ⟨by decide +kernel, by decide +kernel, ?_⟩
  intro fl; simp [enabledFlags]

/-- MatrixInstructions: MXZ of all rows (`demo_engine`), MXW in a launch without saved accumulators of one row, MXQ, MXTA and
MXTR with and without the token, and MXP of one plane. -/
theorem witness_MatrixInstructions_uniform :
    let s := modGrid demoMx 1 fun g => { g with hdr := { g.hdr with accs := 768 } }
    let k := ctlIssue { a := .imm 191, b := .imm 191, c := .imm 1 } 12
    issueFault s { k with full := true } = none ∧ Passes s k ∧ (getBlock s 1).mxe.getD 0 false = true ∧ (191 - 191 + 1) * 768 ≤ (groupGrid s 0).hdr.accs
      ∧ (getCore s 0).mxq = [] ∧ (getCore s 0).token = some 1 ∧ (getCore demoMem 0).token ≠ some 1
      ∧ Passes demoMem k ∧ inWindow (getBlock s 1) 64 (64 * 128 - 64) = true ∧ 64 % 0x2000 = 64 ∧ 0x2000 % 512 = 0
      ∧ 0x2000 % 0x2000 + 512 * 1 ≤ 0x2000 ∧ inWindow (getBlock s 1) 0x2000 (512 * 1) = true := by
  decide +kernel

/-- MatrixInstructions: an instruction that retires, alone and with its follower's reservation. -/
theorem witness_MatrixInstructions_retire :
    let o : MxOp := { block := 1, counted := true, follower := some 1 }
    let p : MxOp := { block := 1, counted := false }
    let s := modCore (modCore demoGang 0 fun c => { c with mxq := [o] }) 1 fun c => { c with mxq := [p] }
    (getCore s 0).mxq = [o] ∧ o.counted = true ∧ o.follower = some 1 ∧ (getCore s 1).mxq = [p] ∧ p.counted = false
      ∧ ({ o with follower := none } : MxOp).follower = none := by
  decide +kernel

/-- MatrixInstructions: a lease that has run out, with nobody who waits and with a block of another launch. -/
theorem witness_MatrixInstructions_lease :
    let s := modCore demoMx 0 fun c => { c with lease := 0 }
    let t := modCore (setGrid (setBlock s 5 { getBlock s 1 with grid := 9 }) 9 { getGrid s 1 with lrec := { (getGrid s 1).lrec with preg := 1 } }) 0
      fun c => { c with tokenQ := [5] }
    let u := modBlock (modGrid t 1 fun g => { g with lrec := { g.lrec with accb := 0x10000 } }) 1 fun b => { b with win := [some (191, 191)] }
    (getCore s 0).token = some 1 ∧ (getCore s 0).lease = 0 ∧ (getCore s 0).mxq = [] ∧ (getCore s 0).tokenQ = []
      ∧ ((getCore u 0).tokenQ.any fun q => poolOwner u (getBlock u q).grid ≠ poolOwner u (getBlock u 1).grid) = true
      ∧ saveFault u 1 (memberOn (getBlock u 1) 0) true = none
      ∧ saveFault (modGrid u 1 fun g => { g with lrec := { g.lrec with accb := 0x40000000 } }) 1 (memberOn (getBlock u 1) 0) true = some 0x40000000 := by
  decide +kernel

/-! ## Witnesses: claims, tasks, the system, lists -/

/-- ClaimInstructions: a word with a reserved bit and a reserved selector, a request and a release at the block's bounds, and the
selectors at the ends of their ranges. -/
theorem witness_ClaimInstructions :
    let c := blockClaim demoMem 1 0
    let x := curGroup demoMem
    wordReserved 0x100000 = true ∧ selectorOk 4 = false ∧ selectorOk 0x180 = false ∧ Passes demoMem (xIssue { a := .imm 0 } 12 none)
      ∧ runs x { a := .imm 0 } = true ∧ wordReserved 0xFFFFF = false ∧ x.deferred = none
      ∧ x.range + 8 * (wordAmt 0).reg ≤ rangeMax demoMem 0 ∧ c.hold.sqr + (wordAmt 0).sqr ≤ c.max.sqr
      ∧ c.hold.mxe + (wordAmt 0).mxe ≤ c.max.mxe ∧ c.hold.cpc + (wordAmt 0).cpc ≤ c.max.cpc
      ∧ isShadow x = false ∧ 8 * (wordAmt 0x3023F).reg + 8 ≤ x.range ∧ (wordAmt 0x3023F).sqr ≤ c.hold.sqr ∧ (wordAmt 0x3023F).mxe ≤ c.hold.mxe
      ∧ (wordAmt 0x3023F).cpc ≤ c.hold.cpc ∧ clrlWaits demoMem 0 (wordAmt 0x3023F) = false ∧ selectorOk 3 = true
      ∧ selectorOk 0x100 = true ∧ selectorOk 0x17F = true := by
  decide +kernel

/-- A device queue of 16 entries, of which the launch is a consumer. -/
def demoQueue : State :=
  let s := modGrid demoTwo 1 fun g => { g with lrec := { g.lrec with flags := 0x20, qnum := 3 } }
  modQueue s { part := 0, ctx := 1, host := false, q := 3 } fun q => { q with installed := true, base := 0x8000, lcap := 4 }

/-- TaskInstructions: SPAWN of a record that can be read. -/
theorem witness_TaskInstructions_spawn :
    let f : XForm := { d := .s 2, a := .s 1, b := .imm 0 }
    let t := beforeRelease demoMem .prt
    Passes demoMem (xIssue f 12 (addrTop f 0 0)) ∧ runs (curGroup demoMem) f = true ∧ storesComplete t t.cur .prt = true
      ∧ (getDie t 0).pool.length < 4096
      ∧ (match readRange t 64 (globalAt demoMem (curGroup demoMem) f.a f.b (lu (curGroup demoMem))) 128 with
          | .ok b _ => decide (b.length = 128) | _ => false) = true := by
  decide +kernel

/-- TaskInstructions: QPOP and QPUSH of two lanes at an empty queue. -/
theorem witness_TaskInstructions_queue :
    let f : XForm := { d := .v 8, a := .v 8, b := .imm 3, c := .p 1 }
    let q := gridQueue (groupGrid demoQueue 0)
    let t := beforeRelease demoQueue .prt
    Passes demoQueue (xIssue f 12 (eightTop f.d)) ∧ Passes demoQueue (xIssue f 12 (eightTop f.a))
      ∧ lanes (live (curGroup demoQueue) f) = [0, 2] ∧ (groupGrid demoQueue 0).lrec.flags.getLsbD 5 = true
      ∧ deviceQueue demoQueue 3 = q ∧ (getQueue demoQueue q).installed = true ∧ (getQueue demoQueue q).closed = false
      ∧ storesComplete t t.cur .prt = true
      ∧ (pushLanes q (vNum f.a) t ([0, 2].filter fun i => (curGroup demoQueue).pushed ≤ i)).2 = []
      ∧ (pushLanes q (vNum f.a) demoQueue ([0, 2].filter fun i => 1 ≤ i)).2 = [] := by
  decide +kernel

/-- A ring of four slots with one register in each half, seen by a group of a role. -/
def demoRing (r : Role) : State :=
  let s := modBlock demoTwo 1 fun b =>
    { b with rings := [{ computer := 0, loader := 0, storer := 0, slots := 4, ringL := [vZero], ringS := [vZero] }] }
  modGroup s 0 fun x => { x with role := r }

/-- TaskInstructions: QWPUT of three registers into a half that then is full, and QWGET of the one register that is there. -/
theorem witness_TaskInstructions_ring :
    let f (n : DWord) : XForm := { d := .v 8, a := .v 8, b := .imm n }
    Passes (demoRing .loader) (xIssue (f 3) 12 (topReg [(.v 8, 3)])) ∧ runs (curGroup (demoRing .loader)) (f 3) = true
      ∧ ((groupRing (demoRing .loader) (curGroup (demoRing .loader))).map fun r => (r.slots, r.ringL.length)) = some (4, 1)
      ∧ (curGroup (demoRing .loader)).role = .loader ∧ draining (demoRing .loader) 0 = false
      ∧ Passes (demoRing .computer) (xIssue (f 3) 12 (topReg [(.v 8, 3)])) ∧ (curGroup (demoRing .computer)).role = .computer
      ∧ ((groupRing (demoRing .computer) (curGroup (demoRing .computer))).map fun r => r.ringS.length) = some 1
      ∧ (curGroup (demoRing .storer)).role = .storer := by
  decide +kernel

/-- TaskInstructions: WLAPP to the launch's own core, WLPOP, and TERM. -/
theorem witness_TaskInstructions_items :
    let f : XForm := { d := .v 8, a := .imm 0, b := .imm 7, c := .p 1 }
    let u := beforeRelease (setCur demoTwo { curGroup demoTwo with idle := false }) .prt
    Passes demoTwo (xIssue f 12 (topReg [(f.a, 1), (f.b, 1)])) ∧ lanes (live (curGroup demoTwo) f) = [0, 2]
      ∧ ([0, 2].all fun l => (gridCores demoTwo 1).contains (opnd demoTwo (curGroup demoTwo) false f.a l).toNat) = true
      ∧ itemCount (getPart demoTwo 0) + 2 ≤ 2 ^ 22 ∧ storesComplete u u.cur .prt = true
      ∧ Passes demoTwo (xIssue f 12 (topReg [(f.d, 1)])) ∧ Passes demoTwo (ctlIssue { d := .s 2 } 12) ∧ runs (curGroup demoTwo) {} = true := by
  decide +kernel

/-- A privileged group beside a parked one in slot 95. -/
def demoSys : State :=
  setGroup (setCur demoMem { curGroup demoMem with priv := true, s := [(1, 95), (2, 0x100)] }) 95
    { State.fetchGroup with uid := 2, status := .parked .stopped, range := 0 }

/-- SystemInstructions: MOVS to a vector register, `sy.fpflags`, `xm` and a pair; MOVW and GSTOP on the last slot. -/
theorem witness_SystemInstructions :
    let f (d a : Operand) : XForm := { d, a }
    let p (f : XForm) : Issue := { xIssue f 12 (topReg [(f.d, 1), (f.a, 1)]) with priv := privWrite f.d }
    let g : XForm := { d := .sy 9, a := .s 1, b := .s 2 }
    Passes demoSys (p (f (.v 1) (.s 1))) ∧ Passes demoSys (p (f (.sy 9) (.s 1))) ∧ Passes demoSys (p (f .xm (.s 2)))
      ∧ Passes demoSys (p (f (.s 2) .xm)) ∧ (f (.v 1) (.s 1)).d ≠ .xm ∧ (∀ n, (f (.v 1) (.s 1)).d ≠ .sy n)
      ∧ runs (curGroup demoSys) g = true ∧ Passes demoSys { xIssue g 12 (addrTop g 0 0) with priv := true }
      ∧ (opnd demoSys (curGroup demoSys) false g.a 0).toNat = 95 ∧ isParked (getGroup demoSys (slotKey 0 95)) = true
      ∧ slotKey 0 95 ≠ demoSys.cur := by
  refine ⟨by decide +kernel, by decide +kernel, by decide +kernel, by decide +kernel, by decide +kernel, fun _ h => (nomatch h),
    by decide +kernel, by decide +kernel, by decide +kernel, by decide +kernel, by decide +kernel⟩

/-- SystemInstructions: GSTOP of a group that runs in the last slot. -/
theorem witness_SystemInstructions_stop :
    let s := setGroup demoSys 95 { getGroup demoSys 95 with status := .ready }
    let g : XForm := { a := .s 1 }
    runs (curGroup s) g = true ∧ Passes s { xIssue g 12 (addrTop g 0 0) with priv := true }
      ∧ slotKey (slotCore s.cur) (opnd s (curGroup s) false g.a 0).toNat = 95 ∧ (getGroup s 95).status.live = true
      ∧ isParked (getGroup s 95) = false := by
  decide +kernel

/-- SystemInstructions: TLBI of a page of context 1 and of all of it, and CSAVE of the parked group and CREST into a free slot,
from and to memory that can be reached. -/
theorem witness_SystemInstructions_save :
    let f (n : DWord) : XForm := { a := .s 1, b := .s 2, c := .imm n, sc := .prt }
    let c : XForm := { a := .s 2, b := .imm 0, c := .s 1 }
    let va : DWord := 0x1000
    Passes demoSys { xIssue (f 1) 12 (addrTop (f 1) 0 0) with priv := true }
      ∧ (∀ w ∈ [true, false], idsLeft (tlbiStart demoSys 0 1 va w).1 (tlbiStart demoSys 0 1 va w).2.1 = false)
      ∧ Passes demoSys { xIssue c 12 (addrTop c 0 0) with priv := true }
      ∧ mayLeave demoSys 95 = true ∧ (groupRecord (leaving (getGroup demoSys 95))).length = 0xA00 ∧ rangeFault demoSys 64 va 0xA00 = none
      ∧ (getGroup demoSys (slotKey 0 94)).status = .free ∧ slotKey 0 94 ≠ demoSys.cur
      ∧ (match readRange demoSys 1 va 0xA00 with
          | .ok h t => decide (recNat h 0x020 2 = 0)
              && (match readRange t 1 (va + 0xA00) 0 with | .ok r u => decide (r = []) && decide (u.csaved.length = 0) | _ => false)
          | _ => false) = true := by
  decide +kernel

/-- ListsAndSieve: a list of one and of eight candidates; a SIEVE of the block's one group; its packed word at the bound; and a
block whose one group has arrived. -/
theorem witness_ListsAndSieve :
    let f (n : DWord) : XForm := { d := .v 16, a := .v 1, b := .v 2, c := .imm n }
    let g (w : DWord) : XForm := { form := .xl, d := .v 12, a := .v 8, b := .v 9, c := .imm w }
    let k (f : XForm) : Issue := { xIssue f 20 (topReg [(f.d, 1), (f.a, 1), (f.b, 1),
      (.v (Fin.ofNat 512 (sieveFirst (opnd demoMem (curGroup demoMem) false f.c 0))), sieveCount (opnd demoMem (curGroup demoMem) false f.c 0))]) with full := true }
    let a : SieveArrival := { ty := .n32, packed := 0, d := 12, key := 8, weight := 9, lanes := LaneMask.full }
    let s := setCur demoMem { curGroup demoMem with sieve := some a, status := .sieve 0x20 }
    Passes demoMem (xIssue (f 1) 12 (topReg [(.v 16, 2), (.v 1, 1), (.v 2, 1)]))
      ∧ Passes demoMem (xIssue (f 8) 12 (topReg [(.v 16, 16), (.v 1, 1), (.v 2, 1)]))
      ∧ (2 ^ 31 - 1 : DWord).toNat < 2 ^ 31 ∧ 2 ^ 31 ≤ (2 ^ 31 : DWord).toNat ∧ Passes demoMem (k (g 0)) ∧ runs (curGroup demoMem) (g 0) = true
      ∧ sieveBad demoMem demoMem.cur = none ∧ sieveGroups s 1 = [0] ∧ (getGroup s 0).status.live = true ∧ (getGroup s 0).sieve = some a
      ∧ (getBlock s 1).away = [] ∧ ownComplete s 0 .blk = true := by
  decide +kernel

/-! ## Witnesses: what the device does by itself -/

/-- A load of a word that waits at the line of the witnesses. -/
def demoLoad : PLoad := { id := 8, g := 0, lane := 0, addr := demoKey, va := 0x100, size := 4, ty := .i32, d := .v 4, mask := 1 }

/-- MemoryEvents: a load and a returning atomic that wait, a value that has come back, and an atomic without a destination. -/
theorem witness_MemoryEvents :
    let a : PLoad := { demoLoad with op := some (.atomx 1) }
    let u : PStore := { demoInFlight with op := .atomx 1 }
    let s (l : PLoad) : State := { demoMem with loads := [l] }
    let t : State := { demoMem with stores := [u] }
    (∀ l ∈ [demoLoad, a], (s l).loads.find? (fun m => m.id = l.id) = some l ∧ l.got = none ∧ l.peer = false
        ∧ (s l).loads.find? (fun m => m.uid = l.uid && m.got = none && lineOf m.addr = lineOf l.addr) = some l
        ∧ homeBusy (s l) l.addr = false ∧ (sameAccess (s l) l).any (loadWaits (s l)) = false ∧ lineHeld (s l) (lineOf l.addr) = false
        ∧ ((sameAccess (s l) l).all fun m => m.dead || !loadPoisoned (s l) m.g m.addr m.size []) = true
        ∧ atomPoisoned (s l) l.g l.addr l.size [] = false ∧ poisonedNext (s l) l.addr l.size = false
        ∧ (s l).stores.find? (fun t => t.id = l.id) = none)
      ∧ sameAccess (s demoLoad) demoLoad = [demoLoad]
      ∧ demoLoad.op = none ∧ a.op.isSome = true ∧ demoLoad.dead = false ∧ demoLoad.d = .v 4 ∧ demoLoad.mask.getLsbD 0 = true ∧ ({ demoLoad with got := some 3 } : PLoad).got = some 3
      ∧ t.stores.find? (fun v => v.id = u.id) = some u ∧ (∀ m, u.op ≠ .bytes m) ∧ storeReady t u = true := by
  refine ⟨by decide +kernel, by decide +kernel, rfl, rfl, rfl, rfl, rfl, rfl, by decide +kernel, fun _ h => (nomatch h), by decide +kernel⟩

/-- A copy whose lease has run out, with and without bytes of the core's own. -/
def demoCopy (own : AMap Byte) : State :=
  setCopy { demoMem with gtc := 100 } 0 (lineOf demoKey) { bytes := [(0, 1)], expiry := some 100, own }

/-- MemoryEvents: copies that expire, at the very tick. -/
theorem witness_MemoryEvents_copy :
    (getCopy (demoCopy []) 0 (lineOf demoKey)).map (·.expiry) = some (some 100) ∧ (getCopy (demoCopy []) 0 (lineOf demoKey)).map (·.own) = some []
      ∧ (getCopy (demoCopy [(1, 2)]) 0 (lineOf demoKey)).map (·.expiry) = some (some 100)
      ∧ (getCopy (demoCopy [(1, 2)]) 0 (lineOf demoKey)).map (·.own) = some [(1, 2)]
      ∧ (getCopy (demoCopy [(1, 2)]) 0 (lineOf demoKey)).map (·.bytes) = some [(0, 1)] ∧ 100 ≤ dieGtc (demoCopy []) 0 := by
  decide +kernel

/-- A lane at its TXE, with a transaction that commits. -/
def demoTxe : State :=
  modGroup (demoAt 96 (0x50D02000 + 2 * 2 ^ 83)) 0 fun x => { x with txn := [(1, { isOpen := true, depth := 1 })] }

/-- MemoryEvents: a lane that commits, an image that becomes visible, a reservation that lapses and a write-back. -/
theorem witness_MemoryEvents_due :
    let t : Txn := mapGet {} (getGroup demoTxe 0).txn 1
    let h : State := setHome { demoMem with gtc := 50 } (lineOf demoKey) { next := [(50, [(0, 1)])] }
    let p : State := modPart { demoMem with gtc := 1000000 } 0 fun x => { x with resv := some 0, tokQ := [(1, 0)] }
    let w : WriteBack := { id := 9, die := 0, key := demoKey, bytes := [], stores := [] }
    let b : State := { demoMem with wbs := [w] }
    atTxe demoTxe 0 1 = true ∧ commitsNext demoTxe 0 1 = true ∧ pendingOf demoTxe 0 = [] ∧ (getGroup demoTxe 0).status = .ready ∧ commitBusy demoTxe t = false
      ∧ commitPoison demoTxe 0 t = none ∧ (getHome h (lineOf demoKey)).next = [(50, [(0, 1)])] ∧ 50 ≤ shownGtc h
      ∧ (getPart p 0).resv = some 0 ∧ (getPart p 0).tokQ = [(1, 0)] ∧ (getPart p 0).tok = none ∧ 0 + 1000000 ≤ p.gtc.toNat
      ∧ b.wbs.find? (fun v => v.id = w.id) = some w ∧ b.wbs.find? (fun v => v.key = w.key) = some w
      ∧ homeBusy b w.key = false ∧ homeGone b (128 * lineOf w.key) = false := by
  decide +kernel

/-- MemoryEvents: the last piece of an element that may move, one that has been sent and stored, and an element at a fault. -/
theorem witness_MemoryEvents_copies :
    let e := demoElem true 0x100 []
    let f := demoElem false 0x100 [(1, 70)]
    let bad := demoElem true 0x40000000 []
    let s (e : Elem) : State := setElem demoMem 12 e
    Machine.getElem (s e) 12 = some e ∧ e.done = false ∧ e.stopped = false ∧ 1 < (e.len + 127) / 128 ∧ e.landed.contains 1 = false
      ∧ (e.sent.any fun p => p.1 = 1) = false ∧ pieceFault (s e) e 1 = none ∧ mayMove (s e) 12 e 1 = true
      ∧ (match partsRead (s e) e (pieceParts e 1) with | some r => decide (r.1.length = 128) | none => false) = true
      ∧ (f.sent.any fun p => p.1 = 1) = true ∧ ((f.sent.filter fun p => p.1 = 1).all fun p => pieceStored (s f) f p.2) = true
      ∧ elemFault (s bad) 12 bad = some (0x10, 0x40000000, 0)
      ∧ (elemGroup (s { bad with uid := 77 }) { bad with uid := 77 }).isNone = true := by
  decide +kernel

/-- GroupEvents: a group asked to park at a boundary, one with a monitor, one that stalls and may go on, and one that has
starved. -/
theorem witness_GroupEvents :
    let a := demoWith fun x => { x with stopAsked := true }
    let m := demoWith fun x => { x with monLine := some 5 }
    let w := demoWith fun x => { x with status := .stalled .release }
    let h := demoWith fun x => { x with starve := 4096 }
    asked a 0 = true ∧ atBoundary a 0 = true ∧ (getGroup m 0).monLine = some 5 ∧ (getGroup m 0).status.live = true
      ∧ (getGroup w 0).status = .stalled .release ∧ stallOver w 0 .release = true
      ∧ (getGroup h 0).status = .ready ∧ 4096 ≤ (getGroup h 0).starve := by
  decide +kernel

/-- GroupEvents: a trap held for results that have come back, and traps that wait, with and without one of class P among them. -/
theorem witness_GroupEvents_traps :
    let p : PendTrap := { demoTrap with cls := .P }
    let h := demoWith fun x => { x with held := some demoTrap }
    let s (l : List PendTrap) := demoWith fun x => { x with pend := l }
    (getGroup h 0).held = some demoTrap ∧ (getGroup (takeTrap (setGroup h 0 { getGroup h 0 with held := none }) 0 demoTrap) 0).held = none ∧ pendingOf h 0 = [] ∧ requestsStopped h (groupSpace h 0).1 = false ∧ atTrap (s [demoTrap]) 0 = true ∧ (getGroup (s [demoTrap]) 0).pend.find? (fun q => q.cls = .P) = none
      ∧ (mergeTraps (getGroup (s [demoTrap]) 0).pc (getGroup (s [demoTrap]) 0).pend).isSome = true
      ∧ atTrap (s [demoTrap, p]) 0 = true ∧ (getGroup (s [demoTrap, p]) 0).pend.find? (fun q => q.cls = .P) = some p := by
  decide +kernel

/-- A command that has no effect of its own. -/
def demoCmd : CmdEntry := { op := 1, sub := 0, rsv := 0, tag := 0, addr := 0x1000, val := 0, cpl := 0 }
/-- A device queue of context 1. -/
def demoQ : QRef := { part := 0, ctx := 1, host := false, q := 0 }
/-- A prologue of a command of that queue, which has issued as much as it may. -/
def demoPrologue : State :=
  let s := modQueue demo demoQ fun q => { q with installed := true, busy := [(demoCmd, .prologue 0)] }
  modGroup s 0 fun x => { x with prologue := some { q := demoQ, count := 16384, runs := 0, copy := [], addr := 0x1000 } }

/-- GroupEvents: a prologue at its bound, an append that arrives, and a tick-gated queue at its first release. -/
theorem witness_GroupEvents_due :
    let f := modPart demo 0 fun x => { x with flying := [(1, 0, 7)] }
    let q := modQueue { demo with gtc := 20 } demoQ fun x => { x with per := 10, phs := 0, due := [15] }
    let x := getQueue q demoQ
    prologueCmd demoPrologue 0 = some (demoQ, demoCmd) ∧ (getGroup demoPrologue 0).prologue.isSome = true ∧ prologueStops demoPrologue 0 = true ∧ frontWaits demoPrologue 0 = false
      ∧ (getPart f 0).flying = [(1, 0, 7)] ∧ x.per ≠ 0
      ∧ (x.due.filter fun t => t + 1 + (x.phs + x.per - (t + 1) % x.per) % x.per ≤ dieGtc q x.die).length = 1 := by
  decide +kernel

/-- A launch record of one level and its kernel header. -/
def demoRecord : List Byte := leBytes 8 0x2000 ++ leBytes 12 0 ++ leBytes 1 2 ++ leBytes 107 0
/-- The header: the magic number, version 1, 64 bytes, one unit of registers. -/
def demoHeader : List Byte := leBytes 4 0x484B4E58 ++ leBytes 2 1 ++ leBytes 2 64 ++ leBytes 4 0 ++ leBytes 2 1 ++ leBytes 2 1 ++ leBytes 48 0

/-- GridEvents: a pinned grid with a block to place, a block whose tile flag has risen, and a grid that has ended. -/
theorem witness_GridEvents :
    let p := modGrid demo 1 fun g => { g with blocks := 2, core := some 3, hdr := { g.hdr with regi := 1, regm := 1 } }
    let f := modGrid { demo with mem := memPut demo.mem 0x40000800 [1] } 1 fun g => { g with tiles := [1], lrec := { g.lrec with tfa := 0x800 } }
    let e := modGrid demo 1 fun g => { g with live := [] }
    let h := modGrid { demo with gtc := 10 } 1 fun g => { g with live := [], told := some (5, []) }
    (getGrid p 1).status = .running ∧ (getGrid p 1).next < (getGrid p 1).blocks ∧ myTurn p 1 = true
      ∧ chooseCore p 1 (getGrid p 1).next = some 3
      ∧ (getGrid f 1).tiles = [1] ∧ requestsStopped f 0 = false ∧ farBusy f 0 (tableXlat f 0 1 ((getGrid f 1).lrec.tfa + BitVec.ofNat 64 (8 * (getBlock f 1).bid))) = false
      ∧ ctxNat f 0 1 ((getGrid f 1).lrec.tfa + BitVec.ofNat 64 (8 * (getBlock f 1).bid)) 8 = some 1
      ∧ (getBlock f 1).groups = [0]
      ∧ gridDone e 1 = true ∧ (getGrid e 1).told = none ∧ (lastWords e 1).till = 0 ∧ (lastWords e 1).sent = []
      ∧ gridDone h 1 = true ∧ (getGrid h 1).told = some (5, []) ∧ storedPast h (getGrid h 1).die (5, []) = true := by
  decide +kernel

/-- GridEvents: a child whose record and header can be read. -/
theorem witness_GridEvents_child :
    let s := modDie { demo with mem := memPut demo.mem 0x40002000 demoHeader } 0 fun d => { d with pool := [(1, 1, 0x1000, demoRecord)] }
    (getDie s 0).status = .up ∧ (getDie s 0).pool = [(1, 1, 0x1000, demoRecord)] ∧ (getDie s 0).refusing = none
      ∧ frontWaits s (getGrid s 1).part = false
      ∧ (match launchChecked s 0 1 0 .single none [checkBytes s 0 1 ((0x1000 : DWord).toNat % 64 = 0) demoRecord] with
          | .ok r => decide (r.2.length = 1) | .error _ => false) = true := by
  decide +kernel

/-- A block that is saved, in a launch that is being drained, with a save region. -/
def demoSave (st : BlockStatus) : State :=
  let s := modPart { demo with gtc := 70000 } 0 fun p => { p with saveBase := 0x100000, saveSize := 0x100000 }
  let s := modGrid s 1 fun g => { g with status := .draining, deadline := some 70000 }
  modBlock (modGroup s 0 fun x => { x with status := .parked .stopped, range := 0 }) 1 fun b => { b with status := st, sqrs := [[]] }

/-- GridEvents: a block that stands ready to be written, and a free extent. -/
theorem witness_GridEvents_save :
    let s := demoSave .saving
    saveReady s 1 = true ∧ allEnded s 1 = false ∧ findExtent s 0 2624 = some (0x100000, 0x10000) ∧ (extentBytes s 1).length = 2624 := by
  decide +kernel

/-- GridEvents: a block asleep in AWAIT while a claim waits, one whose restore has been granted, rings that have not drained,
a deadline, a save that a handler keeps late, and a contact sheet. -/
theorem witness_GridEvents_due :
    let a := modCore (demoWith fun x => { x with status := .asleep .join 0 1 0 true }) 0 fun c =>
      { c with pools := c.pools.map fun p => { p with queue := [.claim 9 0] } }
    let r := modBlock (demoSave .saved) 1 fun b => { b with restoring := true, saved := [(0, State.fetchGroup)] }
    let u := modBlock (demoSave .resident) 1 fun b => { b with rings := [{ computer := 0, loader := 0, storer := 0, slots := 2 }] }
    let l := modGroup (demoSave .saving) 0 fun x => { x with priv := true }
    let c (n : DWord) := modCtx { demo with cyc := [(0, n)] } 0 1 fun x => { x with sheet := some 0x1000 }
    let since (n : DWord) : Nat := (partClock (c n) 0 - (getCtx (c n) 0 1).sheetAt).toNat
    (getBlock a 1).status = .resident ∧ allEnded a 1 = false ∧ (getBlock a 1).groups = [0]
      ∧ (getGroup a 0).status = .asleep .join 0 1 0 true ∧ (getBlock a 1).cores = [0]
      ∧ ((blockPool a 1 0).map fun p => p.queue) = some [.claim 9 0]
      ∧ restoreReady r 1 = true ∧ frontWaits r (getGrid r (getBlock r 1).grid).part = false ∧ (getGrid u 1).status = .draining ∧ (getGrid u 1).asked + 65536 ≤ dieGtc u (getGrid u 1).die
      ∧ undrained u 1 = true ∧ (getGrid u 1).deadline = some 70000 ∧ 70000 ≤ dieGtc u (getGrid u 1).die
      ∧ (getBlock l 1).status = .saving ∧ (getBlock l 1).late = false ∧ (getBlock l 1).rings = [] ∧ (getGrid l 1).asked + 1024 ≤ dieGtc l (getGrid l 1).die
      ∧ lateHolds l 1 .handler = true ∧ (getBlock u 1).rings ≠ [] ∧ (getBlock u 1).late = false
      ∧ (getCtx (c 0) 0 1).sheet = some 0x1000 ∧ 2 ^ 20 ≤ since (2 ^ 20) ∧ frontWaits (c 0) 0 = false ∧ since (2 ^ 20 - 1) < 2 ^ 20 := by
  decide +kernel

/-! ## Witnesses: commands -/

/-- The admin queue of partition 0, and a host queue of context 1. -/
def adminQ : QRef := { part := 0, ctx := 0, host := true, q := 0 }
def hostQ : QRef := { part := 0, ctx := 1, host := true, q := 1 }

/-- A command entry of some opcode, N, ADDR and VAL. -/
def command (op sub : Nat) (addr val : DWord) : CmdEntry :=
  { op := BitVec.ofNat 8 op, sub := BitVec.ofNat 8 sub, rsv := 0, tag := 7, addr, val, cpl := 0 }

/-- The 32 bytes of an entry. -/
def entryBytes (e : CmdEntry) : List Byte :=
  leBytes 1 e.op.toNat ++ leBytes 1 e.sub.toNat ++ leBytes 2 0 ++ leBytes 4 e.tag.toNat ++ leBytes 8 e.addr.toNat ++ leBytes 8 e.val.toNat
    ++ leBytes 8 e.cpl.toNat

/-- A machine in which an entry stands at the head of a queue whose ring is at 0x8000: a bus address of the admin queue, an
address of context 1 of the other. -/
def commanded (s : State) (q : QRef) (e : CmdEntry) : State :=
  let s := modPart s 0 fun p => { p with negotiated := some (1, 1, 1) }
  let s := modQueue s q fun x => { x with installed := true, base := 0x8000, lcap := 4, tail := 1 }
  { s with mem := memPut s.mem (if q.ctx = 0 then hostKey 0x8000 else 0x40008000) (entryBytes e) }

/-- `Begins`, as a test. -/
def begins (s : State) (q : QRef) (e : CmdEntry) (op n : Nat) : Bool :=
  (match headEntry s q with | some (.ok x) => decide (x = e) | _ => false) && (q.host || deviceEntry e) && e.op.toNat = op
    && e.sub.toNat = n && mayBegin s q e && (commandFault s q e).isNone

theorem begins_iff (s : State) (q : QRef) (e : CmdEntry) (op n : Nat) (h : begins s q e op n = true) : Begins s q e op n := by
  simp only [begins, Bool.and_eq_true, decide_eq_true_eq, Option.isNone_iff_eq_none] at h
  obtain ⟨⟨⟨⟨⟨h1, h2⟩, h3⟩, h4⟩, h5⟩, h6⟩ := h
  refine ⟨?_, h2, h3, h4, h5, h6⟩
  split at h1
  · next x hx => rw [hx, of_decide_eq_true h1]
  · exact (nomatch h1)

/-- CommandsComplete: launches on a queue of context 1; a joint launch of two and of eight records. -/
theorem witness_CommandsComplete_launch :
    let s (n : Nat) := commanded demo hostQ (command 1 n 0x1000 0)
    (∀ n ∈ [0, 1, 2, 8], begins (s n) hostQ (command 1 n 0x1000 0) 1 n = true) ∧ prologueRoom (s 0) hostQ = true
      := by
  decide +kernel

/-- CommandsComplete: a launch whose record, with a header that breaks no rule, has no prologue, and one whose record has. -/
theorem witness_CommandsComplete_records :
    let e := command 1 0 0x1000 0
    let s (r : List Byte) := advanceHead (commanded { demo with mem := memPut (memPut demo.mem 0x40002000 demoHeader) 0x40001000 r } hostQ e) hostQ
    let p := demoRecord.take 96 ++ leBytes 8 0x3000 ++ leBytes 24 0
    (match recordsOf (s demoRecord) hostQ e with
      | some l => l.all plainRecord && (match launchChecked (s demoRecord) 0 1 0 .single (some hostQ) (l.map (checkRecord (s demoRecord) 0 1)) with
          | .ok r => decide (r.2.length = 1) | .error _ => false)
      | none => false) = true
      ∧ (match recordsOf (s p) hostQ e with
        | some l => (match l.dropWhile plainRecord with | some _ :: _ => true | _ => false)
        | none => false) = true := by
  decide +kernel

/-- CommandsComplete: PREEMPT and RESTORE of the grid, whose identifier is 1. -/
theorem witness_CommandsComplete_grid :
    let e := command 1 0x80 1 0
    let r := command 1 0x81 1 0
    let s := commanded demo hostQ e
    let t := modGrid (commanded demo hostQ r) 1 fun g => { g with status := .saved }
    begins s hostQ e 1 0x80 = true ∧ namedGrid (advanceHead s hostQ) hostQ e = some 1
      ∧ begins t hostQ r 1 0x81 = true ∧ namedGrid (advanceHead t hostQ) hostQ r = some 1 ∧ (getGrid t 1).status = .saved := by
  decide +kernel

/-- CommandsComplete: SIGNAL, WAIT and COPY (of no bytes) on a queue of context 1. -/
theorem witness_CommandsComplete_memory :
    let g := command 2 0 0x1008 5
    let w := command 3 0 0x1008 5
    let c := command 4 0 0x1000 0
    let s (e : CmdEntry) := advanceHead (commanded demo hostQ e) hostQ
    begins (commanded demo hostQ g) hostQ g 2 0 = true ∧ (0x1008 : DWord).toNat % 8 = 0
      ∧ (cmdStore (s g) hostQ 0x1008 (leBytes 8 5)).isSome = true
      ∧ begins (commanded demo hostQ w) hostQ w 3 0 = true ∧ (cmdBytes (s w) hostQ 0x1008 8).isSome = true
      ∧ begins (commanded demo hostQ c) hostQ c 4 0 = true ∧ cmdBytes (s c) hostQ 0x1000 32 = some (leBytes 32 0)
      ∧ copyWaits (commanded demo hostQ c) hostQ c = false ∧ ((copySource (s c) hostQ 0 0).map (·.1)) = some []
      ∧ cmdBytes (s c) hostQ 0 0 = some [] ∧ (cmdStore (s c) hostQ 0 []).isSome = true := by
  decide +kernel

/-- A queue descriptor of 16 entries, at 0x1000 of the group's page; a trap descriptor, and an aperture entry. -/
def queueDesc : List Byte := leBytes 8 0x10000 ++ leBytes 24 4
def trapDesc : List Byte := leBytes 8 0x40 ++ leBytes 8 0x4000 ++ leBytes 16 0

/-- CommandsComplete: the MAP commands, on the admin queue, for context 1 or 63. -/
theorem witness_CommandsComplete_map :
    let one : DWord := 0x0100000000000000
    let s (e : CmdEntry) (b : List Byte) := commanded { demo with mem := memPut demo.mem 0x40001000 b } adminQ e
    let c := command 5 0 0x100000 63
    let q := command 5 1 0x1000 (one + 0x101)
    let sh := command 5 2 0x1000 one
    let a := command 5 3 0x1000 63
    let d := command 5 4 0x1000 one
    let r := command 5 5 0x10000 0x10000
    begins (s c []) adminQ c 5 0 = true ∧ ctxExists (s c []) 0 63 = false
      ∧ begins (s q queueDesc) adminQ q 5 1 = true ∧ namedQueue adminQ q = hostQ ∧ ctxExists (s q queueDesc) 0 1 = true
      ∧ ctxBytes (advanceHead (s q queueDesc) adminQ) 0 1 0x1000 32 = some queueDesc ∧ recNat queueDesc 0x0A 1 / 2 = 0
      ∧ recNat queueDesc 0x0B 1 = 0 ∧ recNat queueDesc 0x14 12 = 0 ∧ queueOk (advanceHead (s q queueDesc) adminQ) hostQ queueDesc 0 = true
      ∧ begins (s sh []) adminQ sh 5 2 = true ∧ begins (s a []) adminQ a 5 3 = true
      ∧ physBytes (advanceHead (s a []) adminQ) 0 0x1000 16 = some (leBytes 16 0) ∧ q.val.toNat / 65536 % 4096 ≤ 256 ∧ recNat trapDesc 26 2 ≤ 256
      ∧ begins (s d trapDesc) adminQ d 5 4 = true ∧ ctxBytes (advanceHead (s d trapDesc) adminQ) 0 1 0x1000 32 = some trapDesc
      ∧ recNat trapDesc 0x19 1 = 0 ∧ recNat trapDesc 0x1C 4 = 0 ∧ recNat trapDesc 0 8 % 64 = 0 ∧ recNat trapDesc 8 8 % 16384 = 0
      ∧ recNat trapDesc 16 8 = 0
      ∧ begins (s r []) adminQ r 5 5 = true ∧ (getPart (s r []) 0).extents = [] ∧ inHbm (getPart (s r []) 0) 0x10000 0x10000 = true := by
  decide +kernel

/-- CommandsComplete: the UNMAP commands. -/
theorem witness_CommandsComplete_unmap :
    let one : DWord := 0x0100000000000000
    let r := command 6 0 0x10000 0x10000
    let c := command 6 1 0 1
    let q := command 6 2 0 (one + 0x101)
    let a := command 6 3 0 63
    let s := commanded demo hostQ r
    let t := modQueue (commanded demo adminQ q) hostQ fun x => { x with installed := true }
    let u := modPart (commanded demo adminQ a) 0 fun p => { p with aps := [(63, { valid := true })] }
    begins s hostQ r 6 0 = true ∧ accessesLeft { s with wbs := [] } 0 (some 1) (unmapReaches s hostQ r) = false
      ∧ (s.cores.any fun c => c.2.gather.any fun h => h.2.part = 0 && h.2.ctx = 1 && unmapReaches s hostQ r h.2.va) = false
      ∧ begins (commanded demo adminQ c) adminQ c 6 1 = true ∧ ctxExists (commanded demo adminQ c) 0 1 = true
      ∧ ((getPart (advanceHead (commanded demo adminQ c) adminQ) 0).queues.any fun x => x.1.ctx = 1 && x.2.installed && !x.2.closed
          && !(x.1.host && decide (1 = 0) && x.1.q = 0)) = false ∧ ctxLeft (commanded demo adminQ c) 0 1 = false
      ∧ begins t adminQ q 6 2 = true ∧ (getQueue (advanceHead t adminQ) hostQ).installed = true
      ∧ begins u adminQ a 6 3 = true ∧ (mapGet {} (getPart (advanceHead u adminQ) 0).aps 63).valid = true := by
  decide +kernel

/-- CommandsComplete: a merge of quarters 0 and 1, of which the second is another partition; a split of quarter 0 or of the pair
0 and 1 from a partition of two or four. -/
theorem witness_CommandsComplete_partition :
    let m := command 7 1 0 0b11
    let k := command 7 2 0 1
    let four := command 7 2 0 0b11
    let half (b : BitVec 4) (s : State) : State := modPart s 0 fun p => { p with mask := b }
    let s := modPart (half 1 (commanded demo adminQ m)) 1 fun p => { p with live := true, mask := 0b10 }
    let t := half 0b11 (commanded demo adminQ k)
    let u := commanded demo adminQ four
    begins s adminQ m 7 1 = true ∧ isPartitionMask 0b11 = true ∧ partnerOf (advanceHead s adminQ) 0 0b11 = some 1
      ∧ (getPart (advanceHead s adminQ) 1).change = none ∧ (getPart (advanceHead s adminQ) 1).making = none
      ∧ begins t adminQ k 7 2 = true ∧ isPartitionMask 1 = true ∧ isPartitionMask (0b11#4 &&& ~~~1#4) = true
      ∧ partBusy (advanceHead t adminQ) 0 = false ∧ partUnsettled (advanceHead t adminQ) 0 = false
      ∧ begins u adminQ four 7 2 = true ∧ isPartitionMask (0b1111#4 &&& ~~~0b11#4) = true ∧ partBusy (advanceHead u adminQ) 0 = false := by
  decide +kernel

/-- CommandsComplete: the second of the two merge commands, whose partner waits. -/
theorem witness_CommandsComplete_merge :
    let m := command 7 1 0 0b11
    let aq : QRef := { adminQ with part := 1 }
    let s := modPart (commanded demo adminQ m) 0 fun p => { p with mask := 1 }
    let s := modPart s 1 fun p => { p with live := true, mask := 0b10, change := some (0, 0b11) }
    let s := modQueue s aq fun x => { x with installed := true, busy := [(m, .merge)] }
    let t := advanceHead s adminQ
    begins s adminQ m 7 1 = true ∧ partnerOf t 0 0b11 = some 1 ∧ (getPart t 1).change = some (0, 0b11) ∧ partBusy t 0 = false
      ∧ partBusy t 1 = false ∧ partUnsettled t 0 = false ∧ partUnsettled t 1 = false ∧ aq = adminOf 1 ∧ busyWith t aq (fun r => r = .merge) = some (m, .merge) := by
  decide +kernel

/-- CommandsComplete: ATTEST, VERSION at its two ends, RESET and LOG. -/
theorem witness_CommandsComplete_admin :
    let a := command 8 0 0x1000 4
    let v := command 9 0 0x1000 0
    let c := command 10 0 0 1
    let p := command 10 1 0 0
    let f := command 10 2 0x1000 0
    let l := command 11 0 0x1000 64
    let z := modPart demo 0 fun p => { p with ctxs := p.ctxs ++ [(0, { root := some 0 })] }
    let ver (n : Nat) := commanded { demo with mem := memPut demo.mem (hostKey 0x1000) (leBytes 2 n ++ leBytes 2 1 ++ leBytes 2 1 ++ leBytes 2 0) } adminQ v
    begins (commanded z adminQ a) adminQ a 8 0 = true ∧ (cmdBytes (advanceHead (commanded z adminQ a) adminQ) adminQ 0x1000 4).isSome = true
      ∧ begins (ver 1) adminQ v 9 0 = true ∧ begins (ver 3) adminQ v 9 0 = true
      ∧ versionBlock (advanceHead (ver 1) adminQ) adminQ v = some [1, 0, 1, 0, 1, 0, 0, 0]
      ∧ versionBlock (advanceHead (ver 3) adminQ) adminQ v = some [3, 0, 1, 0, 1, 0, 0, 0]
      ∧ begins (commanded demo adminQ c) adminQ c 10 0 = true ∧ begins (commanded demo adminQ p) adminQ p 10 1 = true
      ∧ ctxExists (advanceHead (commanded demo adminQ c) adminQ) 0 1 = true ∧ ctxOpen (commanded demo adminQ c) 0 1 = true
      ∧ (getPart demo 0).ctxs.map (·.1) = [1] ∧ ctxOpen (stopGrid demo 1) 0 1 = false ∧ ctxLeft (stopGrid demo 1) 0 1 = false
      ∧ begins (commanded demo adminQ f) adminQ f 10 2 = true ∧ (getPart (commanded demo adminQ f) 0).mask = 0b1111#4
      ∧ physBytes (advanceHead (commanded demo adminQ f) adminQ) 0 0x1000 256 = some (leBytes 256 0) ∧ recNat (leBytes 256 0) 8 4 = 0
      ∧ begins (commanded demo adminQ l) adminQ l 11 0 = true ∧ (cmdStore (advanceHead (commanded demo adminQ l) adminQ) adminQ 0x1000 []).isSome = true
      ∧ (getPart (commanded demo adminQ l) 0).log = [] := by
  decide +kernel

/-- CommandsComplete: a WAIT whose word has come, a COPY whose stores are done, and a merge whose partner has not come. -/
theorem witness_CommandsComplete_due :
    let e := command 3 0 0x1008 0
    let busy (q : QRef) (r : Running) : State := modQueue { demo with gtc := 10 ^ 9 } q fun x => { x with installed := true, busy := [(e, r)] }
    let s := busy hostQ (.wait 0x1008 0)
    let t := busy hostQ (.stores 0 0 5 [])
    let m := modPart (busy adminQ .merge) 0 fun p => { p with change := some (0, 0b11) }
    busyWith s hostQ (fun r => match r with
          | .wait a v => !requestsStopped s 0 && !farBusy s 0 (tableXlat s 0 1 a)
              && (match cmdBytes s hostQ a 8 with | some b => v.toNat ≤ leNat b | none => false)
          | _ => false) = some (e, .wait 0x1008 0)
      ∧ busyWith t hostQ (fun r => match r with | .stores _ _ x ids => !requestsStopped t 0 && (x = 0 || timePast t 0 x) && acked t 0 ids | _ => false) = some (e, .stores 0 0 5 [])
      ∧ (getPart m 0).change = some (0, 0b11) ∧ busyWith m adminQ (fun r => r = .merge) = some (e, .merge)
      ∧ 0 + 10 ^ 9 ≤ dieGtc m (getQueue m adminQ).die := by
  decide +kernel

/-! ## Witnesses: the host, the fabric and errors -/

/-- HostAndSafelight: the last queue of the last function and context, a ring that is full after the doorbell, and power. -/
theorem witness_HostAndSafelight :
    let q : QRef := { part := 3, ctx := 63, host := true, q := 3 }
    let s := modQueue demo q fun x => { x with installed := true, lcap := 4 }
    let d (fn : Nat) := getPart (discardBegun demo (adminOf fn)) fn
    (3 : Nat) < 4 ∧ (63 : Nat) < 64 ∧ (getQueue s q).installed = true ∧ (getQueue s q).closed = false
      ∧ ((16 : Word) - (getQueue s q).head).toNat ≤ 2 ^ (getQueue s q).lcap ∧ demo.hub.power = .up
      ∧ (d 0).live = true ∧ (d 3).live = false ∧ (getPart (resetFunction demo 0) 0).leaving = false ∧ demo.hub.defaults = []
      ∧ (getPart demo 0).aqctl.getLsbD 8 = false ∧ (0x1000110 : DWord).getLsbD 8 = true ∧ (0x1000110 : DWord).toNat % 32 = 16
      ∧ (0x1000110 : DWord).toNat / 65536 % 4096 = 256 ∧ (getPart demo 0).aqbase.toNat % 4096 = 0
      ∧ (∀ e ∈ (getPart (modPart demo 0 fun p => { p with queues := [(adminOf 0, {})] }) 0).queues, e.1.host = true)
      ∧ (mapFind demo.dies 7).isSome = true ∧ SpdmPort.attest ≠ .safelight := by
  decide +kernel

/-- A request from another module that an inbound entry admits. -/
def demoReq : FabReq := { module := 5, fn := 1, die := 2, life := 0, seq := 0, addr := 0x1000, op := .atomx 3 }

/-- The machine with that inbound entry. -/
def demoFab : State := modPart demo 0 fun p => { p with aps := [(0, { module := 5, fn := 1, valid := true, inbound := true })] }

/-- FabricAndErrors: a request of a source from which none has come, one that has come before, one that comes early, and one that this
module has sent. -/
theorem witness_FabricAndErrors :
    let s := demoFab
    let t : State := setSource s { module := 5, die := 2, life := 0, next := 1 }
    let early : FabReq := { demoReq with seq := 2 ^ 31 - 1 }
    let x : Sent := { id := 3, part := 0, module := 5, fn := 1, die := 0, life := 0, seq := 1, addr := 0, op := .load 4, load := none, store := none,
                      ap := 0, vers := (1, 0), since := 0 }
    let u : State := { (modPart s 0 fun p => { p with aps := [(0, { module := 5, fn := 1, valid := true })] }) with sent := [x], gtc := 20000 }
    demoReq.module ≠ s.hub.number ∧ inboundFrom s 0 demoReq.module demoReq.fn = true ∧ inHbm (getPart s 0) demoReq.addr.toNat (atomBytes demoReq.op) = true
      ∧ arrivedBefore (sourceOf t demoReq) demoReq.seq = true ∧ (sourceOf s demoReq).held = [] ∧ demoReq.seq = (sourceOf s demoReq).next
      ∧ (early.seq - (sourceOf s early).next).toNat < 2 ^ 31 ∧ early.seq ≠ (sourceOf s early).next
      ∧ lockedFor s (lineOf (memKey 0 0x1000)) none = false ∧ homeBusy s (memKey 0 0x1000) = false
      ∧ poisoned s (memKey 0 0x1000) (atomBytes demoReq.op) = false
      ∧ u.sent.find? (fun y => y.id = 3) = some x ∧ onTheWay u x = true ∧ x.module ≠ u.hub.number ∧ x.since + 20000 ≤ hubGtc u
      ∧ u.sent.find? (fun y => y.id = 4) = none
      ∧ u.sent.find? (fun x => x.part = 0 && x.module ≠ u.hub.number && !routed u x) = some x
      ∧ (mapGet {} (getPart u 0).aps x.ap).valid = true ∧ (mapGet {} (getPart u 0).aps x.ap).inbound = false
      ∧ (7 : Nat) < 8 ∧ (getDie s 7).life ≠ 1 := by
  decide +kernel

/-- FabricAndErrors: links, targets and tables in each of their conditions. -/
theorem witness_FabricAndErrors_links :
    let s := setLink demo 31 { fails := 2 }
    let d := setLink demo 31 { down := true, fails := 3 }
    let u : State := { demo with unreach := [5] }
    let v : State := { demo with gtc := 10000000 }
    let t := modPart { demo with gtc := 100000 } 0 fun p => { p with inter := { pending := some 0 }, region := { pending := some 0 } }
    (31 : Nat) < 32 ∧ (getLink demo 31).down = false ∧ (getLink demo 31).fails < 2 ∧ (getLink s 31).down = false ∧ (getLink s 31).fails = 2
      ∧ (getLink d 31).down = true ∧ 0 < (getLink s 31).fails ∧ v.unreach.contains 5 = false ∧ mapGet 0 v.carried 5 + 10000000 ≤ hubGtc v ∧ u.unreach.contains 5 = true
      ∧ (tableOf t 0 0).pending = some 0 ∧ (tableOf t 0 1).pending = some 0 ∧ partDrained t 0 = true
      ∧ 0 + 100000 ≤ hubGtc t := by
  decide +kernel

/-- FabricAndErrors: dies in each of their conditions, counters, stacks and the clock. -/
theorem witness_FabricAndErrors_dies :
    let h := modDie { demo with gtc := 1000000 } 7 fun d => { d with hold := true, holdAt := 0 }
    let k : State := { demo with gtc := 10000000 }
    let b := modDie { demo with gtc := 10 ^ 9 - 1 } 7 fun d => { d with bite := some 0 }
    let r := modDie { demo with gtc := 50000000 } 7 fun d => { d with status := .resetting, resetAt := some 0 }
    let f := modDie { demo with gtc := 50000001 } 7 fun d => { d with status := .resetting, resetAt := some 0 }
    let c : State := { demo with hub := { demo.hub with clock := 1900 } }
    (getDie demo 7).status = .up ∧ (getDie demo 7).hold = false ∧ (getDie demo 7).bite = none ∧ (getDie h 7).hold = true ∧ hubGtc h ≤ (getDie h 7).holdAt + 1000000
      ∧ (getDie k 7).status = .up ∧ (getDie k 7).bite = none ∧ (getDie k 7).dogAt + 10000000 ≤ hubGtc k
      ∧ (getDie b 7).dogAt + 10000000 ≤ hubGtc b
      ∧ (getDie b 7).bite = some 0 ∧ hubGtc b < 0 + 10 ^ 9 ∧ (getDie b 7).status = .up
      ∧ (getDie r 7).status = .resetting ∧ (getDie r 7).resetAt = some 0 ∧ hubGtc r ≤ 0 + 50000000 ∧ 0 + 50000000 < hubGtc f
      ∧ (getPart demo 0).live = true ∧ 11 < 12 ∧ demo.hub.stacksFailed.getLsbD 11 = false ∧ demo.hub.power = .up
      ∧ 1000 < demo.hub.clock ∧ c.hub.clock < 2000 ∧ c.hub.issueOf16 = 16 := by
  decide +kernel

/-- FabricAndErrors: each site of an uncorrectable error with an owner and without one, a clock at its floor, and issue withheld. -/
theorem witness_FabricAndErrors_sites :
    let x : Copy := { bytes := [(0, 1)], expiry := some 5 }
    let s := setCopy demo 0 3 x
    let t := modCore demo 0 fun k => { k with token := some 1 }
    let e : Elem := { g := 0, uid := 1, grid := 1, block := 1, lane := 0, toLat := true, glob := 0, lat := 0, len := 16, bar := none
                      core := 0, chan := 0, pc := 0, word := 0, part := 0, ctx := 1 }
    let u : State := { demo with elems := [(4, e)] }
    let c : State := { demo with hub := { demo.hub with clock := 1000, issueOf16 := 2 } }
    let own (n : Nat) := demo.blocks.find? fun e => e.2.here && (e.2.sqrs.getD (memberOn e.2 0) []).contains n && e.2.cores.contains 0
    (getGroup demo 0).status.live = true ∧ (groupBlock demo 0).here = true ∧ (own 1).map (·.1) = some 1 ∧ own 127 = none
      ∧ (getCore t 0).token = some 1 ∧ (getCore demo 0).token = none ∧ Machine.getElem u 4 = some e ∧ e.done = false ∧ (getBlock demo 1).here = true
      ∧ getCopy s 0 3 = some x ∧ homeDie demo (128 * 0) = 4 ∧ homeDie demo (128 * 0) ≠ 7 ∧ ClockCause.power ≠ .withhold
      ∧ c.hub.clock ≤ 1000 ∧ 1 < c.hub.issueOf16 ∧ c.hub.issueOf16 < 16 := by
  decide +kernel

end Sys2Proof.Slice0
end

section
/-! PROOFS. What an instruction that computes values leaves behind, said once through `Computed`, and the statements about the
register zeros (R10, R154, R341), the comparisons, SEL and LI (R140 to R142). -/

namespace Sys2Proof.Stated

open Sys2Proof Sys2Proof.Machine

/-! ## The frame of a result -/

/-- Changes of the result fields, one after the other, are one such change. -/
theorem OnlyResults.trans {x y z : Group} (hy : OnlyResults x y) (hz : OnlyResults y z) : OnlyResults x z := by
  unfold OnlyResults at *
  rw [hy] at hz
  exact hz

theorem onlyResults_vPut (g : Group) (n : Nat) (pair : Bool) (m : LaneMask) (x : Nat → DWord) :
    OnlyResults g (vPut g n pair m x) := by
  cases pair <;> rfl

theorem onlyResults_sWrite (h : Bool) (g : Group) (n : Nat) (x : DWord) : OnlyResults g (sWrite h g n x) := by
  unfold sWrite
  split
  · rfl
  · split <;> rfl

theorem onlyResults_pWrite (g : Group) (n : Nat) (m x : LaneMask) : OnlyResults g (pWrite g n m x) := by
  unfold pWrite
  split <;> rfl

theorem onlyResults_advance (g : Group) (len : Nat) (reads result : Bool) (push : Option Latch) :
    OnlyResults g (advance g len reads result push) := rfl

/-- A destination write changes register files only, whatever the destination. -/
theorem onlyResults_putD (s : State) (g : Group) (f : XForm) (u pair : Bool) (x : Nat → DWord) :
    OnlyResults g (putD s g f u pair x) := by
  unfold putD
  cases f.d with
  | v n => exact onlyResults_vPut ..
  | s n =>
    dsimp only
    split
    · exact onlyResults_sWrite ..
    · rfl
  | p n => exact onlyResults_pWrite ..
  | _ => rfl

theorem onlyResults_performed (s : State) (f : XForm) (k : Issue) (u pair : Bool) (y : Nat → DWord) (fl : FFlags) :
    OnlyResults (curGroup s) (performed s f k u pair y fl) :=
  have flags (g : Group) (e : DWord) : OnlyResults g { g with fpflags := e } := rfl
  (onlyResults_putD ..).trans ((flags _ _).trans (onlyResults_advance ..))

/-! ## The bank that is not seen (R341) -/

theorem otherBank_sWrite (h : Bool) (g : Group) (n : Nat) (x : DWord) : OtherBank h g (sWrite h g n x) := by
  unfold OtherBank sWrite
  by_cases hn : n = 0
  · simp [hn]
  · cases h with
    | false => simp [hn]
    | true =>
      by_cases h88 : 88 ≤ n
      · simp [hn, h88]
      · refine ⟨(nomatch ·), fun _ m hm => ?_⟩
        have : m ≠ n := by omega
        simp [hn, h88, this]

/-- A destination write leaves the other bank alone: only a scalar destination writes scalars. -/
theorem otherBank_putD (s : State) (g : Group) (f : XForm) (u pair : Bool) (x : Nat → DWord) :
    OtherBank (hidden s s.cur) g (putD s g f u pair x) := by
  have same {y : Group} (hs : y.s = g.s) (hh : y.hs = g.hs) : OtherBank (hidden s s.cur) g y :=
    ⟨fun _ => hh, fun _ n _ => by rw [hs]⟩
  unfold putD
  cases f.d with
  | v n => exact same (vPut_s ..) (vPut_hs ..)
  | s n =>
    dsimp only
    split
    · exact otherBank_sWrite ..
    · exact same rfl rfl
  | p n => exact same (pWrite_s ..) (pWrite_hs ..)
  | _ => exact same rfl rfl

/-! ## Instructions that compute values complete as `Computed` says -/

/-- `performed` is the group that `Computed` describes. -/
theorem computed_performed (s : State) (f : XForm) (k : Issue) (u pair : Bool) (y : Nat → DWord) (fl : FFlags) :
    Computed s f k u pair y fl (.next (setCur s (performed s f k u pair y fl))) := by
  refine ⟨performed s f k u pair y fl, rfl, fun n i hi => ?vector, fun n => ?scalar, fun n i hi => ?pred, ?pc, rfl, ?latches,
    ?bank, onlyResults_performed ..⟩
  case vector => exact vRead_putD s (curGroup s) f u pair y n i hi
  case scalar => exact sRead_putD s (curGroup s) f u pair y n
  case pred => exact pRead_putD s (curGroup s) f u pair y n i hi
  case pc => simp [performed]
  case latches => simp [performed, latchesAfter, advance]
  case bank => exact otherBank_putD s (curGroup s) f u pair y

/-- An instruction that raises no flag completes, whatever flags are enabled. -/
theorem computed_performAt_of_no_flag {s : State} {f : XForm} {k : Issue} (m : Mode) (pair : Bool) (y : Nat → DWord) (h : Passes s k) :
    Computed s f k (uniform m f) pair y 0 (performAt s f k m pair fun i => (y i, 0)) := by
  rw [performAt_next h (by rw [flagsOf_zero]; exact enabledFlags_zero _), flagsOf_zero]
  exact computed_performed ..

/-! ## The tables of the instructions of one shape -/

theorem exec_of_compareOf {i : Instr} {f : XForm} {len : Nat} (h : compareOf i = some (f, len)) (s : State) :
    exec i s = compare s f len := by
  unfold compareOf at h
  split at h <;> cases h <;> rfl

theorem exec_of_predicateOf {i : Instr} {f : XForm} {len : Nat} {op : Bool → Bool → Bool}
    (h : predicateOf i = some (f, len, op)) (s : State) : exec i s = predicate s f len op := by
  unfold predicateOf at h
  split at h <;> cases h <;> rfl

/-- A predicate instruction computes its operation on the bits of its sources (R153). -/
theorem computed_of_predicateOf {s : State} {i : Instr} {f : XForm} {len : Nat} {op : Bool → Bool → Bool}
    (h : predicateOf i = some (f, len, op)) (hp : Passes s (xIssue f len none)) :
    Computed s f (xIssue f len none) (uniform .auto f) false
      (fun j => if op (predBit (curGroup s) f.a j) (predBit (curGroup s) f.b j) then 1 else 0) 0 (exec i s) := by
  rw [exec_of_predicateOf h]
  exact computed_performAt_of_no_flag .auto false _ hp

/-! ## Predicates after an instruction (R115, R116, R154) -/

theorem Computed.exists_next_pRead {s : State} {f : XForm} {k : Issue} {u pair : Bool} {y : Nat → DWord} {fl : FFlags} {o : Out}
    (h : Computed s f k u pair y fl o) :
    ∃ t, o = .next t ∧ ∀ n i, i < 128 → (pRead (curGroup t) n).getLsbD i = predAfter (curGroup s) f u y n i := by
  obtain ⟨g, ho, -, -, hp, -⟩ := h
  exact ⟨setCur s g, ho, by rwa [curGroup_setCur]⟩

/-- Under a zero execute mask no lane is written, uniform or not. -/
theorem writes_of_xm_zero {g : Group} (h : g.xm = 0) (f : XForm) (u : Bool) : writes g f u = 0 := by
  simp [writes, live, h]

theorem predAfter_of_writes_zero {g : Group} {f : XForm} {u : Bool} (h : writes g f u = 0) (y : Nat → DWord) (n i : Nat) :
    predAfter g f u y n i = (pRead g n).getLsbD i := by
  unfold predAfter
  rw [h]
  cases f.d <;> simp

/-- With no lane in `xm` every predicate stays as it was. -/
theorem Computed.predicates_kept {s : State} {f : XForm} {k : Issue} {u pair : Bool} {y : Nat → DWord} {fl : FFlags} {o : Out}
    (h : Computed s f k u pair y fl o) (hx : (curGroup s).xm = 0) :
    ∃ t, o = .next t ∧ ∀ n j, j < 128 → (pRead (curGroup t) n).getLsbD j = (pRead (curGroup s) n).getLsbD j := by
  obtain ⟨t, ht, hr⟩ := h.exists_next_pRead
  exact ⟨t, ht, fun n j hj => by rw [hr n j hj, predAfter_of_writes_zero (writes_of_xm_zero hx f u)]⟩

/-- A predicate destination whose every lane is due the bit `c` reads `c` in the lanes written. -/
theorem predAfter_of_bit {g : Group} {f : XForm} {u : Bool} {y : Nat → DWord} {d : Fin 16} {c : Bool} (hd : f.d = .p d)
    (h0 : d.val ≠ 0) (hy : ∀ j, j < 128 → (y j).getLsbD 0 = c) {i : Nat} (hi : i < 128) :
    predAfter g f u y d.val i = if (writes g f u).getLsbD i then c else (pRead g d.val).getLsbD i := by
  have hl : (laneGets g u y i).getLsbD 0 = c := by
    cases u with
    | false => exact hy i hi
    | true => exact hy (lu g) (lu_lt g)
  simp only [predAfter, hd, hl, h0, true_and, ne_eq, not_false_eq_true]

/-- `p0` reads one in every lane. -/
theorem predBit_p_zero (g : Group) {j : Nat} (hj : j < 128) : predBit g (.p 0) j = true :=
  BitVec.getLsbD_allOnes.trans (decide_eq_true hj)

/-! ## Scalars of the other bank -/

theorem sRead_false_sWrite_true (g : Group) {n : Nat} (m : Nat) (x : DWord) (h : 88 ≤ n) :
    sRead false (sWrite true g n x) m = sRead false g m := by
  have hn : n ≠ 0 := by omega
  simp [sRead, sWrite, hn, h]

end Sys2Proof.Stated

namespace Sys2Proof.Proofs

open Sys2Proof Sys2Proof.Machine Sys2Proof.Stated

/-! ## Register zeros -/

/-- A predicate instruction whose operation comes to the bit `c` in every lane writes `c` in its lanes and keeps the others. -/
theorem predicate_writes_bit {s : State} {i : Instr} {f : XForm} {len : Nat} {op : Bool → Bool → Bool} {n : Fin 16} {c : Bool}
    (ho : predicateOf i = some (f, len, op)) (hd : f.d = .p n) (h0 : n.val ≠ 0) (hp : Passes s (xIssue f len none))
    (hc : ∀ j, j < 128 → op (predBit (curGroup s) f.a j) (predBit (curGroup s) f.b j) = c) :
    ∃ t, exec i s = .next t ∧ ∀ j, j < 128 → (pRead (curGroup t) n.val).getLsbD j =
      if (writes (curGroup s) f (uniform .auto f)).getLsbD j then c else (pRead (curGroup s) n.val).getLsbD j := by
  obtain ⟨t, ht, hr⟩ := (computed_of_predicateOf ho hp).exists_next_pRead
  refine ⟨t, ht, fun j hj => ?_⟩
  rw [hr n.val j hj, predAfter_of_bit hd h0 (fun j hj => ?_) hj]
  rw [hc j hj]
  cases c <;> rfl

/-- Settles O15: PXOR of a predicate with itself and POR with `p0` compute one bit that is the same in every lane; the lanes that
receive it are `writes`, with `.uni` those of `xm` (log entry 42); a scalar write reaches the bank that the group sees only. -/
theorem registerZeros : Obligations.RegisterZeros := by
  unfold Obligations.RegisterZeros
  refine ⟨⟨pRead_zero, pWrite_zero, fun s i f k hi hx hp _ => ?zeroMask⟩, ?sameBit,
    sRead_zero, sWrite_zero, fun h g n m x hn => ?readBack, fun g n m x h => sRead_false_sWrite_true g m x h⟩
  case zeroMask =>
    obtain ⟨len, op, ho, rfl⟩ | ⟨rfl, rfl⟩ := hi
    · exact (computed_of_predicateOf ho hp).predicates_kept hx
    · exact (computed_performAt_of_no_flag .auto false _ hp).predicates_kept hx
  case sameBit =>
    intro s i f len op n ho hd h0 hp
    refine ⟨fun hop hab => ?clear, fun hop hab => ?set⟩
    case clear =>
      obtain ⟨t, ht, hr⟩ := predicate_writes_bit (c := false) ho hd h0 hp fun j _ => by simp [hop, hab]
      exact ⟨t, ht, fun j hj => by rw [hr j hj]; cases (writes _ _ _).getLsbD j <;> simp⟩
    case set =>
      obtain ⟨t, ht, hr⟩ := predicate_writes_bit (c := true) ho hd h0 hp fun j hj => by
        rcases hab with ha | hb
        · simp [hop, ha, predBit_p_zero _ hj]
        · simp [hop, hb, predBit_p_zero _ hj]
      exact ⟨t, ht, fun j hj => by rw [hr j hj]; cases (writes _ _ _).getLsbD j <;> simp⟩
  case readBack => simp [sRead_sWrite, hn]

/-! ## Comparisons, SEL and LI -/

/-- Settles O19: each is `performAt` of a value that raises no flag, and FN selects the same relation in `cmpInt`; with `.uni` LI takes the
value at lane L (log entry 42). -/
theorem compareSelectAffine : Obligations.CompareSelectAffine := by
  unfold Obligations.CompareSelectAffine
  refine ⟨?compare, ?selectAffine⟩
  case compare =>
    intro s i f len hi hp g w sg p rel
    have hrel (a b : Int) : cmpInt f.fn.toNat a b = rel a b := by
      simp only [rel]
      split
      case h_6 h0 h1 h2 h3 h4 => simp only [cmpInt, if_neg h0, if_neg h1, if_neg h2, if_neg h3, if_neg h4, ge_iff_le]
      all_goals simp [cmpInt, *]
    simp only [← hrel]
    rw [exec_of_compareOf hi]
    exact computed_performAt_of_no_flag .auto p _ hp
  case selectAffine =>
    intro s f hp g p
    refine ⟨fun n ha => ?sel, ?li⟩
    case sel =>
      have hbit (j : Nat) : (pRead g n.val).getLsbD j = predBit g f.a j := by rw [ha]; rfl
      simp only [hbit]
      exact computed_performAt_of_no_flag .auto p _ hp
    case li => exact computed_performAt_of_no_flag .auto false _ hp

end Sys2Proof.Proofs
end

section
/-! PROOFS. What work at homes and over the fabric leaves alone of grids, blocks and groups, and the statement about the events of grids
and blocks (R33, R37, R275, R276, R280, R293 to R299). -/

namespace Sys2Proof.Stated

open Sys2Proof Sys2Proof.Machine

/-! ## Tables changed entry by entry -/

theorem mapFind_map {α β : Type} (m : AMap α) (f : α → β) (k : Nat) :
    mapFind (m.map fun e => (e.1, f e.2)) k = (mapFind m k).map f := by
  induction m with
  | nil => rfl
  | cons e r ih =>
    simp only [List.map_cons, mapFind, ih]
    split <;> rfl

/-! ## What work at the homes leaves alone -/

/-- A group that sleeps on no event. -/
def Awake (x : Group) : Prop := ∀ e o p r a, x.status ≠ .asleep e o p r a

/-- Work at homes and over the fabric may advance the monitors of groups, which wakes sleeping ones, and forward bytes to them: no
grid changes, no block gains or loses a group or changes its state, and every group that does not sleep keeps its status. -/
structure HomeWork (s t : State) : Prop where
  cur : t.cur = s.cur
  grids : t.grids = s.grids
  slots : ∀ b, (getBlock t b).groups = (getBlock s b).groups
  stand : ∀ b, (getBlock t b).status = (getBlock s b).status
  awake : ∀ h, Awake (getGroup s h) → (getGroup t h).status = (getGroup s h).status

theorem HomeWork.of_eq {s t : State} (hc : t.cur = s.cur) (hg : t.grids = s.grids) (hb : t.blocks = s.blocks) (hx : t.groups = s.groups) :
    HomeWork s t := by
  refine ⟨hc, hg, fun b => ?_, fun b => ?_, fun h _ => ?_⟩ <;> simp only [getBlock, getGroup, hb, hx]

theorem HomeWork.refl (s : State) : HomeWork s s := .of_eq rfl rfl rfl rfl

theorem HomeWork.trans {s t u : State} (h : HomeWork s t) (k : HomeWork t u) : HomeWork s u where
  cur := k.cur.trans h.cur
  grids := k.grids.trans h.grids
  slots b := (k.slots b).trans (h.slots b)
  stand b := (k.stand b).trans (h.stand b)
  awake g a := (k.awake g fun e o p r b => by rw [h.awake g a]; exact a e o p r b).trans (h.awake g a)

/-- Work after a change that touches neither groups, blocks nor grids. -/
theorem HomeWork.after {s s' t : State} (h : HomeWork s' t) (hc : s'.cur = s.cur) (hg : s'.grids = s.grids) (hb : s'.blocks = s.blocks)
    (hx : s'.groups = s.groups) : HomeWork s t := (HomeWork.of_eq hc hg hb hx).trans h

/-- Work before a change that touches neither groups, blocks nor grids. -/
theorem HomeWork.before {s t t' : State} (h : HomeWork s t) (hc : t'.cur = t.cur) (hg : t'.grids = t.grids) (hb : t'.blocks = t.blocks)
    (hx : t'.groups = t.groups) : HomeWork s t' := h.trans (.of_eq hc hg hb hx)

theorem HomeWork.foldl {α : Type} {f : State → α → State} (h : ∀ s a, HomeWork s (f s a)) (l : List α) (s : State) :
    HomeWork s (l.foldl f s) := by
  induction l generalizing s with
  | nil => exact .refl s
  | cons a r ih => exact (h s a).trans (ih _)

/-! ### Groups by identity -/

theorem HomeWork.modGroup (s : State) (g : Nat) {f : Group → Group} (h : ∀ x, Awake x → (f x).status = x.status) :
    HomeWork s (modGroup s g f) := by
  refine ⟨rfl, rfl, fun b => rfl, fun b => rfl, fun k a => ?_⟩
  by_cases e : k = g
  · subst e; rw [getGroup_modGroup_same]; exact h _ a
  · rw [getGroup_modGroup_ne _ _ e]

theorem HomeWork.modUid (s : State) (uid : Nat) {f : Group → Group} (h : ∀ x, Awake x → (f x).status = x.status) :
    HomeWork s (modUid s uid f) := by
  unfold Machine.modUid
  split
  · exact .modGroup s _ h
  · have hb (b : Nat) (k : Block → Block) : mapGet {} (s.blocks.map fun e => (e.1, k e.2)) b = ((mapFind s.blocks b).map k).getD {} := by
      rw [mapGet, mapFind_map]
    refine ⟨rfl, rfl, fun b => ?_, fun b => ?_, fun g _ => rfl⟩
    all_goals
      simp only [getBlock]
      rw [hb b fun y => { y with saved := y.saved.map fun x => (x.1, if x.2.uid = uid then f x.2 else x.2) }, mapGet]
      cases mapFind s.blocks b <;> rfl

/-- An event wakes no group that does not sleep. -/
theorem wakeGroup_awake {x : Group} (h : Awake x) : wakeGroup x = x := by
  unfold wakeGroup
  split
  · next e => exact absurd e (h _ _ _ _ _)
  · rfl

@[simp] theorem withCounter_status (x : Group) (e : Ev) (n : DWord) : (withCounter x e n).status = x.status := by cases e <;> rfl

theorem awake_withCounter {x : Group} (e : Ev) (n : DWord) (h : Awake x) : Awake (withCounter x e n) :=
  fun e' o p r a => by rw [withCounter_status]; exact h e' o p r a

theorem HomeWork.bumpUid (s : State) (uid : Nat) (e : Ev) : HomeWork s (bumpUid s uid e) :=
  .modUid s uid fun x h => by rw [wakeGroup_awake (awake_withCounter _ _ h), withCounter_status]

/-! ### Lines at their homes -/

theorem HomeWork.showBytes (s : State) (l : Nat) (b : AMap Byte) : HomeWork s (showBytes s l b) := by
  unfold Machine.showBytes
  dsimp only
  split
  · exact .after (.foldl (fun s u => .bumpUid s u .mon) _ _) rfl rfl rfl rfl
  · exact .of_eq rfl rfl rfl rfl

theorem HomeWork.setVisible (s : State) (l : Nat) (b : AMap Byte) : HomeWork s (setVisible s l b) :=
  .before (.showBytes s l b) rfl rfl rfl rfl

theorem HomeWork.makeVisible (s : State) (l : Nat) : HomeWork s (makeVisible s l) := by
  unfold Machine.makeVisible
  dsimp only
  split
  · exact .refl s
  · exact .after (.before (.showBytes _ l _) rfl rfl rfl rfl) rfl rfl rfl rfl

theorem HomeWork.settleN (s : State) (l n : Nat) : HomeWork s (settleN s l n) := by
  induction n generalizing s with
  | zero => exact .refl s
  | succ n ih =>
    unfold Machine.settleN
    split
    · split
      · exact (HomeWork.makeVisible s l).trans (ih _)
      · exact .refl s
    · exact .refl s

theorem HomeWork.settle (s : State) (l : Nat) : HomeWork s (settle s l) := .settleN s l _

theorem HomeWork.homeWrite (s : State) (l : Nat) (b : AMap Byte) : HomeWork s (homeWrite s l b) := by
  unfold Machine.homeWrite
  split
  · exact .of_eq rfl rfl rfl rfl
  · dsimp only
    split
    · exact (HomeWork.settle s l).trans (.setVisible _ l b)
    · exact .before (.settle s l) rfl rfl rfl rfl

theorem HomeWork.homePut (s : State) (k : Nat) (b : List Byte) (n : Nat) : HomeWork s (homePut s k b n).1 := by
  induction n generalizing s k b with
  | zero => exact .refl s
  | succ n ih =>
    unfold Machine.homePut
    split
    · exact .refl s
    · exact (HomeWork.homeWrite _ _ _).trans (ih _ _ _)

/-! ### Stores performed at their homes -/

theorem HomeWork.setCopy (s : State) (h l : Nat) (c : Copy) : HomeWork s (setCopy s h l c) := .of_eq rfl rfl rfl rfl

theorem HomeWork.unforward (s : State) (u l : Nat) (b : AMap Byte) : HomeWork s (unforward s u l b) := by
  unfold Machine.unforward
  split
  · exact .refl s
  · split
    · exact .modUid s u fun x _ => rfl
    · exact .refl s

theorem HomeWork.forward (s : State) (us : List Nat) (l : Nat) (b : AMap Byte) : HomeWork s (forward s us l b) := by
  unfold Machine.forward
  split
  · exact .refl s
  · split
    · exact .refl s
    · refine .foldl (fun s u => ?_) us s
      exact .modUid s u fun x _ => rfl

theorem HomeWork.ownDone (s : State) (h l : Nat) (b : AMap Byte) : HomeWork s (ownDone s h l b) := by
  unfold Machine.ownDone
  split
  · exact .refl s
  · split <;> exact .setCopy ..

theorem HomeWork.ownWritten (s : State) (us : List Nat) (h l : Nat) (b : AMap Byte) : HomeWork s (ownWritten s us h l b) := by
  unfold Machine.ownWritten Machine.ownAtomic
  refine (HomeWork.foldl (fun s u => .unforward s u l b) us s).trans ?_
  dsimp only
  split
  · split
    · exact .refl _
    · exact .setCopy ..
  · exact .forward ..

theorem HomeWork.storeWritten (s : State) (u h l : Nat) (b : AMap Byte) : HomeWork s (storeWritten s u h l b) :=
  (HomeWork.unforward s u l b).trans ((HomeWork.ownDone _ h l b).trans (.forward ..))

theorem HomeWork.reroute (s : State) (p : Nat) (v : BitVec 4 × BitVec 4) : HomeWork s (reroute s p v) := by
  unfold Machine.reroute
  split <;> exact .of_eq rfl rfl rfl rfl

theorem HomeWork.performStore (s : State) (h : Nat) (t : PStore) : HomeWork s (performStore s h t) := by
  unfold Machine.performStore
  dsimp only
  refine HomeWork.trans (t := Machine.settle (Machine.reroute s (keyPart t.addr) t.vers) (lineOf t.addr))
    ((HomeWork.reroute ..).trans (.settle ..)) ?_
  generalize Machine.settle (Machine.reroute s (keyPart t.addr) t.vers) (lineOf t.addr) = s
  have late : HomeWork s (if t.life = (getDie s (storeDie t)).life then s else countLate s (storeDie t)) := by
    split <;> exact .of_eq rfl rfl rfl rfl
  refine late.trans ?_
  generalize (if t.life = (getDie s (storeDie t)).life then s else countLate s (storeDie t)) = s
  split
  · exact .of_eq rfl rfl rfl rfl
  · refine (HomeWork.homeWrite s (lineOf t.addr) (storeBytes s t)).trans ?_
    generalize Machine.homeWrite s (lineOf t.addr) (storeBytes s t) = u
    split
    · exact .after (.storeWritten ..) rfl rfl rfl rfl
    · exact .after (.ownWritten ..) rfl rfl rfl rfl

theorem HomeWork.flushCore (s : State) (c l : Nat) : HomeWork s (flushCore s c l) := by
  unfold Machine.flushCore
  split
  · exact .refl s
  · exact .foldl (fun s t => .performStore s _ t) _ s

theorem HomeWork.addStore (s : State) (t : PStore) : HomeWork s (addStore s t) := .of_eq rfl rfl rfl rfl

theorem HomeWork.sendGather (s : State) (c l : Nat) : HomeWork s (sendGather s c l) := by
  unfold Machine.sendGather
  split
  · exact .refl s
  · exact .after (.foldl (fun s e => .addStore s _) _ _) rfl rfl rfl rfl

theorem HomeWork.combine (s : State) (l : Nat) : HomeWork s (combine s l) := by
  unfold Machine.combine
  split
  · exact .refl s
  · exact .foldl (fun s c => (HomeWork.sendGather s c l).trans (.flushCore _ c l)) _ s

/-! ### Requests over the fabric -/

theorem HomeWork.applyOp (s : State) (k : Nat) (op : FabOp) : HomeWork s (applyOp s k op).2 := by
  unfold Machine.applyOp
  dsimp only
  refine HomeWork.trans (t := Machine.settle (Machine.combine s (lineOf k)) (lineOf k)) ((HomeWork.combine ..).trans (.settle ..)) ?_
  generalize Machine.settle (Machine.combine s (lineOf k)) (lineOf k) = s
  split
  · exact .refl s
  · exact .homePut ..
  · split
    · exact .refl s
    · exact .homeWrite ..

theorem HomeWork.reply (s : State) (a : Applied) : HomeWork s (reply s a) := by
  unfold Machine.reply
  split <;> exact .of_eq rfl rfl rfl rfl

theorem HomeWork.applyRequest (s : State) (h : Nat × FabReq) : HomeWork s (applyRequest s h) := by
  unfold Machine.applyRequest
  have op (c : Bool) : HomeWork s (if c then (([] : List Byte), s) else Machine.applyOp s (memKey h.1 h.2.addr.toNat) h.2.op).2 := by
    cases c
    · exact .applyOp ..
    · exact .refl s
  dsimp only
  refine HomeWork.trans ?_ (.reply ..)
  exact .before (op _) rfl rfl rfl rfl

theorem HomeWork.serveSource (s : State) (r : FabReq) (n : Nat) : HomeWork s (serveSource s r n) := by
  induction n generalizing s with
  | zero => exact .refl s
  | succ n ih =>
    unfold Machine.serveSource
    split
    · next t e =>
      refine HomeWork.trans ?_ (ih t)
      unfold serveTurn at e
      obtain ⟨h, -, rfl⟩ := Option.map_eq_some_iff.mp e
      dsimp only
      split
      · exact .after (.applyRequest _ h) rfl rfl rfl rfl
      · exact .of_eq rfl rfl rfl rfl
    · exact .refl s

theorem HomeWork.receive (s : State) (fn : Nat) (r : FabReq) : HomeWork s (receive s fn r) := by
  unfold Machine.receive
  dsimp only
  split
  · split
    · exact .after (.reply ..) rfl rfl rfl rfl
    · exact .of_eq rfl rfl rfl rfl
  · exact .after (.serveSource _ r _) rfl rfl rfl rfl

theorem HomeWork.replayed (s : State) (x : Sent) : HomeWork s (replayed s x) := by
  unfold Machine.replayed
  dsimp only
  split <;> exact .of_eq rfl rfl rfl rfl

theorem HomeWork.peerRound {s : State} {p d ap off n : Nat} {r : List Byte × State} (h : peerRound s p d ap off n = some r) :
    HomeWork s r.2 := by
  have sent : HomeWork s (sendPeer s p d ap off (.load n) none none) := .of_eq rfl rfl rfl rfl
  have done (u : State) (m i : Nat) : HomeWork u (dropSent { u with carried := mapSet u.carried m (hubGtc s) } i) :=
    .of_eq rfl rfl rfl rfl
  unfold Machine.peerRound at h
  dsimp only at h
  split at h
  · cases h
  · split at h
    · cases h
    · split at h
      · obtain ⟨a, -, rfl⟩ := Option.map_eq_some_iff.mp h
        exact sent.trans ((HomeWork.receive ..).trans ((HomeWork.replayed ..).trans (done ..)))
      · cases h
        exact sent.trans ((HomeWork.replayed ..).trans (done ..))

theorem HomeWork.askPeer (s : State) (p d : Nat) (x : Place) (n : Nat) : HomeWork s (askPeer s p d x n) := by
  unfold Machine.askPeer
  split
  · next a o _ =>
    cases e : Machine.peerRound s p d a o n with
    | none => exact .refl s
    | some r => exact HomeWork.peerRound e
  · exact .refl s

theorem HomeWork.askRange (s : State) (p d : Nat) (tr : DWord → Xlat) (va : DWord) (n : Nat) : HomeWork s (askRange s p d tr va n) :=
  .foldl (fun s e => by split; exacts [.askPeer .., .refl s]) _ s

/-! ## Groups of a block changed together -/

theorem getGroup_foldl_modGroup (f : Group → Group) (l : List Nat) (s : State) (h : Nat) :
    getGroup (l.foldl (fun s g => modGroup s g f) s) h = f^[l.count h] (getGroup s h) := by
  induction l generalizing s with
  | nil => rfl
  | cons g r ih =>
    rw [List.foldl_cons, ih]
    by_cases e : g = h
    · subst e; simp [Function.iterate_succ_apply]
    · simp [e, Ne.symm e]

theorem foldl_modGroup_eq (f : Group → Group) (l : List Nat) (s : State) :
    l.foldl (fun s g => modGroup s g f) s = { s with groups := (l.foldl (fun s g => modGroup s g f) s).groups } := by
  induction l generalizing s with
  | nil => rfl
  | cons g r ih => rw [List.foldl_cons, ih]; rfl

/-- A resident group is changed once for each time that its block lists it, while it lives. -/
theorem getGroup_modMembers (s : State) (b : Nat) (f : Group → Group) (h : Nat) :
    getGroup (modMembers s b f) h = (fun x => if x.status.live then f x else x)^[(getBlock s b).groups.count h] (getGroup s h) :=
  getGroup_foldl_modGroup _ _ s h

theorem modMembers_grids (s : State) (b : Nat) (f : Group → Group) : (modMembers s b f).grids = s.grids := by
  unfold modMembers
  dsimp only
  rw [foldl_modGroup_eq]
  rfl

end Sys2Proof.Stated

namespace Sys2Proof.Proofs

open Sys2Proof Sys2Proof.Machine Sys2Proof.Stated

/-! ## Grids and blocks -/

/-- The address of a block's tile flag (R276). -/
def tileFlag (s : State) (i b : Nat) : DWord := (getGrid s i).lrec.tfa + BitVec.ofNat 64 (8 * (getBlock s b).bid)

/-- A group that waits for its block's tile flag becomes ready. -/
def tileReady (x : Group) : Group := if x.status = .stalled .tile then { x with status := .ready } else x

/-- The state after a block's tile flag has released it (R276, R280). -/
def tileReleased (s : State) (i b : Nat) : State :=
  modMembers (modGrid (askRange s (getGrid s i).part (getGrid s i).die (tableXlat s (getGrid s i).part (getGrid s i).ctx) (tileFlag s i b) 8) i
    fun g => { g with tiles := g.tiles.filter (· ≠ b) }) b tileReady

theorem exec_tileFlagRelease {s : State} {i b n : Nat} (hb : (getGrid s i).tiles = [b])
    (hs : requestsStopped s (getGrid s i).part = false)
    (hf : farBusy s (getGrid s i).part (tableXlat s (getGrid s i).part (getGrid s i).ctx (tileFlag s i b)) = false)
    (hx : ctxNat s (getGrid s i).part (getGrid s i).ctx (tileFlag s i b) 8 = some n) (hn : n ≠ 0) :
    exec (.tileFlagRelease i) s = .next (tileReleased s i b) := by
  unfold tileFlag at hf hx
  change execTileFlagRelease i s = _
  simp only [execTileFlagRelease, hb, List.find?, hs, hf, hx, hn, Bool.not_false, Bool.and_self, decide_true, ne_eq, not_false_eq_true]
  rfl

theorem tiles_tileReleased {s : State} {i b : Nat} (hb : (getGrid s i).tiles = [b]) : (getGrid (tileReleased s i b) i).tiles = [] := by
  have hg (u : State) : (getGrid (modMembers (modGrid u i fun g => { g with tiles := g.tiles.filter (· ≠ b) }) b tileReady) i).tiles
      = (getGrid u i).tiles.filter (· ≠ b) := by
    simp only [getGrid, modMembers_grids]
    rw [show mapGet {} (modGrid u i _).grids i = getGrid (modGrid u i _) i from rfl, modGrid, getGrid_setGrid_same]
    rfl
  rw [tileReleased, hg, getGrid, (HomeWork.askRange s _ _ _ _ _).grids, ← getGrid, hb]
  simp

/-- A group that waits for its block's tile flag is ready once the flag has released the block. -/
theorem status_tileReleased {s : State} {i b h : Nat} (hm : h ∈ (getBlock s b).groups) (ht : (getGroup s h).status = .stalled .tile) :
    (getGroup (tileReleased s i b) h).status = .ready := by
  unfold tileReleased
  generalize hu : askRange s _ _ _ _ _ = u
  have work : HomeWork s u := hu ▸ .askRange ..
  have ht' : (getGroup u h).status = .stalled .tile := by
    rw [work.awake h fun e o p r a => by rw [ht]; exact nofun]; exact ht
  rw [getGroup_modMembers]
  simp only [modGrid, getBlock_setGrid, getGroup_setGrid, work.slots]
  obtain ⟨n, hn⟩ := Nat.exists_eq_succ_of_ne_zero (List.count_pos_iff.mpr hm).ne'
  rw [hn, Function.iterate_succ_apply, Function.iterate_fixed]
  all_goals simp [tileReady, ht', Status.live]

/-- Settles O57: each event's condition is the one that its meaning tests, so each is its own equation; a group that waits for the tile
flag does not sleep, so the requests that read the flag leave it waiting until the flag releases it. -/
theorem gridEvents : Obligations.GridEvents := by
  unfold Obligations.GridEvents
  refine ⟨fun s i c hr hn hm hc => ?place, fun s i b n hb hs hf hx hn => ?tile,
    fun s i hd => ⟨fun t ht hp => ?told, fun ht => ?last⟩, fun s d uid i va b r t ids hu hp hq hf hl => ?child,
    fun s b e hr ha hf => ?save, fun s b hr ha hs hq => ?await, fun s b hr hf => ?restore, fun s i hs hb hu => ?hard,
    fun s i t hd hs ht => ?deadline, fun s b why hs hl hg hb hh => ?late, fun s p c base hb => ⟨fun hs hf => ?sheet, fun hs => ?early⟩⟩
  case place =>
    change execBlockPlacement i s = _
    simp [execBlockPlacement, hr, Nat.not_le.mpr hn, hm, hc]
  case tile => exact ⟨_, exec_tileFlagRelease hb hs hf hx hn, tiles_tileReleased hb, fun h hm ht => status_tileReleased hm ht⟩
  case told =>
    change execGridCompletion i s = _
    simp [execGridCompletion, hd, ht, hp]
  case last =>
    change execGridCompletion i s = _
    simp only [execGridCompletion, hd, ht, Bool.not_true, Bool.false_eq_true, if_false, Bool.and_eq_true, decide_eq_true_eq, List.isEmpty_iff]
    split <;> rfl
  case child =>
    change execChildLaunch d s = _
    simp [execChildLaunch, hu, hp, hq, hf, hl]
  case save =>
    change execBlockSave b s = _
    simp [execBlockSave, hr, ha, hf]
  case await =>
    obtain ⟨c, p, hc, hp, hne⟩ := hq
    have sleep : ((getBlock s b).groups.all fun g => match (getGroup s g).status with
        | .asleep .join _ _ _ a => a
        | .ended => true
        | _ => false) = true := by
      refine List.all_eq_true.mpr fun g hg => ?_
      obtain h | ⟨o, p, r, h⟩ := hs g hg <;> simp [h]
    have wanted : ((getBlock s b).cores.any fun c => match blockPool s b c with | some p => !p.queue.isEmpty | none => false) = true :=
      List.any_eq_true.mpr ⟨c, hc, by simp [hp, hne]⟩
    change execAwaitSave b s = _
    rw [execAwaitSave, if_pos]
    · rfl
    · exact Bool.and_eq_true_iff.mpr ⟨Bool.and_eq_true_iff.mpr ⟨Bool.and_eq_true_iff.mpr ⟨decide_eq_true hr, sleep⟩, by simp [ha]⟩, wanted⟩
  case restore =>
    change execBlockRestore b s = _
    simp [execBlockRestore, hr, hf]
  case hard =>
    change execHardSave i s = _
    simp [execHardSave, hs, hb, hu]
  case deadline =>
    change execPreemptionDeadline i s = _
    simp only [execPreemptionDeadline, show (getGrid s i).deadline = some t from hd]
    rw [if_neg (by simp [show (getGrid s i).status = .draining from hs, show t ≤ dieGtc s (getGrid s i).die from ht])]
  case late =>
    have bound : saveBound (getBlock s b) = if (getBlock s b).rings = [] then 1024 else 65536 := by simp [saveBound]
    change execBlockNotSavedByBound b why s = _
    rw [execBlockNotSavedByBound, if_pos]
    simp [hs, hl, hg, hb, hh, bound]
  case sheet =>
    change execContactSheetUpdate p c s = _
    rw [execContactSheetUpdate, if_neg]
    simpa only [hb, hf, Option.isNone_some, Bool.or_false, Bool.false_or, decide_eq_true_eq, Nat.not_lt] using hs
  case early =>
    change execContactSheetUpdate p c s = _
    rw [execContactSheetUpdate, if_pos]
    simp only [decide_eq_true hs, Bool.or_true]

end Sys2Proof.Proofs
end

section
/-! PROOFS. The statement about child grids, queues, queue windows and work lists (R37, R239 to R243). -/

namespace Sys2Proof.Stated

open Sys2Proof Sys2Proof.Machine

/-! ## Lanes and releases -/

theorem ne_zero_of_lanes_ne_nil {m : LaneMask} (h : lanes m ≠ []) : m ≠ 0 := by
  rintro rfl
  exact h (List.filter_eq_nil_iff.mpr fun i _ => by simp)

/-- A release at `.prt` goes on once the group's earlier stores are complete there (R187). -/
theorem release_prt {s : State} {k : Issue} {why : Stall} (go : State → Out)
    (h : storesComplete (beforeRelease s .prt) (beforeRelease s .prt).cur .prt = true) :
    release s k .prt why go = go (beforeRelease s .prt) := by
  simp [release, h]

/-! ## Queue windows (R242) -/

/-- A group's ring after a change of it. -/
theorem groupRing_modRing (s : State) (x : Group) (f : Ring → Ring) : groupRing (modRing s x f) x = (groupRing s x).map f := by
  simp [groupRing, modRing, modBlock]

/-- The group after the registers of a list have come out of a window, the first into register `n`. -/
def windowOut (x : Group) (n : Nat) (m : LaneMask) (l : List VReg) : Group :=
  l.zipIdx.foldl (fun y e => vWrite y (n + e.2) m fun i => e.1[i]?.getD 0) x

theorem vRead_foldl_vWrite (l : List VReg) (x : Group) (n a : Nat) (m : LaneMask) {k j : Nat} (hj : j < 128) :
    vRead ((l.zipIdx a).foldl (fun y e => vWrite y (n + e.2) m fun i => e.1[i]?.getD 0) x) k j =
      if n + a ≤ k ∧ k < n + a + l.length ∧ m.getLsbD j = true then (l.getD (k - (n + a)) vZero)[j]?.getD 0 else vRead x k j := by
  induction l generalizing x a with
  | nil => rw [if_neg (by simp; omega)]; rfl
  | cons w r ih =>
    rw [List.zipIdx_cons, List.foldl_cons, ih, vRead_vWrite _ _ _ _ _ _ hj]
    by_cases hm : m.getLsbD j = true
    · by_cases h0 : k = n + a
      · subst h0; simp [hm]
      · by_cases h1 : n + a ≤ k ∧ k < n + a + (r.length + 1)
        · obtain ⟨d, rfl⟩ : ∃ d, k = n + a + (d + 1) := ⟨k - (n + a) - 1, by omega⟩
          rw [if_pos ⟨by omega, by omega, hm⟩, if_pos ⟨by omega, by simpa using h1.2, hm⟩]
          simp [show n + a + (d + 1) - (n + (a + 1)) = d by omega, show n + a + (d + 1) - (n + a) = d + 1 by omega]
        · rw [if_neg (by omega), if_neg (by simp [h0]), if_neg (by simp; omega)]
    · simp [hm]

/-- A lane of the mask reads what the window held for it. -/
theorem vRead_windowOut {x : Group} {n : Nat} {m : LaneMask} {l : List VReg} {i j : Nat} (hi : i < l.length) (hj : m.getLsbD j = true) :
    vRead (windowOut x n m l) (n + i) j = (l.getD i vZero)[j]?.getD 0 := by
  rw [windowOut, vRead_foldl_vWrite _ _ _ _ _ (BitVec.lt_of_getLsbD hj), if_pos ⟨by omega, by omega, hj⟩]
  simp

/-- Registers that come out of a window change vector registers only. -/
theorem windowOut_eq (x : Group) (n : Nat) (m : LaneMask) (l : List VReg) : windowOut x n m l = { x with v := (windowOut x n m l).v } := by
  unfold windowOut
  generalize l.zipIdx = z
  induction z generalizing x with
  | nil => rfl
  | cons e r ih => rw [List.foldl_cons, ih]; rfl

end Sys2Proof.Stated

namespace Sys2Proof.Proofs

open Sys2Proof Sys2Proof.Machine Sys2Proof.Stated

/-! ## Tasks -/

/-- A count of registers that the group's window holds is no illegal one (R242). -/
theorem countBad_of_le {s : State} {x : Group} {rg : Ring} {m : Nat} (hg : groupRing s x = some rg) (hm : m ≤ rg.slots) :
    countBad s x m = false := by
  simp [countBad, hg, hm]

/-- What QWGET leaves: its registers read what the ring held, and the ring has them no more (R242). -/
theorem qwget_effect {s : State} {f : XForm} {rg : Ring} {m : Nat} (n : Nat) {ring : List VReg} {take : Ring → Ring} (k : Issue) (push : Option Latch)
    (hg : groupRing s (curGroup s) = some rg) (hn : m ≤ ring.length) {out : Ring → List VReg} (ho : out (take rg) = ring.drop m) :
    let u := retire (modRing s (curGroup s) take) (windowOut (curGroup s) n (live (curGroup s) f) (ring.take m)) k (pushes f) push
    u.mem = s.mem ∧ (curGroup u).pc = (curGroup s).pc + BitVec.ofNat 64 k.len
      ∧ (∀ i j, i < m → j < 128 → (live (curGroup s) f).getLsbD j = true →
          vRead (curGroup u) (n + i) j = ((ring.getD i vZero)[j]?).getD 0)
      ∧ ∀ rg', groupRing u (curGroup u) = some rg' → out rg' = ring.drop m := by
  have same := windowOut_eq (curGroup s) n (live (curGroup s) f) (ring.take m)
  refine ⟨rfl, ?pc, fun i j hi _ hl => ?reads, fun rg' h => ?ring⟩
  case pc => rw [retire, curGroup_setCur, advance_pc, same]
  case reads =>
    rw [retire, curGroup_setCur, show ∀ g, vRead (advance g _ _ _ _) = vRead g from fun _ => rfl,
      vRead_windowOut (by simp; omega) hl, List.getD_eq_getElem?_getD, List.getElem?_take_of_lt hi, ← List.getD_eq_getElem?_getD]
  case ring =>
    rw [retire, curGroup_setCur, same] at h
    replace h : groupRing (modRing s (curGroup s) take) (curGroup s) = some rg' := h
    rw [groupRing_modRing, hg] at h
    cases h
    exact ho

/-- Settles O52: each instruction passes its checks and its release, and what is left is the update that its meaning names; the registers
that come out of a queue window are read one by one. -/
theorem taskInstructions : Obligations.TaskInstructions := by
  unfold Obligations.TaskInstructions
  intro s f
  dsimp only
  refine ⟨fun hp hr hs hl u b hb => ?spawn, fun hp hl hf hi => ?qpop, fun hp hl h0 he => ?qpush, fun rg hg h1 hm hr => ⟨fun hp hx hd hn => ?putL,
    fun hp hx hn => ?putS, fun hp n hd hx hn => ?get⟩, fun hp hl hc hn hs => ?wlapp, fun hp => ?wlpop, fun hp hr => ?term⟩
  case spawn =>
    change execSpawn f s = _
    rw [execSpawn, guarded_on _ hp hr, release_prt _ hs, if_neg (Nat.not_le.mpr hl)]
    simp only [withRange, hb]
    rfl
  case qpop =>
    change execQpop f s = _
    rw [execQpop, issue_pass _ hp, if_neg (ne_zero_of_lanes_ne_nil hl), hf, hi]
    rfl
  case qpush =>
    change execQpush f s = _
    rw [execQpush, issue_pass _ hp, if_neg (ne_zero_of_lanes_ne_nil hl)]
    by_cases hz : (curGroup s).pushed = 0
    · obtain ⟨hi, hc, hs⟩ := h0 hz
      simp only [hz, hi, hc, if_true, decide_true, Bool.not_true, Bool.and_false, Bool.false_eq_true, if_false] at he ⊢
      rw [release_prt _ hs, he]
      rfl
    · simp only [hz, if_false, decide_false, Bool.false_and, Bool.false_eq_true] at he ⊢
      rw [he]
      rfl
  case putL =>
    have full : ¬ rg.slots < rg.ringL.length + (opnd s (curGroup s) false f.b 0).toNat := by omega
    change execQwput f s = _
    rw [execQwput, countBad_of_le hg hm, if_neg nofun, guarded_on _ hp hr]
    simp only [hg, hx]
    obtain hd | hd := hd <;> simp [hd, full] <;> rfl
  case putS =>
    have full : ¬ rg.slots < rg.ringS.length + (opnd s (curGroup s) false f.b 0).toNat := by omega
    change execQwput f s = _
    rw [execQwput, countBad_of_le hg hm, if_neg nofun, guarded_on _ hp hr]
    simp [hg, hx, full]
    rfl
  case get =>
    change ∃ u, execQwget f s = _ ∧ _
    rw [execQwget, countBad_of_le hg hm, if_neg nofun, guarded_on _ hp hr]
    obtain hx | hx := hx
    · have enough : ¬ rg.ringL.length < (opnd s (curGroup s) false f.b 0).toNat := Nat.not_lt.mpr (by simpa [hx] using hn)
      simp only [hg, hx, hd, enough, if_true, if_false]
      exact ⟨_, rfl, qwget_effect (ring := rg.ringL) (out := Ring.ringL) n.val _ _ hg (Nat.not_lt.mp enough) rfl⟩
    · have enough : ¬ rg.ringS.length < (opnd s (curGroup s) false f.b 0).toNat := Nat.not_lt.mpr (by simpa [hx] using hn)
      simp only [hg, hx, hd, enough, reduceCtorEq, decide_false, Bool.or_false, Bool.false_eq_true, if_false]
      exact ⟨_, rfl, qwget_effect (ring := rg.ringS) (out := Ring.ringS) n.val _ _ hg (Nat.not_lt.mp enough) rfl⟩
  case wlapp =>
    change execWlapp f s = _
    rw [execWlapp, issue_pass _ hp]
    have inside : ((lanes (live (curGroup s) f)).filter fun l => !(gridCores s (groupBlock s s.cur).grid).contains
        (opnd s (curGroup s) false f.a l).toNat).isEmpty = true := by
      rw [List.isEmpty_iff, List.filter_eq_nil_iff]
      intro l hl
      rw [List.all_eq_true.mp hc l hl]
      nofun
    simp only [List.isEmpty_eq_false_iff.mpr hl, inside, Bool.not_true, Bool.false_eq_true, if_false, Nat.not_lt.mpr hn]
    rw [release_prt _ hs]
    rfl
  case wlpop =>
    change execWlpop f s = _
    rw [execWlpop, issue_pass _ hp]
    rfl
  case term =>
    change execTerm f s = _
    rw [execTerm, guarded_on _ hp hr]
    rfl

end Sys2Proof.Proofs
end

section
/-! PROOFS. Values that an access puts into a destination, and the statement about LDL and STL (R47, R49, R157, R163, R164). -/

namespace Sys2Proof.Stated

open Sys2Proof Sys2Proof.Machine

/-! ## Values of an access as the values of an instruction (R115, R116) -/

/-- The lanes in which an access is made: lane L of a uniform one whose guard holds there, and the live lanes of any other. -/
def accessLanes (g : Group) (f : XForm) (u : Bool) : List Nat := if u then (if runs g f then [lu g] else []) else lanes (live g f)

/-- The lanes of an access with their values. -/
def accessVals (g : Group) (f : XForm) (u : Bool) (y : Nat → DWord) : List (Nat × DWord) := (accessLanes g f u).map fun i => (i, y i)

theorem find?_map_pair (l : List Nat) (y : Nat → DWord) (i : Nat) :
    (l.map fun j => (j, y j)).find? (fun e => e.1 = i) = if i ∈ l then some (i, y i) else none := by
  induction l with
  | nil => rfl
  | cons j r ih =>
    by_cases h : j = i
    · subst h; simp
    · simp [h, Ne.symm h, ih]

theorem maskOf_lanes (m : LaneMask) : maskOf (lanes m) = m := by
  refine BitVec.eq_of_getLsbD_eq fun i hi => ?_
  rw [getLsbD_maskOf, Bool.eq_iff_iff, decide_eq_true_iff, mem_lanes]
  exact and_iff_right hi

/-- A write is decided by the values in the lanes of its mask. -/
theorem vWrite_congr (g : Group) (n : Nat) {m : LaneMask} {x y : Nat → Word} (h : ∀ i, m.getLsbD i = true → x i = y i) :
    vWrite g n m x = vWrite g n m y := by
  have lane (i : Fin 128) : (if m.getLsbD i.val then x i.val else (vReg g n)[i]) = if m.getLsbD i.val then y i.val else (vReg g n)[i] :=
    ite_congr rfl (fun hm => h i.val hm) fun _ => rfl
  simp only [vWrite, lane]

theorem vPut_congr (g : Group) (n : Nat) (pair : Bool) {m : LaneMask} {x y : Nat → DWord} (h : ∀ i, m.getLsbD i = true → x i = y i) :
    vPut g n pair m x = vPut g n pair m y := by
  unfold vPut
  have low := vWrite_congr g n (x := fun i => (x i).setWidth 32) (y := fun i => (y i).setWidth 32) fun i hi => congrArg _ (h i hi)
  have high (g : Group) := vWrite_congr g (n + 1) (x := fun i => (x i >>> 32).setWidth 32) (y := fun i => (y i >>> 32).setWidth 32)
    fun i hi => by rw [h i hi]
  simp only [low, high]

/-- A destination write of a uniform instruction takes the value at lane L only. -/
theorem putD_uniform (s : State) (g : Group) (f : XForm) (pair : Bool) (y : Nat → DWord) :
    putD s g f true pair (fun _ => y (lu g)) = putD s g f true pair y := by
  unfold putD
  cases f.d <;> rfl

/-- The values of an access are written as those of an instruction; an access of lanes has no scalar and no predicate destination. -/
theorem putVals_accessVals (s : State) (g : Group) {f : XForm} {u : Bool} (pair : Bool) (y : Nat → DWord) (hr : u = true → runs g f = true)
    (hp : ∀ d, f.d ≠ .p d) (hs : ∀ d, f.d = .s d → u = true) :
    putVals s g f u pair (accessVals g f u y) = putD s g f u pair y := by
  cases u with
  | true => simpa [putVals, accessVals, accessLanes, hr] using putD_uniform s g f pair y
  | false =>
    unfold putVals putD
    cases hd : f.d with
    | v n =>
      have keys : (accessVals g f false y).map (·.1) = lanes (live g f) := by simp [accessVals, accessLanes, Function.comp_def]
      simp only [keys, maskOf_lanes, writes, Bool.false_eq_true, if_false]
      refine vPut_congr g n pair fun i hi => ?_
      rw [show accessVals g f false y = (lanes (live g f)).map fun j => (j, y j) from rfl, find?_map_pair, if_pos ((mem_lanes _ _).mpr hi)]
      rfl
    | s d => exact absurd (hs d hd) nofun
    | p d => exact absurd hd (hp d)
    | _ => rfl

/-- The values of an access are pushed as those of an instruction. -/
theorem pushVals_accessVals (s : State) (g : Group) (f : XForm) (u pair : Bool) (y : Nat → DWord) :
    pushVals s g f u pair (accessVals g f u y) = if pushes f then pushOf s g f u (if u then y else laneValue pair y) else none := by
  unfold pushVals pushOf
  cases pushes f with
  | false => rfl
  | true =>
    cases u with
    | true => cases h : runs g f <;> simp [accessVals, accessLanes, h]
    | false =>
      simp only [Bool.not_true, Bool.false_eq_true, if_false, if_true]
      split
      · rfl
      · refine congrArg (fun l => some (Latch.lanes l)) (List.map_congr_left fun i _ => ?_)
        rw [show accessVals g f false y = (lanes (live g f)).map fun j => (j, y j) from rfl, find?_map_pair]
        by_cases hi : (live g f).getLsbD i = true
        · simp [mem_lanes, hi, laneValue]
        · simp [mem_lanes, hi]

/-- An access that is made in no lane, because its guard is false at lane L, leaves every register as it was. -/
theorem computed_of_not_runs {s : State} {f : XForm} {k : Issue} (pair : Bool) (y : Nat → DWord) (hr : runs (curGroup s) f = false) :
    Computed s f k true pair y 0 (.next (setCur s (advance { curGroup s with fpflags := raiseFlags (curGroup s).fpflags 0 } k.len
      (readsLatch k) (pushes f) none))) := by
  have hw : writes (curGroup s) f true = 0 := by simp [writes, hr]
  refine ⟨_, rfl, fun n i hi => ?vector, fun n => ?scalar, fun n i hi => ?pred, rfl, rfl, ?latches, ⟨fun _ => rfl, fun _ _ _ => rfl⟩, rfl⟩
  case vector =>
    simp only [vectorAfter, hw]
    split <;> simp <;> rfl
  case scalar =>
    simp only [scalarAfter, hr]
    split <;> simp <;> rfl
  case pred =>
    rw [predAfter_of_writes_zero hw]
    rfl
  case latches => simp [latchesAfter, pushOf, hr, advance]

/-- An access that meets nothing in its way, and whose values are `y`, completes as an instruction that computes them. -/
theorem computed_accessVals {s : State} {f : XForm} {k : Issue} {u : Bool} (pair : Bool) (y : Nat → DWord) (hp : ∀ d, f.d ≠ .p d)
    (hs : ∀ d, f.d = .s d → u = true) :
    Computed s f k u pair y 0 (finish s (putVals s (curGroup s) f u pair (accessVals (curGroup s) f u y)) k (pushes f)
      (pushVals s (curGroup s) f u pair (accessVals (curGroup s) f u y)) 0) := by
  rw [finish_next (enabledFlags_zero _), putVals_fpflags, pushVals_accessVals]
  by_cases h : u = true → runs (curGroup s) f = true
  · rw [putVals_accessVals s _ pair y h hp hs]
    exact computed_performed s f k u pair y 0
  · obtain ⟨rfl, hr⟩ := Classical.not_imp.mp h
    rw [Bool.not_eq_true] at hr
    have quiet : (if pushes f = true then pushOf s (curGroup s) f true (if true = true then y else laneValue pair y) else none) = none := by
      simp [pushOf, hr]
    rw [quiet, show putVals s (curGroup s) f true pair (accessVals (curGroup s) f true y) = curGroup s by simp [putVals, accessVals, accessLanes, hr]]
    exact computed_of_not_runs pair y hr

/-! ## The lattice (R47, R49) -/

/-- Only cores and copy elements differ. -/
def OnlyCores (s t : State) : Prop := t = { s with elems := t.elems, cores := t.cores }

theorem OnlyCores.trans {s t u : State} (h : OnlyCores s t) (k : OnlyCores t u) : OnlyCores s u := by
  unfold OnlyCores at *
  rw [h] at k
  exact k

/-- Copies' lattice sources are read into their elements. -/
theorem onlyCores_readSources (s : State) (uid before : Nat) : OnlyCores s (readSources s uid before) := by
  unfold readSources readNow
  dsimp only
  split <;> rfl

/-- An instruction that writes no register and finds only cores and copy elements changed goes on past itself. -/
theorem finish_onlyCores {s t : State} (k : Issue) (h : OnlyCores s t) :
    ∃ v, finish t (curGroup t) k false none 0 = .next v ∧ v.cores = t.cores ∧ v.groups = (Past s k).groups ∧ v.mem = s.mem := by
  refine ⟨setCur t (advance (curGroup t) k.len (readsLatch k) false none), ?_, rfl, ?_, ?_⟩
  · rw [finish_next (enabledFlags_zero _), raiseFlags_zero]
  all_goals rw [h]; rfl

/-- Bytes put into a window go into the squares of its cores. -/
theorem onlyCores_latPut (s : State) (b : Block) (a : Nat) (l : List Byte) : OnlyCores s (latPut s b a l) := by
  induction l generalizing s a with
  | nil => rfl
  | cons x r ih =>
    unfold latPut
    split
    · exact OnlyCores.trans (t := modCore s _ _) rfl (ih _ _)
    · exact ih s (a + 1)

theorem OnlyCores.curGroup {s t : State} (h : OnlyCores s t) : curGroup t = curGroup s := by rw [h]; rfl
theorem OnlyCores.getBlock {s t : State} (h : OnlyCores s t) (b : Nat) : getBlock t b = getBlock s b := by rw [h]; rfl
theorem OnlyCores.opnd {s t : State} (h : OnlyCores s t) (g : Group) (p : Bool) (o : Operand) (j : Nat) : opnd t g p o j = opnd s g p o j := by
  rw [h]; rfl
theorem OnlyCores.latticeAt {s t : State} (h : OnlyCores s t) (g : Group) (a b : Operand) (j : Nat) :
    latticeAt t g a b j = latticeAt s g a b j := by rw [h]; rfl

/-- The bytes of STL's lanes decide neither where the next lane's bytes go nor what they are. -/
theorem foldl_latPut {s : State} (g : Group) (f : XForm) (p : Bool) (n : Nat) (ls : List Nat) {t : State} (h : OnlyCores s t) :
    ls.foldl (fun u j => latPut u (getBlock u g.block) (latticeAt u g f.a f.b j) (leBytes n (opnd u g p f.c j).toNat)) t
        = ls.foldl (fun u j => latPut u (getBlock s g.block) (latticeAt s g f.a f.b j) (leBytes n (opnd u g p f.c j).toNat)) t
      ∧ OnlyCores s (ls.foldl (fun u j => latPut u (getBlock s g.block) (latticeAt s g f.a f.b j) (leBytes n (opnd u g p f.c j).toNat)) t) := by
  induction ls generalizing t with
  | nil => exact ⟨rfl, h⟩
  | cons j r ih =>
    simp only [List.foldl_cons, h.getBlock, h.latticeAt, h.opnd]
    exact ih (h.trans (onlyCores_latPut ..))

theorem latDetail_eq_zero {b : Block} {a n : Nat} (h : inWindow b a n = true ∧ a % n = 0) : latDetail b a n n = 0 := by
  simp [latDetail, h]

/-- Where every address lies in the window and is aligned, no lane is at fault. -/
theorem latLanes_good {s : State} {f : XForm} {u : Bool} {n : Nat}
    (h : ∀ j, j ∈ accessLanes (curGroup s) f u → inWindow (getBlock s (curGroup s).block) (latticeAt s (curGroup s) f.a f.b j) n = true
      ∧ latticeAt s (curGroup s) f.a f.b j % n = 0) :
    latLanes s f u n = (accessLanes (curGroup s) f u, []) := by
  have hz : ∀ j ∈ accessLanes (curGroup s) f u,
      latDetail (getBlock s (curGroup s).block) (latticeAt s (curGroup s) f.a f.b j) n n = 0 := fun j hj => latDetail_eq_zero (h j hj)
  unfold latLanes
  refine Prod.ext (List.filter_eq_self.mpr fun j hj => decide_eq_true (hz j hj)) ?_
  refine List.map_eq_nil_iff.mpr (List.filter_eq_nil_iff.mpr fun j hj => ?_)
  simp [hz j hj]

/-- A lattice access of good lanes performs them and completes. -/
theorem latticeAccess_good {s : State} {f : XForm} {k : Issue} (write pair : Bool) {n : Nat}
    (go : List Nat → State × List (Nat × DWord)) (hp : Passes s k)
    (h : ∀ j, j ∈ accessLanes (curGroup s) f (uniform .auto f) →
      inWindow (getBlock s (curGroup s).block) (latticeAt s (curGroup s) f.a f.b j) n = true
        ∧ latticeAt s (curGroup s) f.a f.b j % n = 0) :
    latticeAccess s f k write pair n go =
      let r := go (accessLanes (curGroup s) f (uniform .auto f))
      finish r.1 (putVals r.1 (curGroup r.1) f (uniform .auto f) pair r.2) k (pushes f)
        (pushVals r.1 (curGroup r.1) f (uniform .auto f) pair r.2) 0 := by
  unfold latticeAccess
  dsimp only
  rw [issue_pass _ hp, latLanes_good h]
  cases uniform .auto f <;> rfl

end Sys2Proof.Stated

namespace Sys2Proof.Proofs

open Sys2Proof Sys2Proof.Machine Sys2Proof.Stated

/-- Settles O42: no lane is at fault, so LDL puts the window's values as an instruction puts what it computes, and STL folds its lanes'
bytes into the cores, which decide neither its addresses nor its values. -/
theorem latticeAccess : Obligations.LatticeAccess := by
  unfold Obligations.LatticeAccess
  intro s f g b p n u at_ ls hg
  refine ⟨fun hp hd hs => ?ldl, fun hp hd hs => ?stl⟩
  case ldl =>
    change Computed _ f _ u p _ 0 (execLdl f s)
    rw [execLdl, latticeAccess_good false _ _ hp hg]
    have done := computed_accessVals (s := readSources s g.uid s.nextId) (f := f) (k := xIssue f (xLen f) (topReg [(f.d, span p), (f.b, 1)]))
      (u := u) p (fun j => loadValue f.ty (latNat s b (at_ j) n)) hd hs
    rw [(onlyCores_readSources s g.uid s.nextId).curGroup] at done
    simp only [(onlyCores_readSources s (curGroup s).uid s.nextId).curGroup]
    exact done
  case stl =>
    obtain ⟨same, only⟩ := foldl_latPut g f p n ls (onlyCores_readSources s g.uid s.nextId)
    have vals (t : State) (y : Group) : putVals t y f u p [] = y := by cases hu : u <;> simp [putVals, hd]
    have quiet (t : State) (y : Group) : pushVals t y f u p [] = none := by simp [pushVals, pushes, hd, hs]
    change ∃ t, execStl f s = _ ∧ _
    rw [execStl, latticeAccess_good true _ _ hp hg]
    dsimp only
    rw [show accessLanes (curGroup s) f (uniform .auto f) = ls from rfl, same, vals, quiet, show pushes f = false by simp [pushes, hd, hs]]
    exact finish_onlyCores _ only

end Sys2Proof.Proofs
end

section
/-! PROOFS. The stack area of a group (R61): what the work on its stacks leaves alone, what a read of the area on quiet lines returns, and
what keeps an instruction from reaching it. -/

namespace Sys2Proof.Stated

open Sys2Proof Sys2Proof.Machine

/-! ## What the work on a group's stacks leaves alone -/

/-- Two groups differ only in their stacks, their masks, their program counter, their latch chain and their transactions. -/
def OnlyStacks (x y : Group) : Prop :=
  y = { x with div := y.div, divSpill := y.divSpill, call := y.call, callSpill := y.callSpill, xm := y.xm, exited := y.exited, pc := y.pc,
               latches := y.latches, chainPc := y.chainPc, chainLen := y.chainLen, chainPush := y.chainPush, txn := y.txn }

theorem OnlyStacks.trans {x y z : Group} (h : OnlyStacks x y) (k : OnlyStacks y z) : OnlyStacks x z := by
  unfold OnlyStacks at *
  rw [h] at k
  exact k

theorem OnlyStacks.uid {x y : Group} (h : OnlyStacks x y) : y.uid = x.uid := by rw [h]
theorem OnlyStacks.status {x y : Group} (h : OnlyStacks x y) : y.status = x.status := by rw [h]
theorem OnlyStacks.block {x y : Group} (h : OnlyStacks x y) : y.block = x.block := by rw [h]
theorem OnlyStacks.prologue {x y : Group} (h : OnlyStacks x y) : y.prologue = x.prologue := by rw [h]
theorem OnlyStacks.fwd {x y : Group} (h : OnlyStacks x y) : y.fwd = x.fwd := by rw [h]
theorem OnlyStacks.stk {x y : Group} (h : OnlyStacks x y) : y.stk = x.stk := by rw [h]
theorem OnlyStacks.priv {x y : Group} (h : OnlyStacks x y) : y.priv = x.priv := by rw [h]

/-- Only the issuing group differs, in its stacks and what goes with them, beside the records of the irrevocable token and the locks
that lanes of it give back. -/
structure StackWork (s t : State) : Prop where
  rest : t = { s with groups := t.groups, parts := t.parts, homes := t.homes }
  parts : ∀ p, getPart t p = { getPart s p with tok := (getPart t p).tok, tokQ := (getPart t p).tokQ, resv := (getPart t p).resv }
  homes : ∀ l, getHome t l = { getHome s l with lock := (getHome t l).lock }
  locks : ∀ l, (getHome s l).lock = none → (getHome t l).lock = none
  others : ∀ h, h ≠ s.cur → getGroup t h = getGroup s h
  own : OnlyStacks (curGroup s) (curGroup t)
  slot : slotOfUid s (curGroup s).uid = some s.cur → slotOfUid t (curGroup s).uid = some s.cur

theorem StackWork.cur {s t : State} (h : StackWork s t) : t.cur = s.cur := by rw [h.rest]
theorem StackWork.mem {s t : State} (h : StackWork s t) : t.mem = s.mem := by rw [h.rest]

theorem StackWork.refl (s : State) : StackWork s s := ⟨rfl, fun _ => rfl, fun _ => rfl, fun _ h => h, fun _ _ => rfl, rfl, fun h => h⟩

theorem StackWork.trans {s t u : State} (h : StackWork s t) (k : StackWork t u) : StackWork s u where
  rest := by
    have e := k.rest
    rw [h.rest] at e
    exact e
  parts p := by
    have e := k.parts p
    rw [h.parts p] at e
    exact e
  homes l := by
    have e := k.homes l
    rw [h.homes l] at e
    exact e
  locks l e := k.locks l (h.locks l e)
  others g e := (k.others g (by rwa [h.cur])).trans (h.others g e)
  own := h.own.trans k.own
  slot e := by
    have n := k.slot
    rw [h.own.uid, h.cur] at n
    exact n (h.slot e)

/-- An entry found under a key is found there still when the entry of that key is replaced by one that passes the same test. -/
theorem find?_mapSet {α : Type} (d : α) (p : α → Bool) (l : AMap α) (k : Nat) (v : α) (hv : p v = p (mapGet d l k))
    (h : (l.find? fun e => p e.2).map (·.1) = some k) : ((mapSet l k v).find? fun e => p e.2).map (·.1) = some k := by
  induction l with
  | nil => cases h
  | cons e r ih =>
    obtain ⟨j, w⟩ := e
    cases hp : p v with
    | true =>
      unfold mapSet
      split
      · simp [hp]
      · split
        · simp [hp]
        · next hk =>
          cases hw : p w with
          | true => simp [hw] at h; omega
          | false =>
            rw [List.find?_cons_of_neg (by simp [hw])] at h ⊢
            refine ih ?_ h
            simpa [mapGet, mapFind, Ne.symm hk] using hv
    | false =>
      unfold mapSet
      split
      · rw [List.find?_cons_of_neg (by simp [hp])]; exact h
      · split
        · next hk =>
          subst hk
          have hw : p w = false := by simpa [mapGet, mapFind, hp] using hv.symm
          rw [List.find?_cons_of_neg (by simp [hw])] at h
          rw [List.find?_cons_of_neg (by simp [hp])]
          exact h
        · next hk =>
          cases hw : p w with
          | true => simp [hw] at h; omega
          | false =>
            rw [List.find?_cons_of_neg (by simp [hw])] at h ⊢
            refine ih ?_ h
            simpa [mapGet, mapFind, Ne.symm hk] using hv

theorem slotOfUid_setCur {s : State} {x : Group} {u : Nat} (hu : x.uid = (curGroup s).uid) (hs : x.status = (curGroup s).status)
    (h : slotOfUid s u = some s.cur) : slotOfUid (setCur s x) u = some s.cur :=
  find?_mapSet {} (fun y : Group => decide (y.uid = u) && y.status.live) s.groups s.cur x (by
    rw [show mapGet {} s.groups s.cur = curGroup s from rfl, hu, hs]) h

/-- The issuing group's stacks are replaced. -/
theorem StackWork.setCur (s : State) {x : Group} (h : OnlyStacks (curGroup s) x) : StackWork s (setCur s x) where
  rest := rfl
  parts _ := rfl
  homes _ := rfl
  locks _ e := e
  others g e := getGroup_setCur_ne s x e
  own := by rwa [curGroup_setCur]
  slot := slotOfUid_setCur h.uid h.status

section Area
variable {s t : State} (h : StackWork s t)
include h

theorem StackWork.getGroup_cur : getGroup t s.cur = curGroup t := by rw [← h.cur]; rfl

theorem StackWork.groupSpace : groupSpace t s.cur = groupSpace s s.cur := by
  have own := h.own
  unfold Machine.groupSpace groupGrid groupBlock
  rw [h.getGroup_cur, show getGroup s s.cur = curGroup s from rfl, own.prologue, own.block]
  rw [h.rest]
  rfl

theorem StackWork.stackSize : stackSize t s.cur = stackSize s s.cur := by
  unfold Machine.stackSize groupGrid groupBlock
  rw [h.getGroup_cur, show getGroup s s.cur = curGroup s from rfl, h.own.block]
  rw [h.rest]
  rfl

theorem StackWork.callAddr (i : Nat) : callAddr t s.cur i = callAddr s s.cur i := by
  unfold Machine.callAddr
  rw [h.getGroup_cur, show getGroup s s.cur = curGroup s from rfl, h.own.stk, h.stackSize]

theorem StackWork.walk (p : Nat) (q : Nat) (va : DWord) (l table n : Nat) :
    walk t p (getPart t q) va l table n = walk s p (getPart s q) va l table n := by
  have leaf (l : Nat) (e : DWord) : leafOk t (getPart t q) l e = leafOk s (getPart s q) l e := by rw [h.parts q, h.rest]; rfl
  have room (a n : Nat) : inHbm (getPart t q) a n = inHbm (getPart s q) a n := by rw [h.parts q]; rfl
  have word (k : Nat) : memDWord t k = memDWord s k := by rw [h.rest]; rfl
  induction n generalizing l table with
  | zero => rfl
  | succ n ih => simp only [Machine.walk, leaf, room, word, ih]

theorem StackWork.tableXlat (p c : Nat) (va : DWord) : tableXlat t p c va = tableXlat s p c va := by
  unfold Machine.tableXlat
  simp only [h.walk]
  rw [h.parts p]
  rfl

theorem StackWork.xlat (p c : Nat) (va : DWord) : xlat t p c va = xlat s p c va := by
  have find : tlbFind t p c va = tlbFind s p c va := by rw [h.rest]; rfl
  have opens (i : Nat) : apertureOpen t (getPart t p) i = apertureOpen s (getPart s p) i := by rw [h.parts p, h.rest]; rfl
  have tick : t.tick = s.tick := by rw [h.rest]
  unfold Machine.xlat
  simp only [find, opens, tick, h.tableXlat]

theorem StackWork.peerWaits (x : Place) : peerWaits t s.cur x = peerWaits s s.cur x := by
  have idle (p d a : Nat) : peerIdle t p d a = peerIdle s p d a := by
    unfold peerIdle
    rw [h.parts p, h.rest]
    rfl
  have left (u : Nat) : peerLeft t u t.nextId = peerLeft s u s.nextId := by rw [h.rest]; rfl
  unfold Machine.peerWaits
  rw [h.getGroup_cur, show getGroup s s.cur = curGroup s from rfl, h.own.uid]
  simp only [idle, left, h.groupSpace]

theorem StackWork.areaFault (call write : Bool) (n : Nat) (vas : List DWord) :
    areaFault t s.cur call write n vas = areaFault s s.cur call write n vas := by
  have one (va : DWord) : areaFaultAt t s.cur call write va = areaFaultAt s s.cur call write va := by
    unfold areaFaultAt
    simp only [h.groupSpace, h.xlat, h.peerWaits]
  unfold Machine.areaFault
  simp only [one]

theorem StackWork.homeStack (k : Nat) : homeStack t k = homeStack s k := by
  unfold Machine.homeStack
  rw [h.parts]

theorem StackWork.homeBusy (k : Nat) : homeBusy t k = homeBusy s k := by
  unfold Machine.homeBusy homeDie
  rw [h.homeStack, h.rest]
  rfl

theorem StackWork.poisoned (k n : Nat) : poisoned t k n = poisoned s k n := by
  unfold Machine.poisoned homeGone homeDie
  rw [h.homeStack, h.rest]
  rfl

theorem StackWork.l1Holder (k : Nat) : l1Holder t s.cur k = l1Holder s s.cur k := by
  unfold Machine.l1Holder groupGrid groupBlock
  rw [h.getGroup_cur, show getGroup s s.cur = curGroup s from rfl, h.own.block, h.rest]
  rfl

theorem StackWork.quietLine {key n : Nat} (q : QuietLine s s.cur key n) : QuietLine t s.cur key n := by
  obtain ⟨hnext, hlock, hsums, hl1, hl2, hfwd, hbusy, hclean, hstores, hloads⟩ := q
  refine ⟨?_, h.locks _ hlock, ?_, ?_, ?_, ?_, ?_, ?_, ?_, ?_⟩
  · rw [h.homes]; exact hnext
  · rw [h.rest]; exact hsums
  · rw [h.l1Holder, h.rest]; exact hl1
  · rw [h.rest]; exact hl2
  · rw [h.getGroup_cur, h.own.fwd]; exact hfwd
  · rw [h.homeBusy]; exact hbusy
  · rw [h.poisoned]; exact hclean
  · rw [h.rest]; exact hstores
  · rw [h.rest]; exact hloads

theorem StackWork.quietArea {va : Nat → DWord} {key : Nat → Nat} {n : Nat} (q : QuietArea s va key n) : QuietArea t va key n := by
  intro i hi
  obtain ⟨⟨p, hp, hk, hd⟩, hva, hkey, hq⟩ := q i hi
  rw [h.cur, h.groupSpace, h.xlat]
  exact ⟨⟨p, hp, hk, hd⟩, hva, hkey, h.quietLine hq⟩

theorem StackWork.freeArea {va : Nat → DWord} {key : Nat → Nat} {n : Nat} (q : FreeArea s va key n) : FreeArea t va key n := by
  obtain ⟨hq, hwf, hslot, hfree⟩ := q
  refine ⟨h.quietArea hq, by rw [h.mem]; exact hwf, ?_, fun i hi => ⟨?_, (hfree i hi).2⟩⟩
  · rw [h.own.uid, h.cur]; exact h.slot hslot
  · rw [h.homes]; exact (hfree i hi).1

end Area

/-! ## A read on a quiet line -/

theorem homeStack_of_lineOf (s : State) {a b : Nat} (h : lineOf a = lineOf b) : homeStack s a = homeStack s b := by
  have e : keyPart a = keyPart b ∧ keyPa a / 4096 = keyPa b / 4096 := by
    unfold lineOf at h
    unfold keyPart keyPa
    constructor <;> omega
  unfold homeStack
  rw [e.1, e.2]

theorem homeGone_of_lineOf (s : State) {a b : Nat} (h : lineOf a = lineOf b) : homeGone s a = homeGone s b := by
  unfold homeGone homeDie
  rw [homeStack_of_lineOf s h]

theorem homeBusy_of_lineOf (s : State) {a b : Nat} (h : lineOf a = lineOf b) : homeBusy s a = homeBusy s b := by
  unfold homeBusy homeDie
  rw [homeStack_of_lineOf s h]

theorem lineOf_add {k i : Nat} (h : k % 128 + i < 128) : lineOf (k + i) = lineOf k := by
  unfold lineOf
  omega

/-- A byte of a clean range is clean. -/
theorem poisoned_byte {s : State} {k n i : Nat} (h : poisoned s k n = false) (hi : i < n) (hk : k % 128 + n ≤ 128) :
    poisoned s (k + i) 1 = false := by
  unfold poisoned at *
  rw [homeGone_of_lineOf s (lineOf_add (by omega))]
  rw [Bool.or_eq_false_iff] at h ⊢
  refine ⟨h.1, ?_⟩
  rw [List.any_eq_false] at h ⊢
  intro w hw hc
  refine h.2 w hw ?_
  simp only [Bool.and_eq_true, decide_eq_true_eq] at hc ⊢
  omega

theorem insertRank_ne_nil (t c : Nat) (l : List Nat) : insertRank t c l ≠ [] := by
  cases l with
  | nil => simp [insertRank]
  | cons d r => unfold insertRank; split <;> simp

/-- A line without gatherers: no core holds sums of it, and none are on their way. -/
theorem gatherers_eq_nil {s : State} {l : Nat} (h : gatherers s l = []) :
    (∀ e ∈ s.cores, mapFind e.2.gather l = none) ∧ ∀ t ∈ s.stores, (t.sum && t.going l) = false := by
  unfold gatherers at h
  have none : (List.map (fun e => e.1) (List.filter (fun e => (mapFind e.2.gather l).isSome) s.cores)
      ++ List.map (fun t => t.core) (List.filter (fun t => t.sum && t.going l) s.stores)) = [] := by
    generalize List.map (fun e : Nat × Core => e.1) _ ++ _ = m at h ⊢
    cases m with
    | nil => rfl
    | cons a r =>
      rw [List.eraseDups_cons, List.foldr_cons] at h
      exact absurd h (insertRank_ne_nil _ _ _)
  obtain ⟨hc, hs⟩ := List.append_eq_nil_iff.mp none
  rw [List.map_eq_nil_iff, List.filter_eq_nil_iff] at hc hs
  exact ⟨fun e he => by simpa using hc e he, fun t ht => by simpa using hs t ht⟩

theorem combine_of_no_gatherers {s : State} {l : Nat} (h : gatherers s l = []) : combine s l = s := by
  unfold combine
  rw [h]
  exact ite_self _

theorem settle_of_no_image {s : State} {l : Nat} (h : (getHome s l).next = []) : settle s l = s := by
  unfold settle
  rw [h]
  rfl

theorem overlay_nil (o : Nat) (l : List Byte) : overlay [] o l = l := by
  induction l generalizing o with
  | nil => rfl
  | cons b r ih => simp [overlay, ih]

section Read
variable {s : State} {g key n : Nat} (q : QuietLine s g key n)
include q

theorem QuietLine.readyLoad (m : Nat) : readyLoad s g key m = s := by
  obtain ⟨hnext, -, hsums, -, -, -, -, -, hstores, -⟩ := q
  have away : ∀ t ∈ s.stores, lineOf t.addr ≠ lineOf key := by simpa using hstores
  have seen : unseen s g key m = false := by
    unfold unseen
    rw [Bool.or_eq_false_iff, List.any_eq_false, List.any_eq_false]
    refine ⟨fun t ht => by simp [PStore.going, away t ht], fun e he => ?_⟩
    rw [(gatherers_eq_nil hsums).1 e he]
    exact Bool.false_ne_true
  have young : dropOlder s g key = s := by
    unfold dropOlder
    rw [if_neg]
    simp only [Bool.not_eq_true, List.any_eq_false]
    intro t ht
    simp [away t ht]
  unfold Machine.readyLoad
  rw [seen]
  simp only [Bool.false_eq_true, if_false, young]
  rw [combine_of_no_gatherers hsums, settle_of_no_image hnext]

theorem QuietLine.ownBytes : ownBytes s (l1Holder s g key) (lineOf key) = [] := by
  obtain ⟨-, -, -, hl1, -⟩ := q
  unfold Machine.ownBytes
  rw [hl1]

theorem QuietLine.forwarded (l : Nat) : forwarded s g l = [] := by
  obtain ⟨-, -, -, -, -, hfwd, -⟩ := q
  unfold Machine.forwarded
  rw [hfwd]
  rfl

theorem QuietLine.cohLoad (cls m : Nat) : (cohLoad s g cls key m).1 = memBytes s.mem key m := by
  obtain ⟨-, -, -, hl1, hl2, -⟩ := id q
  unfold Machine.cohLoad copyBytes
  simp only [q.readyLoad, q.ownBytes, q.forwarded, hl1, hl2, overlay_nil]

theorem QuietLine.loadPoisoned (hk : key % 128 + n ≤ 128) : loadPoisoned s g key n [] = false := by
  obtain ⟨-, -, -, -, -, -, -, hclean, -⟩ := id q
  unfold Machine.loadPoisoned
  simp only [q.readyLoad]
  rw [List.any_eq_false]
  intro i hi
  rw [poisoned_byte hclean (List.mem_range.mp hi) hk]
  simp

end Read

/-! ## The stack area read back (R61) -/

/-- A range within one line is one part. -/
theorem lineParts_one {va : DWord} {n : Nat} (hn : 0 < n) (h : va.toNat % 128 + n ≤ 128) : lineParts va n = [(va, n)] := by
  obtain ⟨n, rfl⟩ : ∃ m, n = m + 1 := ⟨n - 1, by omega⟩
  have whole : inLine va.toNat (n + 1) = n + 1 := by unfold inLine; omega
  unfold lineParts
  rw [partsOf]
  · simp only [whole, Nat.sub_self]
    rw [partsOf]
  · exact Nat.succ_ne_zero n

/-- The places of a quiet area: each lies on one line of HBM4E, on an ordinary page. -/
theorem QuietArea.place {s : State} {va : Nat → DWord} {key : Nat → Nat} {n : Nat} (q : QuietArea s va key n) {i : Nat} (hi : i < 8) :
    ∃ p : Place, placeOf (groupSpace s s.cur).1 (xlat s (groupSpace s s.cur).1 (groupSpace s s.cur).2 (va i)) = some p
      ∧ p.space = .hbm (key i) ∧ p.dark = false := (q i hi).1

section Area
variable {s : State} {va : Nat → DWord} {key : Nat → Nat} {n : Nat} (q : QuietArea s va key n) (hn : 0 < n)
include q hn

theorem QuietArea.lineParts {i : Nat} (hi : i < 8) : lineParts (va i) n = [(va i, n)] := lineParts_one hn (q i hi).2.1

theorem QuietArea.stackRead {i : Nat} (hi : i < 8) : stackRead s s.cur (va i) n = memBytes s.mem (key i) n := by
  obtain ⟨p, hp, hk, hd⟩ := q.place hi
  obtain ⟨-, -, -, hq⟩ := q i hi
  unfold Machine.stackRead
  simp only [q.lineParts hn hi, List.flatMap_cons, List.flatMap_nil, List.append_nil, hp, hk, hd, Bool.false_eq_true, if_false]
  exact hq.cohLoad 0 n

theorem QuietArea.stackPoison : stackPoison s s.cur n ((List.range 8).map va) = none := by
  unfold Machine.stackPoison
  rw [List.findSome?_eq_none_iff]
  intro e he
  obtain ⟨_, hv, he⟩ := List.mem_flatMap.mp he
  obtain ⟨i, hi, rfl⟩ := List.mem_map.mp hv
  have hi := List.mem_range.mp hi
  rw [q.lineParts hn hi, List.mem_singleton] at he
  subst he
  obtain ⟨p, hp, hk, hd⟩ := q.place hi
  obtain ⟨-, -, hkey, hq⟩ := q i hi
  simp only [hp, placePoisoned, hk, hd, hq.loadPoisoned hkey, Bool.false_eq_true, if_false]

theorem QuietArea.askStack : askStack s s.cur n ((List.range 8).map va) = s := by
  have one {i : Nat} (hi : i < 8) : askRange s (groupSpace s s.cur).1 (groupDie s.cur)
      (xlat s (groupSpace s s.cur).1 (groupSpace s s.cur).2) (va i) n = s := by
    obtain ⟨p, hp, hk, -⟩ := q.place hi
    unfold askRange
    rw [q.lineParts hn hi]
    simp only [List.foldl_cons, List.foldl_nil, hp, askPeer, hk]
  have all (l : List Nat) (hl : ∀ i ∈ l, i < 8) : (l.map va).foldl (fun t va => askRange t (groupSpace s s.cur).1 (groupDie s.cur)
      (xlat t (groupSpace s s.cur).1 (groupSpace s s.cur).2) va n) s = s := by
    induction l with
    | nil => rfl
    | cons i r ih =>
      rw [List.map_cons, List.foldl_cons, one (hl i (List.mem_cons_self ..))]
      exact ih fun j hj => hl j (List.mem_cons_of_mem _ hj)
  exact all _ fun i hi => List.mem_range.mp hi

end Area

/-- The entries read back from a quiet area are the bytes of its places. -/
theorem QuietArea.read_map {α : Type} {s : State} {va : Nat → DWord} {key : Nat → Nat} {n : Nat} (q : QuietArea s va key n) (hn : 0 < n)
    (f : List Byte → α) : ((List.range 8).map va).map (fun a => f (Machine.stackRead s s.cur a n))
      = (List.range 8).map fun j => f (memBytes s.mem (key j) n) := by
  rw [List.map_map]
  exact List.map_congr_left fun i hi => congrArg f (q.stackRead hn (List.mem_range.mp hi))

theorem modGroup_cur (s : State) (f : Group → Group) : modGroup s s.cur f = setCur s (f (curGroup s)) := rfl

theorem refillDiv_quiet {s : State} {key : Nat → Nat} (he : (curGroup s).div = []) (hs : 8 ≤ (curGroup s).divSpill)
    (q : QuietArea s (fun i => divAddr (curGroup s) ((curGroup s).divSpill - 1 - i)) key 32) :
    refillDiv s s.cur = setCur s { curGroup s with
      div := (List.range 8).map fun j => divOf (curGroup s).exited (memBytes s.mem (key j) 32), divSpill := (curGroup s).divSpill - 8 } := by
  unfold refillDiv
  rw [show getGroup s s.cur = curGroup s from rfl]
  dsimp only
  rw [if_pos (by simp [he, hs]), q.stackPoison (by decide), q.askStack (by decide), q.read_map (by decide) (divOf (curGroup s).exited)]
  rfl

theorem refillCall_quiet {s : State} {key : Nat → Nat} (he : (curGroup s).call = []) (hs : 8 ≤ (curGroup s).callSpill)
    (q : QuietArea s (fun i => callAddr s s.cur ((curGroup s).callSpill - 1 - i)) key 16) :
    refillCall s s.cur = setCur s { curGroup s with
      call := (List.range 8).map fun j => callOf (memBytes s.mem (key j) 16), callSpill := (curGroup s).callSpill - 8 } := by
  unfold refillCall
  rw [show getGroup s s.cur = curGroup s from rfl]
  dsimp only
  rw [if_pos (by simp [he, hs]), q.stackPoison (by decide), q.askStack (by decide), q.read_map (by decide) callOf]
  rfl

/-! ## Pops (R60, R61) -/

/-- A pop that leaves an entry on the chip, or finds none in the area, reads nothing back. -/
theorem popDiv_plain {s : State} (h : (curGroup s).div.tail ≠ [] ∨ (curGroup s).divSpill < 8) :
    popDiv s s.cur = setCur s { curGroup s with div := (curGroup s).div.tail } := by
  have stays : refillDiv (setCur s { curGroup s with div := (curGroup s).div.tail }) s.cur
      = setCur s { curGroup s with div := (curGroup s).div.tail } := by
    unfold refillDiv
    rw [show getGroup (setCur s _) s.cur = _ from curGroup_setCur ..]
    refine if_neg ?_
    simp only [Bool.and_eq_true, List.isEmpty_iff, decide_eq_true_eq]
    rintro ⟨he, hs⟩
    rcases h with h | h
    · exact h he
    · exact absurd hs (Nat.not_le.mpr h)
  exact stays

theorem popCall_plain {s : State} (h : (curGroup s).call.tail ≠ [] ∨ (curGroup s).callSpill < 8) :
    popCall s s.cur = setCur s { curGroup s with call := (curGroup s).call.tail } := by
  have stays : refillCall (setCur s { curGroup s with call := (curGroup s).call.tail }) s.cur
      = setCur s { curGroup s with call := (curGroup s).call.tail } := by
    unfold refillCall
    rw [show getGroup (setCur s _) s.cur = _ from curGroup_setCur ..]
    refine if_neg ?_
    simp only [Bool.and_eq_true, List.isEmpty_iff, decide_eq_true_eq]
    rintro ⟨he, hs⟩
    rcases h with h | h
    · exact h he
    · exact absurd hs (Nat.not_le.mpr h)
  exact stays

theorem refillDiv_setCur {s : State} {x : Group} {key : Nat → Nat} (hx : OnlyStacks (curGroup s) x) (he : x.div = [])
    (hs : 8 ≤ x.divSpill) (q : QuietArea s (fun i => divAddr x (x.divSpill - 1 - i)) key 32) :
    refillDiv (setCur s x) s.cur = setCur s { x with
      div := (List.range 8).map fun j => divOf x.exited (memBytes s.mem (key j) 32), divSpill := x.divSpill - 8 } := by
  have r := refillDiv_quiet (s := setCur s x) (key := key) (by rwa [curGroup_setCur]) (by rwa [curGroup_setCur])
    (by rw [curGroup_setCur]; exact (StackWork.setCur s hx).quietArea q)
  simp only [curGroup_setCur, setCur_setCur] at r
  exact r

theorem refillCall_setCur {s : State} {x : Group} {key : Nat → Nat} (hx : OnlyStacks (curGroup s) x) (he : x.call = [])
    (hs : 8 ≤ x.callSpill) (q : QuietArea s (fun i => callAddr s s.cur (x.callSpill - 1 - i)) key 16) :
    refillCall (setCur s x) s.cur = setCur s { x with
      call := (List.range 8).map fun j => callOf (memBytes s.mem (key j) 16), callSpill := x.callSpill - 8 } := by
  have w : StackWork s (setCur s x) := .setCur s hx
  have at_ : (fun i => callAddr (setCur s x) (setCur s x).cur (x.callSpill - 1 - i)) = fun i => callAddr s s.cur (x.callSpill - 1 - i) :=
    funext fun i => w.callAddr _
  have r := refillCall_quiet (s := setCur s x) (key := key) (by rwa [curGroup_setCur]) (by rwa [curGroup_setCur])
    (by rw [curGroup_setCur, at_]; exact w.quietArea q)
  simp only [curGroup_setCur, setCur_setCur] at r
  exact r

/-- The pop of the last entry on the chip reads back the eight newest of the area. -/
theorem popDiv_refill {s : State} {key : Nat → Nat} (he : (curGroup s).div.tail = []) (hs : 8 ≤ (curGroup s).divSpill)
    (q : QuietArea s (fun i => divAddr (curGroup s) ((curGroup s).divSpill - 1 - i)) key 32) :
    popDiv s s.cur = setCur s { curGroup s with
      div := (List.range 8).map fun j => divOf (curGroup s).exited (memBytes s.mem (key j) 32), divSpill := (curGroup s).divSpill - 8 } :=
  refillDiv_setCur (x := { curGroup s with div := (curGroup s).div.tail }) rfl he hs q

theorem popCall_refill {s : State} {key : Nat → Nat} (he : (curGroup s).call.tail = []) (hs : 8 ≤ (curGroup s).callSpill)
    (q : QuietArea s (fun i => callAddr s s.cur ((curGroup s).callSpill - 1 - i)) key 16) :
    popCall s s.cur = setCur s { curGroup s with
      call := (List.range 8).map fun j => callOf (memBytes s.mem (key j) 16), callSpill := (curGroup s).callSpill - 8 } :=
  refillCall_setCur (x := { curGroup s with call := (curGroup s).call.tail }) rfl he hs q

end Sys2Proof.Stated
end

section
/-! PROOFS. What an instruction does that cannot reach its stack area, and the statement about JOIN (R61, R125, R126). -/

namespace Sys2Proof.Stated

open Sys2Proof Sys2Proof.Machine

/-! ## Sums sent and notices posted -/

/-- Only stores on their way, cores, logs and notices differ. -/
structure Told (s t : State) : Prop where
  cur : t.cur = s.cur
  mem : t.mem = s.mem
  groups : t.groups = s.groups
  blocks : t.blocks = s.blocks
  grids : t.grids = s.grids
  dies : t.dies = s.dies

theorem Told.refl (s : State) : Told s s := ⟨rfl, rfl, rfl, rfl, rfl, rfl⟩

theorem Told.trans {s t u : State} (h : Told s t) (k : Told t u) : Told s u :=
  ⟨k.cur.trans h.cur, k.mem.trans h.mem, k.groups.trans h.groups, k.blocks.trans h.blocks, k.grids.trans h.grids, k.dies.trans h.dies⟩

theorem Told.foldl {α : Type} {f : State → α → State} (h : ∀ s a, Told s (f s a)) (l : List α) (s : State) : Told s (l.foldl f s) := by
  induction l generalizing s with
  | nil => exact .refl s
  | cons a r ih => exact (h s a).trans (ih _)

theorem Told.addStore (s : State) (t : PStore) : Told s (addStore s t) := ⟨rfl, rfl, rfl, rfl, rfl, rfl⟩

theorem Told.sendGather (s : State) (c l : Nat) : Told s (sendGather s c l) := by
  unfold Machine.sendGather
  split
  · exact .refl s
  · next h _ =>
    exact Told.trans (t := modCore s c fun k => { k with gather := mapDel k.gather l }) ⟨rfl, rfl, rfl, rfl, rfl, rfl⟩
      (.foldl (fun s e => .addStore s (gatherStore c l h e)) _ _)

theorem Told.sendAllGathers (s : State) (c : Nat) : Told s (sendAllGathers s c) := .foldl (fun s l => .sendGather s c l) _ s

theorem Told.sendGathersOf (s : State) (hit : Gather → Bool) : Told s (sendGathersOf s hit) := .foldl (fun s _ => .sendGather s _ _) _ s

theorem Told.postNotice (s : State) (u d p c : Nat) (b : List Byte) : Told s (postNotice s u d p c b) := by
  unfold Machine.postNotice
  have sent := Told.sendGathersOf s fun h => h.ofUid u
  generalize Machine.sendGathersOf s _ = t at sent ⊢
  refine sent.trans ?_
  dsimp only
  split
  · exact ⟨rfl, rfl, rfl, rfl, rfl, rfl⟩
  · exact ⟨rfl, rfl, rfl, rfl, rfl, rfl⟩

theorem Told.sendNotice (s : State) (g more : Nat) (r : Rec) : Told s (sendNotice s g more r) :=
  (Told.sendAllGathers s (slotCore g)).trans (.postNotice ..)

theorem Told.getGroup {s t : State} (h : Told s t) (g : Nat) : getGroup t g = getGroup s g := by
  unfold Machine.getGroup
  rw [h.groups]

theorem Told.curGroup {s t : State} (h : Told s t) : curGroup t = curGroup s := by
  unfold Machine.curGroup
  rw [h.cur, h.getGroup]

theorem Told.hidden {s t : State} (h : Told s t) (g : Nat) : hidden t g = hidden s g := by
  unfold Machine.hidden isFirmwareCore getDie
  rw [h.getGroup, h.dies]

/-! ## An area that cannot be reached (R126, R334) -/

/-- A page fault outside a handler and a prologue parks the group, with its registers, its mask and its stacks as they were. -/
theorem parkFault_parks {s : State} (pc : DWord) (r : Rec) (hp : (curGroup s).prologue = none) (hh : hidden s s.cur = false) :
    (parkFault s s.cur pc r).mem = s.mem
      ∧ ∃ n, curGroup (parkFault s s.cur pc r) = { unchained { curGroup s with pend := (curGroup s).pend.filter fun p => p.cls = .A } with
          pc, chainPc := pc, status := .parked .pageFault, tlbiSeen := n } := by
  have told := Told.sendNotice s s.cur (64 + privFlag s s.cur) r
  unfold parkFault
  rw [show getGroup s s.cur = curGroup s from rfl, hp]
  simp only [Option.isSome_none, Bool.false_eq_true, if_false]
  generalize Machine.sendNotice s s.cur (64 + privFlag s s.cur) r = t at told ⊢
  have shown : hidden (dropPend t s.cur) s.cur = false := by
    rw [← hh, ← told.hidden]
    unfold Machine.hidden dropPend
    rw [getGroup_modGroup_same]
    rfl
  rw [shown]
  simp only [Bool.false_eq_true, if_false]
  refine ⟨told.mem, (getCtx t (groupSpace s s.cur).1 (groupSpace s s.cur).2).tlbi, ?_⟩
  rw [Machine.curGroup, show (modGroup (dropPend t s.cur) s.cur _).cur = s.cur from told.cur, getGroup_modGroup_same]
  unfold dropPend
  rw [getGroup_modGroup_same, told.getGroup]
  rfl

/-- What the shared operation of a failing push or pop does is what the words say of it. -/
theorem stackStops_stackTrap (s : State) (k : Issue) (e : StackFault) : StackStops s k e (stackTrap s k e) := by
  cases e with
  | wait => rfl
  | overflow c => rfl
  | prot c w a e => rfl
  | absent c l a e =>
    refine ⟨rfl, fun hp hh => ⟨_, rfl, ?_⟩⟩
    obtain ⟨hm, n, hx⟩ := parkFault_parks (replayPc (curGroup s) k.ops) (mkRec s s.cur 0x12 255 0 (l + if c then 256 else 0) a e 0) hp hh
    rw [hx]
    exact ⟨hm, rfl, rfl, rfl, rfl, rfl, rfl, rfl⟩

/-! ## The loop of JOIN (R125) -/

/-- No entry of its own is left for a JOIN at an address. -/
def NoneLeft (x : Group) (j : DWord) : Prop := ∀ e r, x.div = e :: r → e.reconv ≠ j ∨ depthD x ≤ frameDepth x

theorem joinLoop_stops {s : State} {j : DWord} (next : DWord) (n : Nat) (h : NoneLeft (curGroup s) j) :
    joinLoop s j next n = .ok (setCur s { curGroup s with pc := next }) := by
  cases n with
  | zero => rfl
  | succ n =>
    unfold joinLoop
    dsimp only
    split
    · rfl
    · next e r hd =>
      rw [if_neg]
      simp only [Bool.and_eq_true, decide_eq_true_eq]
      rintro ⟨hf, hj⟩
      rcases h e r hd with h | h
      · exact h hj
      · exact absurd hf (Nat.not_lt.mpr h)

/-- The newest entry is one for a JOIN at an address. -/
structure Own (x : Group) (j : DWord) (e : DivEntry) (r : List DivEntry) : Prop where
  div : x.div = e :: r
  reconv : e.reconv = j
  frame : frameDepth x < depthD x

theorem joinLoop_own {s : State} {j : DWord} {e : DivEntry} {r : List DivEntry} (next : DWord) (n : Nat) (h : Own (curGroup s) j e r) :
    joinLoop s j next (n + 1) = match tryPopDiv s s.cur with
      | .error b => .error b
      | .ok t => if e.mask = 0 then joinLoop t j next n
        else .ok (setCur t { curGroup t with xm := e.mask, pc := if e.pc.getLsbD 0 then e.pc &&& ~~~(1 : DWord) else next }) := by
  obtain ⟨hd, hj, hf⟩ := h
  rw [joinLoop]
  dsimp only
  rw [hd]
  dsimp only
  exact if_pos (by simp [hf, hj])

theorem tryPopDiv_plain {s : State} (h : (curGroup s).divSpill < 8) :
    tryPopDiv s s.cur = .ok (setCur s { curGroup s with div := (curGroup s).div.tail }) := by
  have free : popDivFault s s.cur = none := if_neg (by
    rw [show getGroup s s.cur = curGroup s from rfl]
    simp only [Bool.and_eq_true, decide_eq_true_eq]
    omega)
  unfold tryPopDiv
  rw [free, popDiv_plain (.inr h)]

/-- An entry of lanes that have all exited is dropped, and the loop goes on. -/
theorem joinLoop_drops {s : State} {j : DWord} {e : DivEntry} {r : List DivEntry} (next : DWord) (n : Nat) (h : Own (curGroup s) j e r)
    (hs : (curGroup s).divSpill < 8) (hm : e.mask = 0) :
    joinLoop s j next (n + 1) = joinLoop (setCur s { curGroup s with div := r }) j next n := by
  rw [joinLoop_own next n h, tryPopDiv_plain hs, h.div]
  exact if_pos hm

/-- An entry of lanes that wait is popped. -/
theorem joinLoop_takes {s : State} {j : DWord} {e : DivEntry} {r : List DivEntry} (next : DWord) (n : Nat) (h : Own (curGroup s) j e r)
    (hs : (curGroup s).divSpill < 8) (hm : e.mask ≠ 0) :
    joinLoop s j next (n + 1) = .ok (setCur s { curGroup s with
      div := r, xm := e.mask, pc := if e.pc.getLsbD 0 then e.pc &&& ~~~(1 : DWord) else next }) := by
  rw [joinLoop_own next n h, tryPopDiv_plain hs, h.div]
  dsimp only
  rw [if_neg hm, curGroup_setCur, setCur_setCur]
  rfl

/-- Entries of its own whose lanes have all exited stand above the rest of the stack. -/
structure Spent (x : Group) (j : DWord) (z r : List DivEntry) : Prop where
  div : x.div = z ++ r
  own : ∀ e ∈ z, e.mask = 0 ∧ e.reconv = j
  frame : z.length ≤ depthD x - frameDepth x
  chip : x.divSpill = 0

/-- The newest spent entry is one for the JOIN, and those below it are spent when it is gone. -/
theorem Spent.cons {x : Group} {j : DWord} {e : DivEntry} {z r : List DivEntry} (h : Spent x j (e :: z) r) :
    Own x j e (z ++ r) ∧ e.mask = 0 ∧ Spent { x with div := z ++ r } j z r := by
  obtain ⟨hd, ho, hf, hs⟩ := h
  obtain ⟨hm, hj⟩ := ho e (List.mem_cons_self ..)
  rw [List.length_cons] at hf
  refine ⟨⟨hd, hj, by omega⟩, hm, rfl, fun d hd => ho d (List.mem_cons_of_mem _ hd), ?_, hs⟩
  have depth : depthD x = depthD { x with div := z ++ r } + 1 := by
    unfold depthD
    rw [hd]
    simp [Nat.add_assoc]
  rw [depth] at hf
  exact Nat.le_of_lt_succ (by omega : z.length < depthD { x with div := z ++ r } - frameDepth x + 1)

theorem Spent.short {x : Group} {j : DWord} {z r : List DivEntry} (h : Spent x j z r) : z.length < depthD x + 1 :=
  Nat.lt_succ_of_le (h.frame.trans (Nat.sub_le ..))

/-- The depth of the stack that is left under the spent entries. -/
theorem Spent.depth {x : Group} {j : DWord} {z r : List DivEntry} (h : Spent x j z r) :
    depthD { x with div := r } = depthD x - z.length := by
  unfold depthD
  rw [h.div, List.length_append]
  dsimp only
  omega

theorem joinLoop_spent_stops {s : State} {j : DWord} {z r : List DivEntry} (next : DWord) {n : Nat} (h : Spent (curGroup s) j z r)
    (hn : z.length ≤ n) (hr : NoneLeft { curGroup s with div := r } j) :
    joinLoop s j next n = .ok (setCur s { curGroup s with div := r, pc := next }) := by
  induction z generalizing s n with
  | nil =>
    have whole : curGroup s = { curGroup s with div := r } := by rw [← show (curGroup s).div = r from h.div]
    rw [joinLoop_stops next n (by rw [whole]; exact hr), ← show (curGroup s).div = r from h.div]
  | cons e z ih =>
    obtain ⟨n, rfl⟩ : ∃ m, n = m + 1 := ⟨n - 1, by simp at hn; omega⟩
    obtain ⟨own, hm, left⟩ := h.cons
    rw [joinLoop_drops next n own (by rw [h.chip]; decide) hm, ih (by rwa [curGroup_setCur]) (by simpa using hn) (by rwa [curGroup_setCur]),
      curGroup_setCur, setCur_setCur]

theorem joinLoop_spent_takes {s : State} {j : DWord} {z q : List DivEntry} {e : DivEntry} (next : DWord) {n : Nat}
    (h : Spent (curGroup s) j z (e :: q)) (hn : z.length < n) (he : Own { curGroup s with div := e :: q } j e q) (hm : e.mask ≠ 0) :
    joinLoop s j next n = .ok (setCur s { curGroup s with
      div := q, xm := e.mask, pc := if e.pc.getLsbD 0 then e.pc &&& ~~~(1 : DWord) else next }) := by
  induction z generalizing s n with
  | nil =>
    obtain ⟨n, rfl⟩ : ∃ m, n = m + 1 := ⟨n - 1, by omega⟩
    have whole : curGroup s = { curGroup s with div := e :: q } := by rw [← show (curGroup s).div = e :: q from h.div]
    exact joinLoop_takes next n (by rw [whole]; exact he) (by rw [h.chip]; decide) hm
  | cons d z ih =>
    obtain ⟨n, rfl⟩ : ∃ m, n = m + 1 := ⟨n - 1, by omega⟩
    obtain ⟨own, hd, left⟩ := h.cons
    rw [joinLoop_drops next n own (by rw [h.chip]; decide) hd, ih (by rwa [curGroup_setCur]) (by simpa using hn) (by rwa [curGroup_setCur]),
      curGroup_setCur, setCur_setCur]

/-- The last entry on the chip is popped, and the eight newest of the area come back. -/
theorem joinLoop_refills {s : State} {j : DWord} {e : DivEntry} {key : Nat → Nat} (next : DWord) (n : Nat) (h : Own (curGroup s) j e [])
    (hs : 8 ≤ (curGroup s).divSpill) (hb : popDivFault s s.cur = none) (hm : e.mask ≠ 0)
    (q : QuietArea s (fun i => divAddr (curGroup s) ((curGroup s).divSpill - 1 - i)) key 32) :
    joinLoop s j next (n + 1) = .ok (setCur s { curGroup s with
      div := (List.range 8).map fun j => divOf (curGroup s).exited (memBytes s.mem (key j) 32), divSpill := (curGroup s).divSpill - 8
      xm := e.mask, pc := if e.pc.getLsbD 0 then e.pc &&& ~~~(1 : DWord) else next }) := by
  rw [joinLoop_own next n h, tryPopDiv, hb, popDiv_refill (by rw [h.div]; rfl) hs q]
  dsimp only
  rw [if_neg hm, curGroup_setCur, setCur_setCur]

/-! ## The JOIN -/

/-- A JOIN whose loop ends in a group completes with it. -/
theorem joinHere_of_loop {s : State} {k : Issue} {x : Group} (hp : Passes s k)
    (h : joinLoop s (curGroup s).pc ((curGroup s).pc + BitVec.ofNat 64 k.len) (depthD (curGroup s) + 1) = .ok (setCur s x)) :
    joinHere s k = .next (setCur s { advance { x with pc := (curGroup s).pc } k.len (readsLatch k) false none with pc := x.pc }) := by
  unfold joinHere
  dsimp only
  rw [issue_pass _ hp, h]
  simp only [goTo_eq, curGroup_setCur, setCur_setCur]

/-- A JOIN whose loop cannot read the area stops there. -/
theorem joinHere_of_fault {s : State} {k : Issue} {b : StackFault} (hp : Passes s k)
    (h : joinLoop s (curGroup s).pc ((curGroup s).pc + BitVec.ofNat 64 k.len) (depthD (curGroup s) + 1) = .error b) :
    StackStops s k b (joinHere s k) := by
  unfold joinHere
  dsimp only
  rw [issue_pass _ hp, h]
  exact stackStops_stackTrap s k b

/-- What keeps the last entry on the chip from being popped is what keeps the eight newest of the area from being read. -/
theorem popDivFault_last {s : State} (h : (curGroup s).div.length ≤ 1) (hs : 8 ≤ (curGroup s).divSpill) :
    popDivFault s s.cur = areaFault s s.cur false false 32 ((List.range 8).map fun i => divAddr (curGroup s) ((curGroup s).divSpill - 1 - i)) :=
  if_pos (by simp [show getGroup s s.cur = curGroup s from rfl, h, hs])

end Sys2Proof.Stated

namespace Sys2Proof.Proofs

open Sys2Proof Sys2Proof.Machine Sys2Proof.Stated

/-- Settles O30: the spent entries go one after another, and then the loop stops, or pops an entry, from the chip or with a refill. -/
theorem joinPops : Obligations.JoinPops := by
  unfold Obligations.JoinPops
  intro s f base x k i y next va hp
  have run : exec i s = joinHere s k := by cases base <;> rfl
  rw [run]
  refine ⟨fun hr => ?stops, fun z r hd hz hl hs => ⟨fun hr => ?spent, fun e q hr hj hf hm => ?takes⟩, fun e hd hj hf hs => ?refill⟩
  case stops => exact joinHere_of_loop hp (joinLoop_stops _ _ hr)
  case spent =>
    have spent : Spent x x.pc z r := ⟨hd, hz, hl, hs⟩
    exact joinHere_of_loop hp (joinLoop_spent_stops _ spent spent.short.le fun e q he => by rw [spent.depth]; exact hr e q he)
  case takes =>
    have spent : Spent x x.pc z r := ⟨hd, hz, hl, hs⟩
    subst hr
    refine joinHere_of_loop hp (joinLoop_spent_takes _ spent spent.short ⟨rfl, hj, ?_⟩ hm)
    rw [spent.depth]
    exact hf
  case refill =>
    have own : Own x x.pc e [] := ⟨hd, hj, hf⟩
    have fault := popDivFault_last (s := s) (by rw [own.div]; exact Nat.le_refl 1) hs
    refine ⟨fun b hb => joinHere_of_fault hp (by rw [joinLoop_own _ _ own, tryPopDiv, fault.trans hb]), fun hb hm key hq => ?_⟩
    refine ⟨_, joinHere_of_loop hp (joinLoop_refills _ _ own hs (fault.trans hb) hm hq), rfl, fun h hh => getGroup_setCur_ne s _ hh, ?_⟩
    rw [curGroup_setCur]
    rfl

end Sys2Proof.Proofs
end

section
/-! PROOFS. Entries written to the stack area of a group (R61), and the statement about BRD (R124, R126). -/

namespace Sys2Proof.Stated

open Sys2Proof Sys2Proof.Machine

/-! ## Lines to which a store is performed at once -/

/-- A line of HBM4E on which nothing waits and which no group watches, and to which a group, whose identity is its own, stores. -/
structure FreeLine (s : State) (g l : Nat) : Prop where
  image : (getHome s l).next = []
  lock : (getHome s l).lock = none
  watchers : (getHome s l).watchers = []
  sums : ∀ e ∈ s.cores, mapFind e.2.gather l = none
  stores : ∀ t ∈ s.stores, t.going l = false
  copy : ∀ key, lineOf key = l → getCopy s (l1Holder s g key) l = none
  fwd : (getGroup s g).fwd = []
  busy : homeBusy s (128 * l) = false
  gone : homeGone s (128 * l) = false
  slot : slotOfUid s (getGroup s g).uid = some g

theorem lineOf_line (l : Nat) : lineOf (128 * l) = l := by unfold lineOf; omega

theorem l1Holder_of_lineOf (s : State) (g : Nat) {a b : Nat} (h : lineOf a = lineOf b) : l1Holder s g a = l1Holder s g b := by
  have e : keyPa a / 128 = keyPa b / 128 := by
    unfold lineOf at h
    unfold keyPa
    omega
  unfold l1Holder
  rw [e]

/-- The lines of a free area are free lines. -/
theorem FreeArea.freeLine {s : State} {va : Nat → DWord} {key : Nat → Nat} {n : Nat} (q : FreeArea s va key n) {i : Nat} (hi : i < 8) :
    FreeLine s s.cur (lineOf (key i)) := by
  obtain ⟨hq, -, hslot, hfree⟩ := q
  obtain ⟨-, -, -, hnext, hlock, hsums, hl1, -, hfwd, hbusy, hclean, hstores, -⟩ := hq i hi
  have same := lineOf_line (lineOf (key i))
  refine ⟨hnext, hlock, (hfree i hi).1, (gatherers_eq_nil hsums).1, fun t ht => ?_, fun k hk => ?_, hfwd, ?_, ?_, hslot⟩
  · have away := List.all_eq_true.mp hstores t ht
    unfold PStore.going
    rw [decide_eq_false (of_decide_eq_true away)]
    rfl
  · rw [l1Holder_of_lineOf s s.cur hk]
    exact hl1
  · rw [homeBusy_of_lineOf s same]
    exact hbusy
  · rw [homeGone_of_lineOf s same]
    exact (Bool.or_eq_false_iff.mp hclean).1

/-! ## What entries written to the area leave alone -/

/-- Only memory and what goes with its lines differs: stale words, poison, copies, and stores that have been performed. -/
structure AreaWork (s t : State) : Prop where
  rest : t = { s with mem := t.mem, stale := t.stale, poison := t.poison, copies := t.copies, stores := t.stores, nextId := t.nextId }
  stores : ∀ l, (∀ x ∈ s.stores, x.going l = false) → ∀ x ∈ t.stores, x.going l = false
  copies : ∀ h l, getCopy s h l = none → getCopy t h l = none

theorem AreaWork.refl (s : State) : AreaWork s s := ⟨rfl, fun _ h => h, fun _ _ h => h⟩

theorem AreaWork.trans {s t u : State} (h : AreaWork s t) (k : AreaWork t u) : AreaWork s u where
  rest := by
    have e := k.rest
    rw [h.rest] at e
    exact e
  stores l e := k.stores l (h.stores l e)
  copies a l e := k.copies a l (h.copies a l e)

theorem AreaWork.cur {s t : State} (h : AreaWork s t) : t.cur = s.cur := by rw [h.rest]
theorem AreaWork.groups {s t : State} (h : AreaWork s t) : t.groups = s.groups := by rw [h.rest]

theorem AreaWork.getGroup_eq {s t : State} (h : AreaWork s t) (g : Nat) : getGroup t g = getGroup s g := by
  unfold getGroup
  rw [h.groups]

theorem AreaWork.modGroup_cur {s t : State} (h : AreaWork s t) (f : Group → Group) : modGroup t s.cur f = setCur t (f (curGroup s)) := by
  rw [modGroup, setCur, h.getGroup_eq, h.cur]
  rfl

theorem AreaWork.freeLine {s t : State} (h : AreaWork s t) {g l : Nat} (q : FreeLine s g l) : FreeLine t g l where
  image := by rw [h.rest]; exact q.image
  lock := by rw [h.rest]; exact q.lock
  watchers := by rw [h.rest]; exact q.watchers
  sums := by rw [h.rest]; exact q.sums
  stores := h.stores l q.stores
  copy key e := h.copies _ _ (by rw [h.rest]; exact q.copy key e)
  fwd := by rw [h.rest]; exact q.fwd
  busy := by rw [h.rest]; exact q.busy
  gone := by rw [h.rest]; exact q.gone
  slot := by rw [h.rest]; exact q.slot

/-! ## One store -/

theorem mem_of_mapFind {α : Type} {m : AMap α} {k : Nat} {v : α} (h : mapFind m k = some v) : (k, v) ∈ m := by
  induction m with
  | nil => cases h
  | cons e r ih =>
    unfold mapFind at h
    split at h
    · next e' =>
      cases h
      exact e' ▸ List.mem_cons_self ..
    · exact List.mem_cons_of_mem _ (ih h)

theorem bumpWatchers_of_none {s : State} {l : Nat} (h : (getHome s l).watchers = []) : bumpWatchers s l = s := by
  unfold bumpWatchers
  rw [h]
  rfl

section Store
variable {s : State} {g l : Nat} (q : FreeLine s g l)
include q

theorem FreeLine.sendGather (c : Nat) : sendGather s c l = s := by
  have sums : mapFind (getCore s c).gather l = none := by
    unfold getCore mapGet
    cases h : mapFind s.cores c with
    | none => rfl
    | some k => exact q.sums _ (mem_of_mapFind h)
  unfold Machine.sendGather
  rw [sums]

theorem FreeLine.flushCore (c : Nat) : flushCore s c l = s := by
  unfold Machine.flushCore
  split
  · rfl
  · dsimp only
    rw [List.filter_eq_nil_iff.mpr fun t ht => ?_]
    · rfl
    · simp [q.stores t ht]

theorem FreeLine.flushOwn {k : Nat} (hk : lineOf k = l) : flushOwn s g k = s := by
  unfold Machine.flushOwn
  subst hk
  dsimp only
  rw [List.filter_eq_nil_iff.mpr fun e he => by rw [q.sums e he]; exact Bool.false_ne_true]
  rw [List.foldl_nil, List.filter_eq_nil_iff.mpr fun t ht => by simp [q.stores t ht]]
  rfl

theorem FreeLine.lineHeld : lineHeld s l = false := by
  unfold Machine.lineHeld
  rw [q.lock, q.busy]
  rfl

theorem FreeLine.homeWrite (b : AMap Byte) : homeWrite s l b
    = { s with stale := staleWords s (b.map fun e => 128 * l + e.1), mem := putOffsets s.mem l b, poison := cleaned l b s.poison } := by
  have shown : showBytes s l b = { s with stale := staleWords s (b.map fun e => 128 * l + e.1), mem := putOffsets s.mem l b } := by
    unfold showBytes
    dsimp only
    split
    · exact bumpWatchers_of_none q.watchers
    · rfl
  unfold Machine.homeWrite
  rw [q.gone, settle_of_no_image q.image]
  simp only [Bool.false_eq_true, if_false]
  rw [q.image]
  unfold setVisible
  rw [shown]
  rfl

theorem FreeLine.ownWritten {h : Nat} (hc : getCopy s h l = none) (b : AMap Byte) : ownWritten s [(getGroup s g).uid] h l b = s := by
  have kept : unforward s (getGroup s g).uid l b = s := by
    unfold unforward findUid
    rw [q.slot]
    dsimp only
    rw [q.fwd]
    rfl
  unfold Machine.ownWritten ownAtomic lastVisible
  rw [List.foldl_cons, List.foldl_nil, kept, q.image]
  dsimp only [List.getLast?_nil, Option.map_none]
  rw [hc]

end Store

theorem mapFind_filter_none {α : Type} {m : AMap α} (p : Nat × α → Bool) {k : Nat} (h : mapFind m k = none) :
    mapFind (m.filter p) k = none := by
  induction m with
  | nil => rfl
  | cons e r ih =>
    unfold mapFind at h
    split at h
    · cases h
    · next e' =>
      rw [List.filter_cons]
      split
      · rw [mapFind, if_neg e']
        exact ih h
      · exact ih h

theorem areaWork_dropCopy (s : State) (h l : Nat) : AreaWork s (dropCopy s h l) where
  rest := rfl
  stores _ e := e
  copies a k e := by
    unfold getCopy dropCopy at *
    dsimp only
    rw [mapGet_mapMod]
    split
    · next e' => subst e'; exact mapFind_filter_none _ e
    · exact e

/-- A copy that a cache holds of a line is replaced. -/
theorem areaWork_setCopy {s : State} {h l : Nat} {c : Copy} (k : Copy) (hc : getCopy s h l = some c) : AreaWork s (setCopy s h l k) where
  rest := rfl
  stores _ e := e
  copies a j e := by
    unfold getCopy setCopy at *
    dsimp only
    rw [mapGet_mapMod]
    split
    · next e' =>
      subst e'
      by_cases ej : j = l
      · subst ej; rw [hc] at e; cases e
      · rw [mapFind_mapSet_ne _ _ ej]; exact e
    · exact e

theorem areaWork_dropCopies (s : State) (g l : Nat) : AreaWork s (dropCopies s g l) := by
  unfold dropCopies
  dsimp only
  split
  · next c hc => exact (areaWork_setCopy _ hc).trans (areaWork_dropCopy ..)
  · exact areaWork_dropCopy ..

theorem dropCopies_mem (s : State) (g l : Nat) : (dropCopies s g l).mem = s.mem := by
  unfold dropCopies
  dsimp only
  split <;> rfl

/-- A store that has been performed is on no way. -/
theorem areaWork_doneStore (s : State) (g k : Nat) (va : DWord) (c : Nat) (sc : Sc) (b : Bool) : AreaWork s (doneStore s g k va c sc b) where
  rest := rfl
  stores l e x hx := by
    rcases List.mem_append.mp hx with hx | hx
    · exact e x hx
    · rw [List.mem_singleton] at hx
      subst hx
      simp [PStore.going]
  copies _ _ e := e

theorem putOffsets_offsets {m : List Host.Cell} {k l : Nat} {b : List Byte} (hl : lineOf k = l) (h : k % 128 + b.length ≤ 128) :
    putOffsets m l (offsets k b) = memPut m k b := by
  induction b generalizing m k with
  | nil => rfl
  | cons x r ih =>
    have at_ : 128 * l + k % 128 = k := by rw [← hl]; exact Nat.div_add_mod k 128
    rw [offsets, putOffsets, memPut, at_]
    cases r with
    | nil => rfl
    | cons y r =>
      simp only [List.length_cons] at h
      refine ih ?_ ?_
      · rw [← hl]; exact lineOf_add (by omega)
      · simp only [List.length_cons]; omega

/-- A store of a group to a free line is performed at once (R253): its bytes stand in memory. -/
theorem storePlace_free {s : State} {g k : Nat} (q : FreeLine s g (lineOf k)) {x : Place} (hk : x.space = .hbm k) (hd : x.dark = false)
    (p : Nat) (va : DWord) {b : List Byte} (hb : k % 128 + b.length ≤ 128) :
    AreaWork s (storePlace s (.group g) p va x b) ∧ (storePlace s (.group g) p va x b).mem = memPut s.mem k b := by
  have wrote : AreaWork s (homeWrite s (lineOf k) (offsets k b)) := by rw [q.homeWrite]; exact ⟨rfl, fun _ e => e, fun _ _ e => e⟩
  have mem : (homeWrite s (lineOf k) (offsets k b)).mem = memPut s.mem k b := by
    rw [q.homeWrite]
    exact putOffsets_offsets rfl hb
  have stands : storePlace s (.group g) p va x b = doneStore (dropCopies (homeWrite s (lineOf k) (offsets k b)) g (lineOf k)) g k va
      (completion s (lineOf k)) .sys false := by
    unfold storePlace
    rw [hk]
    dsimp only
    rw [q.sendGather, q.flushOwn rfl, flushLine, q.flushCore, hd, q.lineHeld]
    simp only [Bool.false_eq_true, if_false]
    rw [settle_of_no_image q.image]
    have q' := wrote.freeLine q
    rw [q'.ownWritten (q'.copy k rfl)]
  rw [stands]
  refine ⟨wrote.trans ((areaWork_dropCopies ..).trans (areaWork_doneStore ..)), ?_⟩
  rw [← mem]
  exact dropCopies_mem ..


/-! ## Eight entries (R61) -/

/-- Entries of memory one after another, from the place with a number upward. -/
def putEntries (key : Nat → Nat) : Nat → List (List Byte) → List Host.Cell → List Host.Cell
  | _, [], m => m
  | i, b :: r, m => putEntries key (i + 1) r (memPut m (key i) b)

/-- The writes of a spill put the entries into memory, one after another, and do nothing else that lasts. -/
theorem FreeArea.foldl_stackWrite {α : Type} {s : State} {va : Nat → DWord} {key : Nat → Nat} {n : Nat} (q : FreeArea s va key n)
    (hn : 0 < n) (f : α → List Byte) (hf : ∀ a, (f a).length = n) (l : List α) {i : Nat} (hi : i + l.length ≤ 8) {t : State}
    (h : AreaWork s t) :
    AreaWork s ((l.zipIdx i).foldl (fun t e => stackWrite s t s.cur (va e.2) (f e.1)) t)
      ∧ ((l.zipIdx i).foldl (fun t e => stackWrite s t s.cur (va e.2) (f e.1)) t).mem = putEntries key i (l.map f) t.mem := by
  induction l generalizing i t with
  | nil => exact ⟨h, rfl⟩
  | cons a r ih =>
    rw [List.length_cons] at hi
    have hi8 : i < 8 := by omega
    obtain ⟨p, hp, hk, hd⟩ := q.1.place hi8
    obtain ⟨-, -, hkey, -⟩ := q.1 i hi8
    have one : stackWrite s t s.cur (va i) (f a) = storePlace t (.group s.cur) (groupSpace s s.cur).1 (va i) p (f a) := by
      unfold stackWrite
      rw [hf, q.1.lineParts hn hi8]
      simp only [List.foldl_cons, List.foldl_nil, hp, BitVec.sub_self, BitVec.toNat_zero, List.drop_zero]
      rw [List.take_of_length_le (by rw [hf])]
    obtain ⟨work, mem⟩ := storePlace_free (h.freeLine (q.freeLine hi8)) hk hd (groupSpace s s.cur).1 (va i) (b := f a) (by rw [hf]; exact hkey)
    rw [List.zipIdx_cons, List.foldl_cons, List.map_cons, putEntries, ← mem, one]
    exact ih (by omega) (h.trans work)

theorem memBytes_congr {m m' : List Host.Cell} {a n : Nat} (h : ∀ c, a ≤ c → c < a + n → memRead m c = memRead m' c) :
    memBytes m a n = memBytes m' a n := by
  induction n generalizing a with
  | zero => rfl
  | succ n ih =>
    rw [memBytes, memBytes, h a (Nat.le_refl a) (by omega), ih fun c h1 h2 => h c (by omega) (by omega)]

theorem memBytes_memPut {m : List Host.Cell} (a : Nat) (b : List Byte) (h : Memory.wf m = true) : memBytes (memPut m a b) a b.length = b := by
  induction b generalizing m a with
  | nil => rfl
  | cons x r ih =>
    rw [List.length_cons, memBytes, memPut, ih (a + 1) (memWrite_wf a x h), memRead_memPut _ _ _ (memWrite_wf a x h), if_neg (by omega),
      memRead_memWrite _ _ _ h, if_pos rfl]

section Entries
variable {key : Nat → Nat} {n : Nat} (apart : ∀ i, i < 8 → ∀ j, j < 8 → i ≠ j → key i + n ≤ key j ∨ key j + n ≤ key i)
  {l : List (List Byte)} (hl : ∀ b ∈ l, b.length = n)
include hl

/-- A byte of no entry stays as it was. -/
theorem memRead_putEntries {i : Nat} {m : List Host.Cell} (h : Memory.wf m = true) {a : Nat}
    (ha : ∀ j, i ≤ j → j < i + l.length → a < key j ∨ key j + n ≤ a) : memRead (putEntries key i l m) a = memRead m a := by
  induction l generalizing i m with
  | nil => rfl
  | cons b r ih =>
    rw [putEntries, ih (fun c hc => hl c (List.mem_cons_of_mem _ hc)) (memPut_wf _ b h)
      fun j h1 h2 => ha j (by omega) (by simp only [List.length_cons]; omega), memRead_memPut _ _ _ h, if_neg]
    have := hl b (List.mem_cons_self ..)
    have := ha i (Nat.le_refl i) (by simp)
    omega

include apart

/-- Each entry is read as it was put. -/
theorem memBytes_putEntries {i : Nat} {m : List Host.Cell} (h : Memory.wf m = true) (hi : i + l.length ≤ 8) {j : Nat} (hj : j < l.length) :
    memBytes (putEntries key i l m) (key (i + j)) n = l[j] := by
  induction l generalizing i m j with
  | nil => cases hj
  | cons b r ih =>
    simp only [List.length_cons] at hi hj
    have hb := hl b (List.mem_cons_self ..)
    have hr : ∀ c ∈ r, c.length = n := fun c hc => hl c (List.mem_cons_of_mem _ hc)
    rw [putEntries]
    cases j with
    | zero =>
      rw [memBytes_congr (m' := memPut m (key i) b) fun c h1 h2 => memRead_putEntries hr (memPut_wf _ b h) fun j h3 h4 => ?_]
      · have own := memBytes_memPut (key i) b h
        rwa [hb] at own
      · have := apart i (by omega) j (by omega) (by omega)
        simp only [Nat.add_zero] at h1 h2
        omega
    | succ j =>
      have next := ih hr (memPut_wf (key i) b h) (i := i + 1) (by omega) (j := j) (by omega)
      rwa [show i + 1 + j = i + (j + 1) by omega] at next

end Entries

/-- Eight entries put into a free area stand there, and no other byte has changed. -/
theorem FreeArea.spilled {s t : State} {va : Nat → DWord} {key : Nat → Nat} {n : Nat} (q : FreeArea s va key n) {l : List (List Byte)}
    (h8 : l.length = 8) (hl : ∀ b ∈ l, b.length = n) {entry : Nat → List Byte} (he : ∀ i, (hi : i < l.length) → l[i] = entry i)
    (h : t.mem = putEntries key 0 l s.mem) : Spilled s t key n entry := by
  obtain ⟨-, hwf, -, hfree⟩ := q
  refine ⟨fun i hi => ?_, fun a ha => ?_⟩
  · have one := memBytes_putEntries (fun i hi j hj => (hfree i hi).2 j hj) hl hwf (i := 0) (by omega) (j := i) (by omega)
    rw [Nat.zero_add] at one
    rw [h, one, he]
  · rw [h]
    exact memRead_putEntries hl hwf fun j _ hj => ha j (by omega)

/-- The eight oldest of a stack are the first eight of it from its other end. -/
theorem oldest_eight {α : Type} (f : α → List Byte) (d : α) (l : List α) {i : Nat} (hi : i < ((l.reverse.take 8).map f).length) :
    ((l.reverse.take 8).map f)[i] = f (l.reverse.getD i d) := by
  simp only [List.length_map, List.length_take] at hi
  rw [List.getElem_map, List.getElem_take, List.getD_eq_getElem _ _ (by omega)]

@[simp] theorem divBytes_length (e : DivEntry) : (divBytes e).length = 32 := by simp [divBytes]
@[simp] theorem callBytes_length (e : CallEntry) : (callBytes e).length = 16 := by simp [callBytes]

theorem forall_length_map {α : Type} {f : α → List Byte} {n : Nat} (h : ∀ a, (f a).length = n) {l : List α} : ∀ b ∈ l.map f, b.length = n :=
  fun b hb => by
    obtain ⟨a, -, rfl⟩ := List.mem_map.mp hb
    exact h a

/-- The eight oldest divergence entries on the chip go to a free area, and the others stay. -/
theorem spillDiv_free {s : State} {key : Nat → Nat} (d : DivEntry) (h8 : 8 ≤ (curGroup s).div.length)
    (q : FreeArea s (fun i => divAddr (curGroup s) ((curGroup s).divSpill + i)) key 32) :
    ∃ u, AreaWork s u ∧ Spilled s u key 32 (fun i => divBytes ((curGroup s).div.reverse.getD i d))
      ∧ spillDiv s s.cur = setCur u { curGroup s with
          div := (curGroup s).div.take ((curGroup s).div.length - 8), divSpill := (curGroup s).divSpill + 8 } := by
  obtain ⟨work, mem⟩ := q.foldl_stackWrite (by decide) divBytes divBytes_length ((curGroup s).div.reverse.take 8) (i := 0) (by simp) (.refl s)
  refine ⟨_, work, q.spilled (by simp [h8]) (forall_length_map divBytes_length) (fun i hi => oldest_eight divBytes d _ hi) mem, ?_⟩
  exact work.modGroup_cur fun y => { y with div := y.div.take (y.div.length - 8), divSpill := y.divSpill + 8 }

theorem spillCall_free {s : State} {key : Nat → Nat} (d : CallEntry) (h8 : 8 ≤ (curGroup s).call.length)
    (q : FreeArea s (fun i => callAddr s s.cur ((curGroup s).callSpill + i)) key 16) :
    ∃ u, AreaWork s u ∧ Spilled s u key 16 (fun i => callBytes ((curGroup s).call.reverse.getD i d))
      ∧ spillCall s s.cur = setCur u { curGroup s with
          call := (curGroup s).call.take ((curGroup s).call.length - 8), callSpill := (curGroup s).callSpill + 8 } := by
  obtain ⟨work, mem⟩ := q.foldl_stackWrite (by decide) callBytes callBytes_length ((curGroup s).call.reverse.take 8) (i := 0) (by simp) (.refl s)
  refine ⟨_, work, q.spilled (by simp [h8]) (forall_length_map callBytes_length) (fun i hi => oldest_eight callBytes d _ hi) mem, ?_⟩
  exact work.modGroup_cur fun y => { y with call := y.call.take (y.call.length - 8), callSpill := y.callSpill + 8 }

/-! ## Pushes (R60, R61, R126) -/

theorem pushDiv_plain {s : State} (e : DivEntry) (h : (curGroup s).div.length < 32) :
    pushDiv s s.cur e = .ok (setCur s { curGroup s with div := e :: (curGroup s).div }) := if_pos h

theorem pushCall_plain {s : State} (e : CallEntry) (h : (curGroup s).call.length < 16) :
    pushCall s s.cur e = .ok (setCur s { curGroup s with call := e :: (curGroup s).call }) := if_pos h

section Push
variable {s : State}

theorem pushDiv_overflow (e : DivEntry) (h : 32 ≤ (curGroup s).div.length)
    (ho : stackSize s s.cur < 32 * ((curGroup s).divSpill + 8) + 16 * (curGroup s).callSpill) :
    pushDiv s s.cur e = .error (.overflow false) :=
  (if_neg (Nat.not_lt.mpr h)).trans (if_pos ho)

theorem pushCall_overflow (e : CallEntry) (h : 16 ≤ (curGroup s).call.length)
    (ho : stackSize s s.cur < 32 * (curGroup s).divSpill + 16 * ((curGroup s).callSpill + 8)) :
    pushCall s s.cur e = .error (.overflow true) :=
  (if_neg (Nat.not_lt.mpr h)).trans (if_pos ho)

theorem pushDiv_full (e : DivEntry) (h : 32 ≤ (curGroup s).div.length)
    (ho : 32 * ((curGroup s).divSpill + 8) + 16 * (curGroup s).callSpill ≤ stackSize s s.cur) :
    pushDiv s s.cur e
      = match areaFault s s.cur false true 32 ((List.range 8).map fun i => divAddr (curGroup s) ((curGroup s).divSpill + i)) with
        | some f => .error f
        | none => .ok (modGroup (spillDiv s s.cur) s.cur fun y => { y with div := e :: y.div }) :=
  (if_neg (Nat.not_lt.mpr h)).trans (if_neg (Nat.not_lt.mpr ho))

theorem pushCall_full (e : CallEntry) (h : 16 ≤ (curGroup s).call.length)
    (ho : 32 * (curGroup s).divSpill + 16 * ((curGroup s).callSpill + 8) ≤ stackSize s s.cur) :
    pushCall s s.cur e
      = match areaFault s s.cur true true 16 ((List.range 8).map fun i => callAddr s s.cur ((curGroup s).callSpill + i)) with
        | some f => .error f
        | none => .ok (modGroup (spillCall s s.cur) s.cur fun y => { y with call := e :: y.call }) :=
  (if_neg (Nat.not_lt.mpr h)).trans (if_neg (Nat.not_lt.mpr ho))

theorem pushCall_fault (e : CallEntry) (h : 16 ≤ (curGroup s).call.length)
    (ho : 32 * (curGroup s).divSpill + 16 * ((curGroup s).callSpill + 8) ≤ stackSize s s.cur) {b : StackFault}
    (hb : areaFault s s.cur true true 16 ((List.range 8).map fun i => callAddr s s.cur ((curGroup s).callSpill + i)) = some b) :
    pushCall s s.cur e = .error b := by
  rw [pushCall_full e h ho, hb]

end Push

theorem modGroup_setCur {u : State} {g : Nat} (h : u.cur = g) (x : Group) (f : Group → Group) :
    modGroup (setCur u x) g f = setCur u (f x) := by
  subst h
  rw [modGroup, show getGroup (setCur u x) u.cur = x from curGroup_setCur u x]
  exact setCur_setCur u x (f x)

/-- A push that meets a full chip over a free area sends the eight oldest entries there. -/
theorem pushDiv_spills {s : State} {key : Nat → Nat} (e d : DivEntry) (h : (curGroup s).div.length = 32)
    (ho : 32 * ((curGroup s).divSpill + 8) + 16 * (curGroup s).callSpill ≤ stackSize s s.cur)
    (hb : areaFault s s.cur false true 32 ((List.range 8).map fun i => divAddr (curGroup s) ((curGroup s).divSpill + i)) = none)
    (q : FreeArea s (fun i => divAddr (curGroup s) ((curGroup s).divSpill + i)) key 32) :
    ∃ u, AreaWork s u ∧ Spilled s u key 32 (fun i => divBytes ((curGroup s).div.reverse.getD i d))
      ∧ pushDiv s s.cur e = .ok (setCur u { curGroup s with
          div := e :: (curGroup s).div.take 24, divSpill := (curGroup s).divSpill + 8 }) := by
  obtain ⟨u, work, spilled, eq⟩ := spillDiv_free d (by omega) q
  refine ⟨u, work, spilled, ?_⟩
  rw [pushDiv_full e (by omega) ho, hb, eq, h]
  exact congrArg Except.ok (modGroup_setCur work.cur _ _)

theorem pushCall_spills {s : State} {key : Nat → Nat} (e d : CallEntry) (h : (curGroup s).call.length = 16)
    (ho : 32 * (curGroup s).divSpill + 16 * ((curGroup s).callSpill + 8) ≤ stackSize s s.cur)
    (hb : areaFault s s.cur true true 16 ((List.range 8).map fun i => callAddr s s.cur ((curGroup s).callSpill + i)) = none)
    (q : FreeArea s (fun i => callAddr s s.cur ((curGroup s).callSpill + i)) key 16) :
    ∃ u, AreaWork s u ∧ Spilled s u key 16 (fun i => callBytes ((curGroup s).call.reverse.getD i d))
      ∧ pushCall s s.cur e = .ok (setCur u { curGroup s with
          call := e :: (curGroup s).call.take 8, callSpill := (curGroup s).callSpill + 8 }) := by
  obtain ⟨u, work, spilled, eq⟩ := spillCall_free d (by omega) q
  refine ⟨u, work, spilled, ?_⟩
  rw [pushCall_full e (by omega) ho, hb, eq, h]
  exact congrArg Except.ok (modGroup_setCur work.cur _ _)

/-- The state after a spill, with the issuing group as the push leaves it. -/
theorem AreaWork.after_spill {s u : State} (h : AreaWork s u) (x : Group) :
    (setCur u x).cur = s.cur ∧ (∀ g, g ≠ s.cur → getGroup (setCur u x) g = getGroup s g) ∧ curGroup (setCur u x) = x := by
  refine ⟨h.cur, fun g hg => ?_, curGroup_setCur u x⟩
  rw [getGroup_setCur_ne u x (by rw [h.cur]; exact hg), h.getGroup_eq]

/-- Entries pushed one after another, the last of the list first. -/
def pushDivs (s : State) (g : Nat) : List DivEntry → Except StackFault State
  | [] => .ok s
  | e :: r =>
    match pushDivs s g r with
    | .error b => .error b
    | .ok t => pushDiv t g e

theorem pushDivs_append {s t : State} {g : Nat} {r : List DivEntry} (a : List DivEntry) (h : pushDivs s g r = .ok t) :
    pushDivs s g (a ++ r) = pushDivs t g a := by
  induction a with
  | nil => exact h
  | cons e a ih => rw [List.cons_append, pushDivs, pushDivs, ih]

theorem pushDivs_append_error {s : State} {g : Nat} {r : List DivEntry} {b : StackFault} (a : List DivEntry) (h : pushDivs s g r = .error b) :
    pushDivs s g (a ++ r) = .error b := by
  induction a with
  | nil => exact h
  | cons e a ih => rw [List.cons_append, pushDivs, ih]

/-- Entries stand on the chip above those that stood there, and nothing else has changed. -/
structure Pushed (s : State) (new : List DivEntry) (t : State) : Prop where
  work : StackWork s t
  group : curGroup t = { curGroup s with div := new ++ (curGroup s).div }
  put : ∀ y, setCur t y = setCur s y

theorem pushDivs_fit {s : State} {new : List DivEntry} (h : new.length + (curGroup s).div.length ≤ 32) :
    ∃ t, pushDivs s s.cur new = .ok t ∧ Pushed s new t := by
  induction new with
  | nil => exact ⟨s, rfl, .refl s, rfl, fun _ => rfl⟩
  | cons e r ih =>
    simp only [List.length_cons] at h
    obtain ⟨t, ht, hw, hg, hput⟩ := ih (by omega)
    have room : (curGroup t).div.length < 32 := by
      rw [hg]
      simp only [List.length_append]
      omega
    refine ⟨setCur t { curGroup t with div := e :: (curGroup t).div }, ?_, hw.trans (.setCur t rfl), ?_, fun y => ?_⟩
    · rw [pushDivs, ht, ← hw.cur]
      exact pushDiv_plain e room
    · rw [curGroup_setCur, hg]
      rfl
    · rw [setCur_setCur, hput]

/-- What comes of a push over a full chip: the area is too small, it cannot be reached, or the eight oldest entries go there. -/
structure Spills (s : State) (r : Except StackFault State) (div : List DivEntry) : Prop where
  small : stackSize s s.cur < 32 * ((curGroup s).divSpill + 8) + 16 * (curGroup s).callSpill → r = .error (.overflow false)
  fault : 32 * ((curGroup s).divSpill + 8) + 16 * (curGroup s).callSpill ≤ stackSize s s.cur →
    ∀ b, areaFault s s.cur false true 32 ((List.range 8).map fun i => divAddr (curGroup s) ((curGroup s).divSpill + i)) = some b →
      r = .error b
  free : 32 * ((curGroup s).divSpill + 8) + 16 * (curGroup s).callSpill ≤ stackSize s s.cur →
    areaFault s s.cur false true 32 ((List.range 8).map fun i => divAddr (curGroup s) ((curGroup s).divSpill + i)) = none →
      ∀ d key, FreeArea s (fun i => divAddr (curGroup s) ((curGroup s).divSpill + i)) key 32 → ∃ u, r = .ok u ∧ u.cur = s.cur
        ∧ Spilled s u key 32 (fun i => divBytes ((curGroup s).div.reverse.getD i d)) ∧ (∀ h, h ≠ s.cur → getGroup u h = getGroup s h)
        ∧ curGroup u = { curGroup s with div, divSpill := (curGroup s).divSpill + 8 }

theorem pushDiv_spills_full {s : State} (e : DivEntry) (h : (curGroup s).div.length = 32) :
    Spills s (pushDiv s s.cur e) (e :: (curGroup s).div.take 24) where
  small ho := pushDiv_overflow e h.ge ho
  fault ho b hb := by rw [pushDiv_full e h.ge ho, hb]
  free ho hb d key q := by
    obtain ⟨u, work, spilled, eq⟩ := pushDiv_spills e d h ho hb q
    obtain ⟨cur, others, group⟩ := work.after_spill { curGroup s with
      div := e :: (curGroup s).div.take 24, divSpill := (curGroup s).divSpill + 8 }
    exact ⟨_, eq, cur, spilled, others, group⟩

/-- The push that meets the full chip after others that found room does what it would do alone. -/
theorem Pushed.spills {s t : State} {new div : List DivEntry} {r : Except StackFault State} (p : Pushed s new t)
    (h8 : 8 ≤ (curGroup s).div.length) (h : Spills t r div) : Spills s r div := by
  obtain ⟨hw, hg, -⟩ := p
  have spill : (curGroup t).divSpill = (curGroup s).divSpill := by rw [hg]
  have calls : (curGroup t).callSpill = (curGroup s).callSpill := by rw [hg]
  have at_ (i : Nat) : divAddr (curGroup t) i = divAddr (curGroup s) i := by rw [hg]; rfl
  have old (i : Nat) (d : DivEntry) (hi : i < 8) : (curGroup t).div.reverse.getD i d = (curGroup s).div.reverse.getD i d := by
    rw [hg]
    dsimp only
    rw [List.reverse_append, List.getD_append _ _ _ _ (by rw [List.length_reverse]; omega)]
  obtain ⟨small, fault, free⟩ := h
  simp only [hw.cur, hw.stackSize, hw.areaFault, spill, calls, at_] at small fault free
  refine ⟨small, fault, fun ho hb d key q => ?_⟩
  obtain ⟨u, hu, cur, ⟨stand, rest⟩, others, group⟩ := free ho hb d key (hw.freeArea q)
  refine ⟨u, hu, cur, ⟨fun i hi => ?_, fun a ha => ?_⟩, fun h hh => (others h hh).trans (hw.others h hh), by rw [group, hg]⟩
  · exact (stand i hi).trans (congrArg divBytes (old i d hi))
  · rw [← hw.mem]
    exact rest a ha

/-- Entries of which one meets a full chip. -/
theorem pushDivs_spill {s : State} {new : List DivEntry} (hc : (curGroup s).div.length ≤ 32)
    (h : 32 < new.length + (curGroup s).div.length) (h8 : new.length ≤ 8) :
    Spills s (pushDivs s s.cur new) ((new ++ (curGroup s).div).take ((new ++ (curGroup s).div).length - 8)) := by
  obtain ⟨a, e, r, rfl, hr⟩ : ∃ a e r, new = a ++ e :: r ∧ r.length + (curGroup s).div.length = 32 := by
    have some : new.drop (new.length + (curGroup s).div.length - 33) ≠ [] := by
      rw [Ne, List.drop_eq_nil_iff]
      omega
    obtain ⟨e, r, hd⟩ := List.exists_cons_of_ne_nil some
    refine ⟨new.take (new.length + (curGroup s).div.length - 33), e, r, by rw [← hd, List.take_append_drop], ?_⟩
    have := congrArg List.length hd
    rw [List.length_drop, List.length_cons] at this
    omega
  simp only [List.length_append, List.length_cons] at h h8
  obtain ⟨t, ht, p⟩ := pushDivs_fit (s := s) (new := r) (by omega)
  have full : (curGroup t).div.length = 32 := by
    rw [p.group]
    simpa using hr
  have last : pushDivs s s.cur (e :: r) = pushDiv t t.cur e := by rw [pushDivs, ht, p.work.cur]
  obtain ⟨small, fault, free⟩ := p.spills (by omega) (pushDiv_spills_full e full)
  rw [← last] at small fault free
  refine ⟨fun ho => pushDivs_append_error a (small ho), fun ho b hb => pushDivs_append_error a (fault ho b hb), fun ho hb d key q => ?_⟩
  obtain ⟨u, hu, cur, ⟨stand, rest⟩, others, group⟩ := free ho hb d key q
  have chip : (curGroup u).div.length = 25 := by
    rw [group]
    simp [full]
  obtain ⟨v, hv, pv⟩ := pushDivs_fit (s := u) (new := a) (by omega)
  have left : a ++ e :: (r ++ (curGroup s).div).take 24
      = (a ++ e :: r ++ (curGroup s).div).take ((a ++ e :: r ++ (curGroup s).div).length - 8) := by
    simp only [List.append_assoc, List.cons_append, List.length_append, List.length_cons]
    rw [show a.length + (r.length + (curGroup s).div.length + 1) - 8 = a.length + (24 + 1) by omega, List.take_length_add_append,
      List.take_succ_cons]
  rw [cur, ← pushDivs_append a hu] at hv
  rw [← left]
  refine ⟨v, hv, pv.work.cur.trans cur, ⟨fun i hi => by rw [pv.work.mem]; exact stand i hi, fun c hc => by
    rw [pv.work.mem]; exact rest c hc⟩, fun h hh => (pv.work.others h (by rwa [cur])).trans (others h hh), ?_⟩
  rw [pv.group, group, p.group]

/-! ## BRD (R124) -/

/-- The lanes that take a BRD, and those that do not. -/
def brdTaken (x : Group) (f : XForm) : LaneMask := live x f
def brdOthers (x : Group) (f : XForm) : LaneMask := x.xm &&& ~~~live x f

/-- The entries that a BRD pushes: that of the whole mask, and above it that of the lanes that wait for the first label. -/
def brdEntries (x : Group) (f : XForm) : List DivEntry :=
  let whole : DivEntry := { pc := labelAt x f.b, mask := x.xm, reconv := labelAt x f.b }
  if brdTaken x f ≠ 0 ∧ brdOthers x f ≠ 0 ∧ labelAt x f.c ≠ labelAt x f.b then
    [{ pc := labelAt x f.c ||| 1, mask := brdTaken x f, reconv := labelAt x f.b }, whole]
  else [whole]

/-- The group when a BRD has pushed its entries. -/
def brdAfter (x y : Group) (f : XForm) (k : Issue) : Group :=
  { advance y k.len (readsLatch k) false none with
    xm := if brdTaken x f ≠ 0 ∧ brdOthers x f ≠ 0 then brdOthers x f else x.xm
    pc := if brdOthers x f = 0 then labelAt x f.c else x.pc + 20 }

theorem pushDivs_one (s : State) (g : Nat) (e : DivEntry) : pushDivs s g [e] = pushDiv s g e := rfl

theorem pushDivs_two {s t : State} {g : Nat} {d : DivEntry} (e : DivEntry) (h : pushDiv s g d = .ok t) : pushDivs s g [e, d] = pushDiv t g e := by
  rw [pushDivs, pushDivs_one, h]

theorem pushDivs_two_error {s : State} {g : Nat} {d : DivEntry} {b : StackFault} (e : DivEntry) (h : pushDiv s g d = .error b) :
    pushDivs s g [e, d] = .error b := by
  rw [pushDivs, pushDivs_one, h]

theorem brdEntries_length (x : Group) (f : XForm) : (brdEntries x f).length ≤ 2 := by
  unfold brdEntries
  dsimp only
  split
  · exact Nat.le_refl 2
  · exact Nat.le_succ 1

section Brd
variable {s : State} {f : XForm} (hp : Passes s (ctlIssue f 20)) (hx : (curGroup s).xm ≠ 0)
include hp hx

theorem execBrd_of_fault {b : StackFault} (h : pushDivs s s.cur (brdEntries (curGroup s) f) = .error b) :
    execBrd f s = stackTrap s (ctlIssue f 20) b := by
  unfold brdEntries brdTaken brdOthers at h
  unfold execBrd
  dsimp only at h ⊢
  rw [issue_pass _ hp, if_neg hx]
  cases h1 : pushDiv s s.cur { pc := labelAt (curGroup s) f.b, mask := (curGroup s).xm, reconv := labelAt (curGroup s) f.b } with
  | error b' =>
    have same : Except.error b' = (Except.error b : Except StackFault State) := by
      split at h
      · exact (pushDivs_two_error _ h1).symm.trans h
      · exact h1.symm.trans h
    cases same
    rfl
  | ok t =>
    by_cases both : live (curGroup s) f ≠ 0 ∧ (curGroup s).xm &&& ~~~live (curGroup s) f ≠ 0 ∧ labelAt (curGroup s) f.c ≠ labelAt (curGroup s) f.b
    · rw [if_pos both, pushDivs_two _ h1] at h
      dsimp only
      rw [if_pos (by simpa using ⟨both.1, both.2.1⟩), if_pos both.2.2, h]
    · rw [if_neg both, pushDivs_one, h1] at h
      cases h

theorem execBrd_of_pushes {u : State} (h : pushDivs s s.cur (brdEntries (curGroup s) f) = .ok u) (hu : (curGroup u).xm = (curGroup s).xm) :
    execBrd f s = .next (setCur u (brdAfter (curGroup s) (curGroup u) f (ctlIssue f 20))) := by
  unfold brdEntries brdTaken brdOthers at h
  unfold execBrd brdAfter brdTaken brdOthers
  dsimp only at h ⊢
  rw [issue_pass _ hp, if_neg hx]
  by_cases both : live (curGroup s) f ≠ 0 ∧ (curGroup s).xm &&& ~~~live (curGroup s) f ≠ 0
  · by_cases labels : labelAt (curGroup s) f.c ≠ labelAt (curGroup s) f.b
    · rw [if_pos ⟨both.1, both.2, labels⟩] at h
      cases h1 : pushDiv s s.cur { pc := labelAt (curGroup s) f.b, mask := (curGroup s).xm, reconv := labelAt (curGroup s) f.b } with
      | error b => rw [pushDivs_two_error _ h1] at h; cases h
      | ok t =>
        rw [pushDivs_two _ h1] at h
        dsimp only
        rw [if_pos (by simpa using both), if_pos labels, h, if_pos both, if_neg both.2]
        simp only [goTo_eq, curGroup_setCur, setCur_setCur]
        rfl
    · rw [if_neg (fun e => labels e.2.2), pushDivs_one] at h
      rw [h]
      dsimp only
      rw [if_pos (by simpa using both), if_neg labels, if_pos both, if_neg both.2]
      simp only [goTo_eq, curGroup_setCur, setCur_setCur]
      rfl
  · rw [if_neg (fun e => both ⟨e.1, e.2.1⟩), pushDivs_one] at h
    rw [h]
    dsimp only
    rw [if_neg (by simpa using both), if_neg both, goTo_eq, ← hu]
    rfl

end Brd

end Sys2Proof.Stated

namespace Sys2Proof.Proofs

open Sys2Proof Sys2Proof.Machine Sys2Proof.Stated

/-- Settles O29: BRD pushes its one or two entries where they find room, or one of them meets the full chip. -/
theorem divergentBranch : Obligations.DivergentBranch := by
  unfold Obligations.DivergentBranch
  intro s f x k y first second t n whole taken new after va fault hp
  have run : exec (.brd f) s = execBrd f s := rfl
  rw [run]
  refine ⟨fun hx => ?none, fun hx hn => ?room, fun hx hc hn => ?full⟩
  case none =>
    unfold execBrd
    dsimp only
    rw [issue_pass _ hp, if_pos hx]
    rfl
  case room =>
    obtain ⟨u, hu, p⟩ := pushDivs_fit (s := s) (new := brdEntries x f) hn
    rw [execBrd_of_pushes hp hx hu (by rw [p.group]), p.put, p.group]
    rfl
  case full =>
    obtain ⟨small, fault, free⟩ := pushDivs_spill (s := s) (new := brdEntries x f) hc hn ((brdEntries_length x f).trans (by decide))
    refine ⟨fun ho => ?_, fun ho => ⟨fun b hb => ?_, fun hb key q => ?_⟩⟩
    · rw [execBrd_of_fault hp hx (small ho)]
      exact stackStops_stackTrap ..
    · rw [execBrd_of_fault hp hx (fault ho b hb)]
      exact stackStops_stackTrap ..
    · obtain ⟨u, hu, cur, spilled, others, group⟩ := free ho hb whole key q
      refine ⟨_, execBrd_of_pushes hp hx hu (by rw [group]), spilled, fun h hh => ?_, ?_⟩
      · rw [getGroup_setCur_ne u _ (by rwa [cur])]
        exact others h hh
      · rw [curGroup_setCur, group]
        rfl

end Sys2Proof.Proofs
end

section
/-! PROOFS. The statement about calls and returns (R61, R126 to R128, R155). -/

namespace Sys2Proof.Stated

open Sys2Proof Sys2Proof.Machine

/-! ## Calls (R127) -/

/-- The entry that a call pushes. -/
def callEntry (x : Group) : CallEntry := { ret := x.pc + 12, depth := BitVec.ofNat 64 (depthD x) }

section Call
variable {s : State} {k : Issue} (hk : k.len = 12)
include hk

theorem callTo_of_fault (pc : DWord) {b : StackFault} (h : pushCall s s.cur (callEntry (curGroup s)) = .error b) :
    callTo s k pc = stackTrap s k b := by
  unfold callTo
  dsimp only
  rw [hk]
  unfold callEntry at h
  rw [show BitVec.ofNat 64 12 = 12 from rfl, h]

theorem callTo_of_push (pc : DWord) {u : State} (h : pushCall s s.cur (callEntry (curGroup s)) = .ok u) : callTo s k pc = goTo u k pc := by
  unfold callTo
  dsimp only
  rw [hk]
  unfold callEntry at h
  rw [show BitVec.ofNat 64 12 = 12 from rfl, h]

end Call

/-- CALL, and CALLX to a good target, whose guard holds. -/
theorem exec_call {s : State} {f : XForm} {i : Instr} {pc : DWord} (hp : Passes s (ctlIssue f 12)) (hr : runs (curGroup s) f = true)
    (hi : (i = .call f ∧ pc = labelAt (curGroup s) f.c)
      ∨ (i = .callx f ∧ ((opnd s (curGroup s) false f.a 0).toNat % 4 = 0 ∧ canonical (opnd s (curGroup s) false f.a 0) = true)
        ∧ pc = opnd s (curGroup s) false f.a 0)) : exec i s = callTo s (ctlIssue f 12) pc := by
  rcases hi with ⟨rfl, rfl⟩ | ⟨rfl, good, rfl⟩
  · exact guarded_on _ hp hr
  · change execCallx f s = _
    unfold execCallx toTarget
    dsimp only
    rw [guarded_on _ hp hr, if_pos (by simp [good])]

/-! ## Returns (R128) -/

theorem popCallFault_none {s : State} (h : (curGroup s).callSpill < 8) : popCallFault s s.cur = none := if_neg (by
  rw [show getGroup s s.cur = curGroup s from rfl]
  simp only [Bool.and_eq_true, decide_eq_true_eq]
  omega)

theorem popCallFault_last {s : State} (h : (curGroup s).call.length ≤ 1) (hs : 8 ≤ (curGroup s).callSpill) :
    popCallFault s s.cur = areaFault s s.cur true false 16 ((List.range 8).map fun i => callAddr s s.cur ((curGroup s).callSpill - 1 - i)) :=
  if_pos (by simp [show getGroup s s.cur = curGroup s from rfl, h, hs])

section Ret
variable {s : State} {f : XForm} (hp : Passes s (ctlIssue f 12)) (hr : runs (curGroup s) f = true)
include hp hr

theorem exec_ret_empty (hc : (curGroup s).call = []) :
    exec (.ret f) s = trapI s (ctlIssue f 12) 0x0A (depthD (curGroup s) % 256 + 2 ^ 16) := by
  change execRet f s = _
  unfold execRet
  dsimp only
  rw [guarded_on _ hp hr, hc]

variable {c : CallEntry} {r : List CallEntry} (hc : (curGroup s).call = c :: r)
include hc

theorem exec_ret_deep (hd : c.depth.toNat ≠ depthD (curGroup s)) :
    exec (.ret f) s = trapI s (ctlIssue f 12) 0x0A (depthD (curGroup s) % 256 + 256 * (c.depth.toNat % 256)) := by
  change execRet f s = _
  unfold execRet
  dsimp only
  rw [guarded_on _ hp hr, hc]
  exact if_pos hd

theorem exec_ret_of_fault (hd : c.depth.toNat = depthD (curGroup s)) {b : StackFault} (h : popCallFault s s.cur = some b) :
    exec (.ret f) s = stackTrap s (ctlIssue f 12) b := by
  change execRet f s = _
  unfold execRet tryPopCall
  dsimp only
  rw [guarded_on _ hp hr, hc, h]
  exact if_neg (not_not.mpr hd)

theorem exec_ret_of_pop (hd : c.depth.toNat = depthD (curGroup s)) (h : popCallFault s s.cur = none) :
    exec (.ret f) s = goTo (popCall s s.cur) (ctlIssue f 12) c.ret := by
  change execRet f s = _
  unfold execRet tryPopCall
  dsimp only
  rw [guarded_on _ hp hr, hc, h]
  exact if_neg (not_not.mpr hd)

end Ret

end Sys2Proof.Stated

namespace Sys2Proof.Proofs

open Sys2Proof Sys2Proof.Machine Sys2Proof.Stated

/-- Settles O31: a call pushes its entry, with a spill where the chip is full; a return pops one, with a refill where it was the last. -/
theorem callAndReturn : Obligations.CallAndReturn := by
  unfold Obligations.CallAndReturn
  intro s f x k y a e good top va back fault hp hr
  refine ⟨fun i pc hi hc => ?spill, fun c hc hd hs => ?refill, fun hc => ?push, fun hb => ?bad, fun c r hc => ⟨fun hd hs => ?pop, fun hd => ?deep⟩,
    fun hc => ?none⟩
  case spill =>
    rw [exec_call hp hr hi]
    refine ⟨fun ho => ?_, fun ho => ⟨fun b hb => ?_, fun hb key q => ?_⟩⟩
    · rw [callTo_of_fault rfl pc (pushCall_overflow e hc.ge ho)]
      exact stackStops_stackTrap ..
    · rw [callTo_of_fault rfl pc (pushCall_fault e hc.ge ho hb)]
      exact stackStops_stackTrap ..
    · obtain ⟨u, work, spilled, eq⟩ := pushCall_spills e e hc ho hb q
      rw [callTo_of_push rfl pc eq, goTo_eq, curGroup_setCur, setCur_setCur]
      refine ⟨_, rfl, spilled, fun h hh => ?_, curGroup_setCur ..⟩
      exact (getGroup_setCur_ne u _ (by rwa [work.cur])).trans (work.getGroup_eq h)
  case refill =>
    have one : x.call.tail = [] := by rw [hc]; rfl
    have fault := popCallFault_last (s := s) (by rw [show (curGroup s).call = [c] from hc]; exact Nat.le_refl 1) hs
    refine ⟨fun b hb => ?_, fun hb key q => ?_⟩
    · rw [exec_ret_of_fault hp hr hc hd (fault.trans hb)]
      exact stackStops_stackTrap ..
    · rw [exec_ret_of_pop hp hr hc hd (fault.trans hb), popCall_refill one hs q, goTo_eq, curGroup_setCur, setCur_setCur]
      exact ⟨_, rfl, rfl, fun h hh => getGroup_setCur_ne s _ hh, curGroup_setCur ..⟩
  case push =>
    have pushed := pushCall_plain e hc
    refine ⟨?_, fun h4 hcan => ?_⟩
    · rw [exec_call hp hr (.inl ⟨rfl, rfl⟩), callTo_of_push rfl _ pushed, goTo_eq, curGroup_setCur, setCur_setCur]
      rfl
    · rw [exec_call hp hr (.inr ⟨rfl, ⟨h4, hcan⟩, rfl⟩), callTo_of_push rfl _ pushed, goTo_eq, curGroup_setCur, setCur_setCur]
      rfl
  case bad =>
    change execCallx f s = _
    unfold execCallx toTarget
    dsimp only
    rw [guarded_on _ hp hr, if_neg (by simpa using hb)]
  case pop =>
    have small : x.callSpill < 8 := by omega
    rw [exec_ret_of_pop hp hr hc hd (popCallFault_none small), popCall_plain (.inr small), goTo_eq, curGroup_setCur, setCur_setCur,
      show (curGroup s).call = c :: r from hc]
    rfl
  case deep => exact exec_ret_deep hp hr hc hd
  case none => exact exec_ret_empty hp hr hc

end Sys2Proof.Proofs
end

section
/-! PROOFS. Lanes that leave a group and the resumption of its stacks (R62, R129). -/

namespace Sys2Proof.Stated

open Sys2Proof Sys2Proof.Machine

/-! ## Tokens, locks and transactions of lanes that are gone (R182) -/

theorem StackWork.setLock (s : State) (l : Nat) : StackWork s (setHome s l { getHome s l with lock := none }) where
  rest := rfl
  parts _ := rfl
  homes j := by
    by_cases e : j = l
    · subst e; rw [getHome_setHome_same]
    · rw [show getHome (setHome s l _) j = getHome s j from mapGet_mapSet_ne _ _ _ e]
  locks j e := by
    by_cases ej : j = l
    · subst ej; rw [getHome_setHome_same]
    · rwa [show getHome (setHome s l _) j = getHome s j from mapGet_mapSet_ne _ _ _ ej]
  others _ _ := rfl
  own := rfl
  slot e := e

theorem StackWork.modPart (s : State) (p : Nat) {f : Partition → Partition}
    (h : ∀ x, f x = { x with tok := (f x).tok, tokQ := (f x).tokQ, resv := (f x).resv }) : StackWork s (modPart s p f) where
  rest := rfl
  parts q := by
    by_cases e : q = p
    · subst e; rw [getPart_modPart_same]; exact h _
    · rw [getPart_modPart_ne s f e]
  homes _ := rfl
  locks _ e := e
  others _ _ := rfl
  own := rfl
  slot e := e

/-- Lanes of the issuing group are gone: its transactions differ, and the records of the token and the locks. -/
structure LanesDropped (s t : State) : Prop where
  work : StackWork s t
  group : curGroup t = { curGroup s with txn := (curGroup t).txn }

theorem LanesDropped.refl (s : State) : LanesDropped s s := ⟨.refl s, rfl⟩

theorem LanesDropped.trans {s t u : State} (h : LanesDropped s t) (k : LanesDropped t u) : LanesDropped s u where
  work := h.work.trans k.work
  group := by
    have e := k.group
    rw [h.group] at e
    exact e

theorem LanesDropped.foldl {α : Type} {f : State → α → State} {s t : State} (h : LanesDropped s t)
    (hf : ∀ t a, LanesDropped s t → LanesDropped s (f t a)) (l : List α) : LanesDropped s (l.foldl f t) := by
  induction l generalizing t with
  | nil => exact h
  | cons a r ih => exact ih (hf t a h)

theorem lanesDropped_unlock (s : State) (who : Nat × Nat) (ls : List Nat) : LanesDropped s (unlock s who ls) := by
  refine (LanesDropped.refl s).foldl (fun t l h => ?_) ls
  split
  · exact h.trans ⟨.setLock t l, rfl⟩
  · exact h

theorem lanesDropped_dropIrr (s : State) (p uid lane : Nat) (ls : List Nat) : LanesDropped s (dropIrr s p uid lane ls) := by
  unfold dropIrr
  dsimp only
  split
  · exact (lanesDropped_unlock s _ ls).trans ⟨.modPart _ p fun _ => rfl, rfl⟩
  · exact lanesDropped_unlock s _ ls

theorem lanesDropped_leaveIrr (s : State) (p uid lane : Nat) : LanesDropped s (leaveIrr s p uid lane) := by
  unfold leaveIrr
  dsimp only
  split
  · exact ⟨.modPart s p fun _ => rfl, rfl⟩
  · exact .refl s

theorem lanesDropped_txn (s : State) {g : Nat} (hg : g = s.cur) (f : Group → AMap Txn) :
    LanesDropped s (modGroup s g fun y => { y with txn := f y }) := by
  subst hg
  refine ⟨.setCur s rfl, ?_⟩
  rw [modGroup_cur, curGroup_setCur]

theorem lanesDropped_dropLanes (s : State) (m : LaneMask) : LanesDropped s (dropLanes s s.cur m) := by
  unfold dropLanes
  refine (LanesDropped.refl s).foldl (fun t i h => ?_) (lanes m)
  refine LanesDropped.trans ?_ (lanesDropped_leaveIrr ..)
  split
  · have d := h.trans (lanesDropped_dropIrr t (groupSpace s s.cur).1 (getGroup s s.cur).uid i
      (mapGet {} (getGroup s s.cur).txn i).lines)
    exact d.trans (lanesDropped_txn _ d.work.cur.symm _)
  · exact h.trans (lanesDropped_txn t h.work.cur.symm _)

/-! ## Call-return entries discarded (R129) -/

theorem StackWork.hidden {s t : State} (h : StackWork s t) : hidden t s.cur = hidden s s.cur := by
  unfold Machine.hidden isFirmwareCore
  rw [h.getGroup_cur, h.own.priv, h.rest]
  rfl

theorem discard_stops {s : State} {depth : Nat} (n : Nat) (h : ∀ c r, (curGroup s).call = c :: r → ¬ depth ≤ c.depth.toNat) :
    discardCalls s s.cur depth n = s ∧ discardFault s s.cur depth n = none := by
  cases n with
  | zero => exact ⟨rfl, rfl⟩
  | succ n =>
    unfold discardCalls discardFault
    rw [show getGroup s s.cur = curGroup s from rfl]
    cases hc : (curGroup s).call with
    | nil => exact ⟨rfl, rfl⟩
    | cons c r => exact ⟨if_neg (h c r hc), if_neg (h c r hc)⟩

theorem discard_pops {s : State} {depth : Nat} (n : Nat) {c : CallEntry} {r : List CallEntry} (hc : (curGroup s).call = c :: r)
    (hd : depth ≤ c.depth.toNat) (hs : (curGroup s).callSpill = 0) :
    discardCalls s s.cur depth (n + 1) = discardCalls (setCur s { curGroup s with call := r }) s.cur depth n
      ∧ discardFault s s.cur depth (n + 1) = discardFault (setCur s { curGroup s with call := r }) s.cur depth n := by
  have pop : popCall s s.cur = setCur s { curGroup s with call := r } := by
    rw [popCall_plain (.inr (by omega)), hc]
    rfl
  rw [discardCalls, discardFault, show getGroup s s.cur = curGroup s from rfl, hc, pop, popCallFault_none (by omega)]
  exact ⟨if_pos hd, if_pos hd⟩

/-- Entries of calls above a depth are gone from the chip, and none of the area was read. -/
structure Discarded (s : State) (depth n : Nat) : Prop where
  work : StackWork s (discardCalls s s.cur depth n)
  group : curGroup (discardCalls s s.cur depth n) = { curGroup s with
    call := (curGroup s).call.dropWhile fun c => decide (depth ≤ c.depth.toNat) }
  fault : discardFault s s.cur depth n = none

theorem discarded_of_stop {s : State} {depth : Nat} (n : Nat) (h : ∀ c r, (curGroup s).call = c :: r → ¬ depth ≤ c.depth.toNat) :
    Discarded s depth n := by
  obtain ⟨stop, free⟩ := discard_stops n h
  refine ⟨by rw [stop]; exact .refl s, ?_, free⟩
  rw [stop]
  cases hc : (curGroup s).call with
  | nil => rw [List.dropWhile_nil, ← hc]
  | cons c r => rw [List.dropWhile_cons_of_neg (by simpa using h c r hc), ← hc]

theorem discarded {s : State} (depth : Nat) {n : Nat} (hs : (curGroup s).callSpill = 0) (hn : (curGroup s).call.length ≤ n) :
    Discarded s depth n := by
  induction n generalizing s with
  | zero => exact discarded_of_stop 0 fun c r hc => by rw [hc] at hn; simp at hn
  | succ n ih =>
    by_cases h : ∃ c r, (curGroup s).call = c :: r ∧ depth ≤ c.depth.toNat
    · obtain ⟨c, r, hc, hd⟩ := h
      obtain ⟨pop, fault⟩ := discard_pops n hc hd hs
      have left : StackWork s (setCur s { curGroup s with call := r }) := .setCur s rfl
      rw [hc, List.length_cons] at hn
      obtain ⟨work, group, free⟩ := ih (s := setCur s { curGroup s with call := r }) (by rwa [curGroup_setCur])
        (by rw [curGroup_setCur]; exact Nat.le_of_succ_le_succ hn)
      rw [show (setCur s { curGroup s with call := r }).cur = s.cur from rfl, ← pop] at work group
      rw [show (setCur s { curGroup s with call := r }).cur = s.cur from rfl, ← fault] at free
      refine ⟨left.trans work, ?_, free⟩
      rw [group, curGroup_setCur, hc, List.dropWhile_cons_of_pos (by simpa using hd)]
    · exact discarded_of_stop _ fun c r hc hd => h ⟨c, r, hc, hd⟩

/-! ## Resumption (R129) -/

theorem popDivFault_none {s : State} (h : (curGroup s).div.tail ≠ [] ∨ (curGroup s).divSpill < 8) : popDivFault s s.cur = none := if_neg (by
  rw [show getGroup s s.cur = curGroup s from rfl]
  simp only [Bool.and_eq_true, decide_eq_true_eq]
  rintro ⟨hl, hs⟩
  rcases h with h | h
  · refine h (List.eq_nil_of_length_eq_zero ?_)
    rw [List.length_tail]
    omega
  · omega)

/-- The loop of R129 ends in a group, and nothing kept it from being read. -/
structure Resumed (s : State) (n : Nat) (x : Group) : Prop where
  work : StackWork s (resumeStacks s s.cur n)
  group : curGroup (resumeStacks s s.cur n) = x
  fault : resumeFault s s.cur n = none

/-- The newest entry has lost every lane: it is dropped from the chip. -/
theorem resumed_of_drop {s : State} {n : Nat} {x : Group} {e : DivEntry} {r : List DivEntry} (hd : (curGroup s).div = e :: r)
    (hm : e.mask = 0) (hr : r ≠ [] ∨ (curGroup s).divSpill < 8) (h : Resumed (setCur s { curGroup s with div := r }) n x) :
    Resumed s (n + 1) x := by
  have tail : (curGroup s).div.tail ≠ [] ∨ (curGroup s).divSpill < 8 := by rwa [hd]
  have pop : popDiv s s.cur = setCur s { curGroup s with div := r } := by rw [popDiv_plain tail, hd]; rfl
  have loop : resumeStacks s s.cur (n + 1) = resumeStacks (setCur s { curGroup s with div := r }) s.cur n := by
    rw [resumeStacks, show getGroup s s.cur = curGroup s from rfl, hd, pop]
    exact if_pos hm
  have fault : resumeFault s s.cur (n + 1) = resumeFault (setCur s { curGroup s with div := r }) s.cur n := by
    rw [resumeFault, show getGroup s s.cur = curGroup s from rfl, hd, pop, popDivFault_none tail]
    exact if_pos hm
  have left : StackWork s (setCur s { curGroup s with div := r }) := .setCur s rfl
  obtain ⟨work, group, free⟩ := h
  refine ⟨?_, ?_, ?_⟩
  · rw [loop]; exact left.trans work
  · rw [loop]; exact group
  · rw [fault]; exact free

/-- With no entry on the chip the loop has nothing to do. -/
theorem resumed_of_empty {s : State} (n : Nat) (hd : (curGroup s).div = []) : Resumed s n (curGroup s) := by
  cases n with
  | zero => exact ⟨.refl s, rfl, rfl⟩
  | succ n =>
    have loop : resumeStacks s s.cur (n + 1) = s := by
      rw [resumeStacks, show getGroup s s.cur = curGroup s from rfl, hd]
    have fault : resumeFault s s.cur (n + 1) = none := by
      rw [resumeFault, show getGroup s s.cur = curGroup s from rfl, hd]
    exact ⟨by rw [loop]; exact .refl s, by rw [loop], fault⟩

/-- The group that resumes from an entry above others: a pending entry is popped and a rejoin entry stays, and the calls above it are gone. -/
def resumedFrom (x : Group) (e : DivEntry) (r : List DivEntry) : Group :=
  { x with
    div := if e.pc.getLsbD 0 then r else e :: r
    call := x.call.dropWhile fun c => decide (x.divSpill + (r.length + 1) ≤ c.depth.toNat)
    xm := e.mask
    pc := e.pc &&& ~~~(1 : DWord) }

/-- The newest entry has lanes: the group resumes from it. -/
theorem resumed_of_take {s : State} (n : Nat) {e : DivEntry} {r : List DivEntry} (hd : (curGroup s).div = e :: r) (hm : e.mask ≠ 0)
    (hc : (curGroup s).callSpill = 0) (hr : e.pc.getLsbD 0 = true → r ≠ [] ∨ (curGroup s).divSpill < 8) :
    Resumed s (n + 1) (resumedFrom (curGroup s) e r) := by
  have depth : depthD (curGroup s) = (curGroup s).divSpill + (r.length + 1) := by
    unfold depthD
    rw [hd, List.length_cons]
  obtain ⟨work, group, free⟩ := discarded (s := s) (depthD (curGroup s)) (n := depthC (curGroup s)) hc (Nat.le_add_left ..)
  have loop : resumeStacks s s.cur (n + 1) = modGroup
      (if e.pc.getLsbD 0 then popDiv (discardCalls s s.cur (depthD (curGroup s)) (depthC (curGroup s))) s.cur
        else discardCalls s s.cur (depthD (curGroup s)) (depthC (curGroup s))) s.cur
      fun x => { x with xm := e.mask, pc := e.pc &&& ~~~(1 : DWord) } := by
    rw [resumeStacks, show getGroup s s.cur = curGroup s from rfl, hd]
    exact if_neg hm
  have fault : resumeFault s s.cur (n + 1) = none := by
    rw [resumeFault, show getGroup s s.cur = curGroup s from rfl, hd]
    refine (if_neg hm).trans ?_
    rw [free, Option.none_or]
    split
    · next bit => exact popDivFault_none (by rw [hd]; exact hr bit)
    · rfl
  generalize discardCalls s s.cur (depthD (curGroup s)) (depthC (curGroup s)) = t at work group loop
  have own (x : Group) : modGroup (setCur t x) s.cur (fun y => { y with xm := e.mask, pc := e.pc &&& ~~~(1 : DWord) })
      = setCur t { x with xm := e.mask, pc := e.pc &&& ~~~(1 : DWord) } := modGroup_setCur work.cur x _
  have same : setCur t { curGroup t with div := if e.pc.getLsbD 0 then r else e :: r, xm := e.mask, pc := e.pc &&& ~~~(1 : DWord) }
      = resumeStacks s s.cur (n + 1) := by
    rw [loop]
    split
    · next bit =>
      rw [← work.cur, popDiv_plain (by rw [group]; simpa [hd] using hr bit), work.cur, own, group, hd]
      rfl
    · rw [← work.cur, modGroup_cur, group, hd]
  refine ⟨?_, ?_, fault⟩
  · rw [← same]
    exact work.trans (.setCur t rfl)
  · rw [← same, curGroup_setCur, group]
    unfold resumedFrom
    rw [depth]

/-- The loop of R129 over a stack on the chip whose newest entries have lost every lane. -/
theorem resumed_of_spent {s : State} {n : Nat} {z r : List DivEntry} {e : DivEntry} (hd : (curGroup s).div = z ++ e :: r)
    (hz : ∀ d ∈ z, d.mask = 0) (hm : e.mask ≠ 0) (hc : (curGroup s).callSpill = 0)
    (hr : e.pc.getLsbD 0 = true → r ≠ [] ∨ (curGroup s).divSpill < 8) (hn : z.length < n) : Resumed s n (resumedFrom (curGroup s) e r) := by
  obtain ⟨n, rfl⟩ : ∃ m, n = m + 1 := ⟨n - 1, by omega⟩
  induction z generalizing s n with
  | nil => exact resumed_of_take n hd hm hc hr
  | cons d z ih =>
    refine resumed_of_drop hd (hz d (List.mem_cons_self ..)) (.inl (by simp)) ?_
    rw [List.length_cons] at hn
    obtain ⟨n, rfl⟩ : ∃ m, n = m + 1 := ⟨n - 1, by omega⟩
    have left := ih (s := setCur s { curGroup s with div := z ++ e :: r }) (by rw [curGroup_setCur]) (fun d hd => hz d (List.mem_cons_of_mem _ hd))
      (by rwa [curGroup_setCur]) (by rwa [curGroup_setCur]) n (by omega)
    rw [curGroup_setCur] at left
    exact left

/-- The loop of R129 over a stack on the chip whose entries have all lost every lane. -/
theorem resumed_of_all_spent {s : State} {n : Nat} {z : List DivEntry} (hd : (curGroup s).div = z) (hz : ∀ d ∈ z, d.mask = 0)
    (hs : (curGroup s).divSpill < 8) (hn : z.length < n) : Resumed s n { curGroup s with div := [] } := by
  induction z generalizing s n with
  | nil =>
    rw [← hd]
    exact resumed_of_empty n hd
  | cons d z ih =>
    rw [List.length_cons] at hn
    obtain ⟨n, rfl⟩ : ∃ m, n = m + 1 := ⟨n - 1, by omega⟩
    refine resumed_of_drop hd (hz d (List.mem_cons_self ..)) (.inr hs) ?_
    have left := ih (s := setCur s { curGroup s with div := z }) (n := n) (by rw [curGroup_setCur]) (fun d hd => hz d (List.mem_cons_of_mem _ hd))
      (by rwa [curGroup_setCur]) (by omega)
    rw [curGroup_setCur] at left
    exact left

/-! ## Lanes removed (R62, R129) -/

/-- The issuing group when lanes of it are gone. -/
def withoutLanes (x : Group) (m : LaneMask) (next : DWord) (txn : AMap Txn) : Group :=
  { x with txn, xm := x.xm &&& ~~~m, exited := x.exited ||| m, pc := next, div := x.div.map fun e => { e with mask := e.mask &&& ~~~m } }

theorem modGroup_of_stackWork {s t : State} (h : StackWork s t) (f : Group → Group) : modGroup t s.cur f = setCur t (f (curGroup t)) := by
  rw [modGroup, h.getGroup_cur, setCur, h.cur]

theorem lanesGone_own (s : State) (m : LaneMask) (next : DWord) :
    StackWork s (lanesGone s s.cur m next) ∧ ∃ txn, curGroup (lanesGone s s.cur m next) = withoutLanes (curGroup s) m next txn := by
  obtain ⟨work, group⟩ := lanesDropped_dropLanes s m
  unfold lanesGone
  rw [modGroup_of_stackWork work]
  refine ⟨work.trans (.setCur _ rfl), (curGroup (dropLanes s s.cur m)).txn, ?_⟩
  rw [curGroup_setCur, group]
  rfl

theorem resumes_iff {s : State} (m : LaneMask) (next : DWord) : resumes (lanesGone s s.cur m next) s.cur = true
    ↔ (curGroup s).exited ||| m ≠ LaneMask.full ∧ (curGroup s).xm &&& ~~~m = 0 ∧ hidden s s.cur = false := by
  obtain ⟨work, txn, group⟩ := lanesGone_own s m next
  unfold resumes
  simp only [Bool.and_eq_true, decide_eq_true_eq, Bool.not_eq_true', and_assoc]
  rw [work.getGroup_cur, group, work.hidden]
  rfl

end Sys2Proof.Stated
end

section
/-! PROOFS. EXIT while lanes of the group are left (R129, R61). -/

namespace Sys2Proof.Stated

open Sys2Proof Sys2Proof.Machine

/-! ## Removal by case -/

section Remove
variable {s : State} {m : LaneMask} (next : DWord)

/-- Lanes of `xm` are left: the group goes on. -/
theorem removeLanes_goes (h : (curGroup s).exited ||| m ≠ LaneMask.full) (hx : (curGroup s).xm &&& ~~~m ≠ 0) :
    removeFault s s.cur m next = none ∧ removeLanes s s.cur m next = lanesGone s s.cur m next := by
  obtain ⟨work, txn, group⟩ := lanesGone_own s m next
  have stay : ¬ resumes (lanesGone s s.cur m next) s.cur = true := fun r => hx ((resumes_iff m next).mp r).2.1
  refine ⟨if_neg stay, (if_neg ?_).trans (if_neg stay)⟩
  rw [work.getGroup_cur, group]
  exact h

/-- No lane of `xm` is left, but some in the group: outside a handler it resumes from its stacks. -/
theorem removeLanes_resumes (h : (curGroup s).exited ||| m ≠ LaneMask.full) (hx : (curGroup s).xm &&& ~~~m = 0)
    (hh : hidden s s.cur = false) :
    removeFault s s.cur m next
        = resumeFault (lanesGone s s.cur m next) s.cur (depthD (curGroup (lanesGone s s.cur m next)) + 1)
      ∧ removeLanes s s.cur m next
        = resumeStacks (lanesGone s s.cur m next) s.cur (depthD (curGroup (lanesGone s s.cur m next)) + 1) := by
  obtain ⟨work, txn, group⟩ := lanesGone_own s m next
  have go : resumes (lanesGone s s.cur m next) s.cur = true := (resumes_iff m next).mpr ⟨h, hx, hh⟩
  rw [← work.getGroup_cur]
  refine ⟨if_pos go, (if_neg ?_).trans (if_pos go)⟩
  rw [work.getGroup_cur, group]
  exact h

/-- Every lane of the group has exited: it ends. -/
theorem removeLanes_ends (h : (curGroup s).exited ||| m = LaneMask.full) :
    removeFault s s.cur m next = none ∧ removeLanes s s.cur m next = endGroup (lanesGone s s.cur m next) s.cur := by
  obtain ⟨work, txn, group⟩ := lanesGone_own s m next
  refine ⟨if_neg fun r => ((resumes_iff m next).mp r).1 h, if_pos ?_⟩
  rw [work.getGroup_cur, group]
  exact h

end Remove

/-! ## The instruction -/

/-- What EXIT looks at: both forms are one operation. -/
theorem exec_exit (s : State) (f : XForm) (g : Fin 4) (base : Bool) :
    ∃ f' : XForm, exec (if base then .exitBase g else .exit f) s = exitLanes s f' (if base then { len := 4 } else ctlIssue f 12)
      ∧ live (curGroup s) f' = (curGroup s).xm &&& (if base then pRead (curGroup s) g.val else guardMask (curGroup s) f.gn f.gp) := by
  cases base with
  | false => exact ⟨f, rfl, rfl⟩
  | true =>
    refine ⟨{ gp := Fin.ofNat 16 g.val }, rfl, ?_⟩
    have num : (Fin.ofNat 16 g.val).val = g.val := Nat.mod_eq_of_lt (by omega)
    simp only [live, guardMask, num, if_true]
    rfl

/-- The state in which the lanes of an EXIT leave: its group advanced past it. -/
def exitFrom (s : State) (k : Issue) : State := setCur s (advance (curGroup s) k.len (readsLatch k) false none)

section Exit
variable {s : State} {f : XForm} {k : Issue} (hp : Passes s k)
include hp

theorem exitLanes_none (hm : live (curGroup s) f = 0) : exitLanes s f k = .next (Past s k) := by
  unfold exitLanes
  dsimp only
  rw [issue_pass _ hp, if_pos hm]
  rfl

variable (hm : live (curGroup s) f ≠ 0)
include hm

theorem exitLanes_of_fault {e : StackFault}
    (h : removeFault (exitFrom s k) s.cur (live (curGroup s) f) ((curGroup s).pc + BitVec.ofNat 64 k.len) = some e) :
    exitLanes s f k = stackTrap s k e := by
  unfold exitFrom at h
  unfold exitLanes
  dsimp only
  rw [issue_pass _ hp, if_neg hm, h]

theorem exitLanes_of_removal
    (h : removeFault (exitFrom s k) s.cur (live (curGroup s) f) ((curGroup s).pc + BitVec.ofNat 64 k.len) = none) :
    exitLanes s f k = .next (removeLanes (exitFrom s k) s.cur (live (curGroup s) f) ((curGroup s).pc + BitVec.ofNat 64 k.len)) := by
  unfold exitFrom at h ⊢
  unfold exitLanes
  dsimp only
  rw [issue_pass _ hp, if_neg hm, h]

end Exit

theorem stackWork_exitFrom (s : State) (k : Issue) : StackWork s (exitFrom s k) := .setCur s rfl
theorem curGroup_exitFrom (s : State) (k : Issue) : curGroup (exitFrom s k) = advance (curGroup s) k.len (readsLatch k) false none :=
  curGroup_setCur ..

/-- The lanes of an EXIT gone. -/
theorem exit_gone (s : State) (k : Issue) (m : LaneMask) (next : DWord) :
    StackWork s (lanesGone (exitFrom s k) s.cur m next)
      ∧ ∃ txn, curGroup (lanesGone (exitFrom s k) s.cur m next) = withoutLanes (advance (curGroup s) k.len (readsLatch k) false none) m next txn := by
  obtain ⟨work, txn, group⟩ := lanesGone_own (exitFrom s k) m next
  rw [curGroup_exitFrom] at group
  exact ⟨(stackWork_exitFrom s k).trans work, txn, group⟩

/-- What stands before the first entry that a test does not drop, and that entry. -/
theorem dropWhile_cons {α : Type} {p : α → Bool} {l r : List α} {a : α} (h : l.dropWhile p = a :: r) :
    l = l.takeWhile p ++ a :: r ∧ (∀ b ∈ l.takeWhile p, p b = true) ∧ p a = false := by
  refine ⟨by rw [← h, List.takeWhile_append_dropWhile], fun b hb => List.mem_takeWhile_imp hb, ?_⟩
  have := List.head?_dropWhile_not p l
  rw [h] at this
  simpa using this

end Sys2Proof.Stated
end

section
/-! PROOFS. EXIT with the last lanes of `xm`: what the group goes on with, and the entries read back (R129, R61). -/

namespace Sys2Proof.Stated

open Sys2Proof Sys2Proof.Machine

/-- The stack of a group without some lanes, from its newest entry that has lanes on. -/
def stackLeft (x : Group) (m : LaneMask) : List DivEntry :=
  (x.div.map fun e => { e with mask := e.mask &&& ~~~m }).dropWhile fun e => decide (e.mask = 0)

theorem resumedFrom_call (x : Group) (e : DivEntry) (r : List DivEntry) {n : Nat} (h : x.divSpill + (r.length + 1) = n) :
    (resumedFrom x e r).call = x.call.dropWhile fun c => decide (n ≤ c.depth.toNat) := by
  subst h
  rfl

/-- A group whose lanes of `xm` have left resumes from the newest entry that has lanes, or, with none left, goes on without a mask. -/
theorem exit_resumes {s : State} {k : Issue} {m : LaneMask} (next : DWord) (h : (curGroup s).exited ||| m ≠ LaneMask.full)
    (hx : (curGroup s).xm &&& ~~~m = 0) (hh : hidden s s.cur = false) (hd : (curGroup s).divSpill = 0) (hc : (curGroup s).callSpill = 0) :
    removeFault (exitFrom s k) s.cur m next = none ∧ StackWork s (removeLanes (exitFrom s k) s.cur m next)
      ∧ ∃ txn, (stackLeft (curGroup s) m = [] → curGroup (removeLanes (exitFrom s k) s.cur m next)
            = { withoutLanes (advance (curGroup s) k.len (readsLatch k) false none) m next txn with div := [] })
        ∧ ∀ e r, stackLeft (curGroup s) m = e :: r → curGroup (removeLanes (exitFrom s k) s.cur m next)
            = resumedFrom (withoutLanes (advance (curGroup s) k.len (readsLatch k) false none) m next txn) e r := by
  obtain ⟨work, txn, group⟩ := exit_gone s k m next
  obtain ⟨fault, lanes⟩ := removeLanes_resumes (s := exitFrom s k) (m := m) next (by rw [curGroup_exitFrom]; exact h)
    (by rw [curGroup_exitFrom]; exact hx) ((stackWork_exitFrom s k).hidden.trans hh)
  rw [show (exitFrom s k).cur = s.cur from rfl] at fault lanes
  rw [fault, lanes]
  generalize lanesGone (exitFrom s k) s.cur m next = t at work group
  rw [← work.cur]
  have spill : (curGroup t).divSpill = 0 := by rw [group]; exact hd
  have calls : (curGroup t).callSpill = 0 := by rw [group]; exact hc
  have div : (curGroup t).div = (curGroup s).div.map fun e => { e with mask := e.mask &&& ~~~m } := by rw [group]; rfl
  have fuel : (curGroup t).div.length < depthD (curGroup t) + 1 := Nat.lt_succ_of_le (Nat.le_add_left ..)
  rw [div] at fuel
  cases hl : stackLeft (curGroup s) m with
  | nil =>
    have spent := List.dropWhile_eq_nil_iff.mp hl
    obtain ⟨work', group', fault'⟩ := resumed_of_all_spent div (fun d hd => of_decide_eq_true (spent d hd)) (by omega) fuel
    refine ⟨fault', work.trans work', txn, fun _ => by rw [group', group], nofun⟩
  | cons e r =>
    obtain ⟨split, spent, some⟩ := dropWhile_cons hl
    have short := congrArg List.length split
    rw [List.length_append] at short
    obtain ⟨work', group', fault'⟩ := resumed_of_spent (n := depthD (curGroup t) + 1) (div.trans split) (fun d hd => of_decide_eq_true (spent d hd))
      (of_decide_eq_false some) calls (fun _ => .inr (by omega)) (by omega)
    refine ⟨fault', work.trans work', txn, nofun, fun e' r' he => ?_⟩
    cases he
    rw [group', group]

/-- While lanes of `xm` are left the group goes on without those that left. -/
theorem exit_goes {s : State} {k : Issue} {m : LaneMask} (next : DWord) (h : (curGroup s).exited ||| m ≠ LaneMask.full)
    (hx : (curGroup s).xm &&& ~~~m ≠ 0) :
    removeFault (exitFrom s k) s.cur m next = none ∧ StackWork s (removeLanes (exitFrom s k) s.cur m next)
      ∧ ∃ txn, curGroup (removeLanes (exitFrom s k) s.cur m next)
            = withoutLanes (advance (curGroup s) k.len (readsLatch k) false none) m next txn := by
  obtain ⟨work, txn, group⟩ := exit_gone s k m next
  obtain ⟨fault, lanes⟩ := removeLanes_goes (s := exitFrom s k) (m := m) next (by rw [curGroup_exitFrom]; exact h)
    (by rw [curGroup_exitFrom]; exact hx)
  rw [show (exitFrom s k).cur = s.cur from rfl] at fault lanes
  rw [lanes]
  exact ⟨fault, work, txn, group⟩

/-- The loop of R129 over a last entry on the chip that has lost every lane: it reads the eight newest of the area back. -/
theorem resumeFault_last {s : State} (n : Nat) {e : DivEntry} (hd : (curGroup s).div = [e]) (hm : e.mask = 0) :
    resumeFault s s.cur (n + 1) = (popDivFault s s.cur).or (resumeFault (popDiv s s.cur) s.cur n) := by
  rw [resumeFault, show getGroup s s.cur = curGroup s from rfl, hd]
  exact if_pos hm

theorem resumeStacks_last {s : State} (n : Nat) {e : DivEntry} (hd : (curGroup s).div = [e]) (hm : e.mask = 0) :
    resumeStacks s s.cur (n + 1) = resumeStacks (popDiv s s.cur) s.cur n := by
  rw [resumeStacks, show getGroup s s.cur = curGroup s from rfl, hd]
  exact if_pos hm

section Refill
variable {s : State} {k : Issue} {m : LaneMask} (next : DWord) (h : (curGroup s).exited ||| m ≠ LaneMask.full)
  (hx : (curGroup s).xm &&& ~~~m = 0) (hh : hidden s s.cur = false) (hs : 8 ≤ (curGroup s).divSpill) {e : DivEntry}
  (hd : (curGroup s).div = [e]) (he : e.mask &&& ~~~m = 0)
include h hx hh hs hd he

/-- What keeps the entries from being read from which the group would resume. -/
theorem exit_blocked {b : StackFault}
    (hb : areaFault s s.cur false false 32 ((List.range 8).map fun i => divAddr (curGroup s) ((curGroup s).divSpill - 1 - i)) = some b) :
    removeFault (exitFrom s k) s.cur m next = some b := by
  obtain ⟨work, txn, group⟩ := exit_gone s k m next
  obtain ⟨fault, -⟩ := removeLanes_resumes (s := exitFrom s k) (m := m) next (by rw [curGroup_exitFrom]; exact h)
    (by rw [curGroup_exitFrom]; exact hx) ((stackWork_exitFrom s k).hidden.trans hh)
  rw [show (exitFrom s k).cur = s.cur from rfl] at fault
  rw [fault]
  generalize lanesGone (exitFrom s k) s.cur m next = t at work group
  have one : (curGroup t).div = [{ e with mask := e.mask &&& ~~~m }] := by rw [group]; simp [withoutLanes, advance, hd]
  have same (i : Nat) : divAddr (curGroup t) ((curGroup t).divSpill - 1 - i) = divAddr (curGroup s) ((curGroup s).divSpill - 1 - i) := by
    rw [group]; rfl
  have spill : 8 ≤ (curGroup t).divSpill := by rw [group]; exact hs
  rw [← work.cur, resumeFault_last _ one he, popDivFault_last (by rw [one]; exact Nat.le_refl 1) spill, work.cur, work.areaFault]
  simp only [same]
  rw [hb]
  rfl

/-- The group resumes from the newest entry that has lanes of those read back. -/
theorem exit_refills {key : Nat → Nat} (hc : (curGroup s).callSpill = 0)
    (hb : areaFault s s.cur false false 32 ((List.range 8).map fun i => divAddr (curGroup s) ((curGroup s).divSpill - 1 - i)) = none)
    (q : QuietArea s (fun i => divAddr (curGroup s) ((curGroup s).divSpill - 1 - i)) key 32) {d : DivEntry} {r : List DivEntry}
    (hl : (((List.range 8).map fun j => divOf ((curGroup s).exited ||| m) (memBytes s.mem (key j) 32)).dropWhile
      fun e => decide (e.mask = 0)) = d :: r) (hr : d.pc.getLsbD 0 = true → r ≠ [] ∨ (curGroup s).divSpill < 16) :
    removeFault (exitFrom s k) s.cur m next = none ∧ StackWork s (removeLanes (exitFrom s k) s.cur m next)
      ∧ ∃ txn, curGroup (removeLanes (exitFrom s k) s.cur m next)
            = resumedFrom { withoutLanes (advance (curGroup s) k.len (readsLatch k) false none) m next txn with
                divSpill := (curGroup s).divSpill - 8 } d r := by
  obtain ⟨work, txn, group⟩ := exit_gone s k m next
  obtain ⟨fault, lanes⟩ := removeLanes_resumes (s := exitFrom s k) (m := m) next (by rw [curGroup_exitFrom]; exact h)
    (by rw [curGroup_exitFrom]; exact hx) ((stackWork_exitFrom s k).hidden.trans hh)
  rw [show (exitFrom s k).cur = s.cur from rfl] at fault lanes
  rw [fault, lanes]
  generalize lanesGone (exitFrom s k) s.cur m next = t at work group
  have one : (curGroup t).div = [{ e with mask := e.mask &&& ~~~m }] := by rw [group]; simp [withoutLanes, advance, hd]
  have same (i : Nat) : divAddr (curGroup t) ((curGroup t).divSpill - 1 - i) = divAddr (curGroup s) ((curGroup s).divSpill - 1 - i) := by
    rw [group]; rfl
  have spill : 8 ≤ (curGroup t).divSpill := by rw [group]; exact hs
  have free : popDivFault t t.cur = none := by
    rw [popDivFault_last (by rw [one]; exact Nat.le_refl 1) spill, work.cur, work.areaFault]
    simp only [same]
    exact hb
  have refilled := popDiv_refill (s := t) (key := key) (by rw [one]; rfl) spill (by simp only [same]; exact work.quietArea q)
  have exited : (curGroup t).exited = (curGroup s).exited ||| m := by rw [group]; rfl
  have mem : t.mem = s.mem := work.mem
  rw [exited, mem] at refilled
  obtain ⟨split, spent, some⟩ := dropWhile_cons hl
  have short := congrArg List.length split
  rw [List.length_append, List.length_map, List.length_range, List.length_cons] at short
  have deep : depthD (curGroup t) = (curGroup t).divSpill + 1 := by
    unfold depthD
    rw [one]
    rfl
  have back := StackWork.setCur t (x := { curGroup t with
    div := (List.range 8).map fun j => divOf ((curGroup s).exited ||| m) (memBytes s.mem (key j) 32)
    divSpill := (curGroup t).divSpill - 8 }) rfl
  have top := curGroup_setCur t { curGroup t with
    div := (List.range 8).map fun j => divOf ((curGroup s).exited ||| m) (memBytes s.mem (key j) 32)
    divSpill := (curGroup t).divSpill - 8 }
  rw [← refilled] at back top
  have small : (curGroup t).divSpill = (curGroup s).divSpill := by rw [group]; rfl
  obtain ⟨work', group', fault'⟩ := resumed_of_spent (s := popDiv t t.cur) (n := depthD (curGroup t)) (by rw [top]; exact split)
    (fun d hd => of_decide_eq_true (spent d hd)) (of_decide_eq_false some) (by rw [top, group]; exact hc)
    (fun bit => by
      rw [top]
      exact (hr bit).imp_right fun h => by show (curGroup t).divSpill - 8 < 8; omega) (by omega)
  rw [back.cur] at work' group' fault'
  rw [← work.cur, resumeFault_last _ one he, resumeStacks_last _ one he, free, Option.none_or]
  refine ⟨fault', work.trans (back.trans work'), txn, ?_⟩
  rw [group', top, small, group]
  rfl

end Refill

end Sys2Proof.Stated
end

section
/-! PROOFS. The end of a group and of its block (R30, R62, R129, R402), and the statement about EXIT. -/

namespace Sys2Proof.Stated

open Sys2Proof Sys2Proof.Machine

/-! ## What the end of a block's holdings leaves alone -/

/-- Every block keeps its status. -/
structure BlocksStand (s t : State) : Prop where
  status : ∀ b, (getBlock t b).status = (getBlock s b).status

theorem BlocksStand.refl (s : State) : BlocksStand s s := ⟨fun _ => rfl⟩
theorem BlocksStand.trans {s t u : State} (h : BlocksStand s t) (k : BlocksStand t u) : BlocksStand s u :=
  ⟨fun b => (k.status b).trans (h.status b)⟩

theorem BlocksStand.of_blocks {s t : State} (h : t.blocks = s.blocks) : BlocksStand s t :=
  ⟨fun b => by unfold getBlock; rw [h]⟩

theorem BlocksStand.foldl_after {α : Type} {f : State → α → State} {s t : State} (h : BlocksStand s t)
    {l : List α} (hf : ∀ u a, BlocksStand s u → BlocksStand s (f u a)) : BlocksStand s (l.foldl f t) := by
  induction l generalizing t with
  | nil => exact h
  | cons a r ih => exact ih (hf t a h)

theorem BlocksStand.setBlock (s : State) (b : Nat) {x : Block} (h : x.status = (getBlock s b).status) : BlocksStand s (setBlock s b x) := by
  refine ⟨fun c => ?_⟩
  by_cases e : c = b
  · subst e; rw [getBlock_setBlock_same]; exact h
  · rw [getBlock_setBlock_ne s x e]

theorem BlocksStand.modBlock (s : State) (b : Nat) {f : Block → Block} (h : ∀ x, (f x).status = x.status) : BlocksStand s (modBlock s b f) :=
  .setBlock s b (h _)

/-- A change of groups, cores or grids after others. -/
theorem BlocksStand.before {s t u : State} (h : BlocksStand s t) (e : u.blocks = t.blocks) : BlocksStand s u := h.trans (.of_blocks e)

theorem BlocksStand.after_modGroup {s t : State} (h : BlocksStand s t) (g : Nat) (f : Group → Group) : BlocksStand s (modGroup t g f) := h.before rfl
theorem BlocksStand.after_bump {s t : State} (h : BlocksStand s t) (g : Nat) (e : Ev) : BlocksStand s (bump t g e) := h.before rfl
theorem BlocksStand.after_modCore {s t : State} (h : BlocksStand s t) (c : Nat) (f : Core → Core) : BlocksStand s (modCore t c f) := h.before rfl
theorem BlocksStand.after_modHold {s t : State} (h : BlocksStand s t) (b c : Nat) (f : Amt → Amt) : BlocksStand s (modHold t b c f) := h.before rfl
theorem BlocksStand.after_modPool {s t : State} (h : BlocksStand s t) (c : Nat) (o : Option Nat) (f : Pool → Pool) :
    BlocksStand s (modPool t c o f) := h.before rfl
theorem BlocksStand.after_setBlock {s t : State} (h : BlocksStand s t) (b : Nat) {x : Block} (hx : x.status = (getBlock t b).status) :
    BlocksStand s (Machine.setBlock t b x) := h.trans (.setBlock t b hx)
theorem BlocksStand.after_modBlock {s t : State} (h : BlocksStand s t) (b : Nat) {f : Block → Block} (hf : ∀ x, (f x).status = x.status) :
    BlocksStand s (Machine.modBlock t b f) := h.trans (.modBlock t b hf)

theorem BlocksStand.addSquares (s : State) (b m n : Nat) : BlocksStand s (addSquares s b m n) := by
  induction n generalizing s with
  | zero => exact .refl s
  | succ n ih =>
    unfold Machine.addSquares
    dsimp only
    split
    · exact .refl s
    · refine BlocksStand.trans (BlocksStand.after_setBlock (BlocksStand.of_blocks ?_) b ?_) (ih _)
      · rfl
      · rfl

theorem BlocksStand.applyGrant {s t : State} (h : BlocksStand s t) (g : Nat) (q : Amt) : BlocksStand s (applyGrant t g q) := by
  have squares : BlocksStand s (Machine.addSquares (modHold t (getGroup t g).block (slotCore g) (·.add q)) (getGroup t g).block
      (getGroup t g).member q.sqr) := (h.after_modHold ..).trans (.addSquares ..)
  unfold Machine.applyGrant
  dsimp only
  refine BlocksStand.after_bump (BlocksStand.after_modGroup (BlocksStand.after_modBlock squares _ ?_) ..) ..
  exact fun _ => rfl

theorem BlocksStand.walkQueue {s t : State} (h : BlocksStand s t) (c : Nat) (o : Option Nat) (l : List Deferred) :
    BlocksStand s (walkQueue t c o l) := by
  induction l generalizing t with
  | nil => exact h
  | cons d r ih =>
    unfold Machine.walkQueue
    dsimp only
    split
    · split
      · exact ih h
      · split
        · exact ih h
        · split
          · exact ih ((h.after_modPool ..).applyGrant ..)
          · exact ih h
    · split
      · exact ih h
      · split
        · exact ih ((h.after_modPool ..).after_modHold ..)
        · exact ih h

theorem BlocksStand.walkPool {s t : State} (h : BlocksStand s t) (c : Nat) (o : Option Nat) : BlocksStand s (walkPool t c o) := by
  unfold Machine.walkPool
  split
  · exact h.walkQueue ..
  · exact h

theorem BlocksStand.returnCarve {s t : State} (h : BlocksStand s t) (c : Nat) (o : Option Nat) : BlocksStand s (returnCarve t c o) := by
  unfold Machine.returnCarve
  split
  · exact h
  · split
    · dsimp only
      split
      · exact ((h.after_modCore ..).after_modPool ..).walkPool ..
      · exact h
    · exact h

theorem BlocksStand.restoreRows (s : State) (b c : Nat) : BlocksStand s (Machine.restoreRows s b c) := by
  unfold Machine.restoreRows
  exact BlocksStand.after_modCore ⟨(HomeWork.askRange ..).stand⟩ ..

theorem BlocksStand.giveToken {s t : State} (h : BlocksStand s t) (b c : Nat) : BlocksStand s (giveToken t b c) := by
  have rows : BlocksStand s (if (getBlock t b).spilled.getD (memberOn (getBlock t b) c) false then Machine.restoreRows t b c
      else modCore t c fun k => { k with acc := [] }) := by
    split
    · exact h.trans (BlocksStand.restoreRows ..)
    · exact h.after_modCore ..
  unfold Machine.giveToken
  dsimp only
  refine BlocksStand.foldl_after ?_ fun u g hu => ?_
  · refine BlocksStand.foldl_after ?_ fun u g hu => ?_
    · refine BlocksStand.after_modCore (BlocksStand.after_modBlock rows _ ?_) ..
      exact fun _ => rfl
    · split
      · exact hu.after_modGroup ..
      · exact hu
  · split
    · exact hu.after_bump ..
    · exact hu

theorem BlocksStand.passToken {s t : State} (h : BlocksStand s t) (c n : Nat) : BlocksStand s (passToken t c n) := by
  induction n generalizing t with
  | zero => exact h
  | succ n ih =>
    unfold Machine.passToken
    dsimp only
    split
    · exact h
    · split
      · exact h
      · split
        · split
          · exact h.giveToken ..
          · exact ih (h.before rfl)
        · refine ih (BlocksStand.foldl_after (h.after_modCore ..) fun u g hu => ?_)
          split
          · exact hu.after_modGroup ..
          · exact hu

theorem BlocksStand.returnHoldings {s t : State} (h : BlocksStand s t) (b c : Nat) : BlocksStand s (returnHoldings t b c) := by
  unfold Machine.returnHoldings
  dsimp only
  refine BlocksStand.returnCarve (BlocksStand.walkPool (BlocksStand.after_modPool ?_ ..) ..) ..
  unfold freeToken
  split
  · exact ((h.after_modCore ..).after_modCore ..).passToken ..
  · exact h.after_modCore ..

theorem BlocksStand.discardItems {s t : State} (h : BlocksStand s t) (i c : Nat) : BlocksStand s (discardItems t i c) := by
  unfold Machine.discardItems
  dsimp only
  split
  · exact h
  · exact h.before rfl

/-! ## Quiescence tested (R243) -/

/-- Groups that have ended stay as they are, no group ends, and blocks keep their groups and their status. -/
structure Quieted (s t : State) : Prop where
  cur : t.cur = s.cur
  still : ∀ h, (getGroup s h).status.live = false → getGroup t h = getGroup s h
  lives : ∀ h, (getGroup s h).status.live = true → (getGroup t h).status.live = true
  block : ∀ b, (getBlock t b).groups = (getBlock s b).groups ∧ (getBlock t b).away = (getBlock s b).away
    ∧ (getBlock t b).status = (getBlock s b).status

theorem Quieted.refl (s : State) : Quieted s s := ⟨rfl, fun _ _ => rfl, fun _ e => e, fun _ => ⟨rfl, rfl, rfl⟩⟩

theorem Quieted.trans {s t u : State} (h : Quieted s t) (k : Quieted t u) : Quieted s u where
  cur := k.cur.trans h.cur
  still g e := (k.still g (by rw [h.still g e]; exact e)).trans (h.still g e)
  lives g e := k.lives g (h.lives g e)
  block b :=
    have hb := h.block b
    have kb := k.block b
    ⟨kb.1.trans hb.1, kb.2.1.trans hb.2.1, kb.2.2.trans hb.2.2⟩

theorem Quieted.foldl {α : Type} {f : State → α → State} (h : ∀ s a, Quieted s (f s a)) (l : List α) (s : State) :
    Quieted s (l.foldl f s) := by
  induction l generalizing s with
  | nil => exact .refl s
  | cons a r ih => exact (h s a).trans (ih _)

theorem iterate_live {f : Group → Group} (hf : ∀ x : Group, x.status.live = true → (f x).status.live = true) (n : Nat) {x : Group}
    (h : x.status.live = true) : ((fun x => if x.status.live then f x else x)^[n] x).status.live = true := by
  induction n generalizing x with
  | zero => exact h
  | succ n ih =>
    rw [Function.iterate_succ_apply, if_pos h]
    exact ih (hf x h)

theorem modMembers_blocks (s : State) (b : Nat) (f : Group → Group) : (modMembers s b f).blocks
    = (modBlock s b fun y => { y with saved := y.saved.map fun e => (e.1, if e.2.status.live then f e.2 else e.2) }).blocks := by
  unfold modMembers
  dsimp only
  rw [foldl_modGroup_eq]
  rfl

theorem Quieted.modMembers (s : State) (b : Nat) {f : Group → Group} (hf : ∀ x : Group, x.status.live = true → (f x).status.live = true) :
    Quieted s (modMembers s b f) where
  cur := by
    unfold Machine.modMembers
    dsimp only
    rw [foldl_modGroup_eq]
    rfl
  still h e := by
    rw [getGroup_modMembers]
    refine Function.iterate_fixed ?_ _
    rw [e]
    rfl
  lives h e := by
    rw [getGroup_modMembers]
    exact iterate_live hf _ e
  block c := by
    have same : getBlock (Machine.modMembers s b f) c
        = getBlock (modBlock s b fun y => { y with saved := y.saved.map fun e => (e.1, if e.2.status.live then f e.2 else e.2) }) c := by
      unfold getBlock
      rw [modMembers_blocks]
    rw [same, modBlock]
    by_cases e : c = b
    · subst e
      rw [getBlock_setBlock_same]
      exact ⟨rfl, rfl, rfl⟩
    · rw [getBlock_setBlock_ne _ _ e]
      exact ⟨rfl, rfl, rfl⟩

theorem live_wakeGroup {x : Group} (h : x.status.live = true) : (wakeGroup x).status.live = true := by
  unfold wakeGroup
  split
  · split
    · rfl
    · exact h
  · exact h

theorem Quieted.testQuiet (s : State) (i : Nat) : Quieted s (testQuiet s i) := by
  unfold Machine.testQuiet
  dsimp only
  split
  · refine Quieted.trans (t := setGrid s i { getGrid s i with term := true }) ⟨rfl, fun _ _ => rfl, fun _ e => e, fun _ => ⟨rfl, rfl, rfl⟩⟩
      (.foldl (fun t b => .modMembers t b fun x hx => ?_) _ _)
    split
    · exact live_wakeGroup (by rw [withCounter_status]; exact hx)
    · exact hx
  · exact .refl s

theorem Quieted.stand {s t : State} (h : Quieted s t) : BlocksStand s t := ⟨fun b => (h.block b).2.2⟩

/-! ## The end of a block (R30, R402) -/

theorem endBlock_status (s : State) (b : Nat) (st : BlockStatus) : (getBlock (endBlock s b st) b).status = st := by
  unfold endBlock
  dsimp only
  generalize List.foldl _ (leaveIrrs _ _ _) _ = u
  generalize getBlock (readNow _ _) b = x
  have ended : (getBlock (setBlock u b { x with
    status := st, groups := [], sqrs := [], chans := [], mxe := [], win := [], spilled := [], rings := [], popped := [], saved := []
    savedSqrs := [], away := [] }) b).status = st := by rw [getBlock_setBlock_same]
  refine Eq.trans (BlocksStand.status (s := setBlock u b _) ?_ b) ended
  refine BlocksStand.trans ?_ (Quieted.testQuiet ..).stand
  refine BlocksStand.foldl_after (BlocksStand.foldl_after ?_ fun t c h => h.discardItems ..) fun t c h => h.returnHoldings ..
  exact .of_blocks rfl

/-! ## The end of a group (R62, R129) -/

/-- Before its block is looked at, the end of the issuing group ends it, and nothing else of groups and blocks that a block's end turns on. -/
structure Ended (s t : State) : Prop where
  cur : t.cur = s.cur
  status : (curGroup t).status = .ended
  xm : (curGroup t).xm = 0
  exited : (curGroup t).exited = LaneMask.full
  others : ∀ h, h ≠ s.cur → ((getGroup t h).status = .ended ↔ (getGroup s h).status = .ended)
  block : ∀ b, (getBlock t b).groups = (getBlock s b).groups ∧ (getBlock t b).away = (getBlock s b).away
    ∧ (getBlock t b).status = (getBlock s b).status

theorem ended_iff_of_live {x y : Group} (hl : x.status.live = true → y.status.live = true) (hs : x.status.live = false → y = x) :
    y.status = .ended ↔ x.status = .ended := by
  cases h : x.status.live with
  | false => rw [hs h]
  | true =>
    have hy := hl h
    refine ⟨fun e => ?_, fun e => ?_⟩
    · rw [e] at hy; cases hy
    · rw [e] at h; cases h

theorem Ended.quiet_group {s t u : State} (h : Ended s t) (q : Quieted t u) : curGroup u = curGroup t := by
  unfold curGroup
  rw [q.cur]
  exact q.still _ (by rw [show (getGroup t t.cur).status = .ended from h.status]; rfl)

/-- The test of quiescence leaves the end of the group as it is. -/
theorem Ended.after_quiet {s t u : State} (h : Ended s t) (q : Quieted t u) : Ended s u where
  cur := q.cur.trans h.cur
  status := by rw [h.quiet_group q]; exact h.status
  xm := by rw [h.quiet_group q]; exact h.xm
  exited := by rw [h.quiet_group q]; exact h.exited
  others g e := (ended_iff_of_live (q.lives g) (q.still g)).trans (h.others g e)
  block b :=
    have hb := h.block b
    have qb := q.block b
    ⟨qb.1.trans hb.1, qb.2.1.trans hb.2.1, qb.2.2.trans hb.2.2⟩

/-- The issuing group written as ended in a state with the same blocks and the same other groups. -/
theorem Ended.of_modGroup {s c : State} (cur : c.cur = s.cur) (blocks : c.blocks = s.blocks)
    (groups : ∀ h, h ≠ s.cur → getGroup c h = getGroup s h) {f : Group → Group}
    (hf : ∀ x, (f x).status = .ended ∧ (f x).xm = 0 ∧ (f x).exited = LaneMask.full) : Ended s (modGroup c s.cur f) := by
  have top : curGroup (modGroup c s.cur f) = f (getGroup c s.cur) := by
    unfold curGroup
    rw [show (modGroup c s.cur f).cur = s.cur from cur, getGroup_modGroup_same]
  obtain ⟨status, xm, exited⟩ := hf (getGroup c s.cur)
  refine ⟨cur, by rw [top]; exact status, by rw [top]; exact xm, by rw [top]; exact exited, fun h hh => ?_, fun b => ?_⟩
  · rw [getGroup_modGroup_ne _ _ hh, groups h hh]
  · rw [show getBlock (modGroup c s.cur f) b = getBlock s b by unfold getBlock; rw [show (modGroup c s.cur f).blocks = s.blocks from blocks]]
    exact ⟨rfl, rfl, rfl⟩

/-- The end of the issuing group is its own end, then a look at its block. -/
theorem endGroup_eq (s : State) : ∃ t, Ended s t ∧ endGroup s s.cur = tryEndBlock t (curGroup s).block := by
  have told := Told.sendAllGathers s (slotCore s.cur)
  unfold endGroup
  dsimp only
  generalize sendAllGathers s (slotCore s.cur) = a at told ⊢
  obtain ⟨work, -⟩ := lanesDropped_dropLanes a LaneMask.full
  rw [told.cur] at work
  generalize dropLanes a s.cur LaneMask.full = c at work ⊢
  have groups (g : Nat) (h : g ≠ s.cur) : getGroup c g = getGroup s g := (work.others g (by rwa [told.cur])).trans (told.getGroup g)
  have blocks : c.blocks = s.blocks := by rw [work.rest]; exact told.blocks
  refine ⟨_, ?_, rfl⟩
  refine Ended.after_quiet ?_ (.testQuiet _ _)
  refine Ended.of_modGroup ?_ ?_ ?_ fun _ => ⟨rfl, rfl, rfl⟩
  · exact work.cur.trans told.cur
  · exact blocks
  · exact groups

/-- A group of the block, other than the issuing one, has not ended. -/
def OthersStand (s : State) (b : Nat) : Prop :=
  (getBlock s b).away ≠ [] ∨ ∃ h, h ∈ (getBlock s b).groups ∧ h ≠ s.cur ∧ (getGroup s h).status ≠ .ended

theorem Ended.allEnded_iff {s t : State} (h : Ended s t) (b : Nat) : allEnded t b = true ↔ ¬ OthersStand s b := by
  obtain ⟨groups, away, -⟩ := h.block b
  have each (g : Nat) : (getGroup t g).status = .ended ↔ g = s.cur ∨ (getGroup s g).status = .ended := by
    by_cases e : g = s.cur
    · subst e
      exact iff_of_true (by have := h.status; unfold curGroup at this; rwa [h.cur] at this) (.inl rfl)
    · rw [h.others g e]
      exact (or_iff_right e).symm
  unfold allEnded OthersStand
  rw [groups, away, Bool.and_eq_true, List.isEmpty_iff, List.all_eq_true]
  simp only [decide_eq_true_eq, each]
  push Not
  exact and_congr_right fun _ => forall₂_congr fun g _ => or_iff_not_imp_left

theorem Ended.here {s t : State} (h : Ended s t) (b : Nat) : (getBlock t b).here = (getBlock s b).here := by
  obtain ⟨-, -, status⟩ := h.block b
  unfold Block.here
  rw [status]

/-- While another group of its block stands, the group that ends leaves the block as it is. -/
theorem endGroup_beside {s : State} (h : OthersStand s (curGroup s).block) : Ended s (endGroup s s.cur) := by
  obtain ⟨t, ended, eq⟩ := endGroup_eq s
  rw [eq, tryEndBlock, if_neg fun c => (ended.allEnded_iff _).mp (Bool.and_eq_true_iff.mp c).2 h]
  exact ended

/-- The last group of a block ends it. -/
theorem endGroup_last {s : State} (hb : (getBlock s (curGroup s).block).here = true) (h : ¬ OthersStand s (curGroup s).block) :
    (getBlock (endGroup s s.cur) (curGroup s).block).status = .ended := by
  obtain ⟨t, ended, eq⟩ := endGroup_eq s
  rw [eq, tryEndBlock, if_pos (Bool.and_eq_true_iff.mpr ⟨(ended.here _).trans hb, (ended.allEnded_iff _).mpr h⟩)]
  exact endBlock_status ..

theorem othersStand_of_stackWork {s t : State} (w : StackWork s t) (b : Nat) : OthersStand t b ↔ OthersStand s b := by
  have same : getBlock t b = getBlock s b := by rw [w.rest]; rfl
  unfold OthersStand
  rw [same, w.cur]
  refine or_congr_right (exists_congr fun h => and_congr_right fun _ => and_congr_right fun hh => ?_)
  rw [w.others h hh]

/-- When every lane of the group has exited, it ends, and its block with the last of its groups. -/
theorem exit_ends {s : State} {k : Issue} {m : LaneMask} (next : DWord) (h : (curGroup s).exited ||| m = LaneMask.full) :
    removeFault (exitFrom s k) s.cur m next = none
      ∧ (OthersStand s (curGroup s).block → Ended s (removeLanes (exitFrom s k) s.cur m next))
      ∧ ((getBlock s (curGroup s).block).here = true → ¬ OthersStand s (curGroup s).block →
          (getBlock (removeLanes (exitFrom s k) s.cur m next) (curGroup s).block).status = .ended) := by
  obtain ⟨work, txn, group⟩ := exit_gone s k m next
  obtain ⟨fault, lanes⟩ := removeLanes_ends (s := exitFrom s k) (m := m) next (by rw [curGroup_exitFrom]; exact h)
  rw [show (exitFrom s k).cur = s.cur from rfl] at fault lanes
  rw [lanes]
  generalize lanesGone (exitFrom s k) s.cur m next = t at work group
  have block : (curGroup t).block = (curGroup s).block := by rw [group]; rfl
  have same (b : Nat) : getBlock t b = getBlock s b := by rw [work.rest]; rfl
  rw [← work.cur, ← block, ← othersStand_of_stackWork work, ← same]
  refine ⟨by rw [work.cur]; exact fault, fun stand => ?_, endGroup_last⟩
  have ended := endGroup_beside stand
  exact ⟨ended.cur.trans work.cur, ended.status, ended.xm, ended.exited,
    fun g hg => (ended.others g (by rwa [work.cur])).trans (by rw [work.others g hg]), fun b => by rw [← same]; exact ended.block b⟩

end Sys2Proof.Stated

namespace Sys2Proof.Proofs

open Sys2Proof Sys2Proof.Machine Sys2Proof.Stated

/-- Settles O32, by the lanes that are left: of `xm`, of the group, or none. -/
theorem exitLeavesLanes : Obligations.ExitLeavesLanes := by
  unfold Obligations.ExitLeavesLanes
  intro s f g base x k i m next left others hp
  obtain ⟨f', run, hm⟩ := exec_exit s f g base
  rw [show exec i s = exitLanes s f' k from run]
  rw [show (curGroup s).xm &&& _ = m from rfl] at hm
  refine ⟨fun h0 => ?none, fun h0 h hx => ?some, fun h0 h => ?ends, fun e hd he h0 h hx hh hc hs => ?refill⟩
  case none => exact exitLanes_none hp (hm.trans h0)
  case some =>
    have h0' : live (curGroup s) f' ≠ 0 := by rwa [hm]
    by_cases hxm : x.xm &&& ~~~m = 0
    · obtain ⟨hh, hd, hc⟩ := hx.resolve_left (not_not.mpr hxm)
      obtain ⟨fault, work, txn, all, some⟩ := exit_resumes (k := k) next h hxm hh hd hc
      have ends := exitLanes_of_removal hp h0' (by rw [hm]; exact fault)
      rw [hm] at ends
      refine ⟨_, ends, work.mem, work.others, ?_⟩
      cases hl : stackLeft (curGroup s) m with
      | nil =>
        rw [all hl]
        refine ⟨rfl, rfl, rfl, rfl, fun stay => absurd hxm stay, fun _ => ⟨fun _ => ⟨hxm, rfl, rfl, rfl⟩, fun e r he => ?_⟩⟩
        cases hl.symm.trans he
      | cons e r =>
        rw [some e r hl]
        refine ⟨rfl, rfl, rfl, rfl, fun stay => absurd hxm stay, fun _ => ⟨fun he => (nomatch hl.symm.trans he), fun e' r' he => ?_⟩⟩
        cases hl.symm.trans he
        refine ⟨rfl, rfl, ?_, ?_⟩
        · rw [show left = e :: r from hl]
          rfl
        · rw [show left = e :: r from hl]
          exact resumedFrom_call _ e r ((congrArg (· + (r.length + 1)) hd).trans (Nat.zero_add _))
    · obtain ⟨fault, work, txn, group⟩ := exit_goes (k := k) next h hxm
      have ends := exitLanes_of_removal hp h0' (by rw [hm]; exact fault)
      rw [hm] at ends
      refine ⟨_, ends, work.mem, work.others, ?_⟩
      rw [group]
      exact ⟨rfl, rfl, rfl, rfl, fun _ => ⟨rfl, rfl, rfl, rfl⟩, fun gone => absurd gone hxm⟩
  case ends =>
    obtain ⟨fault, beside, last⟩ := exit_ends (k := k) next h
    have ends := exitLanes_of_removal hp (by rwa [hm]) (by rw [hm]; exact fault)
    rw [hm] at ends
    refine ⟨_, ends, fun stand => ?_, last⟩
    have ended := beside stand
    exact ⟨ended.status, ended.xm, ended.exited⟩
  case refill =>
    have h0' : live (curGroup s) f' ≠ 0 := by rwa [hm]
    refine ⟨fun b hb => ?_, fun hb key q d r hl hr => ?_⟩
    · rw [exitLanes_of_fault hp h0' (by rw [hm]; exact exit_blocked next h hx hh hs hd he hb)]
      exact stackStops_stackTrap s k b
    · obtain ⟨fault, work, txn, group⟩ := exit_refills (k := k) next h hx hh hs hd he hc hb q hl hr
      have ends := exitLanes_of_removal hp h0' (by rw [hm]; exact fault)
      rw [hm] at ends
      refine ⟨_, ends, work.mem, ?_⟩
      rw [group]
      refine ⟨rfl, rfl, rfl, ?_, ?_⟩
      · rw [hl]
        rfl
      · rw [hl]
        exact resumedFrom_call _ d r (Nat.add_comm ..)

end Sys2Proof.Proofs
end

section
/-! PROOFS. Instructions that compute values and raise floating flags (R76, R77), and the statements about the floating instructions,
conversions, and the instructions across lanes. -/

namespace Sys2Proof.Stated

open Sys2Proof Sys2Proof.Machine

/-! ## Completion with flags (R76, R77) -/

theorem flagsRaised_eq (g : Group) (f : XForm) (u : Bool) (fl : Nat → FFlags) : flagsRaised g f u fl = flagsOf g f u fl := by
  simp only [flagsRaised, flagsOf, Bool.and_eq_true, decide_eq_true_eq]

section
variable {s : State} {f : XForm} {k : Issue} {m : Mode} {pair : Bool} {x : Nat → DWord × FFlags}

/-- Flags none of which is enabled only enter `sy.fpflags`. -/
theorem computed_performAt (hp : Passes s k)
    (he : enabledFlags (curGroup s).fpflags (flagsRaised (curGroup s) f (uniform m f) fun j => (x j).2) = 0) :
    Computed s f k (uniform m f) pair (fun j => (x j).1) (flagsRaised (curGroup s) f (uniform m f) fun j => (x j).2)
      (performAt s f k m pair x) := by
  rw [flagsRaised_eq] at he ⊢
  rw [performAt_next hp he]
  exact computed_performed ..

/-- The trap of an instruction that raised enabled flags (R77). -/
def floatTrap (s : State) (fl : FFlags) : PendTrap :=
  { cls := .C, code := 0x09, sw := 0, recs := [plainRec s s.cur 0x09 (enabledFlags (curGroup s).fpflags fl).toNat], epc := 0,
    uniform := false, elems := [] }

/-- With an enabled flag among them the instruction completes all the same, and the trap is raised from the state it leaves. -/
theorem computed_performAt_raises (hp : Passes s k)
    (he : enabledFlags (curGroup s).fpflags (flagsRaised (curGroup s) f (uniform m f) fun j => (x j).2) ≠ 0) :
    ∃ t, Computed s f k (uniform m f) pair (fun j => (x j).1) (flagsRaised (curGroup s) f (uniform m f) fun j => (x j).2) (.next t)
      ∧ performAt s f k m pair x
          = .next (raiseTrap t (floatTrap s (flagsRaised (curGroup s) f (uniform m f) fun j => (x j).2))) := by
  refine ⟨_, computed_performed .., ?_⟩
  rw [flagsRaised_eq] at he ⊢
  unfold performAt
  dsimp only
  rw [issue_pass _ hp]
  unfold finish
  simp only [putD_fpflags]
  exact (if_neg he).trans rfl

end

/-! ## The tables of the instructions of one shape -/

theorem exec_of_floatingOf {i : Instr} {f : XForm} {len : Nat} {op : FltFn} (h : floatingOf i = some (f, len, op)) (s : State) :
    exec i s = floating s f len op := by
  unfold floatingOf at h
  split at h <;> cases h <;> rfl

end Sys2Proof.Stated

namespace Sys2Proof.Proofs

open Sys2Proof Sys2Proof.Machine Sys2Proof.Stated

/-- Settles O21: both are `performAt` of values with flags. -/
theorem floatingResult : Obligations.FloatingResult := by
  unfold Obligations.FloatingResult
  refine ⟨fun s i f len op hi => ?floating, fun s f => ?conversion⟩
  case floating =>
    intro g p r fl hp he
    rw [exec_of_floatingOf hi]
    exact computed_performAt hp he
  case conversion =>
    intro g from_ k r fl hp he
    exact computed_performAt hp he

/-- Settles O22: `performAt` raises the trap from the state that it leaves. -/
theorem floatingException : Obligations.FloatingException := by
  unfold Obligations.FloatingException
  intro s f g p raises
  refine ⟨fun i len op hi => ?floating, ?conversion, ?red, ?scan⟩
  case floating =>
    intro r hp he
    rw [exec_of_floatingOf hi]
    exact computed_performAt_raises hp he
  case conversion => exact fun hp he => computed_performAt_raises (m := .auto) hp he
  case red => exact fun hp he => computed_performAt_raises (m := .lane) hp he
  case scan => exact fun hp he => computed_performAt_raises (m := .lane) hp he

/-- Settles O26: RED and SCAN are `performAt` over the tree, TXQ and LOCQ raise no flag. -/
theorem crossLaneResult : Obligations.CrossLaneResult := by
  unfold Obligations.CrossLaneResult
  intro s f g t pre
  refine ⟨fun hp => ⟨fun he => ?red, fun he => ?scan⟩, fun hp => ?txq, fun hp => ?locq⟩
  case red => exact computed_performAt (m := .lane) hp he
  case scan => exact computed_performAt (m := .lane) hp he
  case txq => exact computed_performAt_of_no_flag .lane false _ hp
  case locq => exact computed_performAt_of_no_flag (addrMode f) false _ hp

end Sys2Proof.Proofs
end

section
/-! PROOFS. Floating values: what bits decode to (R67, R68), the numbers that decoded values stand for, and their products (R86). -/

namespace Sys2Proof.Stated

open Sys2Proof Sys2Proof.Machine

/-! ## Bits decoded (R68) -/

section
variable {f : Fmt} {x : DWord}

theorem fval_eq (f : Fmt) (x : DWord) : fval f x =
    if expField f x = 2 ^ f.e - 1 then
      (if fracField f x = 0 then .inf (negBit f x) else .nan (fracField f x < 2 ^ (f.m - 1)))
    else if expField f x = 0 then
      (if fracField f x = 0 then .zero (negBit f x) else .num (negBit f x) (fracField f x) (1 - fmtBias f - f.m))
    else .num (negBit f x) (2 ^ f.m + fracField f x) (expField f x - fmtBias f - f.m) := rfl

theorem isNan_iff : isNan f x = true ↔ expField f x = 2 ^ f.e - 1 ∧ fracField f x ≠ 0 := by simp [isNan]
theorem isInf_iff : isInf f x = true ↔ expField f x = 2 ^ f.e - 1 ∧ fracField f x = 0 := by simp [isInf]
theorem realOf_eq_none_iff : realOf f x = none ↔ expField f x = 2 ^ f.e - 1 := by simp [realOf]

theorem isNan_of_isSig (h : isSig f x = true) : isNan f x = true := (Bool.and_eq_true_iff.mp h).1

/-- Bits are a NaN, an infinity or a number. -/
theorem nan_inf_or_real (f : Fmt) (x : DWord) : isNan f x = true ∨ isInf f x = true ∨ ∃ p, realOf f x = some p := by
  by_cases he : expField f x = 2 ^ f.e - 1
  · by_cases hf : fracField f x = 0
    · exact .inr (.inl (isInf_iff.mpr ⟨he, hf⟩))
    · exact .inl (isNan_iff.mpr ⟨he, hf⟩)
  · exact .inr (.inr (Option.ne_none_iff_exists'.mp (realOf_eq_none_iff.not.mpr he)))

theorem inf_or_real (h : isNan f x = false) : isInf f x = true ∨ ∃ p, realOf f x = some p :=
  (nan_inf_or_real f x).resolve_left (Bool.eq_false_iff.mp h)
theorem exists_real (hn : isNan f x = false) (hi : isInf f x = false) : ∃ p, realOf f x = some p :=
  (inf_or_real hn).resolve_left (Bool.eq_false_iff.mp hi)

theorem fval_of_isNan (h : isNan f x = true) : fval f x = .nan (isSig f x) := by
  obtain ⟨he, hf⟩ := isNan_iff.mp h
  simp [fval_eq, isSig, h, he, hf]

theorem fval_of_isInf (h : isInf f x = true) : fval f x = .inf (negBit f x) := by
  obtain ⟨he, hf⟩ := isInf_iff.mp h
  simp [fval_eq, he, hf]

theorem isNan_of_isInf (h : isInf f x = true) : isNan f x = false :=
  Bool.eq_false_iff.mpr fun hn => (isNan_iff.mp hn).2 (isInf_iff.mp h).2
theorem realOf_of_isInf (h : isInf f x = true) : realOf f x = none := realOf_eq_none_iff.mpr (isInf_iff.mp h).1
theorem realOf_of_isNan (h : isNan f x = true) : realOf f x = none := realOf_eq_none_iff.mpr (isNan_iff.mp h).1
theorem isInf_of_isNan (h : isNan f x = true) : isInf f x = false :=
  Bool.eq_false_iff.mpr fun hi => (isNan_iff.mp h).2 (isInf_iff.mp hi).2

section
variable {p : ℚ} (h : realOf f x = some p)
include h

theorem expField_of_real : expField f x ≠ 2 ^ f.e - 1 := fun he => by simp [realOf_eq_none_iff.mpr he] at h
theorem isNan_of_real : isNan f x = false := Bool.eq_false_iff.mpr fun hn => expField_of_real h (isNan_iff.mp hn).1
theorem isInf_of_real : isInf f x = false := Bool.eq_false_iff.mpr fun hi => expField_of_real h (isInf_iff.mp hi).1
theorem isSig_of_real : isSig f x = false := Bool.eq_false_iff.mpr fun hs => by simpa [isNan_of_real h] using isNan_of_isSig hs

end

end

/-! ## The numbers that decoded values stand for -/

/-- A decoded value is a number `p` with the sign `n`. -/
inductive Stands : FVal → Bool → ℚ → Prop
  | zero (n : Bool) : Stands (.zero n) n 0
  | num (n : Bool) {m : Nat} (e : Int) (hm : m ≠ 0) : Stands (.num n m e) n ((if n then -1 else 1) * m * 2 ^ e)

theorem stands_fval {f : Fmt} {x : DWord} {p : ℚ} (h : realOf f x = some p) : Stands (fval f x) (negBit f x) p := by
  have he := expField_of_real h
  rw [realOf, if_neg he] at h
  rw [fval_eq, if_neg he]
  obtain rfl := Option.some.inj h
  by_cases h0 : expField f x = 0
  · rw [if_pos h0, if_pos h0]
    by_cases hf : fracField f x = 0
    · rw [if_pos hf, hf, Nat.cast_zero, zero_mul, mul_zero]
      exact .zero _
    · rw [if_neg hf, ← mul_assoc]
      exact .num _ _ hf
  · rw [if_neg h0, if_neg h0, ← mul_assoc]
    have := Stands.num (negBit f x) (m := 2 ^ f.m + fracField f x) (expField f x - fmtBias f - f.m) (by positivity)
    rwa [Nat.cast_add, Nat.cast_pow, Nat.cast_ofNat] at this

theorem Stands.ratOf {v : FVal} {n : Bool} {p : ℚ} (h : Stands v n p) : ratOf v = some p := by
  cases h <;> rfl

theorem ratOf_fval (f : Fmt) (x : DWord) : ratOf (fval f x) = realOf f x := by
  obtain h | h | ⟨p, h⟩ := nan_inf_or_real f x
  · rw [fval_of_isNan h, realOf_of_isNan h]
    rfl
  · rw [fval_of_isInf h, realOf_of_isInf h]
    rfl
  · rw [h, (stands_fval h).ratOf]

theorem sign_not (n : Bool) : (if (!n) = true then -1 else 1 : ℚ) = -(if n then -1 else 1) := by cases n <;> simp
theorem sign_ne_zero (n : Bool) : (if n then -1 else 1 : ℚ) ≠ 0 := by cases n <;> simp
theorem sign_bne (a b : Bool) : (if (a != b) = true then -1 else 1 : ℚ) = (if a then -1 else 1) * (if b then -1 else 1) := by
  cases a <;> cases b <;> simp

theorem ratOf_mulVal {v w : FVal} {p q : ℚ} (hv : ratOf v = some p) (hw : ratOf w = some q) :
    ratOf (mulVal v w) = some (p * q) := by
  cases v <;> cases w <;> simp only [ratOf, Option.some.injEq, reduceCtorEq] at hv hw <;> subst hv hw <;> simp only [mulVal, ratOf]
  case zero.zero => simp
  case zero.num => simp
  case num.zero => simp
  case num.num =>
    rw [sign_bne, Nat.cast_mul, zpow_add₀ two_ne_zero]
    ring_nf

theorem Stands.mul {v w : FVal} {a b : Bool} {p q : ℚ} (hv : Stands v a p) (hw : Stands w b q) :
    Stands (mulVal v w) (a != b) (p * q) := by
  have h := ratOf_mulVal hv.ratOf hw.ratOf
  cases hv with
  | zero => cases hw <;> simpa [mulVal] using Stands.zero _
  | num a d hm =>
    cases hw with
    | zero => simpa [mulVal] using Stands.zero _
    | num b e hk =>
      rw [← Option.some.inj h]
      exact .num _ _ (Nat.mul_ne_zero hm hk)

theorem Stands.neg {v : FVal} {n : Bool} {p : ℚ} (h : Stands v n p) : Stands (negVal v) (!n) (-p) := by
  cases h with
  | zero => simpa [negVal] using Stands.zero _
  | num n e hm =>
    rw [← neg_mul, ← neg_mul, ← sign_not]
    exact .num _ e hm

theorem Stands.eq_zero {v : FVal} {n : Bool} (h : Stands v n 0) : v = .zero n := by
  generalize hp : (0 : ℚ) = p at h
  cases h with
  | zero => rfl
  | num n e hm =>
    have := mul_ne_zero (mul_ne_zero (sign_ne_zero n) (Nat.cast_ne_zero.mpr hm)) (zpow_ne_zero e (two_ne_zero (α := ℚ)))
    exact absurd hp.symm this

theorem Stands.not_nan {v : FVal} {n : Bool} {p : ℚ} (h : Stands v n p) (s : Bool) : v ≠ .nan s := by
  cases h <;> exact FVal.noConfusion

end Sys2Proof.Stated
end

section
/-! PROOFS. Rounding (R72 to R74): a magnitude rounded to a multiple of a power of two is its number rounded to a grid. -/

namespace Sys2Proof.Stated

open Sys2Proof Sys2Proof.Machine

/-! ## Signs -/

/-- The mode in which the magnitude of a number is rounded: toward +∞ and toward −∞ change places for a negative number. -/
def magMode (neg : Bool) : Rm → Rm
  | .ru => if neg then .rd else .ru
  | .rd => if neg then .ru else .rd
  | .rn => .rn
  | .rz => .rz

@[simp] theorem magMode_false (rm : Rm) : magMode false rm = rm := by cases rm <;> rfl

theorem roundsUp_magMode (rm : Rm) (neg odd inexact : Bool) (half : Ordering) :
    roundsUp rm neg odd inexact half = roundsUp (magMode neg rm) false odd inexact half := by
  cases rm <;> cases neg <;> rfl

theorem roundAt_magMode (rm : Rm) (neg : Bool) (m : Nat) (e : Int) (st : Bool) (q : Int) :
    roundAt rm neg m e st q = roundAt (magMode neg rm) false m e st q := by
  unfold roundAt
  simp only [roundsUp_magMode rm neg]

/-- A grid that lies alike on both sides of zero. -/
def Mirrored (grid : Bool → ℚ → Prop) : Prop := ∀ b v, grid b v → grid b (-v)

theorem RoundsTo.neg {rm : Rm} {grid : Bool → ℚ → Prop} {y : ℝ} {u : ℚ} (hg : Mirrored grid)
    (h : RoundsTo (magMode true rm) grid y u) : RoundsTo rm grid (-y) (-u) := by
  obtain ⟨mem, h⟩ := h
  refine ⟨hg _ _ mem, ?_⟩
  have dist (v : ℚ) : |-y - (v : ℝ)| = |y - ((-v : ℚ) : ℝ)| := by
    rw [← abs_neg]
    push_cast
    ring_nf
  cases rm with
  | rn =>
    intro v hv
    obtain ⟨near, tie⟩ := h (-v) (hg _ _ hv)
    rw [dist, dist, neg_neg]
    exact ⟨near, fun e => (tie e).imp (fun e => by rw [← e, neg_neg]) (hg _ _)⟩
  | rz =>
    obtain ⟨le, sign, max⟩ := h
    refine ⟨by simpa using le, by simpa using sign, fun v hv hle => ?_⟩
    rw [abs_neg]
    exact max v hv (by simpa using hle)
  | ru =>
    obtain ⟨le, max⟩ := h
    refine ⟨by simpa using le, fun v hv hle => neg_le.mp (max (-v) (hg _ _ hv) ?_)⟩
    push_cast
    linarith
  | rd =>
    obtain ⟨le, min⟩ := h
    refine ⟨by simpa using le, fun v hv hle => le_neg.mp (min (-v) (hg _ _ hv) ?_)⟩
    push_cast
    linarith

/-- A number is rounded by its magnitude. -/
theorem RoundsTo.of_magnitude {rm : Rm} {grid : Bool → ℚ → Prop} {y : ℝ} {u : ℚ} (hg : Mirrored grid) (neg : Bool)
    (h : RoundsTo (magMode neg rm) grid y u) : RoundsTo rm grid ((if neg then -1 else 1) * y) ((if neg then -1 else 1) * u) := by
  cases neg with
  | false => simpa using h
  | true => simpa using h.neg hg

/-! ## A magnitude rounded to a whole number -/

/-- `t` is `m`, or, with `st`, lies strictly between `m` and the next whole number. -/
def Truncated (m : Nat) (st : Bool) (t : ℝ) : Prop := if st then m < t ∧ t < m + 1 else t = m

theorem Truncated.le {m : Nat} {st : Bool} {t : ℝ} (h : Truncated m st t) : m ≤ t := by
  cases st with
  | false => exact h.ge
  | true => exact h.1.le

theorem Truncated.lt {m : Nat} {st : Bool} {t : ℝ} (h : Truncated m st t) : t < m + 1 := by
  cases st with
  | false => exact h.trans_lt (lt_add_one _)
  | true => exact h.2

/-- `n` is `a` rounded in the mode of a magnitude; `h` is `a` rounded down. -/
structure RoundsNat (rm : Rm) (a : ℝ) (h n : ℕ) : Prop where
  le : h ≤ a
  lt : a < h + 1
  pick : match rm with
    | .rn => n = h ∧ a - h ≤ 1 / 2 ∧ (a - h = 1 / 2 → n % 2 = 0) ∨ n = h + 1 ∧ 1 / 2 ≤ a - h ∧ (a - h = 1 / 2 → n % 2 = 0)
    | .ru => n = h ∧ a = h ∨ n = h + 1 ∧ h < a
    | .rz => n = h
    | .rd => n = h

section
variable {rm : Rm} {a : ℝ} {h n : ℕ} (r : RoundsNat rm a h n)
include r

theorem RoundsNat.down_or_up : n = h ∨ n = h + 1 ∧ h < a := by
  cases rm with
  | rn => exact r.pick.imp (fun p => p.1) fun p => ⟨p.1, by linarith [p.2.1]⟩
  | ru => exact r.pick.imp (fun p => p.1) id
  | rz => exact .inl r.pick
  | rd => exact .inl r.pick

theorem RoundsNat.le_succ : n ≤ h + 1 := by
  obtain hn | ⟨hn, -⟩ := r.down_or_up <;> omega

theorem RoundsNat.ge : h ≤ n := by
  obtain hn | ⟨hn, -⟩ := r.down_or_up <;> omega

/-- The rounded number is exact where nothing is cut off. -/
theorem RoundsNat.eq_iff : (n : ℝ) = a ↔ a = h := by
  obtain rfl | ⟨rfl, hlt⟩ := r.down_or_up
  · exact eq_comm
  · constructor <;> intro e
    · have := r.lt
      push_cast at e
      linarith
    · exact absurd e hlt.ne'

/-- A whole number below stays below. -/
theorem RoundsNat.le_of_le {l : ℕ} (hl : l ≤ a) : l ≤ h := by
  have : (l : ℝ) < (h + 1 : ℕ) := by
    push_cast
    exact hl.trans_lt r.lt
  exact Nat.lt_succ_iff.mp (Nat.cast_lt.mp this)

/-- A whole number above stays above. -/
theorem RoundsNat.le_of_ge {l : ℕ} (hl : a ≤ l) : n ≤ l := by
  obtain rfl | ⟨rfl, hlt⟩ := r.down_or_up
  · exact_mod_cast r.le.trans hl
  · exact_mod_cast hlt.trans_le hl

end

theorem roundsNat_natCast (rm : Rm) (n : ℕ) : RoundsNat rm n n n := by
  refine ⟨le_rfl, lt_add_one _, ?_⟩
  cases rm with
  | rn => exact .inl ⟨rfl, by norm_num, fun e => by norm_num at e⟩
  | ru => exact .inl ⟨rfl, rfl⟩
  | rz => rfl
  | rd => rfl

/-- The remainder of a division by `2 * p`, compared with the half. -/
def halfCmp (lo p : Nat) (st : Bool) : Ordering := if lo < p then .lt else if lo = p && !st then .eq else .gt

/-- What the comparison says of the number `d` whose whole part is the remainder. -/
theorem halfCmp_spec {lo p : Nat} {st : Bool} {d : ℝ} (hd : Truncated lo st d) :
    match halfCmp lo p st with
    | .lt => d < p
    | .eq => d = p
    | .gt => p < d := by
  unfold halfCmp
  by_cases hl : lo < p
  · rw [if_pos hl]
    exact hd.lt.trans_le (by exact_mod_cast hl)
  · rw [if_neg hl]
    have hle : (p : ℝ) ≤ lo := by exact_mod_cast not_lt.mp hl
    cases st with
    | false =>
      by_cases he : lo = p
      · simpa [he] using hd.trans (congrArg _ he)
      · have hlt : (p : ℝ) < lo := by exact_mod_cast lt_of_le_of_ne (not_lt.mp hl) (Ne.symm he)
        simpa [he] using hlt.trans_le hd.le
    | true => simpa using hle.trans_lt hd.1

/-- A division by `2 * p` rounded by the comparison of its remainder with the half. -/
theorem roundsNat_of_half {rm : Rm} {hi lo p : Nat} {st : Bool} {d : ℝ} (hp : 0 < p) (hlo : lo < 2 * p) (hd : Truncated lo st d) :
    RoundsNat rm (hi + d / (2 * p)) hi
      (if roundsUp rm false (hi % 2 = 1) (lo != 0 || st) (halfCmp lo p st) then hi + 1 else hi) := by
  have p0 : (0 : ℝ) < 2 * p := by positivity
  have d0 : 0 ≤ d := (Nat.cast_nonneg lo).trans hd.le
  have d1 : d < 2 * p := hd.lt.trans_le (by exact_mod_cast hlo)
  refine ⟨by have := div_nonneg d0 p0.le; linarith, by have := (div_lt_one p0).mpr d1; linarith, ?_⟩
  have whole : (lo != 0 || st) = false → d = 0 := by
    intro h
    obtain ⟨h0, rfl⟩ : lo = 0 ∧ st = false := by simpa using h
    exact hd.trans (by rw [h0, Nat.cast_zero])
  have part : (lo != 0 || st) = true → 0 < d := by
    intro h
    cases st with
    | true => exact (Nat.cast_nonneg lo).trans_lt hd.1
    | false =>
      have : 0 < lo := Nat.pos_of_ne_zero (by simpa using h)
      exact (Nat.cast_pos.mpr this).trans_le hd.le
  cases rm with
  | rz => rfl
  | rd => simp [roundsUp]
  | ru =>
    cases hx : (lo != 0 || st) with
    | false => exact .inl ⟨by simp [roundsUp], by rw [whole hx, zero_div, add_zero]⟩
    | true => exact .inr ⟨by simp [roundsUp], by have := div_pos (part hx) p0; linarith⟩
  | rn =>
    have spec := halfCmp_spec (p := p) hd
    dsimp only
    rw [add_sub_cancel_left, div_le_div_iff₀ p0 two_pos, div_eq_div_iff p0.ne' two_ne_zero, div_le_div_iff₀ two_pos p0]
    cases hc : halfCmp lo p st <;> rw [hc] at spec <;> dsimp only at spec
    case lt => exact .inl ⟨by simp [roundsUp], by linarith, fun e => by linarith⟩
    case gt => exact .inr ⟨by simp [roundsUp], by linarith, fun e => by linarith⟩
    case eq =>
      by_cases ho : hi % 2 = 1
      · exact .inr ⟨by simp [roundsUp, ho], by linarith, fun _ => by simp [roundsUp, ho]; omega⟩
      · exact .inl ⟨by simp [roundsUp, ho], by linarith, fun _ => by simp [roundsUp, ho]; omega⟩

/-- `roundAt` rounds the magnitude `t * 2 ^ e`, seen from the place `2 ^ q`, and tells whether anything was cut off. -/
theorem roundAt_rounds (rm : Rm) (neg : Bool) {m : Nat} {e : Int} {st : Bool} {q : Int} {t : ℝ} (hst : st = true → e < q)
    (ht : Truncated m st t) :
    ∃ h, RoundsNat (magMode neg rm) (t * 2 ^ (e - q)) h (roundAt rm neg m e st q).1
      ∧ ((roundAt rm neg m e st q).2 = false ↔ t * 2 ^ (e - q) = h) := by
  rw [roundAt_magMode]
  unfold roundAt
  by_cases hq : q ≤ e
  · obtain rfl : st = false := Bool.eq_false_iff.mpr fun h => absurd (hst h) (not_lt.mpr hq)
    obtain rfl : t = m := ht
    rw [if_pos hq]
    have : (m : ℝ) * 2 ^ (e - q) = (m * 2 ^ (e - q).toNat : ℕ) := by
      conv_lhs => rw [← Int.toNat_of_nonneg (sub_nonneg.mpr hq), zpow_natCast]
      push_cast
      rfl
    exact ⟨_, this ▸ roundsNat_natCast _ _, by simp [this]⟩
  · rw [if_neg hq]
    dsimp only
    obtain ⟨k, hk⟩ : ∃ k, (q - e).toNat = k + 1 := ⟨(q - e).toNat - 1, by omega⟩
    rw [hk, Nat.add_sub_cancel, pow_succ' 2 k]
    set p := 2 ^ k with hp
    have p0 : 0 < p := by positivity
    set hi := m / (2 * p)
    set lo := m % (2 * p)
    have split : (m : ℝ) = 2 * p * hi + lo := by exact_mod_cast (Nat.div_add_mod m (2 * p)).symm
    have hd : Truncated lo st (t - 2 * p * hi) := by
      cases st with
      | false => exact (by rw [show t = m from ht, split]; ring : t - 2 * p * hi = (lo : ℝ))
      | true => exact ⟨by linarith [ht.1], by linarith [ht.2]⟩
    have place : t * 2 ^ (e - q) = hi + (t - 2 * p * hi) / (2 * p) := by
      have : e - q = -((k + 1 : ℕ) : ℤ) := by omega
      rw [this, zpow_neg, zpow_natCast, pow_succ', show ((2 : ℝ) ^ k) = p by rw [hp]; push_cast; rfl]
      field_simp
      ring
    rw [place]
    refine ⟨hi, roundsNat_of_half p0 (Nat.mod_lt _ (by positivity)) hd, ?_⟩
    have : (2 * (p : ℝ)) ≠ 0 := by positivity
    rw [add_eq_left, div_eq_zero_iff, or_iff_left this]
    constructor
    · intro h
      obtain ⟨h0, rfl⟩ : lo = 0 ∧ st = false := by simpa using h
      exact hd.trans (by rw [h0, Nat.cast_zero])
    · intro h
      have hl : (lo : ℝ) ≤ 0 := h ▸ hd.le
      have h0 : lo = 0 := by exact_mod_cast le_antisymm hl (Nat.cast_nonneg lo)
      cases st with
      | false => simp [h0]
      | true => exact absurd (h ▸ hd.1) (not_lt.mpr (Nat.cast_nonneg lo))

/-! ## A magnitude rounded to a grid -/

/-- No value of the grid lies between two neighbouring multiples of `2 ^ q`, the multiple that a magnitude is rounded to is a value of
the grid, and an even one if the multiple is even. -/
structure Places (grid : Bool → ℚ → Prop) (q : ℤ) (h n : ℕ) : Prop where
  gap : ∀ v : ℚ, grid false v → (v : ℝ) ≤ h * 2 ^ q ∨ (h + 1) * 2 ^ q ≤ (v : ℝ)
  mem : grid false (n * 2 ^ q)
  even : n % 2 = 0 → grid true (n * 2 ^ q)

/-- The nearer end of a gap is at least as near as anything outside the gap. -/
theorem near_of_gap {a l r u v : ℝ} (hl : l ≤ a) (hr : a ≤ r) (hv : v ≤ l ∨ r ≤ v)
    (hu : u = l ∧ a - l ≤ r - a ∨ u = r ∧ r - a ≤ a - l) :
    |a - u| ≤ |a - v| ∧ (|a - u| = |a - v| → v = u ∨ a - l = r - a) := by
  have du : |a - u| = min (a - l) (r - a) := by
    obtain ⟨rfl, h⟩ | ⟨rfl, h⟩ := hu
    · rw [min_eq_left h, abs_of_nonneg (sub_nonneg.mpr hl)]
    · rw [min_eq_right h, abs_sub_comm, abs_of_nonneg (sub_nonneg.mpr hr)]
  obtain hv | hv := hv
  · rw [du, abs_of_nonneg (sub_nonneg.mpr (hv.trans hl))]
    refine ⟨(min_le_left ..).trans (by linarith), fun e => ?_⟩
    obtain ⟨rfl, h⟩ | ⟨rfl, h⟩ := hu
    · exact .inl (by rw [min_eq_left h] at e; linarith)
    · exact .inr (by rw [min_eq_right h] at e; linarith)
  · rw [du, abs_sub_comm, abs_of_nonneg (sub_nonneg.mpr (hr.trans hv))]
    refine ⟨(min_le_right ..).trans (by linarith), fun e => ?_⟩
    obtain ⟨rfl, h⟩ | ⟨rfl, h⟩ := hu
    · exact .inr (by rw [min_eq_left h] at e; linarith)
    · exact .inl (by rw [min_eq_right h] at e; linarith)

section
variable {rm : Rm} {a : ℝ} {h n : ℕ} {grid : Bool → ℚ → Prop} {q : ℤ}

theorem cast_mul_two_zpow (n : ℕ) (q : ℤ) : ((n * 2 ^ q : ℚ) : ℝ) = n * 2 ^ q := by
  push_cast
  rfl

/-- Rounded down, a magnitude is the last value of the grid that is not above it. -/
theorem Places.roundsDown (p : Places grid q h h) (hle : h * 2 ^ q ≤ a) (hlt : a < (h + 1) * 2 ^ q) :
    RoundsTo .rd grid a (h * 2 ^ q : ℚ) := by
  refine ⟨p.mem, by rwa [cast_mul_two_zpow], fun v hv i => Rat.cast_le (K := ℝ).mp ?_⟩
  rw [cast_mul_two_zpow]
  exact (p.gap v hv).resolve_right fun j => by linarith

/-- For a magnitude, toward zero is down. -/
theorem RoundsTo.toward_zero (hg : Mirrored grid) {u : ℚ} (ha : 0 ≤ a) (hu : 0 ≤ u) (r : RoundsTo .rd grid a u) :
    RoundsTo .rz grid a u := by
  obtain ⟨mem, le, max⟩ := r
  have hu' : (0 : ℝ) ≤ u := Rat.cast_nonneg.mpr hu
  refine ⟨mem, by rwa [abs_of_nonneg hu', abs_of_nonneg ha], mul_nonneg hu' ha, fun v hv i => ?_⟩
  rw [abs_of_nonneg ha] at i
  rw [abs_of_nonneg hu]
  exact abs_le'.mpr ⟨max v hv ((le_abs_self _).trans i), max (-v) (hg _ _ hv) (by
    rw [Rat.cast_neg]
    exact (neg_le_abs _).trans i)⟩

/-- A magnitude rounded to a multiple of a place is rounded to every grid that has its values there. -/
theorem RoundsNat.roundsTo (r : RoundsNat rm a h n) (hg : Mirrored grid) (p : Places grid q h n) :
    RoundsTo rm grid (a * 2 ^ q) (n * 2 ^ q : ℚ) := by
  have q0 : (0 : ℝ) < 2 ^ q := by positivity
  have a0 : 0 ≤ a * 2 ^ q := mul_nonneg ((Nat.cast_nonneg h).trans r.le) q0.le
  have hle : (h : ℝ) * 2 ^ q ≤ a * 2 ^ q := mul_le_mul_of_nonneg_right r.le q0.le
  have hlt : a * 2 ^ q < (h + 1) * 2 ^ q := mul_lt_mul_of_pos_right r.lt q0
  have succ : ((h + 1 : ℕ) : ℝ) = h + 1 := Nat.cast_succ h
  cases rm with
  | rd =>
    obtain rfl := r.pick
    exact p.roundsDown hle hlt
  | rz =>
    obtain rfl := r.pick
    exact (p.roundsDown hle hlt).toward_zero hg a0 (by positivity)
  | ru =>
    have ge : a ≤ n := r.pick.elim (fun c => by rw [c.1, c.2]) fun c => by
      rw [c.1, succ]
      exact r.lt.le
    refine ⟨p.mem, ?_, fun v hv i => Rat.cast_le (K := ℝ).mp ?_⟩
    · rw [cast_mul_two_zpow]
      exact mul_le_mul_of_nonneg_right ge q0.le
    · rw [cast_mul_two_zpow]
      obtain ⟨rfl, ha⟩ | ⟨rfl, ha⟩ := r.pick
      · rwa [← ha]
      · rw [succ]
        exact (p.gap v hv).resolve_left fun j => absurd (mul_lt_mul_of_pos_right ha q0) (by linarith)
  | rn =>
    refine ⟨p.mem, fun v hv => ?_⟩
    have scaled (x : ℝ) : a * 2 ^ q - x * 2 ^ q = (a - x) * 2 ^ q := (sub_mul ..).symm
    have scaled' : (h + 1) * 2 ^ q - a * 2 ^ q = (h + 1 - a) * 2 ^ q := (sub_mul ..).symm
    have even : n % 2 = 0 ∨ a - h ≠ 1 / 2 := by
      by_cases e : a - h = 1 / 2
      · exact .inl (r.pick.elim (fun c => c.2.2 e) fun c => c.2.2 e)
      · exact .inr e
    rw [cast_mul_two_zpow]
    have near := near_of_gap (u := n * 2 ^ q) hle hlt.le (p.gap v hv) (by
      rw [scaled, scaled', mul_le_mul_iff_left₀ q0, mul_le_mul_iff_left₀ q0]
      refine r.pick.imp (fun c => ⟨by rw [c.1], by linarith [c.2.1]⟩) fun c => ⟨by rw [c.1, succ], by linarith [c.2.1]⟩)
    refine ⟨near.1, fun e => (near.2 e).imp (fun i => ?_) fun i => p.even (even.resolve_right fun c => c ?_)⟩
    · rw [← cast_mul_two_zpow] at i
      exact Rat.cast_injective i
    · rw [scaled, scaled', mul_left_inj' q0.ne'] at i
      linarith

end

end Sys2Proof.Stated
end

section
/-! PROOFS. The formats of R67: the values of their grids, the bits of a value, and `roundNum`, which is `Round` of R73. -/

namespace Sys2Proof.Stated

open Sys2Proof Sys2Proof.Machine

/-! ## Formats (R67) -/

/-- What rounding asks of a format. -/
structure IsFormat (f : Fmt) : Prop where
  frac : 1 ≤ f.m
  frac_le : f.m ≤ 52
  exp : 2 ≤ f.e
  span : f.m ≤ fmtBias f
  room : f.m + f.e < 64

theorem isFormat_fmtOf (t : Ty) : IsFormat (fmtOf t) := by cases t <;> exact ⟨by decide, by decide, by decide, by decide, by decide⟩

/-- The exponent of the last place of a format's subnormal numbers. -/
def leastPlace (f : Fmt) : ℤ := 1 - fmtBias f - f.m

/-! ## The grid of a format (R72, R73) -/

theorem mirrored_grid (f : Fmt) (low : Bool) : Mirrored (Grid f low) := by
  rintro b v ⟨k, q, hk, hq, he, rfl⟩
  exact ⟨-k, q, by rwa [abs_neg], hq, fun h => by have := he h; omega, by push_cast; ring⟩

/-- Multiples of a place that a format has at it are values of its grid. -/
theorem grid_mem {f : Fmt} (hf : IsFormat f) {low even : Bool} {q : ℤ} {n : ℕ} (hq : low = true → leastPlace f ≤ q)
    (hn : n ≤ 2 ^ (f.m + 1)) (he : even = true → n % 2 = 0) : Grid f low even (n * 2 ^ q) := by
  obtain hlt | rfl := Nat.lt_or_eq_of_le hn
  · exact ⟨n, q, by rw [Nat.abs_cast]; exact_mod_cast hlt, hq, fun h => by have := he h; omega, by push_cast; rfl⟩
  · have hm : (2 : ℤ) ^ f.m = 2 * 2 ^ (f.m - 1) := by rw [← pow_succ', Nat.sub_add_cancel hf.frac]
    refine ⟨2 ^ f.m, q + 1, ?_, fun h => (hq h).trans (by omega), fun _ => by omega, ?_⟩
    · rw [abs_of_nonneg (by positivity)]
      exact pow_lt_pow_right₀ one_lt_two (Nat.lt_succ_self _)
    · rw [zpow_add_one₀ two_ne_zero]
      push_cast
      ring

/-- A whole multiple of a place lies at or below `h` places or at or above `h + 1`. -/
theorem multiple_gap (k : ℤ) (h : ℕ) (q : ℤ) : (k : ℝ) * 2 ^ q ≤ h * 2 ^ q ∨ (h + 1) * 2 ^ q ≤ (k : ℝ) * 2 ^ q := by
  have q0 : (0 : ℝ) < 2 ^ q := by positivity
  rw [mul_le_mul_iff_left₀ q0, mul_le_mul_iff_left₀ q0]
  obtain i | i := le_or_gt k h
  · exact .inl (by exact_mod_cast i)
  · exact .inr (by exact_mod_cast i)

/-- A multiple of a finer place is not always one of a coarser place; the other way round it is. -/
theorem zpow_multiple (k : ℤ) {q p : ℤ} (h : q ≤ p) : ∃ j : ℤ, (k : ℝ) * 2 ^ p = j * 2 ^ q := by
  refine ⟨k * 2 ^ (p - q).toNat, ?_⟩
  push_cast
  rw [mul_assoc, ← zpow_natCast, ← zpow_add₀ two_ne_zero, Int.toNat_of_nonneg (by omega), sub_add_cancel]

/-- Where the format's numbers are normal. -/
theorem places_normal {f : Fmt} (hf : IsFormat f) {low : Bool} {q : ℤ} {h n : ℕ} (hq : low = true → leastPlace f ≤ q)
    (hh : 2 ^ f.m ≤ h) (hn : n ≤ 2 ^ (f.m + 1)) : Places (Grid f low) q h n := by
  refine ⟨?_, grid_mem hf hq hn nofun, fun he => grid_mem hf hq hn fun _ => he⟩
  rintro v ⟨k, p, hk, -, -, rfl⟩
  push_cast
  obtain hp | hp := le_or_gt q p
  · obtain ⟨j, hj⟩ := zpow_multiple k hp
    rw [hj]
    exact multiple_gap j h q
  · refine .inl ?_
    have hk' : (k : ℝ) ≤ 2 ^ (f.m + 1) := by exact_mod_cast (le_abs_self k).trans hk.le
    calc (k : ℝ) * 2 ^ p ≤ 2 ^ (f.m + 1) * 2 ^ (q - 1) :=
          mul_le_mul hk' (zpow_le_zpow_right₀ one_le_two (by omega)) (by positivity) (by positivity)
      _ = (2 ^ f.m : ℕ) * 2 ^ q := by
          rw [zpow_sub_one₀ two_ne_zero]
          push_cast
          ring
      _ ≤ h * 2 ^ q := mul_le_mul_of_nonneg_right (by exact_mod_cast hh) (by positivity)

/-- At the last place of the subnormal numbers. -/
theorem places_least {f : Fmt} (hf : IsFormat f) {h n : ℕ} (hn : n ≤ 2 ^ (f.m + 1)) : Places (Grid f true) (leastPlace f) h n := by
  refine ⟨?_, grid_mem hf (fun _ => le_rfl) hn nofun, fun he => grid_mem hf (fun _ => le_rfl) hn fun _ => he⟩
  rintro v ⟨k, p, -, hp, -, rfl⟩
  push_cast
  obtain ⟨j, hj⟩ := zpow_multiple k (hp rfl)
  rw [hj]
  exact multiple_gap j h _

/-! ## The place of a magnitude -/

/-- The exponent of the leading bit of `m * 2 ^ e`. -/
def topOf (m : Nat) (e : Int) : Int := e + Nat.log2 m

section
variable {m : Nat} {e : Int} {st : Bool} {t : ℝ}

theorem Truncated.top_le (ht : Truncated m st t) (hm : m ≠ 0) : 2 ^ topOf m e ≤ t * 2 ^ e := by
  rw [topOf, add_comm, zpow_add₀ two_ne_zero, zpow_natCast]
  exact mul_le_mul_of_nonneg_right (le_trans (by exact_mod_cast Nat.log2_self_le hm) ht.le) (by positivity)

theorem Truncated.lt_top (ht : Truncated m st t) : t * 2 ^ e < 2 ^ (topOf m e + 1) := by
  rw [topOf, show e + (Nat.log2 m : ℤ) + 1 = (Nat.log2 m + 1 : ℕ) + e by push_cast; ring, zpow_add₀ two_ne_zero, zpow_natCast]
  have : (m : ℝ) + 1 ≤ 2 ^ (Nat.log2 m + 1) := by exact_mod_cast Nat.lt_log2_self
  exact mul_lt_mul_of_pos_right (ht.lt.trans_le this) (by positivity)

theorem Truncated.pos (ht : Truncated m st t) (hm : m ≠ 0) : 0 < t :=
  (Nat.cast_pos.mpr (Nat.pos_of_ne_zero hm)).trans_le ht.le

/-- The place at which a number of a format's precision with the leading bit of `m * 2 ^ e` ends, or, with `low`, the last place of the
subnormal numbers where that is higher. -/
def placeOf (f : Fmt) (low : Bool) (m : Nat) (e : Int) : Int :=
  if low then max (topOf m e - f.m) (leastPlace f) else topOf m e - f.m

/-- What one rounding of a magnitude to a format gives: the multiple of its place, as a value of the grid, and whether it is exact. -/
structure RoundedAt (rm : Rm) (f : Fmt) (low neg : Bool) (m : Nat) (e : Int) (st : Bool) (t : ℝ) (r : Nat × Bool) : Prop where
  rounds : RoundsTo rm (Grid f low) ((if neg then -1 else 1) * (t * 2 ^ e)) ((if neg then -1 else 1) * (r.1 * 2 ^ placeOf f low m e) : ℚ)
  exact : r.2 = false ↔ ((r.1 * 2 ^ placeOf f low m e : ℚ) : ℝ) = t * 2 ^ e
  le : r.1 ≤ 2 ^ (f.m + 1)
  normal : placeOf f low m e = topOf m e - f.m → 2 ^ f.m ≤ r.1

/-- What is cut off from enough bits lies below the place. -/
theorem below_place {f : Fmt} (hf : IsFormat f) (low : Bool) (hm : 2 ^ 53 ≤ m) : e < placeOf f low m e := by
  have : 53 ≤ Nat.log2 m := (Nat.le_log2 (by omega)).mpr hm
  have := hf.frac_le
  have top : topOf m e - f.m ≤ placeOf f low m e := by
    cases low
    · exact le_rfl
    · exact le_max_left ..
  rw [topOf] at top
  omega

theorem roundedAt {f : Fmt} (hf : IsFormat f) (rm : Rm) (low neg : Bool) (hm : m ≠ 0) (deep : st = true → e < placeOf f low m e)
    (ht : Truncated m st t) : RoundedAt rm f low neg m e st t (roundAt rm neg m e st (placeOf f low m e)) := by
  set q := placeOf f low m e with hq
  have q0 : (0 : ℝ) < 2 ^ q := by positivity
  have hmin : low = true → leastPlace f ≤ q := by
    rintro rfl
    exact le_max_right ..
  have htop : topOf m e - f.m ≤ q := by
    rw [hq, placeOf]
    cases low
    · exact le_rfl
    · exact le_max_left ..
  obtain ⟨h, r, exact⟩ := roundAt_rounds rm neg deep ht
  set n := (roundAt rm neg m e st q).1
  have place : t * 2 ^ e = t * 2 ^ (e - q) * 2 ^ q := by rw [mul_assoc, ← zpow_add₀ two_ne_zero, sub_add_cancel]
  have upper : t * 2 ^ (e - q) ≤ (2 ^ (f.m + 1) : ℕ) := by
    refine le_of_mul_le_mul_right ?_ q0
    rw [← place]
    refine ht.lt_top.le.trans ?_
    push_cast
    rw [← zpow_natCast, ← zpow_add₀ two_ne_zero]
    exact zpow_le_zpow_right₀ one_le_two (by push_cast; omega)
  have lower (hn : q = topOf m e - f.m) : 2 ^ f.m ≤ h := by
    refine r.le_of_le (le_of_mul_le_mul_right ?_ q0)
    rw [← place]
    refine le_trans (le_of_eq ?_) (ht.top_le hm)
    push_cast
    rw [← zpow_natCast, ← zpow_add₀ two_ne_zero]
    congr 1
    omega
  have hn : n ≤ 2 ^ (f.m + 1) := r.le_of_ge upper
  have places : Places (Grid f low) q h n := by
    by_cases hp : q = topOf m e - f.m
    · exact places_normal hf hmin (lower hp) hn
    · have : low = true ∧ q = leastPlace f := by
        rw [hq, placeOf] at hp ⊢
        cases low
        · exact absurd rfl hp
        · exact ⟨rfl, by simp only [if_true] at hp ⊢; omega⟩
      obtain ⟨rfl, hl⟩ := this
      rw [hl]
      exact places_least hf hn
  refine ⟨?_, ?_, hn, fun hp => (lower hp).trans r.ge⟩
  · rw [place]
    exact (r.roundsTo (mirrored_grid f low) places).of_magnitude (mirrored_grid f low) neg
  · rw [exact, ← r.eq_iff, cast_mul_two_zpow, place, mul_left_inj' q0.ne']

end

/-! ## The bits of a value (R67, R68) -/

section
variable {f : Fmt}

/-- The magnitude that the exponent and fraction fields stand for, read as one number. -/
def magOf (f : Fmt) (n : ℕ) : ℚ :=
  if n / 2 ^ f.m = 0 then (n % 2 ^ f.m : ℕ) * 2 ^ leastPlace f
  else (2 ^ f.m + (n % 2 ^ f.m : ℕ)) * 2 ^ ((n / 2 ^ f.m : ℕ) - fmtBias f - f.m : ℤ)

/-- Multiples of a place `d` above the last one of the subnormal numbers. -/
theorem magOf_place {d n : ℕ} (hd : d = 0 ∨ 2 ^ f.m ≤ n) (hn : n ≤ 2 ^ (f.m + 1)) :
    magOf f (d * 2 ^ f.m + n) = n * 2 ^ (leastPlace f + d) := by
  have m0 : 0 < 2 ^ f.m := by positivity
  rw [pow_succ'] at hn
  unfold magOf
  obtain hlt | hge := lt_or_ge n (2 ^ f.m)
  · obtain rfl := hd.resolve_right (not_le.mpr hlt)
    simp [Nat.div_eq_of_lt hlt, Nat.mod_eq_of_lt hlt]
  · obtain ⟨r, rfl⟩ := Nat.exists_eq_add_of_le hge
    have split : d * 2 ^ f.m + (2 ^ f.m + r) = r + (d + 1) * 2 ^ f.m := by ring
    rw [split, Nat.add_mul_div_right _ _ m0, Nat.add_mul_mod_self_right]
    obtain hr | rfl := Nat.lt_or_eq_of_le (show r ≤ 2 ^ f.m by omega)
    · rw [Nat.div_eq_of_lt hr, Nat.mod_eq_of_lt hr, if_neg (by omega), leastPlace]
      push_cast
      ring_nf
    · rw [Nat.div_self m0, Nat.mod_self, if_neg (by omega), leastPlace]
      push_cast
      rw [show (1 + (d + 1) - fmtBias f - f.m : ℤ) = (1 - fmtBias f - f.m + d) + 1 by ring, zpow_add_one₀ two_ne_zero]
      ring

/-- Every magnitude is such a multiple. -/
theorem exists_place (f : Fmt) (n : ℕ) : ∃ d k, n = d * 2 ^ f.m + k ∧ (d = 0 ∨ 2 ^ f.m ≤ k) ∧ k < 2 ^ (f.m + 1) := by
  have m0 : 0 < 2 ^ f.m := by positivity
  have hr := Nat.mod_lt n m0
  have split := Nat.div_add_mod n (2 ^ f.m)
  rw [pow_succ']
  cases hd : n / 2 ^ f.m with
  | zero => exact ⟨0, n, by simp, .inl rfl, by rw [hd] at split; omega⟩
  | succ d =>
    rw [hd] at split
    exact ⟨d, 2 ^ f.m + n % 2 ^ f.m, split.symm.trans (by ring), .inr (Nat.le_add_right ..), by omega⟩

theorem magOf_strictMono (f : Fmt) : StrictMono (magOf f) := by
  refine strictMono_nat_of_lt_succ fun n => ?_
  obtain ⟨d, k, rfl, hd, hk⟩ := exists_place f n
  rw [magOf_place hd hk.le, add_assoc, magOf_place (hd.imp_right fun h => h.trans (Nat.le_succ k)) hk]
  exact mul_lt_mul_of_pos_right (by exact_mod_cast Nat.lt_succ_self k) (by positivity)

theorem two_pow_exp (hf : IsFormat f) : 2 ^ f.e = 2 * fmtBias f + 2 ∧ 1 ≤ fmtBias f := by
  obtain ⟨k, hk⟩ : ∃ k, f.e = k + 2 := ⟨f.e - 2, by have := hf.exp; omega⟩
  have : 0 < 2 ^ k := by positivity
  simp only [fmtBias, hk, pow_succ, show k + 2 - 1 = k + 1 by omega]
  omega

/-- The fields of an infinity, read as a magnitude, are one place above those of the greatest finite value. -/
theorem infMag_eq (hf : IsFormat f) : (2 ^ f.e - 1) * 2 ^ f.m = 2 * fmtBias f * 2 ^ f.m + 2 ^ f.m := by
  rw [(two_pow_exp hf).1, ← Nat.succ_mul]
  rfl

theorem magOf_inf (hf : IsFormat f) : magOf f ((2 ^ f.e - 1) * 2 ^ f.m) = 2 ^ (fmtBias f + 1 : ℤ) := by
  rw [infMag_eq hf, magOf_place (.inr le_rfl) (Nat.pow_le_pow_right two_pos (Nat.le_succ _)), leastPlace]
  push_cast
  rw [← zpow_natCast, ← zpow_add₀ two_ne_zero]
  congr 1
  ring

theorem magOf_max (hf : IsFormat f) : magOf f ((2 ^ f.e - 1) * 2 ^ f.m - 1) = greatest f := by
  have hb := (two_pow_exp hf).2
  have m0 : 1 ≤ 2 ^ f.m := Nat.one_le_two_pow
  have split : (2 ^ f.e - 1) * 2 ^ f.m - 1 = (2 * fmtBias f - 1) * 2 ^ f.m + (2 ^ (f.m + 1) - 1) := by
    obtain ⟨b, hb⟩ : ∃ b, 2 * fmtBias f = b + 1 := ⟨2 * fmtBias f - 1, by omega⟩
    rw [infMag_eq hf, hb, Nat.add_sub_cancel, pow_succ', Nat.succ_mul]
    omega
  rw [split, magOf_place (.inr (by rw [pow_succ']; omega)) (Nat.sub_le ..), greatest, leastPlace, Nat.cast_sub Nat.one_le_two_pow,
    Nat.cast_sub (by omega)]
  push_cast
  congr 2
  ring

/-! ### Fields of bits put together -/

section
variable {n : ℕ} (neg : Bool) (hn : n < 2 ^ (f.m + f.e))
include hn

/-- Sign and magnitude, put together, fit into the format's bits. -/
theorem signBit_add_lt : signBit f neg + n < 2 ^ (1 + f.m + f.e) := by
  rw [show 1 + f.m + f.e = f.m + f.e + 1 by ring, pow_succ', signBit]
  split <;> omega

variable (hf : IsFormat f)
include hf

theorem toNat_bits : (BitVec.ofNat 64 (signBit f neg + n)).toNat = signBit f neg + n := by
  rw [BitVec.toNat_ofNat]
  exact Nat.mod_eq_of_lt ((signBit_add_lt neg hn).trans_le (Nat.pow_le_pow_right two_pos (by have := hf.room; omega)))

theorem negBit_bits : negBit f (BitVec.ofNat 64 (signBit f neg + n)) = neg := by
  rw [negBit, ← BitVec.testBit_toNat, toNat_bits neg hn hf, signBit]
  cases neg with
  | false => simpa using Nat.testBit_lt_two_pow hn
  | true => simp [Nat.testBit_two_pow_add_eq, Nat.testBit_lt_two_pow hn]

theorem expField_bits : expField f (BitVec.ofNat 64 (signBit f neg + n)) = n / 2 ^ f.m := by
  rw [pow_add] at hn
  rw [expField, toNat_bits neg (by rwa [pow_add]) hf, signBit, pow_add]
  have hq : n / 2 ^ f.m < 2 ^ f.e := Nat.div_lt_of_lt_mul hn
  cases neg with
  | false => simp [Nat.mod_eq_of_lt hq]
  | true => simp [Nat.mul_add_div (Nat.two_pow_pos f.m), Nat.mod_eq_of_lt hq]

theorem fracField_bits : fracField f (BitVec.ofNat 64 (signBit f neg + n)) = n % 2 ^ f.m := by
  rw [fracField, toNat_bits neg hn hf, signBit, pow_add]
  cases neg <;> simp

end

/-- Bits are a number's by their sign and magnitude. -/
theorem realOf_bits {n : ℕ} (hf : IsFormat f) (neg : Bool) (hn : n < (2 ^ f.e - 1) * 2 ^ f.m) :
    realOf f (BitVec.ofNat 64 (signBit f neg + n)) = some ((if neg then -1 else 1) * magOf f n) := by
  have hlt : n < 2 ^ (f.m + f.e) := hn.trans_le (by rw [pow_add, mul_comm]; exact Nat.mul_le_mul_left _ (Nat.sub_le ..))
  have hne : n / 2 ^ f.m ≠ 2 ^ f.e - 1 := (Nat.div_lt_of_lt_mul (by rwa [mul_comm])).ne
  rw [realOf, negBit_bits neg hlt hf, expField_bits neg hlt hf, fracField_bits neg hlt hf, if_neg hne]
  rfl

theorem infMag_lt (f : Fmt) : (2 ^ f.e - 1) * 2 ^ f.m < 2 ^ (f.m + f.e) := by
  rw [pow_add, mul_comm]
  exact Nat.mul_lt_mul_of_pos_left (Nat.sub_lt (Nat.two_pow_pos _) one_pos) (Nat.two_pow_pos _)

theorem isInf_infBits (hf : IsFormat f) (neg : Bool) : isInf f (infBits f neg) = true := by
  rw [isInf_iff, infBits, expField_bits neg (infMag_lt f) hf, fracField_bits neg (infMag_lt f) hf]
  exact ⟨Nat.mul_div_left _ (Nat.two_pow_pos _), Nat.mul_mod_left ..⟩

/-! ## Round (R73) -/

/-- The fields of a magnitude at its place. -/
theorem magOf_toNat_place {n : ℕ} {q : ℤ} (hf : IsFormat f) (hq : leastPlace f ≤ q) (hn : n ≤ 2 ^ (f.m + 1))
    (h : q = leastPlace f ∨ 2 ^ f.m ≤ n) (hb : (n : ℚ) * 2 ^ q < 2 ^ (fmtBias f + 1 : ℤ)) :
    (q - leastPlace f).toNat * 2 ^ f.m + n < (2 ^ f.e - 1) * 2 ^ f.m
      ∧ magOf f ((q - leastPlace f).toNat * 2 ^ f.m + n) = n * 2 ^ q := by
  have mag : magOf f ((q - leastPlace f).toNat * 2 ^ f.m + n) = n * 2 ^ q := by
    rw [magOf_place (h.imp_left fun e => by omega) hn, Int.toNat_of_nonneg (by omega), add_sub_cancel]
  refine ⟨(magOf_strictMono f).lt_iff_lt.mp ?_, mag⟩
  rwa [mag, magOf_inf hf]

/-- A magnitude overflows exactly where its leading bit is above the greatest exponent. -/
theorem overflow_iff {n : ℕ} {q : ℤ} (b : ℤ) : (b < q + Nat.log2 n ∧ n ≠ 0) ↔ 2 ^ (b + 1) ≤ (n : ℚ) * 2 ^ q := by
  by_cases hn : n = 0
  · simpa [hn] using zpow_pos (two_pos (α := ℚ)) (b + 1)
  · have lower : (2 : ℚ) ^ (q + Nat.log2 n) ≤ n * 2 ^ q := by
      rw [add_comm, zpow_add₀ two_ne_zero, zpow_natCast]
      exact mul_le_mul_of_nonneg_right (by exact_mod_cast Nat.log2_self_le hn) (by positivity)
    have upper : (n : ℚ) * 2 ^ q < 2 ^ (q + Nat.log2 n + 1) := by
      rw [show q + (Nat.log2 n : ℤ) + 1 = (Nat.log2 n + 1 : ℕ) + q by push_cast; ring, zpow_add₀ two_ne_zero, zpow_natCast]
      exact mul_lt_mul_of_pos_right (by exact_mod_cast Nat.lt_log2_self) (by positivity)
    constructor
    · rintro ⟨h, -⟩
      exact (zpow_le_zpow_right₀ one_le_two (by omega)).trans lower
    · intro h
      refine ⟨?_, hn⟩
      have := (zpow_lt_zpow_iff_right₀ (one_lt_two (α := ℚ))).mp (h.trans_lt upper)
      omega

theorem lt_of_lt_infMag {n : ℕ} (h : n < (2 ^ f.e - 1) * 2 ^ f.m) : n < 2 ^ (f.m + f.e) := h.trans (infMag_lt f)

theorem maxMag_lt (hf : IsFormat f) : (2 ^ f.e - 1) * 2 ^ f.m - 1 < (2 ^ f.e - 1) * 2 ^ f.m := by
  refine Nat.sub_lt ?_ one_pos
  rw [infMag_eq hf]
  positivity

theorem maxBits_eq (hf : IsFormat f) (neg : Bool) :
    maxBits f neg = BitVec.ofNat 64 (signBit f neg + ((2 ^ f.e - 1) * 2 ^ f.m - 1)) := by
  rw [maxBits, Nat.add_sub_assoc (Nat.one_le_of_lt (maxMag_lt hf))]

/-- Whether an overflow becomes infinite (R73). -/
abbrev OverflowsToInf (rm : Rm) (neg : Bool) : Prop := rm = .rn ∨ (rm = .ru ∧ neg = false) ∨ (rm = .rd ∧ neg = true)

theorem overflowBits_of_inf {rm : Rm} {neg : Bool} (h : OverflowsToInf rm neg) : overflowBits rm f neg = infBits f neg := by
  obtain rfl | ⟨rfl, rfl⟩ | ⟨rfl, rfl⟩ := h <;> rfl

theorem overflowBits_of_max {rm : Rm} {neg : Bool} (h : ¬ OverflowsToInf rm neg) : overflowBits rm f neg = maxBits f neg := by
  cases rm with
  | rn => exact absurd (.inl rfl) h
  | rz => rfl
  | ru =>
    cases neg with
    | false => exact absurd (.inr (.inl ⟨rfl, rfl⟩)) h
    | true => rfl
  | rd =>
    cases neg with
    | false => rfl
    | true => exact absurd (.inr (.inr ⟨rfl, rfl⟩)) h

/-- A value rounded without a lower limit is tiny by its leading bit, unless rounding carried it up to the least normal number. -/
theorem tiny_iff {n : ℕ} {top emin : ℤ} (hl : 2 ^ f.m ≤ n) (hu : n ≤ 2 ^ (f.m + 1)) :
    (decide (top < emin) && !(decide (top = emin - 1) && decide (n = 2 ^ (f.m + 1)))) = true ↔
      (n : ℚ) * 2 ^ (top - f.m : ℤ) < 2 ^ emin := by
  have p0 : (0 : ℚ) < 2 ^ (top - f.m : ℤ) := by positivity
  have lower : (2 : ℚ) ^ top ≤ n * 2 ^ (top - f.m : ℤ) := by
    rw [show (2 : ℚ) ^ top = 2 ^ f.m * 2 ^ (top - f.m : ℤ) by rw [← zpow_natCast, ← zpow_add₀ two_ne_zero, add_sub_cancel]]
    exact mul_le_mul_of_nonneg_right (by exact_mod_cast hl) p0.le
  have next : (2 : ℚ) ^ (top + 1) = (2 ^ (f.m + 1) : ℕ) * 2 ^ (top - f.m : ℤ) := by
    push_cast
    rw [← zpow_natCast, ← zpow_add₀ two_ne_zero]
    congr 1
    push_cast
    ring
  have mono {a b : ℤ} (h : a ≤ b) : (2 : ℚ) ^ a ≤ 2 ^ b := zpow_le_zpow_right₀ one_le_two h
  obtain h | h | h := lt_trichotomy top (emin - 1)
  · have : (n : ℚ) * 2 ^ (top - f.m : ℤ) < 2 ^ emin := calc
      (n : ℚ) * 2 ^ (top - f.m : ℤ) ≤ (2 ^ (f.m + 1) : ℕ) * 2 ^ (top - f.m : ℤ) := mul_le_mul_of_nonneg_right (by exact_mod_cast hu) p0.le
      _ = 2 ^ (top + 1) := next.symm
      _ < 2 ^ emin := zpow_lt_zpow_right₀ one_lt_two (by omega)
    simp [this, h.ne, show top < emin by omega]
  · rw [show emin = top + 1 by omega, next, mul_lt_mul_iff_left₀ p0, Nat.cast_lt]
    simp [hu.lt_iff_ne]
  · have : ¬ (n : ℚ) * 2 ^ (top - f.m : ℤ) < 2 ^ emin := not_lt.mpr ((mono (by omega)).trans lower)
    simp [this, show ¬ top < emin by omega]

theorem roundNum_eq (rm : Rm) (f : Fmt) (neg : Bool) (m : Nat) (e : Int) (st : Bool) : roundNum rm f neg m e st =
    let q := placeOf f true m e
    let r := roundAt rm neg m e st q
    let u := roundAt rm neg m e st (placeOf f false m e)
    let emin : Int := 1 - fmtBias f
    if (fmtBias f : Int) < q + Nat.log2 r.1 && r.1 != 0 then (overflowBits rm f neg, fOF ||| fNX)
    else (BitVec.ofNat 64 (signBit f neg + ((q - leastPlace f).toNat * 2 ^ f.m + r.1)),
      if r.2 then (if topOf m e < emin && !(topOf m e = emin - 1 && u.1 = 2 ^ (f.m + 1)) then fNX ||| fUF else fNX) else 0) := by
  dsimp only
  rw [← Nat.add_assoc]
  rfl

theorem abs_signed (neg : Bool) (x : ℚ) (h : 0 ≤ x) : |(if neg then -1 else 1) * x| = x := by
  cases neg <;> simp [abs_of_nonneg h]

section
variable {rm : Rm} {y : ℝ} {u w : ℚ} {neg : Bool}

/-- An overflow is delivered as the mode's overflow value. -/
theorem delivers_overflow (hf : IsFormat f) (hu : RoundsTo rm (Grid f true) y u) (hw : RoundsTo rm (Grid f false) y w)
    (hn : neg = true ↔ y < 0) (h : greatest f < |u|) : Delivers rm f y (overflowBits rm f neg, fOF ||| fNX) := by
  have bits {n : ℕ} (hn : n < 2 ^ (f.m + f.e)) :
      (BitVec.ofNat 64 (signBit f neg + n)).toNat < 2 ^ (1 + f.m + f.e) ∧ negBit f (BitVec.ofNat 64 (signBit f neg + n)) = neg :=
    ⟨by rw [toNat_bits neg hn hf]; exact signBit_add_lt neg hn, negBit_bits neg hn hf⟩
  by_cases ho : OverflowsToInf rm neg
  · rw [overflowBits_of_inf ho]
    obtain ⟨lt, sign⟩ := bits (infMag_lt f)
    exact ⟨u, w, neg, hu, hw, hn, lt, sign, fun _ => ⟨rfl, by rw [if_pos ho]; exact isInf_infBits hf neg⟩, fun g => absurd g (not_le.mpr h)⟩
  · rw [overflowBits_of_max ho, maxBits_eq hf]
    obtain ⟨lt, sign⟩ := bits (lt_of_lt_infMag (maxMag_lt hf))
    refine ⟨u, w, neg, hu, hw, hn, lt, sign, fun _ => ⟨rfl, ?_⟩, fun g => absurd g (not_le.mpr h)⟩
    rw [if_neg ho, realOf_bits hf neg (maxMag_lt hf), magOf_max hf]
    cases neg <;> simp

/-- A rounded value that does not overflow is delivered by its sign and magnitude. -/
theorem delivers_value {n : ℕ} {fl : FFlags} (hf : IsFormat f) (hu : RoundsTo rm (Grid f true) y u)
    (hw : RoundsTo rm (Grid f false) y w) (hn : neg = true ↔ y < 0) (h : n < (2 ^ f.e - 1) * 2 ^ f.m)
    (hm : u = (if neg then -1 else 1) * magOf f n) (exact : (u : ℝ) = y → fl = 0)
    (inexact : (u : ℝ) ≠ y → fl = if |w| < 2 ^ (1 - fmtBias f : ℤ) then fNX ||| fUF else fNX) :
    Delivers rm f y (BitVec.ofNat 64 (signBit f neg + n), fl) := by
  have hlt := lt_of_lt_infMag h
  have le : |u| ≤ greatest f := by
    rw [hm, abs_signed neg _ (by unfold magOf; split <;> positivity), ← magOf_max hf]
    exact (magOf_strictMono f).monotone (by omega)
  refine ⟨u, w, neg, hu, hw, hn, ?_, negBit_bits neg hlt hf, fun g => absurd g (not_lt.mpr le), fun _ => ⟨?_, exact, inexact⟩⟩
  · rw [toNat_bits neg hlt hf]
    exact signBit_add_lt neg hlt
  · rw [realOf_bits hf neg h, hm]

end

section
variable {m : Nat} {e : Int} {st : Bool} {t : ℝ} (hf : IsFormat f) (rm : Rm) (neg : Bool) (hm : m ≠ 0) (ht : Truncated m st t)
include hf hm ht

/-- The bits that `roundNum` delivers: the overflow value, or those of the multiple of the place. -/
theorem roundNum_cases (deep : st = true → e < placeOf f true m e) :
    let q := placeOf f true m e
    let r := roundAt rm neg m e st q
    let u := roundAt rm neg m e st (placeOf f false m e)
    (2 ^ (fmtBias f + 1 : ℤ) ≤ (r.1 : ℚ) * 2 ^ q → roundNum rm f neg m e st = (overflowBits rm f neg, fOF ||| fNX))
    ∧ ((r.1 : ℚ) * 2 ^ q < 2 ^ (fmtBias f + 1 : ℤ) → ∃ n, n < (2 ^ f.e - 1) * 2 ^ f.m ∧ magOf f n = r.1 * 2 ^ q
        ∧ roundNum rm f neg m e st = (BitVec.ofNat 64 (signBit f neg + n), if r.2 then
          (if topOf m e < 1 - fmtBias f && !(topOf m e = 1 - fmtBias f - 1 && u.1 = 2 ^ (f.m + 1)) then fNX ||| fUF else fNX) else 0)) := by
  obtain ⟨-, -, le, normal⟩ := roundedAt (e := e) hf rm true neg hm deep ht
  intro q r u
  have ovf := overflow_iff (n := r.1) (q := q) (fmtBias f)
  refine ⟨fun h => ?_, fun h => ⟨(q - leastPlace f).toNat * 2 ^ f.m + r.1, ?_⟩⟩
  · exact (roundNum_eq ..).trans (if_pos (by simpa using ovf.mpr h))
  · have place : q = leastPlace f ∨ 2 ^ f.m ≤ r.1 := (max_choice (topOf m e - f.m) (leastPlace f)).symm.imp_right normal
    obtain ⟨lt, mag⟩ := magOf_toNat_place hf (show leastPlace f ≤ q from le_max_right ..) le place h
    exact ⟨lt, mag, (roundNum_eq ..).trans (if_neg (by simpa using ovf.not.mpr (not_le.mpr h)))⟩

/-- `roundNum` is `Round` of R73. -/
theorem roundNum_delivers (hst : st = true → 2 ^ 53 ≤ m) :
    Delivers rm f ((if neg then -1 else 1) * (t * 2 ^ e)) (roundNum rm f neg m e st) := by
  obtain ⟨overflows, fits⟩ := roundNum_cases (e := e) hf rm neg hm ht fun h => below_place hf true (hst h)
  obtain ⟨rounds, exact, -, -⟩ := roundedAt (e := e) hf rm true neg hm (fun h => below_place hf true (hst h)) ht
  have w := roundedAt (e := e) hf rm false neg hm (fun h => below_place hf false (hst h)) ht
  have y0 : 0 < t * 2 ^ e := mul_pos (ht.pos hm) (by positivity)
  have sign : neg = true ↔ (if neg then -1 else 1) * (t * 2 ^ e) < 0 := by
    cases neg
    · simpa using y0.le
    · simpa using y0
  have signs (x : ℚ) : (((if neg then -1 else 1) * x : ℚ) : ℝ) = (if neg then -1 else 1) * (t * 2 ^ e) ↔ (x : ℝ) = t * 2 ^ e := by
    cases neg <;> simp
  obtain h | h := le_or_gt (2 ^ (fmtBias f + 1 : ℤ)) (((roundAt rm neg m e st (placeOf f true m e)).1 : ℚ) * 2 ^ placeOf f true m e)
  · rw [overflows h]
    refine delivers_overflow hf rounds w.rounds sign ?_
    rw [abs_signed neg _ (by positivity), ← magOf_max hf]
    refine lt_of_lt_of_le ?_ h
    rw [← magOf_inf hf]
    exact magOf_strictMono f (maxMag_lt hf)
  · obtain ⟨n, lt, mag, eq⟩ := fits h
    rw [eq]
    refine delivers_value hf rounds w.rounds sign lt (by rw [mag]) (fun h => ?_) fun h => ?_
    · rw [exact.mpr ((signs _).mp h)]
      rfl
    · rw [if_pos (eq_true_of_ne_false fun c => h ((signs _).mpr (exact.mp c))), abs_signed neg _ (by positivity)]
      exact if_congr (tiny_iff (w.normal rfl) w.le) rfl rfl

end

end

end Sys2Proof.Stated
end

section
/-! PROOFS. Exact results and their one rounding (R71, R146), and the statement about FADD to FSQRT. -/

namespace Sys2Proof.Stated

open Sys2Proof Sys2Proof.Machine

/-! ## Exact results -/

/-- An exact result is the number `y`, with the sign `z` where it is zero; what is cut off lies below the last place of every format. -/
inductive Denotes : XV → Bool → ℝ → Prop
  | zero (z : Bool) : Denotes (.zero z) z 0
  | num (neg z : Bool) {m : Nat} (e : Int) {st : Bool} {t : ℝ} (hm : m ≠ 0) (hst : st = true → 2 ^ 53 ≤ m) (ht : Truncated m st t) :
      Denotes (.num neg m e st) z ((if neg then -1 else 1) * (t * 2 ^ e))

section
variable {f : Fmt} {x : XV} {z : Bool} {y : ℝ}

theorem Denotes.delivers (hf : IsFormat f) (rm : Rm) (h : Denotes x z y) (hy : y ≠ 0) : Delivers rm f y (roundF rm f x) := by
  cases h with
  | zero => exact absurd rfl hy
  | num neg z e hm hst ht =>
    rw [roundF, if_neg hm]
    exact roundNum_delivers hf rm neg hm ht hst

theorem Denotes.roundF_zero (f : Fmt) (rm : Rm) (h : Denotes x z y) (hy : y = 0) : roundF rm f x = (zeroBits f z, 0) := by
  cases h with
  | zero => rfl
  | num neg z e hm hst ht =>
    have t0 := (ht.pos hm).ne'
    have s0 : (if neg then -1 else 1 : ℝ) ≠ 0 := by cases neg <;> simp
    exact absurd hy (mul_ne_zero s0 (mul_ne_zero t0 (by positivity)))

end

theorem cast_sign (n : Bool) : ((if n then -1 else 1 : ℚ) : ℝ) = if n then -1 else 1 := by cases n <;> simp

/-- A number whose bits are all kept. -/
theorem denotes_num (neg z : Bool) {m : Nat} (e : Int) (hm : m ≠ 0) :
    Denotes (.num neg m e false) z (((if neg then -1 else 1) * m * 2 ^ e : ℚ) : ℝ) := by
  have := Denotes.num neg z (st := false) e hm nofun (rfl : (m : ℝ) = m)
  convert this using 1
  rw [Rat.cast_mul, Rat.cast_mul, cast_sign, mul_assoc]
  push_cast
  rfl

/-- A whole number of places. -/
theorem denotes_int {x : ℤ} (z : Bool) (e : Int) (hx : x ≠ 0) : Denotes (.num (x < 0) x.natAbs e false) z ((x * 2 ^ e : ℚ) : ℝ) := by
  have := denotes_num (decide (x < 0)) z e (Int.natAbs_ne_zero.mpr hx)
  convert this using 3
  obtain h | h := lt_or_ge x 0
  · simp [h, Nat.cast_natAbs, abs_of_neg h]
  · simp [not_lt.mpr h, Nat.cast_natAbs, abs_of_nonneg h]

section
variable {a b c : FVal} {na nb nc : Bool} {p q r : ℚ}

/-- An operand taken as an exact result. -/
theorem Stands.denotes (h : Stands a na p) : Denotes (xvF a) na p := by
  cases h with
  | zero =>
    rw [Rat.cast_zero]
    exact .zero _
  | num _ e hm => exact denotes_num _ _ e hm

/-- The sum of multiples of one place. -/
theorem signed_eq (n : Bool) (m : ℕ) : (signed n m : ℚ) = (if n then -1 else 1) * m := by
  cases n <;> simp [signed]

theorem shifted_eq {e d : ℤ} (h : d ≤ e) (m : ℕ) : ((m * 2 ^ (e - d).toNat : ℕ) : ℚ) * 2 ^ d = m * 2 ^ e := by
  push_cast
  rw [mul_assoc, ← zpow_natCast, ← zpow_add₀ two_ne_zero, Int.toNat_of_nonneg (by omega), sub_add_cancel]

theorem signed_shifted {e d : ℤ} (h : d ≤ e) (n : Bool) (m : ℕ) :
    (signed n (m * 2 ^ (e - d).toNat) : ℚ) * 2 ^ d = (if n then -1 else 1) * m * 2 ^ e := by
  rw [signed_eq, mul_assoc, shifted_eq h, mul_assoc]

theorem signed_pos {n : Bool} {m : ℕ} (hm : m ≠ 0) : (0 < signed n m ↔ n = false) ∧ (signed n m < 0 ↔ n = true) := by
  cases n <;> simp [signed] <;> omega

theorem denotes_sumXV (rm : Rm) (na nb : Bool) {m k : ℕ} (d e : ℤ) (hm : m ≠ 0) (hk : k ≠ 0) :
    Denotes (sumXV rm na m d nb k e) (if na = nb then na else decide (rm = .rd))
      (((if na then -1 else 1) * m * 2 ^ d + (if nb then -1 else 1) * k * 2 ^ e : ℚ) : ℝ) := by
  unfold sumXV
  dsimp only
  rw [← signed_shifted (min_le_left d e), ← signed_shifted (min_le_right d e), ← add_mul, ← Int.cast_add]
  set x := signed na (m * 2 ^ (d - min d e).toNat) with hx
  set y := signed nb (k * 2 ^ (e - min d e).toNat) with hy
  by_cases h : x + y = 0
  · have sx := signed_pos (n := na) (Nat.mul_ne_zero hm (pow_ne_zero (d - min d e).toNat two_ne_zero))
    have sy := signed_pos (n := nb) (Nat.mul_ne_zero hk (pow_ne_zero (e - min d e).toNat two_ne_zero))
    rw [← hx] at sx
    rw [← hy] at sy
    have : na ≠ nb := by
      rintro rfl
      cases na
      · have := sx.1.mpr rfl; have := sy.1.mpr rfl; omega
      · have := sx.2.mpr rfl; have := sy.2.mpr rfl; omega
    rw [if_pos h, h, if_neg this]
    simpa [zeroSign] using Denotes.zero _
  · rw [if_neg h]
    exact denotes_int _ _ h

theorem Stands.add (rm : Rm) (ha : Stands a na p) (hb : Stands b nb q) :
    Denotes (addVal rm a b) (if na = nb then na else decide (rm = .rd)) ((p + q : ℚ) : ℝ) := by
  cases ha with
  | zero =>
    rw [zero_add]
    cases hb with
    | zero =>
      rw [addVal, ← apply_ite XV.zero]
      simpa [zeroSign] using Denotes.zero _
    | num n e hm => exact denotes_num _ _ e hm
  | num n d hm =>
    cases hb with
    | zero =>
      rw [add_zero]
      exact denotes_num _ _ d hm
    | num _ e hk => exact denotes_sumXV rm _ _ d e hm hk

end

/-! ## Quotients and roots -/

theorem num_lt_of_fval {f : Fmt} (hf : IsFormat f) {x : DWord} {n : Bool} {m : ℕ} {e : ℤ} (h : fval f x = .num n m e) : m < 2 ^ 53 := by
  have hfr : fracField f x < 2 ^ f.m := Nat.mod_lt _ (Nat.two_pow_pos _)
  have hp : 2 * 2 ^ f.m ≤ 2 ^ 53 := by
    rw [← pow_succ']
    exact Nat.pow_le_pow_right two_pos (by have := hf.frac_le; omega)
  rw [fval_eq] at h
  split_ifs at h <;> cases h <;> omega

/-- The quotient of two numbers, with the bits below the last one kept as one. -/
theorem truncated_div {a b : ℕ} (hb : b ≠ 0) : Truncated (a / b) (a % b != 0) ((a : ℝ) / b) := by
  have b0 : (0 : ℝ) < b := by positivity
  have split : (a : ℝ) = b * (a / b : ℕ) + (a % b : ℕ) := by exact_mod_cast (Nat.div_add_mod a b).symm
  have lt : ((a % b : ℕ) : ℝ) < b := by exact_mod_cast Nat.mod_lt a (Nat.pos_of_ne_zero hb)
  have eq : (a : ℝ) / b = (a / b : ℕ) + (a % b : ℕ) / b := by
    rw [eq_comm, eq_div_iff b0.ne', add_mul, div_mul_cancel₀ _ b0.ne', split]
    ring
  rw [eq]
  by_cases h : a % b = 0
  · simp [Truncated, h]
  · have : (0 : ℝ) < (a % b : ℕ) / b := div_pos (by exact_mod_cast Nat.pos_of_ne_zero h) b0
    simpa [Truncated, h, this] using (div_lt_one b0).mpr lt

theorem Stands.div {a b : FVal} {na nb : Bool} {p q : ℚ} (ha : Stands a na p) (hb : Stands b nb q) (hq : q ≠ 0)
    (small : ∀ n m e, b = .num n m e → m < 2 ^ 53) : Denotes (xDiv a b) (na != nb) ((p / q : ℚ) : ℝ) := by
  cases hb with
  | zero => exact absurd rfl hq
  | @num n k e hk =>
    cases ha with
    | zero => simpa [xDiv, nanOf] using Denotes.zero _
    | @num n' m d hm =>
      have hk' := small _ _ _ rfl
      have big : 2 ^ 53 ≤ m * 2 ^ 128 / k := by
        rw [Nat.le_div_iff_mul_le (Nat.pos_of_ne_zero hk)]
        have : 1 ≤ m := Nat.one_le_iff_ne_zero.mpr hm
        calc 2 ^ 53 * k ≤ 2 ^ 53 * 2 ^ 53 := Nat.mul_le_mul_left _ hk'.le
          _ ≤ 1 * 2 ^ 128 := by norm_num
          _ ≤ m * 2 ^ 128 := Nat.mul_le_mul_right _ this
      have := Denotes.num (na != nb) (na != nb) (d - e - 128) (by omega) (fun _ => big) (truncated_div (a := m * 2 ^ 128) hk)
      convert this using 1
      · simp [xDiv, nanOf]
      · have sb : (if nb then -1 else 1 : ℚ) ≠ 0 := sign_ne_zero nb
        have ss : (if (na != nb) = true then -1 else 1 : ℚ) = (if na then -1 else 1) / (if nb then -1 else 1) := by
          rw [sign_bne]
          cases nb <;> simp [div_neg]
        rw [← cast_sign, ss, zpow_sub₀ two_ne_zero, zpow_sub₀ two_ne_zero]
        push_cast
        field_simp
        norm_num

/-- The bits of a root found from above are those of the integer square root. -/
theorem isqrt_spec (n k r : Nat) (lo : r * r ≤ n) (hi : n < (r + 2 ^ k) * (r + 2 ^ k)) :
    isqrt n k r * isqrt n k r ≤ n ∧ n < (isqrt n k r + 1) * (isqrt n k r + 1) := by
  induction k generalizing r with
  | zero =>
    rw [isqrt]
    exact ⟨lo, by rwa [pow_zero] at hi⟩
  | succ k ih =>
    rw [isqrt]
    by_cases h : (r + 2 ^ k) * (r + 2 ^ k) ≤ n
    · rw [if_pos h]
      exact ih _ h (by rwa [add_assoc, ← two_mul, ← pow_succ'])
    · rw [if_neg h]
      exact ih _ lo (not_le.mp h)

theorem isqrt_eq_sqrt {n k : Nat} (h : n < 2 ^ (2 * k)) : isqrt n k 0 = Nat.sqrt n := by
  obtain ⟨lo, hi⟩ := isqrt_spec n k 0 (Nat.zero_le n) (by rwa [zero_add, ← pow_add, ← two_mul])
  exact Nat.eq_sqrt.mpr ⟨lo, hi⟩

theorem truncated_sqrt (n : ℕ) : Truncated (Nat.sqrt n) (Nat.sqrt n * Nat.sqrt n != n) (Real.sqrt n) := by
  have lo : ((Nat.sqrt n : ℕ) : ℝ) ≤ Real.sqrt n := Real.le_sqrt_of_sq_le (by exact_mod_cast Nat.sqrt_le' n)
  have hi : Real.sqrt n < Nat.sqrt n + 1 := by
    rw [Real.sqrt_lt' (by positivity)]
    exact_mod_cast Nat.lt_succ_sqrt' n
  by_cases h : Nat.sqrt n * Nat.sqrt n = n
  · have : Real.sqrt n = Nat.sqrt n := by
      rw [Real.sqrt_eq_iff_mul_self_eq (Nat.cast_nonneg n) (Nat.cast_nonneg _)]
      exact_mod_cast h.symm
    simp [Truncated, h, this]
  · have : ((Nat.sqrt n : ℕ) : ℝ) ≠ Real.sqrt n := by
      intro e
      have := Real.mul_self_sqrt (Nat.cast_nonneg (α := ℝ) n)
      rw [← e] at this
      exact h (by exact_mod_cast this)
    simpa [Truncated, h, hi] using lt_of_le_of_ne lo this

/-- The root of a number taken an even number of places up. -/
theorem denotes_sqrt {n : ℕ} {j : ℤ} {p : ℝ} (z : Bool) (lo : 2 ^ 106 ≤ n) (hi : n < 2 ^ 200) (hp : p = n * 2 ^ (2 * j)) :
    Denotes (.num false (isqrt n 100 0) j (isqrt n 100 0 * isqrt n 100 0 != n)) z (Real.sqrt p) := by
  rw [isqrt_eq_sqrt hi]
  have big : 2 ^ 53 ≤ Nat.sqrt n := Nat.le_sqrt.mpr (by rwa [← pow_add])
  have root : Real.sqrt p = Real.sqrt n * 2 ^ j := by
    rw [hp, mul_comm 2 j, zpow_mul, Real.sqrt_mul (Nat.cast_nonneg n)]
    congr 1
    exact_mod_cast Real.sqrt_sq (zpow_nonneg two_pos.le j)
  have := Denotes.num false z j (by omega) (fun _ => big) (truncated_sqrt n)
  rwa [if_neg Bool.false_ne_true, one_mul, ← root] at this

theorem Stands.sqrt {a : FVal} {n : Bool} {p : ℚ} (h : Stands a n p) (small : ∀ n m e, a = .num n m e → m < 2 ^ 53) :
    (0 < p → Denotes (xSqrt a) n (Real.sqrt (p : ℝ))) ∧ (p = 0 → xSqrt a = .zero n) ∧ (p < 0 → xSqrt a = .nan true) := by
  cases h with
  | zero => exact ⟨fun h => absurd h (lt_irrefl _), fun _ => rfl, fun h => absurd h (lt_irrefl _)⟩
  | @num _ m e hm =>
    have m0 : (0 : ℚ) < m * 2 ^ e := by positivity
    cases n with
    | true =>
      rw [if_pos rfl, mul_assoc]
      exact ⟨fun h => by linarith, fun h => by linarith, fun _ => rfl⟩
    | false =>
      rw [if_neg Bool.false_ne_true, one_mul]
      refine ⟨fun _ => ?_, fun h => absurd h m0.ne', fun h => absurd h m0.not_gt⟩
      have hm' := small _ _ _ rfl
      unfold xSqrt
      dsimp only
      by_cases he : e % 2 = 0
      · rw [if_pos he, if_pos he]
        refine denotes_sqrt _ (by omega) (by omega) ?_
        have : 2 * (e / 2 - 64) = e - 128 := by omega
        rw [this, zpow_sub₀ two_ne_zero]
        push_cast
        field_simp
        norm_num
      · rw [if_neg he, if_neg he]
        refine denotes_sqrt _ (by omega) (by omega) ?_
        have : 2 * ((e - 1) / 2 - 64) = e - 129 := by omega
        rw [this, zpow_sub₀ two_ne_zero]
        push_cast
        field_simp
        norm_num

/-! ## NaNs (R70, R71) -/

section
variable {f : Fmt} {x : DWord}

theorem fval_eq_nan_iff (b : Bool) : fval f x = .nan b ↔ isNan f x = true ∧ isSig f x = b := by
  constructor
  · intro h
    obtain hn | hi | ⟨p, hp⟩ := nan_inf_or_real f x
    · rw [fval_of_isNan hn] at h
      exact ⟨hn, FVal.nan.inj h⟩
    · rw [fval_of_isInf hi] at h
      cases h
    · exact absurd h ((stands_fval hp).not_nan b)
  · rintro ⟨hn, rfl⟩
    exact fval_of_isNan hn

theorem contains_nan_map (f : Fmt) (b : Bool) (xs : List DWord) :
    (xs.map (fval f)).contains (.nan b) = xs.any fun x => isNan f x && isSig f x == b := by
  induction xs with
  | nil => rfl
  | cons x xs ih =>
    rw [List.map_cons, List.contains_cons, ih, List.any_cons]
    congr 1
    rw [Bool.eq_iff_iff, beq_iff_eq, eq_comm, fval_eq_nan_iff]
    simp

end

theorem nanOf_map (f : Fmt) (xs : List DWord) : nanOf (xs.map (fval f)) =
    if xs.any (isSig f) then some (.nan true) else if xs.any (isNan f) then some (.nan false) else none := by
  unfold nanOf
  rw [contains_nan_map, contains_nan_map]
  have sig (x : DWord) : (isNan f x && isSig f x == true) = isSig f x := by
    cases h : isSig f x
    · simp
    · simp [isNan_of_isSig h]
  simp only [sig]
  cases hs : xs.any (isSig f) with
  | true => rfl
  | false =>
    have quiet : (xs.any fun x => isNan f x && isSig f x == false) = xs.any (isNan f) := by
      rw [List.any_eq_false] at hs
      rw [Bool.eq_iff_iff, List.any_eq_true, List.any_eq_true]
      exact exists_congr fun x => and_congr_right fun hx => by simp [hs x hx]
    rw [quiet]

/-- Operands with a NaN among them give the default NaN, with IV for a signalling one. -/
theorem roundF_nanOf {f : Fmt} {xs : List DWord} (h : xs.any (isNan f) = true) (rm : Rm) (x : XV) :
    roundF rm f ((nanOf (xs.map (fval f))).getD x) = (defaultNaN f, if xs.any (isSig f) then fIV else 0) := by
  rw [nanOf_map, if_pos h]
  cases xs.any (isSig f) <;> rfl

/-- Without a NaN the operation is what counts. -/
theorem nanOf_eq_none {f : Fmt} {xs : List DWord} (h : ∀ x ∈ xs, isNan f x = false) : nanOf (xs.map (fval f)) = none := by
  have hn : xs.any (isNan f) = false := List.any_eq_false.mpr fun x hx => by simp [h x hx]
  have hs : xs.any (isSig f) = false :=
    List.any_eq_false.mpr fun x hx hs => by simpa [h x hx] using isNan_of_isSig hs
  rw [nanOf_map, hs, hn]
  rfl

theorem roundF_of_not_nan {f : Fmt} {xs : List DWord} (h : ∀ x ∈ xs, isNan f x = false) (rm : Rm) (x : XV) :
    roundF rm f ((nanOf (xs.map (fval f))).getD x) = roundF rm f x := by
  rw [nanOf_eq_none h]
  rfl

/-! ## The operations on operands that are no NaNs -/

section
variable {t : Ty} {a b c : DWord} (rm : Rm) (ha : isNan (fmtOf t) a = false) (hb : isNan (fmtOf t) b = false)
include ha hb

theorem opFadd_eq : opFadd t rm a b c = roundF rm (fmtOf t) (addVal rm (fval (fmtOf t) a) (fval (fmtOf t) b)) :=
  roundF_of_not_nan (xs := [a, b]) (by simp [ha, hb]) rm _

theorem opFsub_eq : opFsub t rm a b c = roundF rm (fmtOf t) (addVal rm (fval (fmtOf t) a) (negVal (fval (fmtOf t) b))) :=
  roundF_of_not_nan (xs := [a, b]) (by simp [ha, hb]) rm _

theorem opFmul_eq : opFmul t rm a b c = roundF rm (fmtOf t) (xvF (mulVal (fval (fmtOf t) a) (fval (fmtOf t) b))) :=
  roundF_of_not_nan (xs := [a, b]) (by simp [ha, hb]) rm _

theorem opFfma_eq (hc : isNan (fmtOf t) c = false) :
    opFfma t rm a b c = roundF rm (fmtOf t) (addVal rm (mulVal (fval (fmtOf t) a) (fval (fmtOf t) b)) (fval (fmtOf t) c)) :=
  roundF_of_not_nan (xs := [a, b, c]) (by simp [ha, hb, hc]) rm _

end

/-! ### Infinities (R71) -/

theorem addVal_inf_inf (rm : Rm) (a b : Bool) : addVal rm (.inf a) (.inf b) = if a = b then .inf a false else .nan true := rfl

section
variable {v : FVal} {n : Bool} {p : ℚ} (h : Stands v n p)
include h

theorem Stands.inf_add (rm : Rm) (a : Bool) : addVal rm (.inf a) v = .inf a false := by cases h <;> rfl
theorem Stands.add_inf (rm : Rm) (b : Bool) : addVal rm v (.inf b) = .inf b false := by cases h <;> rfl
theorem Stands.inf_div (a : Bool) : xDiv (.inf a) v = .inf (a != n) false := by cases h <;> simp [xDiv, nanOf]
theorem Stands.div_inf (b : Bool) : xDiv v (.inf b) = .zero (n != b) := by cases h <;> simp [xDiv, nanOf]

theorem Stands.ne_zero {m : ℕ} {e : ℤ} (hv : v = .num n m e) : p ≠ 0 := by
  rintro rfl
  cases h.eq_zero.symm.trans hv

theorem Stands.inf_mul (a : Bool) : mulVal (.inf a) v = if p = 0 then .nan true else .inf (a != n) := by
  cases h with
  | zero => rfl
  | num _ e hm =>
    rw [if_neg (Stands.ne_zero (.num _ e hm) rfl)]
    rfl

theorem Stands.mul_inf (b : Bool) : mulVal v (.inf b) = if p = 0 then .nan true else .inf (n != b) := by
  cases h with
  | zero => rfl
  | num _ e hm =>
    rw [if_neg (Stands.ne_zero (.num _ e hm) rfl)]
    rfl

end

end Sys2Proof.Stated

namespace Sys2Proof.Proofs

open Sys2Proof Sys2Proof.Machine Sys2Proof.Stated

section
variable {t : Ty} {a b c : DWord} (rm : Rm)

/-- FADD to FDIV of finite operands (R71, R146). -/
theorem finite_values {x y : ℚ} (hx : realOf (fmtOf t) a = some x) (hy : realOf (fmtOf t) b = some y) :
    let f := fmtOf t
    let na := negBit f a
    let nb := negBit f b
    let zero (n : Bool) : DWord × FFlags := (zeroBits f n, 0)
    (x + y ≠ 0 → Delivers rm f (x + y : ℚ) (opFadd t rm a b c))
    ∧ (x + y = 0 → opFadd t rm a b c = zero (if na = nb then na else decide (rm = .rd)))
    ∧ (x - y ≠ 0 → Delivers rm f (x - y : ℚ) (opFsub t rm a b c))
    ∧ (x - y = 0 → opFsub t rm a b c = zero (if na ≠ nb then na else decide (rm = .rd)))
    ∧ (x * y ≠ 0 → Delivers rm f (x * y : ℚ) (opFmul t rm a b c)) ∧ (x * y = 0 → opFmul t rm a b c = zero (na != nb)) := by
  intro f na nb zero
  have hf := isFormat_fmtOf t
  have sa := stands_fval hx
  have sb := stands_fval hy
  have add := sa.add rm sb
  have sub := sa.add rm sb.neg
  have mul := (sa.mul sb).denotes
  rw [opFadd_eq rm (isNan_of_real hx) (isNan_of_real hy), opFsub_eq rm (isNan_of_real hx) (isNan_of_real hy),
    opFmul_eq rm (isNan_of_real hx) (isNan_of_real hy), sub_eq_add_neg]
  have flip : (if na = !nb then na else decide (rm = .rd)) = if na ≠ nb then na else decide (rm = .rd) := by
    cases na <;> cases nb <;> rfl
  rw [flip] at sub
  exact ⟨fun h => add.delivers hf rm (Rat.cast_ne_zero.mpr h), fun h => add.roundF_zero f rm (by rw [h, Rat.cast_zero]),
    fun h => sub.delivers hf rm (Rat.cast_ne_zero.mpr h), fun h => sub.roundF_zero f rm (by rw [h, Rat.cast_zero]),
    fun h => mul.delivers hf rm (Rat.cast_ne_zero.mpr h), fun h => mul.roundF_zero f rm (by rw [h, Rat.cast_zero])⟩

/-- FFMA of finite operands. -/
theorem finite_ffma {x y z : ℚ} (hx : realOf (fmtOf t) a = some x) (hy : realOf (fmtOf t) b = some y)
    (hz : realOf (fmtOf t) c = some z) :
    let f := fmtOf t
    let n := negBit f a != negBit f b
    (x * y + z ≠ 0 → Delivers rm f (x * y + z : ℚ) (opFfma t rm a b c))
    ∧ (x * y + z = 0 → opFfma t rm a b c = (zeroBits f (if n = negBit f c then negBit f c else decide (rm = .rd)), 0)) := by
  intro f n
  have sum := ((stands_fval hx).mul (stands_fval hy)).add rm (stands_fval hz)
  rw [opFfma_eq rm (isNan_of_real hx) (isNan_of_real hy) (isNan_of_real hz)]
  refine ⟨fun h => sum.delivers (isFormat_fmtOf t) rm (Rat.cast_ne_zero.mpr h), fun h => ?_⟩
  rw [sum.roundF_zero f rm (by rw [h, Rat.cast_zero])]
  by_cases hn : n = negBit f c
  · rw [if_pos hn, if_pos hn, ← hn]
  · rw [if_neg hn, if_neg hn]

/-- FDIV of finite operands; a quotient by zero is infinite, with DZ. -/
theorem finite_fdiv {x y : ℚ} (hx : realOf (fmtOf t) a = some x) (hy : realOf (fmtOf t) b = some y) :
    let f := fmtOf t
    let n := negBit f a != negBit f b
    (x ≠ 0 → y ≠ 0 → Delivers rm f (x / y : ℚ) (opFdiv t rm a b c))
    ∧ (x = 0 → y ≠ 0 → opFdiv t rm a b c = (zeroBits f n, 0))
    ∧ (x ≠ 0 → y = 0 → opFdiv t rm a b c = (infBits f n, fDZ)) ∧ (x = 0 → y = 0 → opFdiv t rm a b c = (defaultNaN f, fIV)) := by
  intro f n
  have hf := isFormat_fmtOf t
  have sx := stands_fval hx
  have sy := stands_fval hy
  have quotient (h : y ≠ 0) := sx.div sy h fun _ _ _ hv => num_lt_of_fval hf hv
  have op : opFdiv t rm a b c = roundF rm f (xDiv (fval f a) (fval f b)) := rfl
  rw [op]
  refine ⟨fun h k => (quotient k).delivers hf rm (Rat.cast_ne_zero.mpr (div_ne_zero h k)), fun h k => ?_, fun h k => ?_, fun h k => ?_⟩
  · exact (quotient k).roundF_zero f rm (by rw [h, zero_div, Rat.cast_zero])
  · subst k
    rw [sy.eq_zero]
    generalize hv : fval f a = v at sx
    cases sx with
    | zero => exact absurd rfl h
    | num _ e hm => simp [xDiv, nanOf, roundF, n, f]
  · subst h k
    rw [sx.eq_zero, sy.eq_zero]
    simp [xDiv, nanOf, roundF]

/-- FSQRT. -/
theorem root_values {f : Fmt} (hf : IsFormat f) {x : ℚ} (hx : realOf f a = some x) :
    (0 < x → Delivers rm f (Real.sqrt (x : ℝ)) (roundF rm f (xSqrt (fval f a))))
    ∧ (x = 0 → roundF rm f (xSqrt (fval f a)) = (zeroBits f (negBit f a), 0))
    ∧ (x < 0 → roundF rm f (xSqrt (fval f a)) = (defaultNaN f, fIV)) := by
  obtain ⟨pos, zero, neg⟩ := (stands_fval hx).sqrt fun _ _ _ hv => num_lt_of_fval hf hv
  exact ⟨fun h => (pos h).delivers hf rm (Real.sqrt_pos.mpr (Rat.cast_pos.mpr h)).ne', fun h => by rw [zero h]; rfl,
    fun h => by rw [neg h]; rfl⟩

/-- The operands of two of which one is infinite, and none a NaN. -/
theorem infinite_cases {f : Fmt} (ha : isNan f a = false) (hb : isNan f b = false) (h : isInf f a = true ∨ isInf f b = true) :
    (isInf f a = true ∧ isInf f b = true) ∨ (isInf f a = true ∧ ∃ q, realOf f b = some q) ∨ ((∃ p, realOf f a = some p) ∧ isInf f b = true) := by
  obtain ia | ib := h
  · exact (inf_or_real hb).imp (⟨ia, ·⟩) fun hb => .inl ⟨ia, hb⟩
  · exact (inf_or_real ha).imp (⟨·, ib⟩) fun ha => .inr ⟨ha, ib⟩

/-- The product of operands of which one is infinite: 0 × ∞ is invalid. -/
theorem mulVal_infinite {f : Fmt} (ha : isNan f a = false) (hb : isNan f b = false) (h : isInf f a = true ∨ isInf f b = true) :
    mulVal (fval f a) (fval f b) =
      if realOf f a = some 0 ∨ realOf f b = some 0 then .nan true else .inf (negBit f a != negBit f b) := by
  obtain ⟨ha, hb⟩ | ⟨ha, q, hq⟩ | ⟨⟨p, hp⟩, hb⟩ := infinite_cases ha hb h
  · rw [fval_of_isInf ha, fval_of_isInf hb, realOf_of_isInf ha, realOf_of_isInf hb]
    simp [mulVal]
  · rw [fval_of_isInf ha, realOf_of_isInf ha, (stands_fval hq).inf_mul, hq]
    simp
  · rw [fval_of_isInf hb, realOf_of_isInf hb, (stands_fval hp).mul_inf, hp]
    simp

/-- FADD to FDIV with infinite operands (R71). -/
theorem infinite_values (ha : isNan (fmtOf t) a = false) (hb : isNan (fmtOf t) b = false)
    (h : isInf (fmtOf t) a = true ∨ isInf (fmtOf t) b = true) :
    let f := fmtOf t
    let na := negBit f a
    let nb := negBit f b
    let invalid : DWord × FFlags := (defaultNaN f, fIV)
    let zero (n : Bool) : DWord × FFlags := (zeroBits f n, 0)
    let inf (n : Bool) : DWord × FFlags := (infBits f n, 0)
    opFadd t rm a b c = (if isInf f a = true ∧ isInf f b = true ∧ na ≠ nb then invalid else if isInf f a then inf na else inf nb)
    ∧ opFsub t rm a b c = (if isInf f a = true ∧ isInf f b = true ∧ na = nb then invalid else if isInf f a then inf na else inf (!nb))
    ∧ opFmul t rm a b c = (if realOf f a = some 0 ∨ realOf f b = some 0 then invalid else inf (na != nb))
    ∧ opFdiv t rm a b c = (if isInf f a = true ∧ isInf f b = true then invalid else if isInf f a then inf (na != nb) else zero (na != nb)) := by
  intro f na nb invalid zero inf
  have op : opFdiv t rm a b c = roundF rm f (xDiv (fval f a) (fval f b)) := rfl
  rw [opFadd_eq rm ha hb, opFsub_eq rm ha hb, opFmul_eq rm ha hb, op, mulVal_infinite ha hb h]
  have product : ∀ c : Prop, [Decidable c] → roundF rm f (xvF (if c then .nan true else .inf (na != nb))) =
      if c then invalid else inf (na != nb) := by
    intro c _
    split <;> rfl
  obtain ⟨ha, hb⟩ | ⟨ha, q, hq⟩ | ⟨⟨p, hp⟩, hb⟩ := infinite_cases ha hb h
  · refine ⟨?_, ?_, product _, ?_⟩ <;> rw [fval_of_isInf ha, fval_of_isInf hb, ha, hb]
    · rw [addVal_inf_inf]
      by_cases e : na = nb
      · rw [if_pos e, if_neg fun c => c.2.2 e]
        rfl
      · rw [if_neg e, if_pos ⟨rfl, rfl, e⟩]
        rfl
    · rw [negVal, addVal_inf_inf]
      by_cases e : na = nb
      · rw [if_neg fun c => (Bool.eq_not.mp c) e, if_pos ⟨rfl, rfl, e⟩]
        rfl
      · rw [if_pos (Bool.eq_not.mpr e), if_neg fun c => e c.2.2]
        rfl
    · simp [xDiv, nanOf, roundF, invalid]
  · have sb := stands_fval hq
    refine ⟨?_, ?_, product _, ?_⟩ <;> rw [fval_of_isInf ha, ha, isInf_of_real hq]
    · rw [sb.inf_add]
      rfl
    · rw [sb.neg.inf_add]
      rfl
    · rw [sb.inf_div]
      rfl
  · have sa := stands_fval hp
    refine ⟨?_, ?_, product _, ?_⟩ <;> rw [fval_of_isInf hb, hb, isInf_of_real hp]
    · rw [sa.add_inf]
      rfl
    · rw [negVal, sa.add_inf]
      rfl
    · rw [sa.div_inf]
      rfl

/-- FFMA with infinite operands. -/
theorem infinite_ffma (ha : isNan (fmtOf t) a = false) (hb : isNan (fmtOf t) b = false) (hc : isNan (fmtOf t) c = false) :
    let f := fmtOf t
    let n := negBit f a != negBit f b
    let nc := negBit f c
    (isInf f a = true ∨ isInf f b = true → opFfma t rm a b c =
      if realOf f a = some 0 ∨ realOf f b = some 0 ∨ (isInf f c = true ∧ nc ≠ n) then (defaultNaN f, fIV) else (infBits f n, 0))
    ∧ (isInf f a = false → isInf f b = false → isInf f c = true → opFfma t rm a b c = (infBits f nc, 0)) := by
  intro f n nc
  rw [opFfma_eq rm ha hb hc]
  constructor
  · intro h
    rw [mulVal_infinite ha hb h]
    by_cases h0 : realOf f a = some 0 ∨ realOf f b = some 0
    · rw [if_pos h0, if_pos (or_assoc.mp (.inl h0))]
      rfl
    · rw [if_neg h0]
      obtain hc | ⟨p, hc⟩ := inf_or_real hc
      · rw [fval_of_isInf hc, hc, addVal_inf_inf]
        by_cases e : n = nc
        · rw [if_pos e, if_neg fun c => (or_assoc.mpr c).elim h0 fun c => c.2 e.symm]
          rfl
        · rw [if_neg e, if_pos (or_assoc.mp (.inr ⟨rfl, Ne.symm e⟩))]
          rfl
      · rw [(stands_fval hc).inf_add, isInf_of_real hc, if_neg fun c => (or_assoc.mpr c).elim h0 fun c => nomatch c.1]
        rfl
  · intro ia ib ic
    obtain ⟨p, hp⟩ := exists_real ha ia
    obtain ⟨q, hq⟩ := exists_real hb ib
    rw [fval_of_isInf ic, ((stands_fval hp).mul (stands_fval hq)).add_inf]
    rfl

end

/-- Settles O23: the operations are exact on decoded values, and `roundNum` is `Round` of R73. -/
theorem floatingValues : Obligations.FloatingValues := by
  unfold Obligations.FloatingValues
  refine ⟨by decide, fun t _ rm a b c => ?_⟩
  intro f na nb nc nan invalid zero inf add sub mul fma div root
  have hf := isFormat_fmtOf t
  refine ⟨fun n => ⟨?_, ?_⟩, ⟨fun h => roundF_nanOf h rm _, fun h => roundF_nanOf h rm _, fun h => roundF_nanOf h rm _,
    fun h => roundF_nanOf h rm _, fun h => roundF_nanOf h rm _, fun h => ?_⟩, fun x y hx hy => ?_, fun x hx => root_values rm hf hx,
    fun h => ?_, fun ha hb h => infinite_values rm ha hb h, fun ha hb hc => infinite_ffma rm ha hb hc⟩
  · exact toNat_bits (n := 0) n (Nat.two_pow_pos _) hf
  · exact toNat_bits n (infMag_lt f) hf
  · have ha : isNan f a = true := by simpa using h
    have : root = roundF rm f (xSqrt (fval f a)) := rfl
    rw [this, fval_of_isNan ha]
    simp [xSqrt, roundF]
  · obtain ⟨h1, h2, h3, h4, h5, h6⟩ := finite_values (c := c) rm hx hy
    obtain ⟨d1, d2, d3, d4⟩ := finite_fdiv (c := c) rm hx hy
    exact ⟨h1, h2, h3, h4, h5, h6, fun z hz => finite_ffma rm hx hy hz, d1, d2, d3, d4⟩
  · have : root = roundF rm f (xSqrt (fval f a)) := rfl
    rw [this, fval_of_isInf h]
    change roundF rm f (if na then _ else _) = _
    cases na <;> rfl

end Sys2Proof.Proofs
end

section
/-! PROOFS. Cells of the matrix engine: cells written one after the other, exact runs of products (R86, R87), and the statement about
MXM and MXG. -/

namespace Sys2Proof.Stated

open Sys2Proof Sys2Proof.Machine

/-! ## Cells -/

theorem cellAt_setCell (s : State) (c row j : Nat) (x : Word) (d r k : Nat) :
    cellAt (setCell s c row j x) d r k = if d + k / 192 = c + j / 192 ∧ r = row ∧ k % 192 = j % 192 then x else cellAt s d r k := by
  have key : 192 * r + k % 192 = 192 * row + j % 192 ↔ r = row ∧ k % 192 = j % 192 := by omega
  unfold cellAt setCell
  by_cases h : d + k / 192 = c + j / 192
  · rw [h, getCore_modCore_same, mapGet_mapSet]
    simp only [key, true_and]
  · rw [if_neg fun c => h c.1, modCore, getCore_setCore_ne _ _ h]

/-- A cell of a list of cells whose first is `c`, `row`. -/
def CellIn (c row : Nat) (l : List (Nat × Nat)) (d r k : Nat) : Prop :=
  ∃ i j, (i, j) ∈ l ∧ d + k / 192 = c + j / 192 ∧ r = row + i ∧ k % 192 = j % 192

/-- Distinct cells written in any order are each written from what they held. -/
theorem mapCells_spec (c row : Nat) (f : Nat → Nat → Word → Word × FFlags) {l : List (Nat × Nat)} (hl : l.Nodup) (s : State) :
    (∀ i j, (i, j) ∈ l → cellAt (mapCells s c row f l).1 c (row + i) j = (f i j (cellAt s c (row + i) j)).1)
    ∧ (∀ d r k, ¬ CellIn c row l d r k → cellAt (mapCells s c row f l).1 d r k = cellAt s d r k)
    ∧ (∀ n, (mapCells s c row f l).2.getLsbD n = true ↔
        ∃ i j, (i, j) ∈ l ∧ (f i j (cellAt s c (row + i) j)).2.getLsbD n = true) := by
  induction l generalizing s with
  | nil =>
    have no : (mapCells s c row f []).2 = 0 := rfl
    exact ⟨fun _ _ h => absurd h List.not_mem_nil, fun _ _ _ _ => rfl, fun n => by simp [no]⟩
  | cons e l ih =>
    obtain ⟨i, j⟩ := e
    obtain ⟨fresh, nodup⟩ := List.nodup_cons.mp hl
    obtain ⟨cells, frame, flags⟩ := ih nodup (setCell s c (row + i) j (f i j (cellAt s c (row + i) j)).1)
    have other {i' j' : Nat} (h : (i', j') ∈ l) :
        cellAt (setCell s c (row + i) j (f i j (cellAt s c (row + i) j)).1) c (row + i') j' = cellAt s c (row + i') j' := by
      rw [cellAt_setCell, if_neg]
      rintro ⟨core, hrow, col⟩
      obtain rfl : i' = i := by omega
      obtain rfl : j' = j := by omega
      exact fresh h
    refine ⟨fun i' j' h => ?_, fun d r k h => ?_, fun n => ?_⟩
    · obtain h | h := List.mem_cons.mp h
      · obtain ⟨rfl, rfl⟩ := Prod.mk.inj h
        refine (frame c (row + i') j' ?_).trans ?_
        · rintro ⟨a, b, mem, core, hrow, col⟩
          obtain rfl : a = i' := by omega
          obtain rfl : b = j' := by omega
          exact fresh mem
        · rw [cellAt_setCell, if_pos ⟨rfl, rfl, rfl⟩]
      · refine (cells i' j' h).trans ?_
        rw [other h]
    · refine (frame d r k fun ⟨a, b, mem, hc⟩ => h ⟨a, b, List.mem_cons_of_mem _ mem, hc⟩).trans ?_
      rw [cellAt_setCell, if_neg fun hc => h ⟨i, j, List.mem_cons_self, hc⟩]
    · rw [mapCells, BitVec.getLsbD_or, Bool.or_eq_true, flags n]
      constructor
      · rintro (h | ⟨a, b, mem, h⟩)
        · exact ⟨i, j, List.mem_cons_self, h⟩
        · exact ⟨a, b, List.mem_cons_of_mem _ mem, by rwa [other mem] at h⟩
      · rintro ⟨a, b, mem, h⟩
        obtain e | mem := List.mem_cons.mp mem
        · obtain ⟨rfl, rfl⟩ := Prod.mk.inj e
          exact .inl h
        · exact .inr ⟨a, b, mem, by rwa [other mem]⟩

theorem mem_cellsOf {m n i j : Nat} : (i, j) ∈ cellsOf m n ↔ i < m ∧ j < n := by simp [cellsOf]

theorem nodup_cellsOf (m n : Nat) : (cellsOf m n).Nodup := by
  have : cellsOf m n = (List.range m).product (List.range n) := rfl
  rw [this]
  exact List.nodup_range.product List.nodup_range

/-! ## The exact sum of a run (R86) -/

theorem exists_minExp {ps : List FVal} {n : Bool} {m : ℕ} {x : ℤ} (h : .num n m x ∈ ps) : ∃ y, minExp ps = some y ∧ y ≤ x := by
  induction ps with
  | nil => cases h
  | cons p ps ih =>
    obtain rfl | h := List.mem_cons.mp h
    · cases hp : minExp ps with
      | none => exact ⟨x, by simp [minExp, hp], le_rfl⟩
      | some z => exact ⟨min x z, by simp [minExp, hp], min_le_left ..⟩
    · obtain ⟨y, hy, hle⟩ := ih h
      cases p with
      | num k l z => exact ⟨min z y, by simp [minExp, hy], (min_le_right ..).trans hle⟩
      | nan _ => exact ⟨y, hy, hle⟩
      | inf _ => exact ⟨y, hy, hle⟩
      | zero _ => exact ⟨y, hy, hle⟩

theorem minExp_le {ps : List FVal} {n : Bool} {m : ℕ} {x : ℤ} (h : .num n m x ∈ ps) : (minExp ps).getD 0 ≤ x := by
  obtain ⟨y, hy, hle⟩ := exists_minExp h
  rwa [hy]

/-- The numbers of a list add up to a multiple of a place below all of them. -/
theorem sumInts_eq {e : ℤ} {ps : List FVal} {xs : List ℚ} (he : ∀ n m x, .num n m x ∈ ps → e ≤ x) (h : ps.map ratOf = xs.map some) :
    (sumInts e ps : ℚ) * 2 ^ e = xs.sum := by
  induction ps generalizing xs with
  | nil =>
    obtain rfl : xs = [] := List.map_eq_nil_iff.mp h.symm
    simp [sumInts]
  | cons p ps ih =>
    cases xs with
    | nil => cases h
    | cons x xs =>
      obtain ⟨hp, h⟩ := List.cons.inj h
      have := ih (fun n m x hx => he n m x (List.mem_cons_of_mem _ hx)) h
      rw [List.sum_cons, ← this]
      cases p with
      | num n m k =>
        rw [← Option.some.inj hp, sumInts, Int.cast_add, add_mul, signed_shifted (he n m k List.mem_cons_self)]
      | zero n =>
        rw [← Option.some.inj hp, zero_add]
        rfl
      | nan _ => cases hp
      | inf _ => cases hp

theorem mem_of_ratOf {ps : List FVal} {xs : List ℚ} (h : ps.map ratOf = xs.map some) {p : FVal} (hp : p ∈ ps) : ratOf p ≠ none := by
  have : ratOf p ∈ xs.map some := h ▸ List.mem_map_of_mem hp
  obtain ⟨x, -, hx⟩ := List.mem_map.mp this
  rw [← hx]
  exact Option.some_ne_none x

/-- The sum of a run by the kinds of its products: the cases of `sumProducts` in terms of what the run holds. -/
theorem sumProducts_eq (rm : Rm) (ps : List FVal) :
    ((∃ sg, .nan sg ∈ ps) → sumProducts rm ps = .nan true)
    ∧ ((∀ sg, .nan sg ∉ ps) →
      (.inf true ∈ ps → .inf false ∈ ps → sumProducts rm ps = .nan true)
      ∧ (∀ n, .inf n ∈ ps → .inf (!n) ∉ ps → sumProducts rm ps = .inf n false)
      ∧ ((∀ n, .inf n ∉ ps) → sumProducts rm ps =
          let e := (minExp ps).getD 0
          let x := sumInts e ps
          if x ≠ 0 then .num (x < 0) x.natAbs e false
          else if ps.all (· = .zero true) then .zero true
          else if ps.all (· = .zero false) then .zero false
          else .zero (zeroSign rm))) := by
  unfold sumProducts
  split
  case isTrue h =>
    refine ⟨fun _ => rfl, fun hn => ?_⟩
    obtain ⟨p, hp, hc⟩ := List.any_eq_true.mp h
    cases p with
    | nan sg => exact absurd hp (hn sg)
    | _ => cases hc
  case isFalse h =>
    refine ⟨fun ⟨sg, hn⟩ => absurd (List.any_eq_true.mpr ⟨_, hn, rfl⟩) h, fun _ => ?_⟩
    simp only [List.contains_iff_mem]
    refine ⟨fun ht hf => by rw [if_pos ht, if_pos hf], fun n hn hn' => ?_, fun h => by rw [if_neg (h true), if_neg (h false)]⟩
    cases n with
    | true => exact (if_pos hn).trans (if_neg hn')
    | false => exact (if_neg hn').trans (if_pos hn)

theorem zero_of_sign (p q : Prop) [Decidable p] [Decidable q] (z : Bool) :
    (if p then XV.zero true else if q then .zero false else .zero z) = .zero (decide (p ∨ (z = true ∧ ¬ q))) := by
  by_cases hp : p
  · simp [hp]
  · by_cases hq : q <;> simp [hp, hq]

/-- A run of numbers. -/
theorem sumProducts_denotes {ps : List FVal} (rm : Rm) {xs : List ℚ} (h : ps.map ratOf = xs.map some) :
    Denotes (sumProducts rm ps)
      (decide ((∀ p, p ∈ ps → p = .zero true) ∨ (rm = .rd ∧ ¬ ∀ p, p ∈ ps → p = .zero false))) (xs.sum : ℚ) := by
  rw [((sumProducts_eq rm ps).2 fun sg hn => mem_of_ratOf h hn rfl).2.2 fun n hn => mem_of_ratOf h hn rfl]
  dsimp only
  rw [← sumInts_eq (fun n m x => minExp_le) h]
  by_cases h0 : sumInts ((minExp ps).getD 0) ps = 0
  · rw [if_neg (not_not.mpr h0), h0]
    simp only [List.all_eq_true, decide_eq_true_eq]
    rw [zero_of_sign]
    simpa [zeroSign] using Denotes.zero _
  · rw [if_pos h0]
    exact denotes_int _ _ h0

/-! ## Runs added to a cell (R86, R87) -/

/-- The magnitude of the default NaN. -/
theorem nanMag_lt {f : Fmt} (hf : IsFormat f) : (2 ^ f.e - 1) * 2 ^ f.m + 2 ^ (f.m - 1) < 2 ^ (f.m + f.e) := by
  have half : 2 ^ (f.m - 1) < 2 ^ f.m := Nat.pow_lt_pow_right one_lt_two (by have := hf.frac; omega)
  calc (2 ^ f.e - 1) * 2 ^ f.m + 2 ^ (f.m - 1) < (2 ^ f.e - 1) * 2 ^ f.m + 2 ^ f.m := Nat.add_lt_add_left half _
    _ = 2 ^ (f.m + f.e) := by rw [← Nat.succ_mul, Nat.succ_eq_add_one, Nat.sub_add_cancel Nat.one_le_two_pow, pow_add, mul_comm]

theorem defaultNaN_eq (f : Fmt) : defaultNaN f = BitVec.ofNat 64 (signBit f false + ((2 ^ f.e - 1) * 2 ^ f.m + 2 ^ (f.m - 1))) := by
  rw [signBit, if_neg Bool.false_ne_true, Nat.zero_add, defaultNaN]

theorem zeroBits_eq (f : Fmt) (n : Bool) : zeroBits f n = BitVec.ofNat 64 (signBit f n + 0) := rfl

/-- Rounded results lie in the format's bits, where nothing is cut off before rounding. -/
theorem roundF_lt {f : Fmt} (hf : IsFormat f) (rm : Rm) {x : XV} (h : ∀ n m e st, x = .num n m e st → st = false) :
    (roundF rm f x).1.toNat < 2 ^ (1 + f.m + f.e) := by
  have bits {k : ℕ} (n : Bool) (hk : k < 2 ^ (f.m + f.e)) : (BitVec.ofNat 64 (signBit f n + k)).toNat < 2 ^ (1 + f.m + f.e) := by
    rw [toNat_bits n hk hf]
    exact signBit_add_lt n hk
  cases x with
  | nan _ =>
    rw [roundF, defaultNaN_eq]
    exact bits false (nanMag_lt hf)
  | inf n _ => exact bits n (infMag_lt f)
  | zero n => exact bits n (Nat.two_pow_pos _)
  | num n m e st =>
    rw [roundF]
    split
    · exact bits n (Nat.two_pow_pos _)
    · next hm =>
      obtain rfl := h _ _ _ _ rfl
      obtain ⟨-, -, -, -, -, -, lt, -⟩ := roundNum_delivers (e := e) (st := false) hf rm n hm (rfl : (m : ℝ) = m) nofun
      exact lt

/-- Sums are exact. -/
theorem addVal_keeps {rm : Rm} {a b : FVal} {n : Bool} {m : ℕ} {e : ℤ} {st : Bool} (h : addVal rm a b = .num n m e st) :
    st = false := by
  unfold addVal at h
  split at h
  case h_9 =>
    unfold sumXV at h
    dsimp only at h
    split at h <;> cases h
    rfl
  case h_7 =>
    cases h
    rfl
  case h_8 =>
    cases h
    rfl
  case h_3 => split at h <;> cases h
  case h_6 => split at h <;> cases h
  all_goals cases h

theorem xAdd_keeps {rm : Rm} {f : Fmt} {a b : DWord} {n : Bool} {m : ℕ} {e : ℤ} {st : Bool}
    (h : xAdd rm (fval f a) (fval f b) = .num n m e st) : st = false := by
  have nan : nanOf [fval f a, fval f b] = _ := nanOf_map f [a, b]
  unfold xAdd at h
  rw [nan] at h
  split at h
  · cases h
  · split at h
    · cases h
    · exact addVal_keeps h

/-- One run added to a cell is what the words of the statement say. -/
theorem runAdds_addRun (rm : Rm) (c : Word) (ps : List FVal) : RunAdds rm ps c (addRun rm c ps).1 (addRun rm c ps).2 := by
  have hf := isFormat_fmtOf .f32
  have kinds := sumProducts_eq rm ps
  refine ⟨roundF rm (fmtOf .f32) (sumProducts rm ps), ?_, rfl, fun h => ?_, fun n hn hn' h => ?_, fun xs h => ?_⟩
  · have lt := roundF_lt hf rm fun _ _ _ _ => xAdd_keeps (rm := rm) (f := fmtOf .f32) (a := c.setWidth 64)
      (b := (roundF rm (fmtOf .f32) (sumProducts rm ps)).1)
    exact BitVec.eq_of_toNat_eq (by
      rw [BitVec.toNat_setWidth, Nat.mod_eq_of_lt (BitVec.isLt _ |>.trans (by decide)), addRun, BitVec.toNat_setWidth]
      exact Nat.mod_eq_of_lt lt)
  · have : sumProducts rm ps = .nan true := by
      by_cases hn : ∃ sg, .nan sg ∈ ps
      · exact kinds.1 hn
      · obtain ⟨ht, hf⟩ := h.resolve_left hn
        exact (kinds.2 (not_exists.mp hn)).1 ht hf
    rw [this]
    rfl
  · rw [(kinds.2 h).2.1 n hn hn']
    cases n <;> rfl
  · have sum := sumProducts_denotes rm h
    refine ⟨fun h0 => sum.delivers hf rm (Rat.cast_ne_zero.mpr h0), fun h0 => ?_⟩
    rw [sum.roundF_zero _ rm (by rw [h0, Rat.cast_zero])]
    split
    · next h => rw [decide_eq_true h]; rfl
    · next h => rw [decide_eq_false h]; rfl

/-! ### Runs one after the other -/

/-- The products of run `r`. -/
def runOf (a b : Nat → FVal) (r : Nat) : List FVal := (List.range 32).map fun k => mulVal (a (32 * r + k)) (b (32 * r + k))

/-- A cell after its first `r` runs, and the flags of run `r`. -/
def cellAfter (rm : Rm) (a b : Nat → FVal) (c : Word) (r : Nat) : Word := (addRuns rm a b c (List.range r)).1
def flagsAt (rm : Rm) (a b : Nat → FVal) (c : Word) (r : Nat) : FFlags := (addRun rm (cellAfter rm a b c r) (runOf a b r)).2

section
variable (rm : Rm) (a b : Nat → FVal) (c : Word)

theorem addRuns_succ (r : Nat) : addRuns rm a b c (List.range (r + 1)) =
    ((addRun rm (cellAfter rm a b c r) (runOf a b r)).1, (addRuns rm a b c (List.range r)).2 ||| flagsAt rm a b c r) := by
  rw [List.range_succ, addRuns, List.foldl_concat]
  rfl

theorem cellAfter_zero : cellAfter rm a b c 0 = c := rfl

theorem runAdds_cellAfter (r : Nat) :
    RunAdds rm (runOf a b r) (cellAfter rm a b c r) (cellAfter rm a b c (r + 1)) (flagsAt rm a b c r) := by
  have : cellAfter rm a b c (r + 1) = (addRun rm (cellAfter rm a b c r) (runOf a b r)).1 := by rw [cellAfter, addRuns_succ]
  rw [this]
  exact runAdds_addRun ..

/-- The flags of all runs together. -/
theorem getLsbD_addRuns (r n : Nat) :
    (addRuns rm a b c (List.range r)).2.getLsbD n = true ↔ ∃ k, k < r ∧ (flagsAt rm a b c k).getLsbD n = true := by
  induction r with
  | zero => simp [addRuns]
  | succ r ih =>
    rw [addRuns_succ, BitVec.getLsbD_or, Bool.or_eq_true, ih]
    simp only [Nat.lt_succ_iff_lt_or_eq, or_and_right, exists_or, exists_eq_left]

end

/-- Integer products are added modulo 2 ^ 32. -/
theorem toNat_addInts (a b : Nat → FVal) (c : Word) (k : Nat) :
    ((addInts a b c k).toNat : ℤ) = (c.toNat + ((List.range k).map fun i => valInt (a i) * valInt (b i)).sum) % 2 ^ 32 := by
  have sum : (List.range k).foldl (fun t i => t + valInt (a i) * valInt (b i)) 0 =
      ((List.range k).map fun i => valInt (a i) * valInt (b i)).sum := by
    rw [List.sum_eq_foldl, List.foldl_map]
  rw [addInts, sum, BitVec.toNat_add, BitVec.toNat_ofInt]
  push_cast
  rw [Int.toNat_of_nonneg (Int.emod_nonneg _ (by norm_num)), Int.add_emod_emod]

theorem signed_natAbs (k : ℤ) : signed (k < 0) k.natAbs = k := by
  unfold signed
  split
  · next h => have := of_decide_eq_true h; omega
  · next h => have := of_decide_eq_false (Bool.eq_false_iff.mpr h); omega

/-- An integer as a value. -/
theorem intVal_spec (k : ℤ) : valInt (intVal k) = k ∧ ratOf (intVal k) = some (k : ℚ) := by
  unfold intVal
  by_cases h : k = 0
  · rw [if_pos h, h]
    exact ⟨rfl, by simp [ratOf]⟩
  · rw [if_neg h]
    refine ⟨signed_natAbs k, ?_⟩
    rw [ratOf, ← signed_eq, signed_natAbs, zpow_zero, mul_one]

/-! ## Rows written one after the other (R219) -/

/-- One row after the other, each from its own cells, with flags of its own. -/
def mapRows (c n : Nat) (row : Nat → Nat) (f : Nat → Nat → Word → Word × FFlags) (fl : Nat → FFlags) (ds : List Nat)
    (z : State × FFlags) : State × FFlags :=
  ds.foldl (fun r d =>
    let y := mapCells r.1 c (row d) (fun _ j x => f d j x) (cellsOf 1 n)
    (y.1, r.2 ||| fl d ||| y.2)) z

/-- A row written. -/
theorem mapRow_spec (c n row : Nat) (f : Nat → Word → Word × FFlags) (s : State) :
    (∀ j, j < n → cellAt (mapCells s c row (fun _ => f) (cellsOf 1 n)).1 c row j = (f j (cellAt s c row j)).1)
    ∧ (∀ d r k, (∀ j, j < n → ¬ (d + k / 192 = c + j / 192 ∧ r = row ∧ k % 192 = j % 192)) →
        cellAt (mapCells s c row (fun _ => f) (cellsOf 1 n)).1 d r k = cellAt s d r k)
    ∧ (∀ b, (mapCells s c row (fun _ => f) (cellsOf 1 n)).2.getLsbD b = true ↔ ∃ j, j < n ∧ (f j (cellAt s c row j)).2.getLsbD b = true) := by
  obtain ⟨cells, frame, flags⟩ := mapCells_spec c row (fun _ => f) (nodup_cellsOf 1 n) s
  refine ⟨fun j hj => cells 0 j (mem_cellsOf.mpr ⟨one_pos, hj⟩), fun d r k h => frame d r k ?_, fun b => (flags b).trans ?_⟩
  · rintro ⟨i, j, mem, hd, hr, hk⟩
    obtain ⟨hi, hj⟩ := mem_cellsOf.mp mem
    exact h j hj ⟨hd, by omega, hk⟩
  · constructor
    · rintro ⟨i, j, mem, h⟩
      obtain ⟨hi, hj⟩ := mem_cellsOf.mp mem
      obtain rfl : i = 0 := by omega
      exact ⟨j, hj, h⟩
    · rintro ⟨j, hj, h⟩
      exact ⟨0, j, mem_cellsOf.mpr ⟨one_pos, hj⟩, h⟩

/-- Distinct rows are each written from what they held. -/
theorem mapRows_spec {c n : Nat} {row : Nat → Nat} (f : Nat → Nat → Word → Word × FFlags) (fl : Nat → FFlags)
    (hrow : Function.Injective row) {ds : List Nat} (hd : ds.Nodup) (z : State × FFlags) :
    (∀ d j, d ∈ ds → j < n → cellAt (mapRows c n row f fl ds z).1 c (row d) j = (f d j (cellAt z.1 c (row d) j)).1)
    ∧ (∀ k r q, (∀ d j, d ∈ ds → j < n → ¬ (k + q / 192 = c + j / 192 ∧ r = row d ∧ q % 192 = j % 192)) →
        cellAt (mapRows c n row f fl ds z).1 k r q = cellAt z.1 k r q)
    ∧ (∀ b, (mapRows c n row f fl ds z).2.getLsbD b = true ↔ z.2.getLsbD b = true
        ∨ (∃ d, d ∈ ds ∧ (fl d).getLsbD b = true)
        ∨ ∃ d j, d ∈ ds ∧ j < n ∧ (f d j (cellAt z.1 c (row d) j)).2.getLsbD b = true) := by
  induction ds generalizing z with
  | nil => exact ⟨fun _ _ h => absurd h List.not_mem_nil, fun _ _ _ _ => rfl, fun b => by simp [mapRows]⟩
  | cons e ds ih =>
    obtain ⟨fresh, nodup⟩ := List.nodup_cons.mp hd
    obtain ⟨head, other, raised⟩ := mapRow_spec c n (row e) (f e) z.1
    obtain ⟨cells, frame, flags⟩ := ih nodup
      ((mapCells z.1 c (row e) (fun _ => f e) (cellsOf 1 n)).1, z.2 ||| fl e ||| (mapCells z.1 c (row e) (fun _ => f e) (cellsOf 1 n)).2)
    have kept {d : Nat} (hd : d ∈ ds) (j : Nat) : cellAt (mapCells z.1 c (row e) (fun _ => f e) (cellsOf 1 n)).1 c (row d) j = cellAt z.1 c (row d) j :=
      other _ _ _ fun _ _ h => fresh (hrow h.2.1 ▸ hd)
    refine ⟨fun d j hd hj => ?_, fun k r q h => ?_, fun b => (flags b).trans ?_⟩
    · obtain rfl | hd := List.mem_cons.mp hd
      · refine (frame c (row d) j fun a i ha _ h => fresh (hrow h.2.1 ▸ ha)).trans (head j hj)
      · refine (cells d j hd hj).trans ?_
        rw [kept hd]
    · refine (frame k r q fun d j hd => h d j (List.mem_cons_of_mem _ hd)).trans ?_
      exact other k r q fun j => h e j List.mem_cons_self
    · rw [BitVec.getLsbD_or, BitVec.getLsbD_or, Bool.or_eq_true, Bool.or_eq_true, raised]
      constructor
      · rintro (((h | h) | ⟨j, hj, h⟩) | ⟨d, hd, h⟩ | ⟨d, j, hd, hj, h⟩)
        · exact .inl h
        · exact .inr (.inl ⟨e, List.mem_cons_self, h⟩)
        · exact .inr (.inr ⟨e, j, List.mem_cons_self, hj, h⟩)
        · exact .inr (.inl ⟨d, List.mem_cons_of_mem _ hd, h⟩)
        · exact .inr (.inr ⟨d, j, List.mem_cons_of_mem _ hd, hj, by rwa [kept hd] at h⟩)
      · rintro (h | ⟨d, hd, h⟩ | ⟨d, j, hd, hj, h⟩)
        · exact .inl (.inl (.inl h))
        · obtain rfl | hd := List.mem_cons.mp hd
          · exact .inl (.inl (.inr h))
          · exact .inr (.inl ⟨d, hd, h⟩)
        · obtain rfl | hd := List.mem_cons.mp hd
          · exact .inl (.inr ⟨j, hj, h⟩)
          · exact .inr (.inr ⟨d, j, hd, hj, by rwa [kept hd]⟩)

/-- Flags gathered over a list. -/
theorem getLsbD_foldl_or {α : Type} (l : List α) (g : α → FFlags) (z : FFlags) (n : Nat) :
    (l.foldl (fun x y => x ||| g y) z).getLsbD n = true ↔ z.getLsbD n = true ∨ ∃ y, y ∈ l ∧ (g y).getLsbD n = true := by
  induction l generalizing z with
  | nil => simp
  | cons y l ih =>
    rw [List.foldl_cons, ih, BitVec.getLsbD_or, Bool.or_eq_true, or_assoc]
    simp only [List.mem_cons, or_and_right, exists_or, exists_eq_left]

/-! ## The main product and the low-rank term (R215, R219) -/

/-- What the main product makes of one cell: its row and column of elements, and its contents. -/
def productCell (ints : Bool) (rm : Rm) (depth : Nat) (x y : Nat → Nat → FVal) (i j : Nat) (c : Word) : Word × FFlags :=
  if ints then (addInts (x i) (y j) c depth, 0) else addRuns rm (x i) (y j) c (List.range (depth / 32))

section
variable (s : State) (c row m n depth : Nat) (rm : Rm) (x y : Nat → Nat → FVal)

theorem product_ints :
    let t := mapCells s c row (productCell true rm depth x y) (cellsOf m n)
    t.2 = 0 ∧ ∀ i j, i < m ∧ j < n → ((cellAt t.1 c (row + i) j).toNat : ℤ) =
      ((cellAt s c (row + i) j).toNat + ((List.range depth).map fun k => valInt (x i k) * valInt (y j k)).sum) % 2 ^ 32 := by
  obtain ⟨cells, -, flags⟩ := mapCells_spec c row (productCell true rm depth x y) (nodup_cellsOf m n) s
  refine ⟨BitVec.eq_of_getLsbD_eq fun b _ => ?_, fun i j h => ?_⟩
  · rw [Bool.eq_iff_iff]
    refine (flags b).trans ?_
    simp [productCell]
  · rw [cells i j (mem_cellsOf.mpr h)]
    exact toNat_addInts ..

theorem product_runs :
    let t := mapCells s c row (productCell false rm depth x y) (cellsOf m n)
    ∃ (v : Nat → Nat → Nat → Word) (g : Nat → Nat → Nat → FFlags),
      (∀ i j, i < m ∧ j < n → v i j 0 = cellAt s c (row + i) j ∧ v i j (depth / 32) = cellAt t.1 c (row + i) j)
      ∧ (∀ i j r, i < m ∧ j < n → r < depth / 32 → RunAdds rm (runOf (x i) (y j) r) (v i j r) (v i j (r + 1)) (g i j r))
      ∧ ∀ b, t.2.getLsbD b = true ↔ ∃ i j r, (i < m ∧ j < n) ∧ r < depth / 32 ∧ (g i j r).getLsbD b = true := by
  obtain ⟨cells, -, flags⟩ := mapCells_spec c row (productCell false rm depth x y) (nodup_cellsOf m n) s
  refine ⟨fun i j => cellAfter rm (x i) (y j) (cellAt s c (row + i) j), fun i j => flagsAt rm (x i) (y j) (cellAt s c (row + i) j),
    fun i j h => ⟨rfl, (cells i j (mem_cellsOf.mpr h)).symm⟩, fun i j r _ _ => runAdds_cellAfter .., fun b => (flags b).trans ?_⟩
  simp only [productCell, Bool.false_eq_true, if_false, getLsbD_addRuns, mem_cellsOf, ← exists_and_left]

theorem product_frame (ints : Bool) {d r j : Nat} (hj : j < 192)
    (h : ∀ i q, i < m ∧ q < n → ¬ (d = c + q / 192 ∧ r = row + i ∧ j = q % 192)) :
    cellAt (mapCells s c row (productCell ints rm depth x y) (cellsOf m n)).1 d r j = cellAt s d r j := by
  refine (mapCells_spec c row (productCell ints rm depth x y) (nodup_cellsOf m n) s).2.1 d r j ?_
  rintro ⟨i, q, mem, hd, hr, hq⟩
  exact h i q (mem_cellsOf.mp mem) ⟨by omega, hr, by omega⟩

end

/-- What the low-rank term makes of one cell, from the values Tq of its row and the elements of V in its column. -/
def termCell (rm : Rm) (tq : Nat → Nat → Word × FFlags) (v : Nat → Nat → FVal) (d j : Nat) (c : Word) : Word × FFlags :=
  addRun rm c ((List.range 16).map fun q => mulVal (fval (fmtOf .f32) ((tq d q).1.setWidth 64)) (v q j))

/-- The low-rank term over 16 rows. -/
theorem term_runs (s : State) (c n depth : Nat) {row : Nat → Nat} (hrow : Function.Injective row) (rm : Rm)
    (x u v : Nat → Nat → FVal) :
    let tq (d q : Nat) : Word × FFlags := addRuns rm (x d) (u q) 0 (List.range (depth / 32))
    let t := mapRows c n row (termCell rm tq v)
      (fun d => ((List.range 16).map (tq d)).foldl (fun x y => x ||| y.2) 0) (List.range 16) (s, 0)
    ∃ (w : Nat → Nat → Nat → Word) (h : Nat → Nat → Nat → FFlags) (g : Nat → Nat → FFlags),
      (∀ d q, d < 16 → q < 16 → w d q 0 = 0 ∧ ∀ r, r < depth / 32 → RunAdds rm (runOf (x d) (u q) r) (w d q r) (w d q (r + 1)) (h d q r))
      ∧ (∀ d j, d < 16 → j < n → RunAdds rm
          ((List.range 16).map fun q => mulVal (fval (fmtOf .f32) ((w d q (depth / 32)).setWidth 64)) (v q j))
          (cellAt s c (row d) j) (cellAt t.1 c (row d) j) (g d j))
      ∧ (∀ b, t.2.getLsbD b = true ↔ (∃ d q r, d < 16 ∧ q < 16 ∧ r < depth / 32 ∧ (h d q r).getLsbD b = true)
          ∨ ∃ d j, d < 16 ∧ j < n ∧ (g d j).getLsbD b = true)
      ∧ ∀ k r j, j < 192 → (∀ d q, d < 16 → q < n → ¬ (k = c + q / 192 ∧ r = row d ∧ j = q % 192)) →
          cellAt t.1 k r j = cellAt s k r j := by
  intro tq t
  obtain ⟨cells, frame, flags⟩ := mapRows_spec (c := c) (n := n) (termCell rm tq v)
    (fun d => ((List.range 16).map (tq d)).foldl (fun x y => x ||| y.2) 0) hrow List.nodup_range (s, 0)
  refine ⟨fun d q => cellAfter rm (x d) (u q) 0, fun d q => flagsAt rm (x d) (u q) 0,
    fun d j => (termCell rm tq v d j (cellAt s c (row d) j)).2, fun d q _ _ => ⟨rfl, fun r _ => runAdds_cellAfter ..⟩,
    fun d j hd hj => ?_, fun b => (flags b).trans ?_, fun k r j hj h => frame k r j fun d q hd hq e => ?_⟩
  · rw [cells d j (List.mem_range.mpr hd) hj, termCell]
    exact runAdds_addRun ..
  · simp only [List.mem_range, getLsbD_foldl_or, List.mem_map, exists_exists_and_eq_and, tq, getLsbD_addRuns]
    simp [← exists_and_left]
  · exact h d q (List.mem_range.mp hd) hq ⟨by omega, e.2.1, by omega⟩

end Sys2Proof.Stated

namespace Sys2Proof.Proofs

open Sys2Proof Sys2Proof.Machine Sys2Proof.Stated

/-- Settles O49: the cells are distinct, so each is written from what it held; a run is the exact sum of its products rounded once. -/
theorem matrixCellValues : Obligations.MatrixCellValues := by
  unfold Obligations.MatrixCellValues
  refine ⟨fun t _ x => ratOf_fval _ x, fun x y p q => ratOf_mulVal, intVal_spec, fun s f => ?_, fun s0 s f a => ?_⟩
  · intro b c o x y t cell run inside ints
    have ht : t = mapCells s c f.row.val (productCell ints f.rm (mDepth f) x y) (cellsOf (mRows f) (mCols f)) := rfl
    clear_value t ints
    subst ht
    refine ⟨fun hi => ?_, fun hi => ?_, fun d r j hj h => product_frame s c _ _ _ _ _ x y ints hj h⟩
    · subst hi
      exact product_ints s c _ _ _ _ _ x y
    · subst hi
      exact product_runs s c _ _ _ _ _ x y
  · intro b c o t row run
    have ht : t = mapRows c (mCols f) row
        (termCell f.rm (fun d q => addRuns f.rm (elemAt s0 b o (16 * a.t + d)) (fun k => bfAt a.u (16 * k + q)) 0
          (List.range (mDepth f / 32))) fun q j => bfAt (a.v.getD q []) j)
        (fun d => ((List.range 16).map fun q => addRuns f.rm (elemAt s0 b o (16 * a.t + d)) (fun k => bfAt a.u (16 * k + q)) 0
          (List.range (mDepth f / 32))).foldl (fun x y => x ||| y.2) 0) (List.range 16) (s, 0) := rfl
    have hrow : Function.Injective row := fun d e h => by simpa [row] using h
    clear_value t row
    subst ht
    exact term_runs s c (mCols f) (mDepth f) hrow f.rm (fun d => elemAt s0 b o (16 * a.t + d)) (fun q k => bfAt a.u (16 * k + q))
      fun q j => bfAt (a.v.getD q []) j

end Sys2Proof.Proofs
end

section
/-! PROOFS. Integers of a width, rounding to an integer (R66, R74, R82), and conversions (R143). -/

namespace Sys2Proof.Stated

open Sys2Proof Sys2Proof.Machine

/-! ## Integers of a width (R65, R66, R137) -/

theorem toSN_false (w : Nat) (x : DWord) : toSN false w x = (x.toNat : ℤ) % 2 ^ w := by
  simp [toSN, toN]

theorem toSN_true (w : Nat) (x : DWord) : toSN true w x =
    if (x.toNat : ℤ) % 2 ^ w < 2 ^ (w - 1) then (x.toNat : ℤ) % 2 ^ w else (x.toNat : ℤ) % 2 ^ w - 2 ^ w := by
  simp only [toSN, toS, if_true]
  refine if_congr ?_ rfl rfl
  norm_cast

theorem extend_eq (sg : Bool) (w : Nat) (x : DWord) : extend sg w x = BitVec.ofInt 64 (toSN sg w x) := by
  cases sg
  · simp [extend, toSN, BitVec.ofInt_natCast]
  · rfl

/-- The range of the integers of a width (R65). -/
def InWidth (sg : Bool) (w : Nat) (k : ℤ) : Prop := if sg then -2 ^ (w - 1) ≤ k ∧ k < 2 ^ (w - 1) else 0 ≤ k ∧ k < 2 ^ w

theorem toNat_ofInt_emod {w : Nat} (hw : w ≤ 64) (k : ℤ) : ((BitVec.ofInt 64 k).toNat : ℤ) % 2 ^ w = k % 2 ^ w := by
  rw [BitVec.toNat_ofInt, Int.toNat_of_nonneg (Int.emod_nonneg _ (by norm_num))]
  exact Int.emod_emod_of_dvd _ (by exact_mod_cast Nat.pow_dvd_pow 2 hw)

section
variable {sg : Bool} {w : Nat} {k : ℤ}

/-- An integer in range is read back from any bits that agree with it in the width. -/
theorem toSN_of_emod (h1 : 1 ≤ w) {x : DWord} (hx : (x.toNat : ℤ) % 2 ^ w = k % 2 ^ w) (hk : InWidth sg w k) : toSN sg w x = k := by
  have hp : (2 : ℤ) ^ w = 2 * 2 ^ (w - 1) := by rw [← pow_succ', Nat.sub_add_cancel h1]
  have h0 : (0 : ℤ) < 2 ^ (w - 1) := by positivity
  cases sg with
  | false =>
    rw [toSN_false, hx]
    exact Int.emod_eq_of_lt hk.1 hk.2
  | true =>
    rw [toSN_true, hx]
    obtain ⟨lo, hi⟩ := hk
    obtain h | h := lt_or_ge k 0
    · have : k % 2 ^ w = k + 2 ^ w := by
        rw [← Int.add_emod_right]
        exact Int.emod_eq_of_lt (by omega) (by omega)
      rw [this, if_neg (by omega)]
      omega
    · rw [Int.emod_eq_of_lt h (by omega), if_pos hi]

variable (hw : w ≤ 64)
include hw

theorem toSN_ofInt (h1 : 1 ≤ w) (hk : InWidth sg w k) : toSN sg w (BitVec.ofInt 64 k) = k :=
  toSN_of_emod h1 (toNat_ofInt_emod hw k) hk

theorem toSN_wrap (h1 : 1 ≤ w) (hk : InWidth sg w k) : toSN sg w (wrap w k) = k := by
  refine toSN_of_emod h1 ?_ hk
  rw [wrap, toNat_ofInt_emod hw, Int.emod_emod_of_dvd _ dvd_rfl]

/-- A result in range, wrapped and extended, is read as itself and stands extended (R66). -/
theorem extend_wrap (h1 : 1 ≤ w) (hk : InWidth sg w k) :
    toSN sg w (extend sg w (wrap w k)) = k ∧ extend sg w (wrap w k) = extend sg w (extend sg w (wrap w k)) := by
  have : toSN sg w (extend sg w (wrap w k)) = k := by rw [extend_eq, toSN_wrap hw h1 hk, toSN_ofInt hw h1 hk]
  refine ⟨this, ?_⟩
  conv_rhs => rw [extend_eq, this]
  rw [extend_eq, toSN_wrap hw h1 hk]

end

/-! ## Clamping (R74, R82) -/

theorem tyBits_bounds (t : Ty) : 1 ≤ tyBits t ∧ tyBits t ≤ 64 := by cases t <;> exact ⟨by decide, by decide⟩

/-- The ends of a type's range. -/
def lowEnd (t : Ty) : ℤ := if tySigned t then -(2 ^ (tyBits t - 1)) else 0
def highEnd (t : Ty) : ℤ := if tySigned t then 2 ^ (tyBits t - 1) - 1 else 2 ^ tyBits t - 1

theorem tyRange_eq (t : Ty) : tyRange t = (lowEnd t, highEnd t) := by
  unfold tyRange lowEnd highEnd
  split <;> rfl

theorem lowEnd_le_zero (t : Ty) : lowEnd t ≤ 0 := by
  unfold lowEnd
  split <;> simp

theorem zero_le_highEnd (t : Ty) : 0 ≤ highEnd t := by
  have (n : ℕ) : (0 : ℤ) < 2 ^ n := by positivity
  unfold highEnd
  split
  · have := this (tyBits t - 1); omega
  · have := this (tyBits t); omega

theorem inWidth_iff (t : Ty) (k : ℤ) : InWidth (tySigned t) (tyBits t) k ↔ lowEnd t ≤ k ∧ k ≤ highEnd t := by
  unfold InWidth lowEnd highEnd
  cases tySigned t <;> simp

theorem clampTo_eq (t : Ty) (k : ℤ) : clampTo (tyRange t) k = max (lowEnd t) (min (highEnd t) k) := by
  have := lowEnd_le_zero t
  have := zero_le_highEnd t
  rw [tyRange_eq, clampTo]
  dsimp only
  split_ifs <;> omega

theorem clampTo_eq_self (t : Ty) (k : ℤ) : clampTo (tyRange t) k = k ↔ ¬ (k < lowEnd t ∨ highEnd t < k) := by
  rw [clampTo_eq]
  have := lowEnd_le_zero t
  have := zero_le_highEnd t
  omega

theorem inWidth_clamp (t : Ty) (k : ℤ) : InWidth (tySigned t) (tyBits t) (max (lowEnd t) (min (highEnd t) k)) := by
  rw [inWidth_iff]
  have := lowEnd_le_zero t
  have := zero_le_highEnd t
  omega

/-- What a clamped result is read as. -/
theorem extend_wrap_clamp (t : Ty) (k : ℤ) :
    let r := extend (tySigned t) (tyBits t) (wrap (tyBits t) (max (lowEnd t) (min (highEnd t) k)))
    toSN (tySigned t) (tyBits t) r = max (lowEnd t) (min (highEnd t) k) ∧ r = extend (tySigned t) (tyBits t) r :=
  extend_wrap (tyBits_bounds t).2 (tyBits_bounds t).1 (inWidth_clamp t k)

theorem extend_zero (t : Ty) : extend (tySigned t) (tyBits t) 0 = 0 := by
  have : InWidth (tySigned t) (tyBits t) 0 := (inWidth_iff t 0).mpr ⟨lowEnd_le_zero t, zero_le_highEnd t⟩
  rw [extend_eq, toSN_of_emod (x := 0) (tyBits_bounds t).1 rfl this]
  rfl

/-- The ends of the range are in it. -/
theorem end_eq_clamp (t : Ty) (n : Bool) :
    (if n then lowEnd t else highEnd t) = max (lowEnd t) (min (highEnd t) (if n then lowEnd t else highEnd t)) := by
  have := lowEnd_le_zero t
  have := zero_le_highEnd t
  split <;> omega

/-! ## Rounding to an integer (R74) -/

theorem mirrored_whole : Mirrored Whole := by
  rintro b v ⟨k, he, rfl⟩
  exact ⟨-k, fun h => by have := he h; omega, by push_cast; rfl⟩

theorem places_whole (h n : ℕ) : Places Whole 0 h n := by
  refine ⟨?_, ⟨n, nofun, by simp⟩, fun he => ⟨n, fun _ => by omega, by simp⟩⟩
  rintro v ⟨k, -, rfl⟩
  have := multiple_gap k h 0
  simpa using this

/-- The number that a magnitude rounds to, with its sign, and whether it is exact. -/
theorem roundAt_whole (rm : Rm) (neg : Bool) (m : ℕ) (e : ℤ) :
    let y : ℚ := (if neg then -1 else 1) * m * 2 ^ e
    let r := roundAt rm neg m e false 0
    RoundsTo rm Whole (y : ℝ) (signed neg r.1 : ℤ) ∧ (r.2 = false ↔ ((signed neg r.1 : ℤ) : ℚ) = y) := by
  intro y r
  obtain ⟨h, rounds, exact⟩ := roundAt_rounds rm neg (q := 0) (st := false) nofun (rfl : (m : ℝ) = m) (e := e)
  have hy : (y : ℝ) = (if neg then -1 else 1) * (m * 2 ^ (e - 0) * 2 ^ (0 : ℤ)) := by
    rw [sub_zero, zpow_zero, mul_one, ← cast_sign]
    push_cast [y]
    ring
  have hu : ((signed neg r.1 : ℤ) : ℚ) = (if neg then -1 else 1) * (r.1 * 2 ^ (0 : ℤ)) := by
    rw [signed_eq, zpow_zero, mul_one]
  constructor
  · rw [hy, hu]
    exact (rounds.roundsTo mirrored_whole (places_whole ..)).of_magnitude mirrored_whole neg
  · refine exact.trans (rounds.eq_iff.symm.trans ?_)
    rw [signed_eq, show y = (if neg then -1 else 1) * (m * 2 ^ e) from mul_assoc .., mul_right_inj' (sign_ne_zero neg), sub_zero, ← Rat.cast_inj (α := ℝ)]
    push_cast
    rfl

theorem roundsTo_zero (rm : Rm) : RoundsTo rm Whole 0 0 := by
  simpa using (roundsNat_natCast rm 0).roundsTo mirrored_whole (places_whole 0 0)

/-! ## Exact values of a source (R143) -/

/-- An exact result is a number all of whose bits are kept. -/
inductive Kept : XV → Bool → ℚ → Prop
  | zero (z : Bool) : Kept (.zero z) z 0
  | num (neg z : Bool) {m : Nat} (e : Int) (hm : m ≠ 0) : Kept (.num neg m e false) z ((if neg then -1 else 1) * m * 2 ^ e)

theorem Kept.denotes {x : XV} {z : Bool} {y : ℚ} (h : Kept x z y) : Denotes x z y := by
  cases h with
  | zero =>
    rw [Rat.cast_zero]
    exact .zero _
  | num neg _ e hm => exact denotes_num neg _ e hm

theorem Stands.kept {v : FVal} {n : Bool} {p : ℚ} (h : Stands v n p) : Kept (xvF v) n p := by
  cases h with
  | zero => exact .zero _
  | num _ e hm => exact .num _ _ e hm

theorem sign_natAbs (k : ℤ) : (if decide (k < 0) = true then -1 else 1 : ℚ) * k.natAbs = k := by
  rw [← signed_eq, signed_natAbs]

theorem kept_xvInt (k : ℤ) : Kept (xvInt k) false k := by
  unfold xvInt
  by_cases h : k = 0
  · rw [if_pos h, h]
    exact_mod_cast Kept.zero false
  · rw [if_neg h]
    have := Kept.num (decide (k < 0)) false 0 (Int.natAbs_ne_zero.mpr h)
    rwa [zpow_zero, mul_one, sign_natAbs] at this

/-- The exact value of a source that is no NaN and no infinity. -/
theorem kept_exactOf (src : Ty) (fx : Nat) (x : DWord) {y : ℚ}
    (h : (if tyFloat src then realOf (fmtOf src) x else if src = .fx then some ((toS 64 x : ℚ) / 2 ^ fx)
      else some (toSN (tySigned src) (tyBits src) x : ℚ)) = some y) :
    Kept (exactOf src fx x) (tyFloat src && negBit (fmtOf src) x) y := by
  unfold exactOf
  cases hs : tyFloat src with
  | true =>
    rw [hs, if_pos rfl] at h
    exact (stands_fval h).kept
  | false =>
    rw [hs, if_neg Bool.false_ne_true] at h
    by_cases hfx : src = .fx
    · rw [if_pos hfx] at h
      obtain rfl := Option.some.inj h
      rw [if_neg Bool.false_ne_true, if_pos hfx, Bool.false_and]
      by_cases h0 : toS 64 x = 0
      · rw [h0]
        simpa [xvInt] using Kept.zero false
      · have := Kept.num (decide (toS 64 x < 0)) false (-fx) (Int.natAbs_ne_zero.mpr h0)
        rw [sign_natAbs, zpow_neg, zpow_natCast, ← div_eq_mul_inv] at this
        simpa [xvInt, h0] using this
    · rw [if_neg hfx] at h
      obtain rfl := Option.some.inj h
      rw [if_neg Bool.false_ne_true, if_neg hfx, Bool.false_and]
      exact kept_xvInt _

/-- Rounding to an integer type, with the flags of R74. -/
theorem roundI_kept (rm : Rm) (t : Ty) (scale : Nat) {x : XV} {z : Bool} {y : ℚ} (h : Kept x z y) :
    ∃ k : ℤ, RoundsTo rm Whole ((y * 2 ^ scale : ℚ) : ℝ) k ∧ roundI rm t scale x =
      (wrap (tyBits t) (max (lowEnd t) (min (highEnd t) k)),
        if k < lowEnd t ∨ highEnd t < k then fIV else if (k : ℚ) ≠ y * 2 ^ scale then fNX else 0) := by
  cases h with
  | zero =>
    refine ⟨0, by simpa using roundsTo_zero rm, ?_⟩
    rw [← clampTo_eq, (clampTo_eq_self t 0).mpr (by have := lowEnd_le_zero t; have := zero_le_highEnd t; omega),
      if_neg (by have := lowEnd_le_zero t; have := zero_le_highEnd t; omega)]
    simp [roundI, wrap]
  | @num neg _ m e hm =>
    obtain ⟨rounds, exact⟩ := roundAt_whole rm neg m (e + scale)
    have place : (if neg then -1 else 1 : ℚ) * m * 2 ^ e * 2 ^ scale = (if neg then -1 else 1) * m * 2 ^ (e + scale) := by
      rw [zpow_add₀ two_ne_zero, zpow_natCast, mul_assoc]
    rw [place]
    refine ⟨_, rounds, ?_⟩
    rw [← clampTo_eq, roundI]
    refine Prod.ext rfl ?_
    by_cases hc : signed neg (roundAt rm neg m (e + scale) false 0).1 < lowEnd t
        ∨ highEnd t < signed neg (roundAt rm neg m (e + scale) false 0).1
    · rw [if_pos hc]
      exact if_neg ((clampTo_eq_self t _).not.mpr (not_not.mpr hc))
    · rw [if_neg hc]
      refine (if_pos ((clampTo_eq_self t _).mpr hc)).trans (if_congr ?_ rfl rfl)
      rw [← Bool.not_eq_false, exact]

end Sys2Proof.Stated

namespace Sys2Proof.Proofs

open Sys2Proof Sys2Proof.Machine Sys2Proof.Stated

section
variable (src dst : Ty) (rm : Rm) (fx : Nat) (x : DWord)

theorem convert_integers (hs : tyInt src = true) (hd : tyInt dst = true) : convert src dst rm fx x =
    (extend (tySigned dst) (tyBits dst)
      (wrap (tyBits dst) (max (lowEnd dst) (min (highEnd dst) (toSN (tySigned src) (tyBits src) x)))), 0) := by
  rw [convert, if_pos (by rw [hs, hd]; rfl), clampTo_eq]

theorem convert_to_float (hd : tyFloat dst = true) : convert src dst rm fx x = roundF rm (fmtOf dst) (exactOf src fx x) := by
  have : tyInt dst = false := by
    revert hd
    cases dst <;> decide
  rw [convert, if_neg (by rw [this]; simp), if_pos hd]

theorem convert_to_whole (hd : tyFloat dst = false) (hi : tyInt src = false ∨ tyInt dst = false) : convert src dst rm fx x =
    (extend (tySigned dst) (tyBits dst) (roundI rm dst (if dst = .fx then fx else 0) (exactOf src fx x)).1,
      (roundI rm dst (if dst = .fx then fx else 0) (exactOf src fx x)).2) := by
  rw [convert, if_neg (by obtain h | h := hi <;> simp [h]), if_neg (by rw [hd]; exact Bool.false_ne_true)]

variable {src x}

theorem exactOf_nan (hs : tyFloat src = true) (h : isNan (fmtOf src) x = true) : exactOf src fx x = .nan (isSig (fmtOf src) x) := by
  rw [exactOf, if_pos hs, fval_of_isNan h]
  rfl

theorem exactOf_inf (hs : tyFloat src = true) (h : isInf (fmtOf src) x = true) : exactOf src fx x = .inf (negBit (fmtOf src) x) false := by
  rw [exactOf, if_pos hs, fval_of_isInf h]
  rfl

end

/-- CVT (R74, R82, R143). -/
theorem conversion_values (src dst : Ty) (rm : Rm) (fx : Nat) (x : DWord) :
    let r := convert src dst rm fx x
    let w := tyBits dst
    let sg := tySigned dst
    let fs := fmtOf src
    let whole (k : Int) : Prop := toSN sg w r.1 = k ∧ r.1 = extend sg w r.1
    let exact : Option ℚ :=
      if tyFloat src then realOf fs x
      else if src = .fx then some ((toS 64 x : ℚ) / 2 ^ fx) else some (toSN (tySigned src) (tyBits src) x : ℚ)
    (tyInt src = true → tyInt dst = true → whole (max (lowEnd dst) (min (highEnd dst) (toSN (tySigned src) (tyBits src) x))) ∧ r.2 = 0)
    ∧ (tyFloat dst = true →
        (∀ y, exact = some y → (y ≠ 0 → Delivers rm (fmtOf dst) (y : ℚ) r)
          ∧ (y = 0 → r = (zeroBits (fmtOf dst) (tyFloat src && negBit fs x), 0)))
        ∧ (tyFloat src = true → (isNan fs x = true → r = (defaultNaN (fmtOf dst), if isSig fs x then fIV else 0))
          ∧ (isInf fs x = true → r = (infBits (fmtOf dst) (negBit fs x), 0))))
    ∧ (tyFloat dst = false → (tyInt src = false ∨ tyInt dst = false) →
        (∀ y : ℚ, exact = some y → ∃ k : Int,
          let z : ℚ := y * 2 ^ (if dst = .fx then fx else 0)
          RoundsTo rm Whole (z : ℚ) k ∧ whole (max (lowEnd dst) (min (highEnd dst) k))
            ∧ r.2 = if k < lowEnd dst ∨ highEnd dst < k then fIV else if (k : ℚ) ≠ z then fNX else 0)
        ∧ (tyFloat src = true → (isNan fs x = true → r = (0, fIV))
          ∧ (isInf fs x = true → whole (if negBit fs x then lowEnd dst else highEnd dst) ∧ r.2 = fIV))) := by
  intro r w sg fs whole exact
  refine ⟨fun hs hd => ?integers, fun hd => ?float, fun hd hi => ?whole⟩
  case integers =>
    have hr : r = _ := convert_integers src dst rm fx x hs hd
    clear_value r
    subst hr
    exact ⟨extend_wrap_clamp dst _, rfl⟩
  case float =>
    have hr : r = _ := convert_to_float src dst rm fx x hd
    rw [hr]
    refine ⟨fun y hy => ?_, fun hs => ⟨fun h => ?_, fun h => ?_⟩⟩
    · have kept := (kept_exactOf src fx x hy).denotes
      exact ⟨fun h => kept.delivers (isFormat_fmtOf dst) rm (Rat.cast_ne_zero.mpr h),
        fun h => kept.roundF_zero _ rm (by rw [h, Rat.cast_zero])⟩
    · rw [exactOf_nan fx hs h]
      rfl
    · rw [exactOf_inf fx hs h]
      rfl
  case whole =>
    have hr : r = _ := convert_to_whole src dst rm fx x hd hi
    clear_value r
    refine ⟨fun y hy => ?_, fun hs => ⟨fun h => ?_, fun h => ?_⟩⟩
    · obtain ⟨k, rounds, val⟩ := roundI_kept rm dst (if dst = .fx then fx else 0) (kept_exactOf src fx x hy)
      rw [val] at hr
      subst hr
      exact ⟨k, rounds, extend_wrap_clamp dst k, rfl⟩
    · rw [hr, exactOf_nan fx hs h, roundI, extend_zero]
    · rw [exactOf_inf fx hs h, roundI, tyRange_eq, end_eq_clamp] at hr
      subst hr
      refine ⟨?_, rfl⟩
      have clamped := extend_wrap_clamp dst (if negBit (fmtOf src) x then lowEnd dst else highEnd dst)
      exact ⟨clamped.1.trans (end_eq_clamp dst _).symm, clamped.2⟩

end Sys2Proof.Proofs
end

section
/-! PROOFS. FRND, FMIN, FMAX, FCMP and FCLS (R147 to R150), and the statement about the conversions. -/

namespace Sys2Proof.Stated

open Sys2Proof Sys2Proof.Machine

/-! ## Bits taken apart (R67) -/

section
variable {f : Fmt}

/-- The exponent and fraction fields, read as one number. -/
def magBits (f : Fmt) (x : DWord) : ℕ := x.toNat % 2 ^ (f.m + f.e)

theorem magBits_lt (f : Fmt) (x : DWord) : magBits f x < 2 ^ (f.m + f.e) := Nat.mod_lt _ (Nat.two_pow_pos _)

theorem expField_eq (f : Fmt) (x : DWord) : expField f x = magBits f x / 2 ^ f.m := by
  rw [expField, magBits, pow_add, Nat.mod_mul_right_div_self]

theorem fracField_eq (f : Fmt) (x : DWord) : fracField f x = magBits f x % 2 ^ f.m := by
  rw [fracField, magBits, pow_add, Nat.mod_mul_right_mod]

/-- Bits are their sign and magnitude. -/
theorem extend_eq_bits (f : Fmt) (x : DWord) :
    extend false (1 + f.m + f.e) x = BitVec.ofNat 64 (signBit f (negBit f x) + magBits f x) := by
  rw [extend, if_neg Bool.false_ne_true, toN, show 1 + f.m + f.e = f.m + f.e + 1 by ring, Nat.mod_pow_succ, negBit,
    BitVec.getLsbD, Nat.testBit_eq_decide_div_mod_eq, magBits, signBit, Nat.add_comm]
  obtain h | h := Nat.mod_two_eq_zero_or_one (x.toNat / 2 ^ (f.m + f.e)) <;> simp [h]

theorem realOf_eq (f : Fmt) (x : DWord) : realOf f x =
    if magBits f x / 2 ^ f.m = 2 ^ f.e - 1 then none else some ((if negBit f x then -1 else 1) * magOf f (magBits f x)) := by
  rw [realOf, expField_eq, fracField_eq]
  rfl

section
variable (hf : IsFormat f) (x : DWord)
include hf

theorem negBit_extend : negBit f (extend false (1 + f.m + f.e) x) = negBit f x := by
  rw [extend_eq_bits]
  exact negBit_bits _ (magBits_lt f x) hf

theorem magBits_extend : magBits f (extend false (1 + f.m + f.e) x) = magBits f x := by
  rw [extend_eq_bits, magBits, toNat_bits _ (magBits_lt f x) hf, signBit]
  cases negBit f x <;> simp [Nat.mod_eq_of_lt (magBits_lt f x)]

theorem fval_extend : fval f (extend false (1 + f.m + f.e) x) = fval f x := by
  simp only [fval_eq, expField_eq, fracField_eq, magBits_extend hf, negBit_extend hf]

theorem realOf_extend : realOf f (extend false (1 + f.m + f.e) x) = realOf f x := by
  simp only [realOf_eq, magBits_extend hf, negBit_extend hf]

theorem isNan_extend : isNan f (extend false (1 + f.m + f.e) x) = isNan f x := by
  simp only [isNan, expField_eq, fracField_eq, magBits_extend hf]

theorem isSig_extend : isSig f (extend false (1 + f.m + f.e) x) = isSig f x := by
  simp only [isSig, isNan_extend hf, fracField_eq, magBits_extend hf]

theorem orderOf_extend : orderOf f (extend false (1 + f.m + f.e) x) = orderOf f x := by
  simp only [orderOf, isNan_extend hf, isInf, expField_eq, fracField_eq, magBits_extend hf, negBit_extend hf, realOf_extend hf]

theorem toNat_extend_lt : (extend false (1 + f.m + f.e) x).toNat < 2 ^ (1 + f.m + f.e) := by
  rw [extend_eq_bits, toNat_bits _ (magBits_lt f x) hf]
  exact signBit_add_lt _ (magBits_lt f x)

end

/-- Numbers of one sign and one value have the same bits. -/
theorem extend_inj_of_real {x y : DWord} {p : ℚ} (hx : realOf f x = some p) (hy : realOf f y = some p)
    (hn : negBit f x = negBit f y) : extend false (1 + f.m + f.e) x = extend false (1 + f.m + f.e) y := by
  have mag {z : DWord} (hz : realOf f z = some p) : (if negBit f z then -1 else 1) * magOf f (magBits f z) = p := by
    rw [realOf_eq] at hz
    exact Option.some.inj ((if_neg fun h => by simp [h] at hz).symm.trans hz)
  have := (mag hx).trans (mag hy).symm
  rw [hn, mul_right_inj' (sign_ne_zero _)] at this
  rw [extend_eq_bits, extend_eq_bits, hn, (magOf_strictMono f).injective this]

theorem realOf_zeroBits (hf : IsFormat f) (n : Bool) : realOf f (zeroBits f n) = some 0 := by
  rw [zeroBits_eq, realOf_bits hf n ((Nat.zero_le _).trans_lt (maxMag_lt hf))]
  simp [magOf]

theorem negBit_zeroBits (hf : IsFormat f) (n : Bool) : negBit f (zeroBits f n) = n := by
  rw [zeroBits_eq]
  exact negBit_bits n (Nat.two_pow_pos _) hf

theorem extend_of_lt {w : ℕ} {x : DWord} (h : x.toNat < 2 ^ w) : extend false w x = x := by
  rw [extend, if_neg Bool.false_ne_true, toN, Nat.mod_eq_of_lt h, BitVec.ofNat_toNat, BitVec.setWidth_eq]

theorem zeroBits_lt (hf : IsFormat f) (n : Bool) : (zeroBits f n).toNat < 2 ^ (1 + f.m + f.e) :=
  roundF_lt hf .rn (x := .zero n) nofun

/-- The zeros of a format. -/
theorem extend_of_zero (hf : IsFormat f) {x : DWord} (hx : realOf f x = some 0) :
    extend false (1 + f.m + f.e) x = zeroBits f (negBit f x) := by
  rw [extend_inj_of_real hx (realOf_zeroBits hf _) (negBit_zeroBits hf _).symm, extend_of_lt (zeroBits_lt hf _)]

end

/-! ## Rounding to an integral value (R150) -/

theorem RoundsTo.eq_of_mem {rm : Rm} {grid : Bool → ℚ → Prop} {y u : ℚ} (h : RoundsTo rm grid (y : ℝ) u) (hy : grid false y) : u = y := by
  obtain ⟨-, h⟩ := h
  cases rm with
  | rn =>
    have := (h y hy).1
    rw [sub_self, abs_zero] at this
    have := abs_eq_zero.mp (le_antisymm this (abs_nonneg _))
    exact_mod_cast (sub_eq_zero.mp this).symm
  | rz =>
    obtain ⟨le, sign, max⟩ := h
    have le' : |u| ≤ |y| := by exact_mod_cast le
    have sign' : 0 ≤ u * y := by exact_mod_cast sign
    have : |u| = |y| := le_antisymm le' (max y hy le_rfl)
    obtain h | h := abs_eq_abs.mp this
    · exact h
    · rw [h] at sign'
      have : y = 0 := by nlinarith
      simp [h, this]
  | ru =>
    obtain ⟨le, min⟩ := h
    exact le_antisymm (min y hy le_rfl) (by exact_mod_cast le)
  | rd =>
    obtain ⟨le, max⟩ := h
    exact le_antisymm (by exact_mod_cast le) (max y hy le_rfl)

/-- A value of a format's grid that is not too great is delivered as it is. -/
theorem Delivers.exact {rm : Rm} {f : Fmt} {y : ℚ} {r : DWord × FFlags} (h : Delivers rm f (y : ℝ) r) (hy : Grid f true false y)
    (hg : |y| ≤ greatest f) : realOf f r.1 = some y ∧ r.2 = 0 ∧ r.1.toNat < 2 ^ (1 + f.m + f.e) ∧ negBit f r.1 = decide (y < 0) := by
  obtain ⟨u, w, n, hu, -, hn, lt, neg, -, val⟩ := h
  obtain rfl := hu.eq_of_mem hy
  obtain ⟨real, exact, -⟩ := val hg
  refine ⟨real, exact rfl, lt, neg.trans ?_⟩
  rw [Bool.eq_iff_iff, hn, decide_eq_true_eq, Rat.cast_lt_zero]

theorem two_pow_le_greatest {f : Fmt} (hf : IsFormat f) : (2 ^ f.m : ℚ) ≤ greatest f := by
  have h1 : (1 : ℚ) ≤ 2 ^ f.m := one_le_pow₀ one_le_two
  have h2 : (1 : ℚ) ≤ 2 ^ (fmtBias f - f.m : ℤ) := one_le_zpow₀ one_le_two (by have := hf.span; omega)
  rw [greatest, pow_succ']
  calc (2 ^ f.m : ℚ) ≤ (2 * 2 ^ f.m - 1) * 1 := by linarith
    _ ≤ _ := mul_le_mul_of_nonneg_left h2 (by linarith)

theorem num_lt {f : Fmt} {x : DWord} {n : Bool} {m : ℕ} {e : ℤ} (h : fval f x = .num n m e) : m < 2 ^ (f.m + 1) := by
  have hfr : fracField f x < 2 ^ f.m := Nat.mod_lt _ (Nat.two_pow_pos _)
  rw [pow_succ']
  rw [fval_eq] at h
  split_ifs at h <;> cases h <;> omega

/-- A magnitude with bits below the ones rounds to an integer of the format. -/
theorem roundAt_le {f : Fmt} {rm : Rm} {n : Bool} {m : ℕ} {e : ℤ} (hm : m < 2 ^ (f.m + 1)) (he : e < 0) :
    (roundAt rm n m e false 0).1 ≤ 2 ^ f.m := by
  obtain ⟨h, rounds, -⟩ := roundAt_rounds rm n (q := 0) (st := false) nofun (rfl : (m : ℝ) = m) (e := e)
  refine rounds.le_of_ge ?_
  have hm' : (m : ℝ) ≤ 2 ^ (f.m + 1) := by exact_mod_cast hm.le
  calc (m : ℝ) * 2 ^ (e - 0) ≤ 2 ^ (f.m + 1) * 2 ^ (-1 : ℤ) :=
        mul_le_mul hm' (zpow_le_zpow_right₀ one_le_two (by omega)) (by positivity) (by positivity)
    _ = ((2 ^ f.m : ℕ) : ℝ) := by
        rw [pow_succ, zpow_neg_one, mul_assoc, mul_inv_cancel₀ two_ne_zero, mul_one]
        push_cast
        rfl

/-- FRND of a number. -/
theorem fRound_real {f : Fmt} (hf : IsFormat f) (rm : Rm) {x : DWord} {p : ℚ} (hp : realOf f x = some p)
    (hx : x.toNat < 2 ^ (1 + f.m + f.e)) :
    ∃ u : ℚ, RoundsTo rm Whole (p : ℝ) u ∧ realOf f (fRound rm f x).1 = some u ∧ negBit f (fRound rm f x).1 = negBit f x
      ∧ (fRound rm f x).1.toNat < 2 ^ (1 + f.m + f.e) ∧ (fRound rm f x).2 = 0 := by
  have stands := stands_fval hp
  unfold fRound
  generalize hv : fval f x = v at stands
  cases stands with
  | zero => exact ⟨0, by simpa using roundsTo_zero rm, hp, rfl, hx, rfl⟩
  | @num _ m e hm =>
    dsimp only
    obtain ⟨rounds, exact⟩ := roundAt_whole rm (negBit f x) m e
    by_cases he : 0 ≤ e
    · rw [if_pos he]
      refine ⟨_, rounds, ?_, rfl, hx, rfl⟩
      rw [hp, exact.mp]
      simp [roundAt, he]
    · rw [if_neg he]
      have le := roundAt_le (rm := rm) (n := negBit f x) (num_lt hv) (not_le.mp he)
      set r := (roundAt rm (negBit f x) m e false 0).1
      by_cases h0 : r = 0
      · rw [if_pos h0]
        refine ⟨_, rounds, ?_, negBit_zeroBits hf _, zeroBits_lt hf _, rfl⟩
        rw [realOf_zeroBits hf, h0]
        cases negBit f x <;> rfl
      · rw [if_neg h0]
        refine ⟨_, rounds, ?_⟩
        have sr : (signed (negBit f x) r : ℚ) = (if negBit f x then -1 else 1) * r := signed_eq ..
        have delivers := roundNum_delivers (e := 0) (st := false) hf rm (negBit f x) h0 (rfl : (r : ℝ) = r) nofun
        have y : (if negBit f x then -1 else 1) * ((r : ℝ) * 2 ^ (0 : ℤ)) = ((signed (negBit f x) r : ℚ) : ℝ) := by
          rw [sr, ← cast_sign]
          push_cast
          ring
        rw [y] at delivers
        have grid : Grid f true false (signed (negBit f x) r) := by
          have := grid_mem hf (low := true) (even := false) (q := 0) (n := r) (fun _ => by
            have := two_pow_exp hf
            rw [leastPlace]
            omega) (le.trans (Nat.pow_le_pow_right two_pos (Nat.le_succ _))) nofun
          rw [sr]
          cases negBit f x
          · simpa using this
          · simpa using mirrored_grid f true _ _ this
        have abs : |(signed (negBit f x) r : ℚ)| ≤ greatest f := by
          rw [sr, abs_signed _ _ (Nat.cast_nonneg r)]
          exact le_trans (by exact_mod_cast le) (two_pow_le_greatest hf)
        obtain ⟨real, -, lt, neg⟩ := delivers.exact grid abs
        refine ⟨by exact_mod_cast real, ?_, lt, rfl⟩
        rw [neg, Bool.eq_iff_iff, decide_eq_true_eq]
        exact_mod_cast (signed_pos (n := negBit f x) h0).2

/-! ## Order (R147, R148) -/

theorem Stands.ltVal {a b : FVal} {na nb : Bool} {p q : ℚ} (ha : Stands a na p) (hb : Stands b nb q) : ltVal a b = decide (p < q) := by
  have sum := ha.add .rn hb.neg
  unfold Machine.ltVal
  rw [← sub_eq_add_neg] at sum
  have neg : ((p - q : ℚ) : ℝ) < 0 ↔ p < q := by rw [Rat.cast_lt_zero, sub_neg]
  generalize addVal .rn a (negVal b) = x at sum
  generalize ((p - q : ℚ) : ℝ) = y at sum neg
  cases sum with
  | zero => simpa using neg.not.mp (lt_irrefl _)
  | num n _ e hm _ ht =>
    have t0 := mul_pos (ht.pos hm) (zpow_pos (two_pos (α := ℝ)) e)
    dsimp only
    rw [Bool.eq_iff_iff, decide_eq_true_eq, ← neg]
    cases n
    · simpa using t0.le
    · simpa using t0

section
variable {f : Fmt} {a b : DWord} {p q : WithBot (WithTop ℚ)}

/-- Bits with a place in the order are an infinity's or a number's. -/
theorem orderOf_cases (h : orderOf f a = some p) : isNan f a = false ∧
    ((isInf f a = true ∧ p = if negBit f a then ⊥ else ((⊤ : WithTop ℚ) : WithBot (WithTop ℚ)))
      ∨ ∃ x : ℚ, realOf f a = some x ∧ p = ((x : WithTop ℚ) : WithBot (WithTop ℚ))) := by
  unfold orderOf at h
  by_cases hn : isNan f a = true
  · rw [if_pos hn] at h
    cases h
  · rw [if_neg hn] at h
    refine ⟨Bool.eq_false_iff.mpr hn, ?_⟩
    by_cases hi : isInf f a = true
    · rw [if_pos hi] at h
      exact .inl ⟨hi, (Option.some.inj h).symm⟩
    · rw [if_neg hi] at h
      obtain ⟨x, hx⟩ := exists_real (Bool.eq_false_iff.mpr hn) (Bool.eq_false_iff.mpr hi)
      rw [hx] at h
      exact .inr ⟨x, hx, (Option.some.inj h).symm⟩

theorem ltVal_of_inf {v w : FVal} {n d : Bool} (h : addVal .rn v (negVal w) = .inf n d) : ltVal v w = n := by
  unfold ltVal
  rw [h]

theorem ltVal_eq (ha : orderOf f a = some p) (hb : orderOf f b = some q) : ltVal (fval f a) (fval f b) = decide (p < q) := by
  have below (x : ℚ) : ((x : WithTop ℚ) : WithBot (WithTop ℚ)) < ((⊤ : WithTop ℚ) : WithBot (WithTop ℚ)) :=
    WithBot.coe_lt_coe.mpr (WithTop.coe_lt_top x)
  have above (x : ℚ) : ⊥ < ((x : WithTop ℚ) : WithBot (WithTop ℚ)) := WithBot.bot_lt_coe _
  obtain ⟨-, ⟨ia, rfl⟩ | ⟨x, ra, rfl⟩⟩ := orderOf_cases ha <;> obtain ⟨-, ⟨ib, rfl⟩ | ⟨y, rb, rfl⟩⟩ := orderOf_cases hb
  case inl.inl =>
    rw [fval_of_isInf ia, fval_of_isInf ib]
    cases negBit f a <;> cases negBit f b <;> simp [ltVal, negVal, addVal]
  case inl.inr =>
    rw [fval_of_isInf ia, ltVal_of_inf ((stands_fval rb).neg.inf_add ..)]
    cases negBit f a
    · exact (decide_eq_false (below y).not_gt).symm
    · exact (decide_eq_true (above y)).symm
  case inr.inl =>
    rw [fval_of_isInf ib, ltVal_of_inf ((stands_fval ra).add_inf ..)]
    cases negBit f b
    · exact (decide_eq_true (below x)).symm
    · exact (decide_eq_false (above x).not_gt).symm
  case inr.inr =>
    rw [(stands_fval ra).ltVal (stands_fval rb)]
    simp

theorem fval_ne_nan (ha : orderOf f a = some p) (s : Bool) : fval f a ≠ .nan s :=
  fun h => by simpa [(orderOf_cases ha).1] using ((fval_eq_nan_iff s).mp h).1

theorem eqVal_eq (ha : orderOf f a = some p) (hb : orderOf f b = some q) : eqVal (fval f a) (fval f b) = decide (p = q) := by
  rw [eqVal, ltVal_eq ha hb, ltVal_eq hb ha, decide_eq_true (fval_ne_nan ha true), Bool.true_and, Bool.eq_iff_iff]
  simp only [Bool.and_eq_true, Bool.not_eq_true', decide_eq_false_iff_not, decide_eq_true_eq, not_lt]
  exact and_comm.trans le_antisymm_iff.symm

/-! ### FMIN and FMAX (R147) -/

theorem fMinMax_zeros {mx m n : Bool} (ha : fval f a = .zero m) (hb : fval f b = .zero n) :
    fMinMax mx f a b = (if m = n then a else zeroBits f (!mx), 0) := by
  simp [fMinMax, ha, hb]

theorem fMinMax_order {mx : Bool} (ha : orderOf f a = some p) (hb : orderOf f b = some q)
    (hz : ¬ (realOf f a = some 0 ∧ realOf f b = some 0)) :
    fMinMax mx f a b = (if p < q then (if mx then b else a) else if q < p then (if mx then a else b) else a, 0) := by
  have zero {x : DWord} {n : Bool} (h : fval f x = .zero n) : realOf f x = some 0 := by rw [← ratOf_fval, h]; rfl
  unfold fMinMax
  dsimp only
  rw [if_neg (by simp [fval_ne_nan ha, fval_ne_nan hb]), if_neg (by simp [fval_ne_nan ha]), if_neg (fval_ne_nan ha _),
    if_neg (fval_ne_nan hb _)]
  split
  case h_1 m n ea eb => exact absurd ⟨zero ea, zero eb⟩ hz
  case h_2 =>
    rw [ltVal_eq ha hb, ltVal_eq hb ha]
    simp only [decide_eq_true_eq]

/-- Of two zeros FMAX gives +0 if either is, FMIN −0. -/
theorem zero_picked (z : Bool → DWord) (mx m n : Bool) : (if m = n then z m else z (!mx)) = z (if mx then m && n else m || n) := by
  cases mx <;> cases m <;> cases n <;> rfl

theorem orderOf_zero {x : DWord} (h : realOf f x = some 0) : orderOf f x = some (((0 : ℚ) : WithTop ℚ) : WithBot (WithTop ℚ)) := by
  rw [orderOf, isNan_of_real h, isInf_of_real h, h]
  rfl

/-- FMIN and FMAX choose by the order, −0 below +0. -/
theorem fMinMax_picks (hf : IsFormat f) (mx : Bool) (ha : orderOf f a = some p) (hb : orderOf f b = some q)
    (la : extend false (1 + f.m + f.e) a = a) (lb : extend false (1 + f.m + f.e) b = b) :
    (fMinMax mx f a b = (a, 0) ∨ fMinMax mx f a b = (b, 0))
    ∧ orderOf f (fMinMax mx f a b).1 = some (if mx then max p q else min p q)
    ∧ (realOf f a = some 0 → realOf f b = some 0 →
        negBit f (fMinMax mx f a b).1 = if mx then negBit f a && negBit f b else negBit f a || negBit f b) := by
  by_cases hz : realOf f a = some 0 ∧ realOf f b = some 0
  · obtain ⟨za, zb⟩ := hz
    have ea := la.symm.trans (extend_of_zero hf za)
    have eb := lb.symm.trans (extend_of_zero hf zb)
    have hp := Option.some.inj (ha.symm.trans (orderOf_zero za))
    have hq := Option.some.inj (hb.symm.trans (orderOf_zero zb))
    rw [fMinMax_zeros (stands_fval za).eq_zero (stands_fval zb).eq_zero, hp, hq, max_self, min_self, ite_self]
    generalize negBit f a = m at *
    generalize negBit f b = n at *
    subst ea eb
    rw [zero_picked]
    refine ⟨?_, orderOf_zero (realOf_zeroBits hf _), fun _ _ => negBit_zeroBits hf _⟩
    cases mx <;> cases m <;> cases n <;> simp
  · rw [fMinMax_order ha hb hz]
    refine ⟨?_, ?_, fun za zb => absurd ⟨za, zb⟩ hz⟩
    · cases mx <;> split_ifs <;> simp
    · obtain h | h | h := lt_trichotomy p q
      · rw [if_pos h, max_eq_right h.le, min_eq_left h.le]
        cases mx <;> assumption
      · rw [if_neg h.not_lt, if_neg h.not_gt, h, max_self, min_self, ite_self, ha, h]
      · rw [if_neg h.not_gt, if_pos h, max_eq_left h.le, min_eq_right h.le]
        cases mx <;> assumption

/-- FMIN and FMAX of NaNs (R147). -/
theorem fMinMax_nan (mx : Bool) :
    (isSig f a = true ∨ isSig f b = true → fMinMax mx f a b = (defaultNaN f, fIV))
    ∧ (isSig f a = false → isSig f b = false → (isNan f a || isNan f b) = true → fMinMax mx f a b =
        if isNan f a = true ∧ isNan f b = true then (defaultNaN f, 0) else if isNan f a then (b, 0) else (a, 0)) := by
  have nan (x : DWord) (s : Bool) : fval f x = .nan s ↔ isNan f x = true ∧ isSig f x = s := fval_eq_nan_iff s
  have sig (x : DWord) : isNan f x = true ∧ isSig f x = true ↔ isSig f x = true := and_iff_right_of_imp isNan_of_isSig
  unfold fMinMax
  dsimp only
  constructor
  · intro h
    rw [if_pos (by simpa [nan, sig] using h)]
  · intro ha hb h
    rw [if_neg (by simp [nan, ha, hb])]
    cases na : isNan f a <;> cases nb : isNan f b
    · simp [na, nb] at h
    · simp [nan, na, nb, hb]
    · simp [nan, na, nb, ha]
    · simp [nan, na, nb, ha, hb]

/-! ### FCMP and FCLS (R148, R149) -/

/-- The relation that FN names between two places of the order (R148). -/
def Relates (fn : ℕ) (p q : WithBot (WithTop ℚ)) : Prop :=
  match fn with
  | 0 => p = q
  | 1 => p ≠ q
  | 2 => p < q
  | 3 => p ≤ q
  | 4 => q < p
  | 5 => q ≤ p
  | 6 => False
  | _ => True

theorem fCompare_order (ha : orderOf f a = some p) (hb : orderOf f b = some q) {fn : ℕ} (hfn : fn < 8) :
    (fCompare fn (fval f a) (fval f b)).2 = 0 ∧ ((fCompare fn (fval f a) (fval f b)).1 = true ↔ Relates fn p q) := by
  unfold fCompare
  simp only [fval_ne_nan ha, fval_ne_nan hb, ltVal_eq ha hb, ltVal_eq hb ha, eqVal_eq ha hb]
  have ge : q ≤ p ↔ q < p ∨ p = q := by rw [le_iff_lt_or_eq, eq_comm (a := q)]
  interval_cases fn <;> simp [Relates, ge, le_iff_lt_or_eq (a := p)]

theorem decide_fval_nan (f : Fmt) (x : DWord) : decide (fval f x = .nan true) = isSig f x
    ∧ (isSig f x || decide (fval f x = .nan false)) = isNan f x := by
  refine ⟨?_, ?_⟩ <;> simp only [fval_eq_nan_iff] <;> cases hs : isSig f x
  · simp
  · simp [isNan_of_isSig hs]
  · simp
  · simp [isNan_of_isSig hs]

theorem fCompare_nan (h : (isNan f a || isNan f b) = true) {fn : ℕ} (hfn : fn < 8) :
    fCompare fn (fval f a) (fval f b) = (decide (fn = 1 ∨ fn = 6),
      if (2 ≤ fn ∧ fn ≤ 5) ∨ isSig f a = true ∨ isSig f b = true then fIV else 0) := by
  unfold fCompare
  simp only [decide_fval_nan, h, Bool.or_eq_true]
  interval_cases fn <;> simp

theorem realOf_eq_zero_iff : realOf f a = some 0 ↔ ∃ n, fval f a = .zero n := by
  refine ⟨fun h => ⟨_, (stands_fval h).eq_zero⟩, fun ⟨n, h⟩ => ?_⟩
  rw [← ratOf_fval, h]
  rfl

/-- A number's class by its sign, and whether it is zero, subnormal or normal. -/
theorem fClass_real {x : ℚ} (h : realOf f a = some x) : fClass f a = if realOf f a = some 0 then (if negBit f a then 5 else 6)
    else if expField f a = 0 then (if negBit f a then 4 else 7) else if negBit f a then 3 else 8 := by
  have he := expField_of_real h
  have hfr : fracField f a < 2 ^ f.m := Nat.mod_lt _ (Nat.two_pow_pos _)
  simp only [realOf_eq_zero_iff, fClass, fval_eq, if_neg he]
  by_cases h0 : expField f a = 0
  · by_cases hz : fracField f a = 0
    · cases negBit f a <;> simp [h0, hz]
    · cases negBit f a <;> simp [h0, hz, hfr]
  · cases negBit f a <;> simp [h0]

theorem fClass_eq (f : Fmt) (a : DWord) : fClass f a = (if isSig f a then 0 else if isNan f a then 1
    else if isInf f a then (if negBit f a then 2 else 9) else if realOf f a = some 0 then (if negBit f a then 5 else 6)
    else if expField f a = 0 then (if negBit f a then 4 else 7) else if negBit f a then 3 else 8) := by
  obtain h | h | ⟨p, h⟩ := nan_inf_or_real f a
  · rw [fClass, fval_of_isNan h, h]
    cases isSig f a <;> rfl
  · have hn := isNan_of_isInf h
    have hs : isSig f a = false := Bool.eq_false_iff.mpr fun c => by simpa [hn] using isNan_of_isSig c
    rw [fClass, fval_of_isInf h, hs, hn, h]
    cases negBit f a <;> rfl
  · rw [fClass_real h, isSig_of_real h, isNan_of_real h, isInf_of_real h]
    rfl

end

end Sys2Proof.Stated

namespace Sys2Proof.Proofs

open Sys2Proof Sys2Proof.Machine Sys2Proof.Stated

theorem tyBits_float {t : Ty} (h : t ∈ [Ty.bf16, .f16, .f32, .f64]) : tyBits t = 1 + (fmtOf t).m + (fmtOf t).e := by
  revert t
  decide

/-- Settles O24: conversions round an exact value once, and the others are about decoded values, which hold the bits of the type only. -/
theorem conversionValues : Obligations.ConversionValues := by
  unfold Obligations.ConversionValues
  refine ⟨fun src dst _ _ _ rm fx x _ => conversion_values src dst rm fx x, fun t ht rm a b c => ?_⟩
  intro f low rnd pick cmp un
  have hf := isFormat_fmtOf t
  have hb := tyBits_float ht
  have hlow (x : DWord) : low x = extend false (1 + f.m + f.e) x := congrArg (extend false · x) hb
  have hrnd : rnd = fRound rm f (low a) := rfl
  have hpick (mx : Bool) : pick mx = fMinMax mx f (low a) (low b) := rfl
  have hv (x : DWord) : fval f (low x) = fval f x := by rw [hlow, fval_extend hf]
  refine ⟨fun x hx => ?round, fun hi => ?roundInf, fun hn => ?roundNan, fun mx => ?minmax, fun p q hp hq fn => fCompare_order hp hq,
    fun hu fn => fCompare_nan hu, fClass_eq f a⟩
  case round =>
    have hx' : realOf f (low a) = some x := by rw [hlow, realOf_extend hf, hx]
    obtain ⟨u, rounds, real, neg, lt, flags⟩ := fRound_real hf rm hx' (by rw [hlow]; exact toNat_extend_lt hf a)
    refine ⟨u, rounds, real, neg.trans ?_, ?_, flags⟩
    · rw [hlow, negBit_extend hf]
    · rw [hb]
      exact lt
  case roundInf =>
    rw [hrnd, fRound, hv, fval_of_isInf hi]
  case roundNan =>
    rw [hrnd, fRound, hv, fval_of_isNan hn]
  case minmax =>
    have again (x : DWord) : extend false (1 + f.m + f.e) (low x) = low x := by rw [hlow, extend_of_lt (toNat_extend_lt hf x)]
    rw [hpick]
    refine ⟨fun p q hp hq => ?_, ?_⟩
    · have hp' : orderOf f (low a) = some p := by rw [hlow, orderOf_extend hf, hp]
      have hq' : orderOf f (low b) = some q := by rw [hlow, orderOf_extend hf, hq]
      have picks := fMinMax_picks hf mx hp' hq' (again a) (again b)
      rwa [hlow a, hlow b, realOf_extend hf, realOf_extend hf, negBit_extend hf, negBit_extend hf, ← hlow, ← hlow] at picks
    · have nans := fMinMax_nan (f := f) (a := low a) (b := low b) mx
      rwa [hlow a, hlow b, isSig_extend hf, isSig_extend hf, isNan_extend hf, isNan_extend hf, ← hlow, ← hlow] at nans

end Sys2Proof.Proofs
end

section
/-! PROOFS. Results within a bound of a reference value (R151): numbers with 320 bits of fraction, and FP32 values near them. -/

namespace Sys2Proof.Stated

open Sys2Proof Sys2Proof.Machine

/-! ## Numbers of a format -/

section
variable {f : Fmt} {x : DWord}

/-- The magnitude of a number's bits lies below that of an infinity. -/
theorem magBits_of_real {p : ℚ} (h : realOf f x = some p) :
    magBits f x < (2 ^ f.e - 1) * 2 ^ f.m ∧ p = (if negBit f x then -1 else 1) * magOf f (magBits f x) := by
  have hne : magBits f x / 2 ^ f.m ≠ 2 ^ f.e - 1 := expField_eq f x ▸ expField_of_real h
  have hlt : magBits f x / 2 ^ f.m < 2 ^ f.e := Nat.div_lt_of_lt_mul (by rw [← pow_add]; exact magBits_lt f x)
  rw [realOf_eq, if_neg hne] at h
  refine ⟨?_, (Option.some.inj h).symm⟩
  rw [← Nat.div_lt_iff_lt_mul (Nat.two_pow_pos _)]
  omega

/-- Numbers of a format are values of its grid, none above the greatest. -/
theorem grid_of_real (hf : IsFormat f) {p : ℚ} (h : realOf f x = some p) : Grid f true false p ∧ |p| ≤ greatest f := by
  obtain ⟨lt, rfl⟩ := magBits_of_real h
  have nonneg : 0 ≤ magOf f (magBits f x) := by unfold magOf; split <;> positivity
  rw [abs_signed _ _ nonneg, ← magOf_max hf]
  refine ⟨?_, (magOf_strictMono f).monotone (by omega)⟩
  obtain ⟨d, k, hn, hd, hk⟩ := exists_place f (magBits f x)
  rw [hn, magOf_place hd hk.le]
  have mem := grid_mem hf (low := true) (even := false) (q := leastPlace f + d) (fun _ => by omega) hk.le nofun
  cases negBit f x
  · simpa using mem
  · simpa using mirrored_grid f true _ _ mem

/-- The exponent of a decoded number. -/
theorem num_exp_bounds (hf : IsFormat f) {n : Bool} {m : ℕ} {e : ℤ} (h : fval f x = .num n m e) :
    leastPlace f ≤ e ∧ e ≤ fmtBias f - f.m := by
  obtain ⟨he, hb⟩ := two_pow_exp hf
  have hlt : expField f x < 2 ^ f.e := Nat.mod_lt _ (Nat.two_pow_pos _)
  rw [fval_eq] at h
  unfold leastPlace
  split_ifs at h with h1 h2 <;> cases h <;> omega

end

/-! ## Numbers with 320 bits of fraction -/

theorem fxOf_eq (n : Bool) (m : ℕ) {e : ℤ} (he : -320 ≤ e) : (fxOf n m e : ℚ) / 2 ^ 320 = (if n then -1 else 1) * m * 2 ^ e := by
  have := signed_shifted (d := -320) he n m
  rw [sub_neg_eq_add] at this
  rw [fxOf, ← this, zpow_neg, div_eq_mul_inv]
  norm_cast

/-- What a result stands for: its number, or ±2 ^ 128 for an infinity. -/
def ValueIs (x : DWord) (v : ℚ) : Prop :=
  realOf (fmtOf .f32) x = some v
    ∨ (isInf (fmtOf .f32) x = true ∧ v = if negBit (fmtOf .f32) x then -(2 ^ 128) else 2 ^ 128)

theorem leastPlace_f32 : leastPlace (fmtOf .f32) = -149 := by decide

theorem valueIs_fxVal {x : DWord} {v : ℤ} (h : fxVal x = some v) : ValueIs x (v / 2 ^ 320) := by
  have hf := isFormat_fmtOf .f32
  unfold fxVal at h
  obtain hn | hi | ⟨p, hp⟩ := nan_inf_or_real (fmtOf .f32) x
  · rw [fval_of_isNan hn] at h
    cases h
  · rw [fval_of_isInf hi] at h
    refine .inr ⟨hi, ?_⟩
    rw [← Option.some.inj h, fxOf_eq _ _ (by norm_num)]
    cases negBit (fmtOf .f32) x <;> norm_num
  · refine .inl ?_
    rw [← ratOf_fval]
    have stands := stands_fval hp
    generalize hv : fval (fmtOf .f32) x = w at h stands
    cases stands with
    | zero =>
      rw [← Option.some.inj h]
      simp [ratOf]
    | @num _ m e hm =>
      have := (num_exp_bounds hf hv).1
      rw [leastPlace_f32] at this
      rw [← Option.some.inj h, fxOf_eq _ _ (by omega)]
      rfl

/-! ## The nearest FP32 value -/

/-- A number that is truncated rounds to within half a place of what was kept, too. -/
theorem roundAt_near {neg : Bool} {m : ℕ} {e q : ℤ} (hq : e < q) :
    |((roundAt .rn neg m e true q).1 : ℝ) - m * 2 ^ (e - q)| ≤ 1 / 2 := by
  set c : ℝ := 2 ^ (e - q)
  have c0 : 0 < c := by positivity
  set n := (roundAt .rn neg m e true q).1
  have near {ε : ℝ} (h0 : 0 < ε) (h1 : ε < 1) : |(n : ℝ) - m * c| ≤ 1 / 2 + ε * c := by
    obtain ⟨h, r, -⟩ := roundAt_rounds .rn neg (st := true) (t := m + ε) (fun _ => hq) ⟨by linarith, by linarith⟩
    have : |(n : ℝ) - (m + ε) * c| ≤ 1 / 2 := by
      have lo := r.le
      have hi := r.lt
      rw [abs_le]
      obtain ⟨hn, near, -⟩ | ⟨hn, near, -⟩ := r.pick
      · have : (n : ℝ) = h := by exact_mod_cast hn
        constructor <;> linarith
      · have : (n : ℝ) = h + 1 := by exact_mod_cast hn
        constructor <;> linarith
    rw [abs_le] at this ⊢
    have := mul_pos h0 c0
    constructor <;> nlinarith
  by_contra! h
  set d := |(n : ℝ) - m * c| - 1 / 2 with hd
  have d0 : 0 < d := sub_pos.mpr h
  have := near (ε := min (1 / 2) (d / (2 * c))) (by positivity) ((min_le_left ..).trans_lt (by norm_num))
  have : min (1 / 2) (d / (2 * c)) * c ≤ d / 2 := calc
    _ ≤ d / (2 * c) * c := mul_le_mul_of_nonneg_right (min_le_right ..) c0.le
    _ = d / 2 := by field_simp
  linarith

/-- The spacing of FP32 values at a magnitude is a place of the format. -/
theorem fxUlp_eq {y : ℤ} : (2 : ℚ) ^ placeOf (fmtOf .f32) true y.natAbs (-320) * 2 ^ 320 = fxUlp y := by
  have : placeOf (fmtOf .f32) true y.natAbs (-320) + 320 = (max (Nat.log2 y.natAbs - 23) 171 : ℕ) := by
    rw [placeOf, if_pos rfl, leastPlace_f32, topOf, show ((fmtOf .f32).m : ℤ) = 23 from rfl]
    omega
  rw [fxUlp, ← zpow_natCast (2 : ℚ) 320, ← zpow_add₀ two_ne_zero, show ((320 : ℕ) : ℤ) = 320 from rfl, this, zpow_natCast]
  push_cast
  rfl

/-- The rounded reference stands for a value within half a place; one that is rounded past the greatest finite value, for 2 ^ 128. -/
theorem roundNum_near {y : ℤ} (h0 : y ≠ 0) (hy : y.natAbs < 2 ^ 448) :
    ∃ v, ValueIs (roundNum .rn (fmtOf .f32) (decide (y < 0)) y.natAbs (-320) true).1 v ∧ |v - (y : ℚ) / 2 ^ 320| ≤ (fxUlp y : ℚ) / 2 ^ 320 / 2 := by
  have hf := isFormat_fmtOf .f32
  have hm : y.natAbs ≠ 0 := Int.natAbs_ne_zero.mpr h0
  have ht : Truncated y.natAbs true (y.natAbs + 1 / 2) := ⟨by linarith, by linarith⟩
  set neg := decide (y < 0) with hneg
  set q := placeOf (fmtOf .f32) true y.natAbs (-320) with hq
  have deep : -320 < q := lt_of_lt_of_le (by rw [leastPlace_f32]; norm_num) (le_max_right ..)
  have q0 : (0 : ℚ) < 2 ^ q := by positivity
  obtain ⟨overflows, fits⟩ := roundNum_cases (e := -320) hf .rn neg hm ht fun _ => deep
  rw [← hq] at overflows fits
  have near := roundAt_near (neg := neg) (m := y.natAbs) deep
  set n := (roundAt .rn neg y.natAbs (-320) true q).1
  refine ⟨(if neg then -1 else 1) * (n * 2 ^ q), ?_, ?_⟩
  · obtain h | h := le_or_gt (2 ^ (fmtBias (fmtOf .f32) + 1 : ℤ)) ((n : ℚ) * 2 ^ q)
    · have top : topOf y.natAbs (-320) < 128 := by
        have := (Nat.log2_lt hm).mpr hy
        rw [topOf]
        omega
      have hq128 : q ≤ 128 := max_le (by have : ((fmtOf .f32).m : ℤ) = 23 := rfl; omega) (by rw [leastPlace_f32]; norm_num)
      have le : (n : ℚ) * 2 ^ q ≤ 2 ^ (128 : ℤ) := by
        obtain ⟨h, r, -⟩ := roundAt_rounds .rn neg (fun _ => deep) ht
        have places : n ≤ 2 ^ (128 - q).toNat := by
          refine r.le_of_ge ?_
          have hyR : (y.natAbs : ℝ) + 1 / 2 ≤ 2 ^ (448 : ℤ) := by
            have : (y.natAbs : ℝ) + 1 ≤ 2 ^ (448 : ℤ) := by exact_mod_cast hy
            linarith
          push_cast
          rw [← zpow_natCast, Int.toNat_of_nonneg (by omega), show (128 - q : ℤ) = 448 + (-320 - q) by ring, zpow_add₀ two_ne_zero]
          exact mul_le_mul_of_nonneg_right hyR (by positivity)
        have split : (2 : ℚ) ^ (128 : ℤ) = (2 ^ (128 - q).toNat : ℕ) * 2 ^ q := by
          rw [Nat.cast_pow, Nat.cast_ofNat, ← zpow_natCast, Int.toNat_of_nonneg (by omega), ← zpow_add₀ two_ne_zero, sub_add_cancel]
        rw [split]
        exact mul_le_mul_of_nonneg_right (by exact_mod_cast places) q0.le
      have eq : (n : ℚ) * 2 ^ q = 2 ^ (128 : ℤ) := le_antisymm le h
      refine .inr ?_
      rw [overflows h, overflowBits, eq]
      refine ⟨isInf_infBits hf neg, ?_⟩
      rw [infBits, negBit_bits neg (infMag_lt _) hf]
      cases neg <;> norm_num
    · obtain ⟨k, lt, mag, eq⟩ := fits h
      refine .inl ?_
      rw [eq, realOf_bits hf neg lt, mag]
  · have near' : |(n : ℚ) - y.natAbs * 2 ^ (-320 - q)| ≤ 1 / 2 := by
      refine Rat.cast_le (K := ℝ) |>.mp ?_
      push_cast
      exact near
    have hy : (y : ℚ) / 2 ^ 320 = (if neg then -1 else 1) * (y.natAbs * 2 ^ (-320 - q) * 2 ^ q) := by
      rw [mul_assoc, ← zpow_add₀ two_ne_zero, sub_add_cancel, ← mul_assoc, sign_natAbs, zpow_neg, div_eq_mul_inv]
      norm_cast
    rw [hy, ← mul_sub, ← sub_mul, abs_mul, abs_mul, abs_of_pos q0, ← fxUlp_eq, ← hq, mul_div_cancel_right₀ _ (by positivity)]
    have : |(if neg then -1 else 1 : ℚ)| = 1 := by cases neg <;> simp
    rw [this, one_mul, mul_comm, div_eq_mul_one_div]
    exact mul_le_mul_of_nonneg_left near' q0.le

/-! ## A result within its bound (R151) -/


/-- The flags of an inexact approximation, from its bits. -/
theorem approxFlags_eq {f : Fmt} (hf : IsFormat f) (x : DWord) : approxFlags f x =
    if isInf f x then fNX ||| fOF else if expField f x = 0 then fNX ||| fUF else fNX := by
  have exp : 2 ≤ 2 ^ f.e - 1 := by
    have := Nat.pow_le_pow_right two_pos hf.exp
    omega
  unfold approxFlags
  obtain hn | hi | ⟨p, hp⟩ := nan_inf_or_real f x
  · have he := (isNan_iff.mp hn).1
    rw [fval_of_isNan hn, if_neg (by simp [isInf_of_isNan hn]), if_neg (by omega)]
  · rw [fval_of_isInf hi, if_pos hi]
  · have hfr : fracField f x < 2 ^ f.m := Nat.mod_lt _ (Nat.two_pow_pos _)
    rw [if_neg (by simp [isInf_of_real hp]), fval_eq, if_neg (expField_of_real hp)]
    by_cases he : expField f x = 0
    · rw [if_pos he, if_pos he]
      by_cases h0 : fracField f x = 0
      · rw [if_pos h0]
      · rw [if_neg h0]
        exact if_pos hfr
    · rw [if_neg he, if_neg he]
      exact if_neg (by omega)

theorem realOf_f32_zero : realOf (fmtOf .f32) 0 = some 0 := realOf_zeroBits (isFormat_fmtOf .f32) false

/-- The result of `within` for an exact result `y`. -/
theorem within_cases (free : BitVec 32) (y bound : ℤ) :
    (∃ v, fxVal (free.setWidth 64) = some v ∧ (v - y).natAbs ≤ bound.natAbs ∧ (within free y bound).1 = free.setWidth 64)
    ∨ (within free y bound).1 = if y = 0 then 0 else (roundNum .rn (fmtOf .f32) (decide (y < 0)) y.natAbs (-320) true).1 := by
  unfold within
  cases hv : fxVal (free.setWidth 64) with
  | none => exact .inr rfl
  | some v =>
    by_cases h : (v - y).natAbs ≤ bound.natAbs
    · refine .inl ⟨v, rfl, h, ?_⟩
      simp [h]
    · refine .inr ?_
      simp [h]

/-- What `within` gives stands for a value within the bound. -/
theorem within_value (free : BitVec 32) {y bound : ℤ} (hb : 0 ≤ bound) (hu : fxUlp y ≤ 2 * bound) (hy : y.natAbs < 2 ^ 448) :
    ∃ v, ValueIs (within free y bound).1 v ∧ |v - (y : ℚ) / 2 ^ 320| ≤ (bound : ℚ) / 2 ^ 320 := by
  have c0 : (0 : ℚ) < 2 ^ 320 := by positivity
  obtain ⟨v, hv, near, eq⟩ | eq := within_cases free y bound
  · refine ⟨v / 2 ^ 320, eq ▸ valueIs_fxVal hv, ?_⟩
    rw [← sub_div, abs_div, abs_of_pos c0]
    have : |v - y| ≤ bound := by
      rw [Int.abs_eq_natAbs]
      omega
    exact div_le_div_of_nonneg_right (by exact_mod_cast this) c0.le
  · rw [eq]
    by_cases h0 : y = 0
    · rw [if_pos h0, h0]
      refine ⟨0, .inl realOf_f32_zero, ?_⟩
      rw [Int.cast_zero, zero_div, sub_zero, abs_zero]
      exact div_nonneg (by exact_mod_cast hb) c0.le
    · rw [if_neg h0]
      obtain ⟨v, hv, near⟩ := roundNum_near h0 hy
      refine ⟨v, hv, near.trans ?_⟩
      have : (fxUlp y : ℚ) ≤ 2 * bound := by exact_mod_cast hu
      rw [div_div, mul_comm, ← div_div]
      exact div_le_div_of_nonneg_right (by linarith) c0.le

end Sys2Proof.Stated
end

section
/-! PROOFS. The approximated functions in FP32 (R151), function by function, from the decoded operand. -/

namespace Sys2Proof.Stated

open Sys2Proof Sys2Proof.Machine

/-! ## Results near a reference -/

/-- A result within `bound` of the reference `y`, with the flags of an inexact result (R151). -/
def NearTo (r : DWord × FFlags) (y : ℤ) (bound : ℚ) : Prop :=
  ∃ v, ValueIs r.1 v ∧ |v - (y : ℚ) / 2 ^ 320| ≤ bound
    ∧ r.2 = if isInf (fmtOf .f32) r.1 then fNX ||| fOF else if expField (fmtOf .f32) r.1 = 0 then fNX ||| fUF else fNX

theorem within_near (free : BitVec 32) {y bound : ℤ} (hu : fxUlp y ≤ 2 * bound) (hy : y.natAbs < 2 ^ 448) :
    NearTo (within free y bound) y ((bound : ℚ) / 2 ^ 320) := by
  have hb : 0 ≤ fxUlp y := by unfold fxUlp; positivity
  obtain ⟨v, value, near⟩ := within_value free (by omega) hu hy
  exact ⟨v, value, near, approxFlags_eq (isFormat_fmtOf .f32) _⟩

/-- Within two units in the last place. -/
theorem within_two_ulp (free : BitVec 32) {y : ℤ} (hy : y.natAbs < 2 ^ 448) :
    NearTo (within free y (2 * fxUlp y)) y (2 * ((fxUlp y : ℚ) / 2 ^ 320)) := by
  have hb : 0 ≤ fxUlp y := by unfold fxUlp; positivity
  have := within_near free (bound := 2 * fxUlp y) (by omega) hy
  rwa [Int.cast_mul, Int.cast_ofNat, mul_div_assoc] at this

/-! ## Powers of two -/

/-- A power of two in a format's range is delivered as it is. -/
theorem Delivers.exact_two_pow {f : Fmt} (hf : IsFormat f) {rm : Rm} {q : ℤ} {r : DWord × FFlags} (h : Delivers rm f ((2 ^ q : ℚ) : ℝ) r)
    (lo : leastPlace f ≤ q) (hi : q ≤ fmtBias f) : realOf f r.1 = some (2 ^ q) ∧ r.2 = 0 := by
  have grid : Grid f true false (2 ^ q) := by
    have := grid_mem hf (low := true) (even := false) (n := 1) (fun _ => lo) Nat.one_le_two_pow nofun
    rwa [Nat.cast_one, one_mul] at this
  have le : |(2 : ℚ) ^ q| ≤ greatest f := by
    rw [abs_of_pos (by positivity)]
    have one : (1 : ℚ) ≤ 2 ^ f.m := one_le_pow₀ one_le_two
    calc (2 : ℚ) ^ q ≤ 2 ^ (fmtBias f : ℤ) := zpow_le_zpow_right₀ one_le_two hi
      _ = 2 ^ f.m * 2 ^ (fmtBias f - f.m : ℤ) := by rw [← zpow_natCast 2 f.m, ← zpow_add₀ two_ne_zero, add_sub_cancel]
      _ ≤ greatest f := mul_le_mul_of_nonneg_right (by rw [pow_succ]; linarith) (by positivity)
  obtain ⟨real, flags, -⟩ := h.exact grid le
  exact ⟨real, flags⟩

/-- The one rounding of a power of two, written with any exponent. -/
theorem roundNum_two_pow {f : Fmt} (hf : IsFormat f) {m : ℕ} {e q : ℤ} (h : (m : ℚ) * 2 ^ e = 2 ^ q) (lo : leastPlace f ≤ q)
    (hi : q ≤ fmtBias f) : realOf f (roundNum .rn f false m e false).1 = some (2 ^ q) ∧ (roundNum .rn f false m e false).2 = 0 := by
  have hm : m ≠ 0 := by
    rintro rfl
    rw [Nat.cast_zero, zero_mul] at h
    exact absurd h.symm (by positivity)
  have delivers := roundNum_delivers (e := e) (st := false) hf .rn false hm (rfl : (m : ℝ) = m) nofun
  rw [if_neg Bool.false_ne_true, one_mul, ← cast_mul_two_zpow, h] at delivers
  exact delivers.exact_two_pow hf lo hi

/-- Where a power of two is a format's number, its exponent is in the format's range. -/
theorem two_pow_bounds {f : Fmt} (hf : IsFormat f) {x : DWord} {q : ℤ} (h : realOf f x = some (2 ^ q)) :
    leastPlace f ≤ q ∧ q ≤ fmtBias f := by
  obtain ⟨⟨k, p, -, low, -, eq⟩, le⟩ := grid_of_real hf h
  constructor
  · have k0 : 1 ≤ k := by
      by_contra! hk
      have : (k : ℚ) * 2 ^ p ≤ 0 := mul_nonpos_of_nonpos_of_nonneg (by exact_mod_cast Int.lt_add_one_iff.mp hk) (by positivity)
      rw [← eq] at this
      exact absurd this (not_le.mpr (by positivity))
    have : (2 : ℚ) ^ p ≤ 2 ^ q := by
      rw [eq]
      exact le_mul_of_one_le_left (by positivity) (by exact_mod_cast k0)
    exact (low rfl).trans ((zpow_le_zpow_iff_right₀ one_lt_two).mp this)
  · rw [abs_of_pos (by positivity), ← magOf_max hf] at le
    have := le.trans_lt (magOf_strictMono f (maxMag_lt hf))
    rw [magOf_inf hf, zpow_lt_zpow_iff_right₀ one_lt_two] at this
    omega

/-- A whole number that is a power of two. -/
theorem exists_two_pow {k : ℕ} {q : ℤ} (h : (k : ℚ) = 2 ^ q) : ∃ u : ℕ, q = u ∧ k = 2 ^ u := by
  have : 0 ≤ q := by
    by_contra! hq
    have lt : (k : ℚ) < 1 := h ▸ zpow_lt_one_of_neg₀ one_lt_two hq
    have k0 : k = 0 := Nat.lt_one_iff.mp (by exact_mod_cast lt)
    rw [k0, Nat.cast_zero] at h
    exact absurd h.symm (by positivity)
  obtain ⟨u, rfl⟩ := Int.eq_ofNat_of_zero_le this
  exact ⟨u, rfl, by exact_mod_cast h⟩

/-- The one rounding of an integer with few enough bits. -/
theorem roundF_int {f : Fmt} (hf : IsFormat f) {k : ℤ} (hk : k.natAbs ≤ 2 ^ f.m) :
    realOf f (roundF .rn f (xvInt k)).1 = some (k : ℚ) ∧ (roundF .rn f (xvInt k)).2 = 0 := by
  have denotes := (kept_xvInt k).denotes
  by_cases h0 : k = 0
  · rw [denotes.roundF_zero f .rn (by rw [h0]; norm_num), h0]
    exact ⟨by exact_mod_cast realOf_zeroBits hf false, rfl⟩
  · have least : leastPlace f ≤ 0 := by
      have := (two_pow_exp hf).2
      rw [leastPlace]
      omega
    have abs : |(k : ℚ)| = k.natAbs := by rw [← Int.cast_abs, Int.abs_eq_natAbs, Int.cast_natCast]
    have grid : Grid f true false k := by
      have hk' : |k| < 2 ^ (f.m + 1) := by
        have : k.natAbs < 2 ^ (f.m + 1) := hk.trans_lt (Nat.pow_lt_pow_right one_lt_two (Nat.lt_succ_self _))
        rw [Int.abs_eq_natAbs]
        exact_mod_cast this
      exact ⟨k, 0, hk', fun _ => least, nofun, by rw [zpow_zero, mul_one]⟩
    have le : |(k : ℚ)| ≤ greatest f := by
      rw [abs]
      exact le_trans (by exact_mod_cast hk) (two_pow_le_greatest hf)
    obtain ⟨real, flags, -⟩ := (denotes.delivers hf .rn (by exact_mod_cast h0)).exact grid le
    exact ⟨real, flags⟩

/-! ## The operand (R70) -/

/-- An operand that decodes to a number is that number. -/
theorem real_of_num {f : Fmt} {x : DWord} {n : Bool} {m : ℕ} {e : ℤ} (h : fval f x = .num n m e) :
    realOf f x = some ((if n then -1 else 1) * (m : ℚ) * 2 ^ e) := by
  rw [← ratOf_fval, h]
  rfl

theorem Stands.sign {v : FVal} {n : Bool} {p : ℚ} (h : Stands v n p) (hp : p ≠ 0) : n = decide (p < 0) := by
  cases h with
  | zero => exact absurd rfl hp
  | @num _ m e hm =>
    have pos : (0 : ℚ) < m * 2 ^ e := by positivity
    cases n
    · simpa using pos.le
    · simpa using pos

/-- A number other than zero decodes to its bits. -/
theorem num_of_real {f : Fmt} {x : DWord} {p : ℚ} (h : realOf f x = some p) (hp : p ≠ 0) :
    ∃ m e, fval f x = .num (decide (p < 0)) m e ∧ m ≠ 0 ∧ p = (if decide (p < 0) then -1 else 1) * m * 2 ^ e := by
  have stands := stands_fval h
  rw [← stands.sign hp]
  generalize fval f x = v at stands
  cases stands with
  | zero => exact absurd rfl hp
  | @num _ m e hm => exact ⟨m, e, rfl, hm, rfl⟩

/-! ## FRCP -/

theorem pickNear_delivers {f : Fmt} (hf : IsFormat f) (free neg : Bool) {m : ℕ} (e : ℤ) {st : Bool} {t : ℝ} (hm : m ≠ 0)
    (hst : st = true → 2 ^ 53 ≤ m) (ht : Truncated m st t) :
    ∃ rm, Delivers rm f ((if neg then -1 else 1) * (t * 2 ^ e)) (pickNear free f neg m e st) := by
  have delivers (rm : Rm) := roundNum_delivers (e := e) hf rm neg hm ht hst
  unfold pickNear
  dsimp only
  by_cases kept : ((roundNum .rn f neg m e st).2 &&& fOF != 0 || (roundNum .rn f neg m e st).2 = 0) = true
  · rw [if_pos kept]
    exact ⟨.rn, delivers .rn⟩
  · rw [if_neg kept]
    cases free
    · exact ⟨.ru, delivers .ru⟩
    · exact ⟨.rd, delivers .rd⟩

theorem approx32_rcp {x : DWord} {n d : Bool} {m k : ℕ} {e i : ℤ} {st : Bool} (hv : fval (fmtOf .f32) x = .num n m e)
    (h : xDiv (.num false 1 0) (.num n m e) = .num d k i st) :
    approx32 .rcp x = pickNear ((Config.frcp (x.setWidth 32)).getLsbD 0) (fmtOf .f32) d k i st := by
  simp only [approx32, hv, h]

theorem rcp_delivers {x : DWord} {p : ℚ} (h : realOf (fmtOf .f32) x = some p) (hp : p ≠ 0) :
    ∃ rm, Delivers rm (fmtOf .f32) ((1 / p : ℚ) : ℝ) (approx32 .rcp x) := by
  have hf := isFormat_fmtOf .f32
  obtain ⟨m, e, hv, hm, -⟩ := num_of_real h hp
  have one : Stands (.num false 1 0) false 1 := by simpa using Stands.num false 0 one_ne_zero
  have denotes := one.div (stands_fval h) hp fun n m e => num_lt_of_fval hf
  have y0 : ((1 / p : ℚ) : ℝ) ≠ 0 := by exact_mod_cast one_div_ne_zero hp
  rw [hv] at denotes
  generalize hd : xDiv (.num false 1 0) (.num (decide (p < 0)) m e) = w at denotes
  generalize ((1 / p : ℚ) : ℝ) = y at denotes y0
  cases denotes with
  | zero => exact absurd rfl y0
  | num neg z e hm hst ht =>
    rw [approx32_rcp hv hd]
    exact pickNear_delivers hf _ neg e hm hst ht

/-! ## FRSQ -/

/-- The whole part of 2 ^ 100 / √k. -/
def rootOf (k : ℕ) : ℕ := Nat.sqrt (2 ^ 200 / k)

theorem isqrt_eq_rootOf (k : ℕ) : isqrt (2 ^ 200 / k) 101 0 = rootOf k :=
  isqrt_eq_sqrt ((Nat.div_le_self ..).trans_lt (Nat.pow_lt_pow_right one_lt_two (by norm_num)))

/-- Where the root is exact, it is a power of two, of a power of four. -/
theorem exists_of_rootOf_exact {k : ℕ} (h : rootOf k * rootOf k * k = 2 ^ 200) : ∃ j s, k = 2 ^ s ∧ 2 * j + s = 200 := by
  obtain ⟨s, -, hs⟩ := (Nat.dvd_prime_pow Nat.prime_two).mp (Dvd.intro_left _ h)
  obtain ⟨j, -, hj⟩ := (Nat.dvd_prime_pow Nat.prime_two).mp (Dvd.intro (rootOf k * k) (by rw [← mul_assoc, h]))
  refine ⟨j, s, hs, Nat.pow_right_injective le_rfl ?_⟩
  rw [hj, ← pow_add, ← two_mul, hs, ← pow_add] at h
  exact h

theorem rootOf_four_pow {u : ℕ} (hu : u ≤ 100) : rootOf (2 ^ (2 * u)) = 2 ^ (100 - u) := by
  rw [rootOf, Nat.pow_div (by omega) two_pos, show 200 - 2 * u = (100 - u) * 2 by omega, pow_mul, Nat.sqrt_eq']

/-- Cut off to a whole number, the root keeps 80 bits. -/
theorem rootOf_near {k : ℕ} (h0 : k ≠ 0) (hk : k ≤ 2 ^ 40) :
    |(rootOf k : ℝ) - 2 ^ 100 / Real.sqrt k| ≤ 2 ^ 100 / Real.sqrt k / 2 ^ 80 := by
  have k0 : (0 : ℝ) < k := by positivity
  set s : ℝ := 2 ^ 100 / Real.sqrt k with hs
  have s0 : 0 < s := by positivity
  have sq : s ^ 2 = 2 ^ 200 / k := by
    rw [hs, div_pow, Real.sq_sqrt k0.le]
    norm_num
  have trunc := truncated_div (a := 2 ^ 200) h0
  have split : (((2 : ℕ) ^ 200 : ℕ) : ℝ) / k = s ^ 2 := by
    rw [sq]
    norm_num
  rw [split] at trunc
  have le : (rootOf k : ℝ) ≤ s := by
    have : ((rootOf k ^ 2 : ℕ) : ℝ) ≤ s ^ 2 := le_trans (by exact_mod_cast Nat.sqrt_le' _) trunc.le
    push_cast at this
    exact le_of_sq_le_sq this s0.le
  have lt : s < rootOf k + 1 := by
    have : ((2 ^ 200 / k : ℕ) : ℝ) + 1 ≤ (rootOf k + 1 : ℝ) ^ 2 := by exact_mod_cast Nat.lt_succ_sqrt' _
    exact lt_of_pow_lt_pow_left₀ 2 (by positivity) (trunc.lt.trans_le this)
  have big : (2 : ℝ) ^ 80 ≤ s := by
    rw [hs, le_div_iff₀ (by positivity)]
    have : Real.sqrt k ≤ 2 ^ 20 := Real.sqrt_le_iff.mpr ⟨by positivity, by rw [← pow_mul]; exact_mod_cast hk⟩
    calc (2 : ℝ) ^ 80 * Real.sqrt k ≤ 2 ^ 80 * 2 ^ 20 := mul_le_mul_of_nonneg_left this (by positivity)
      _ = 2 ^ 100 := by norm_num
  have : 1 ≤ s / 2 ^ 80 := (one_le_div (by positivity)).mpr big
  rw [abs_le]
  constructor <;> linarith

/-- FRSQ of a number above zero, which is a whole number `k` an even number of places up. -/
theorem approx32_rsq {x : DWord} {m : ℕ} {e : ℤ} (hv : fval (fmtOf .f32) x = .num false m e) :
    ∃ (k : ℕ) (h : ℤ), (k : ℚ) * 2 ^ (2 * h) = m * 2 ^ e ∧ k ≤ 2 * m ∧ e - 1 ≤ 2 * h ∧ 2 * h ≤ e ∧
      approx32 .rsq x = if rootOf k * rootOf k * k = 2 ^ 200 then roundNum .rn (fmtOf .f32) false (rootOf k) (-100 - h) false
        else within (Config.frsq (x.setWidth 32)) (fxOf false (rootOf k) (-100 - h)) (2 * fxUlp (fxOf false (rootOf k) (-100 - h))) := by
  by_cases he : e % 2 = 0
  · refine ⟨m, e / 2, by rw [Int.mul_ediv_cancel' (Int.dvd_of_emod_eq_zero he)], by omega, by omega, by omega, ?_⟩
    simp only [approx32, hv, if_pos he, isqrt_eq_rootOf]
  · refine ⟨2 * m, (e - 1) / 2, ?_, le_rfl, by omega, by omega, ?_⟩
    · rw [Int.mul_ediv_cancel' (by omega), zpow_sub_one₀ two_ne_zero]
      push_cast
      ring
    · simp only [approx32, hv, if_neg he, isqrt_eq_rootOf]

theorem rsq_exact {x : DWord} {i : ℤ} (hx : realOf (fmtOf .f32) x = some (2 ^ (2 * i))) :
    realOf (fmtOf .f32) (approx32 .rsq x).1 = some (2 ^ (-i)) ∧ (approx32 .rsq x).2 = 0 := by
  have hf := isFormat_fmtOf .f32
  have bias : (fmtBias (fmtOf .f32) : ℤ) = 127 := rfl
  obtain ⟨lo, hi⟩ := two_pow_bounds hf hx
  rw [leastPlace_f32] at lo
  have pos : (0 : ℚ) < 2 ^ (2 * i) := by positivity
  obtain ⟨m, e, hv, hm, eq⟩ := num_of_real hx pos.ne'
  rw [decide_eq_false pos.not_gt] at hv eq
  obtain ⟨k, h, hk, le, -, -, value⟩ := approx32_rsq hv
  have hk' : (k : ℚ) = 2 ^ (2 * (i - h)) := by
    rw [mul_sub, zpow_sub₀ two_ne_zero, eq_div_iff (by positivity), hk, eq]
    simp
  obtain ⟨u, hu, ku⟩ := exists_two_pow hk'
  obtain ⟨j, rfl⟩ : ∃ j, u = 2 * j := ⟨u / 2, by omega⟩
  have j100 : j ≤ 100 := by
    have : 2 ^ (2 * j) < 2 ^ 54 := by
      rw [← ku]
      have := num_lt_of_fval hf hv
      omega
    have := (Nat.pow_lt_pow_iff_right one_lt_two).mp this
    omega
  have root := rootOf_four_pow j100
  rw [← ku] at root
  have exact : rootOf k * rootOf k * k = 2 ^ 200 := by
    rw [root, ku, ← pow_add, ← pow_add]
    congr 1
    omega
  rw [value, if_pos exact]
  refine roundNum_two_pow hf ?_ (by rw [leastPlace_f32]; omega) (by omega)
  rw [root, Nat.cast_pow, Nat.cast_ofNat, ← zpow_natCast, ← zpow_add₀ two_ne_zero]
  congr 1
  omega

theorem rsq_near {x : DWord} {p : ℚ} (hx : realOf (fmtOf .f32) x = some p) (hp : 0 < p) (not_exact : ∀ i : ℤ, p ≠ 2 ^ (2 * i)) :
    ∃ y : ℤ, |((y : ℚ) / 2 ^ 320 : ℝ) - 1 / Real.sqrt (p : ℝ)| ≤ 1 / Real.sqrt (p : ℝ) / 2 ^ 80
      ∧ NearTo (approx32 .rsq x) y (2 * ((fxUlp y : ℚ) / 2 ^ 320)) := by
  have hf := isFormat_fmtOf .f32
  obtain ⟨m, e, hv, hm, eq⟩ := num_of_real hx hp.ne'
  rw [decide_eq_false hp.not_gt] at hv eq
  obtain ⟨k, h, hk, le, loh, hih, value⟩ := approx32_rsq hv
  rw [if_neg Bool.false_ne_true, one_mul, ← hk] at eq
  have k0 : k ≠ 0 := by
    rintro rfl
    simp [eq] at hp
  have inexact : ¬ rootOf k * rootOf k * k = 2 ^ 200 := by
    intro exact
    obtain ⟨j, s, rfl, hj⟩ := exists_of_rootOf_exact exact
    refine not_exact (100 - j + h) ?_
    rw [eq, Nat.cast_pow, Nat.cast_ofNat, ← zpow_natCast, ← zpow_add₀ two_ne_zero]
    congr 1
    omega
  have small : k ≤ 2 ^ 40 := by
    have : m < 2 ^ 24 := num_lt hv
    omega
  obtain ⟨loe, hie⟩ := num_exp_bounds hf hv
  rw [leastPlace_f32] at loe
  rw [show (fmtBias (fmtOf .f32) : ℤ) - (fmtOf .f32).m = 104 from rfl] at hie
  rw [value, if_neg inexact]
  refine ⟨_, ?_, within_two_ulp _ ?_⟩
  · have ref := fxOf_eq false (rootOf k) (e := -100 - h) (by omega)
    rw [if_neg Bool.false_ne_true, one_mul] at ref
    have ref' : (((fxOf false (rootOf k) (-100 - h) : ℚ) / 2 ^ 320 : ℚ) : ℝ) = rootOf k * 2 ^ (-100 - h) := by
      rw [ref]
      exact cast_mul_two_zpow ..
    have root : 1 / Real.sqrt (p : ℝ) = 2 ^ 100 / Real.sqrt k * 2 ^ (-100 - h) := by
      rw [eq, cast_mul_two_zpow, mul_comm 2 h, zpow_mul, Real.sqrt_mul (Nat.cast_nonneg k),
        show ((2 : ℝ) ^ h) ^ (2 : ℤ) = (2 ^ h) ^ 2 from zpow_ofNat .., Real.sqrt_sq (by positivity), zpow_sub₀ two_ne_zero,
        show (2 : ℝ) ^ (-100 : ℤ) = (2 ^ 100)⁻¹ by norm_num]
      field_simp
    push_cast at ref' ⊢
    rw [ref', root, ← sub_mul, abs_mul, abs_of_pos (a := (2 : ℝ) ^ (-100 - h)) (by positivity), mul_div_right_comm]
    exact mul_le_mul_of_nonneg_right (rootOf_near k0 small) (by positivity)
  · refine lt_of_le_of_lt ?_ (pow_lt_pow_right₀ one_lt_two (show 100 + (-100 - h + 320).toNat < 448 by omega))
    have rootle : rootOf k ≤ 2 ^ 100 := by
      calc rootOf k ≤ Nat.sqrt (2 ^ 200) := Nat.sqrt_le_sqrt (Nat.div_le_self ..)
        _ = 2 ^ 100 := by rw [show 2 ^ 200 = (2 ^ 100) ^ 2 by rw [← pow_mul], Nat.sqrt_eq']
    calc (fxOf false (rootOf k) (-100 - h)).natAbs = rootOf k * 2 ^ (-100 - h + 320).toNat := by
          rw [fxOf, signed, if_neg Bool.false_ne_true, Int.natAbs_natCast]
      _ ≤ 2 ^ 100 * 2 ^ (-100 - h + 320).toNat := Nat.mul_le_mul_right _ rootle
      _ = 2 ^ (100 + (-100 - h + 320).toNat) := (pow_add ..).symm

/-! ## FEXP2 -/

/-- The whole part of a number with 320 bits of fraction is the reference's operand. -/
theorem floor_eq_fxOf {n : Bool} {m : ℕ} {e : ℤ} (he : -320 ≤ e) : ((if n then -1 else 1) * (m : ℚ) * 2 ^ e * 2 ^ 320).floor = fxOf n m e := by
  rw [← fxOf_eq n m he, div_mul_cancel₀ _ (by positivity), Rat.floor_intCast]

/-- A number is an integer where `integral` finds one. -/
theorem integral_eq {n : Bool} {m : ℕ} {e : ℤ} (i : ℤ) : integral (.num n m e) = some i ↔ (if n then -1 else 1) * (m : ℚ) * 2 ^ e = i := by
  unfold integral
  dsimp only
  by_cases he : 0 ≤ e
  · rw [if_pos he, Option.some_inj, ← Int.cast_inj (α := ℚ), signed_eq, Nat.cast_mul, Nat.cast_pow, Nat.cast_ofNat, ← zpow_natCast,
      Int.toNat_of_nonneg he, mul_assoc]
  · rw [if_neg he]
    obtain ⟨k, rfl⟩ : ∃ k : ℕ, e = -k := ⟨(-e).toNat, by omega⟩
    rw [neg_neg, Int.toNat_natCast, zpow_neg, zpow_natCast, ← div_eq_mul_inv, div_eq_iff (by positivity)]
    by_cases hd : m % 2 ^ k = 0
    · rw [if_pos hd, Option.some_inj, ← Int.cast_inj (α := ℚ), signed_eq]
      obtain ⟨j, rfl⟩ := Nat.dvd_of_mod_eq_zero hd
      rw [Nat.mul_div_cancel_left _ (Nat.two_pow_pos k), ← mul_left_inj' (pow_ne_zero k (two_ne_zero (α := ℚ)))]
      push_cast
      rw [mul_assoc, mul_comm (j : ℚ)]
    · rw [if_neg hd]
      refine ⟨nofun, fun h => absurd (Nat.mod_eq_zero_of_dvd ?_) hd⟩
      rw [← signed_eq] at h
      have : signed n m = i * 2 ^ k := by exact_mod_cast h
      have := congrArg Int.natAbs this
      rw [Int.natAbs_mul, Int.natAbs_pow, show (2 : ℤ).natAbs = 2 from rfl] at this
      exact Dvd.intro_left i.natAbs (by cases n <;> simpa [signed] using this.symm)

section
variable {x : DWord} {m : ℕ} {e : ℤ} {n : Bool} (hv : fval (fmtOf .f32) x = .num n m e)
include hv

theorem exp2_overflows_iff : (!n && decide (128 ≤ m * 2 ^ (e + 149).toNat / 2 ^ 149)) = true ↔ 128 ≤ (if n then -1 else 1) * (m : ℚ) * 2 ^ e := by
  have lo := (num_exp_bounds (isFormat_fmtOf .f32) hv).1
  rw [leastPlace_f32] at lo
  cases n with
  | true =>
    have : (0 : ℚ) ≤ m * 2 ^ e := by positivity
    simp
    linarith
  | false =>
    have := shifted_eq lo m
    rw [sub_neg_eq_add, zpow_neg, ← div_eq_mul_inv] at this
    rw [Bool.not_false, Bool.true_and, decide_eq_true_eq, Nat.le_div_iff_mul_le (by positivity), if_neg Bool.false_ne_true, one_mul, ← this,
      le_div_iff₀ (by positivity)]
    norm_cast

theorem approx32_exp2_overflow (h : (128 : ℚ) ≤ (if n then -1 else 1) * (m : ℚ) * 2 ^ e) :
    approx32 .exp2 x = (infBits (fmtOf .f32) false, fOF ||| fNX) := by
  simp only [approx32, hv, (exp2_overflows_iff hv).mpr h, if_true]

theorem approx32_exp2_integral {i : ℤ} (h : (if n then -1 else 1) * (m : ℚ) * 2 ^ e = i) (lo : -149 ≤ i) (hi : i < 128) :
    approx32 .exp2 x = roundNum .rn (fmtOf .f32) false 1 i false := by
  have fits := (exp2_overflows_iff hv).not.mpr (by rw [h]; exact not_le.mpr (by exact_mod_cast hi))
  simp only [approx32, hv, if_neg fits, (integral_eq i).mpr h, if_pos lo]

theorem exp2_exact {i : ℤ} (h : (if n then -1 else 1) * (m : ℚ) * 2 ^ e = i) (lo : -149 ≤ i) (hi : i < 128) :
    realOf (fmtOf .f32) (approx32 .exp2 x).1 = some (2 ^ i) ∧ (approx32 .exp2 x).2 = 0 := by
  have bias : (fmtBias (fmtOf .f32) : ℤ) = 127 := rfl
  rw [approx32_exp2_integral hv h lo hi]
  exact roundNum_two_pow (isFormat_fmtOf .f32) (by rw [Nat.cast_one, one_mul]) (by rw [leastPlace_f32]; exact lo) (by omega)

theorem approx32_exp2 (h : (if n then -1 else 1) * (m : ℚ) * 2 ^ e < 128)
    (hi : ∀ i : ℤ, -149 ≤ i → (if n then -1 else 1) * (m : ℚ) * 2 ^ e ≠ i) :
    approx32 .exp2 x = approxExp2 (Config.fexp2 (x.setWidth 32)) n m e := by
  have fits := (exp2_overflows_iff hv).not.mpr (not_le.mpr h)
  simp only [approx32, hv, if_neg fits]
  cases integer : integral (.num n m e) with
  | none => rfl
  | some i => exact if_neg fun lo => hi i lo ((integral_eq i).mp integer)

end

/-! ## FLOG2 -/

/-- A number is a power of two where `powerOfTwo` finds one. -/
theorem powerOfTwo_eq {m : ℕ} (hm : m ≠ 0) {e : ℤ} (i : ℤ) : powerOfTwo (.num false m e) = some i ↔ (m : ℚ) * 2 ^ e = 2 ^ i := by
  unfold powerOfTwo
  dsimp only
  constructor
  · intro h
    by_cases hp : 2 ^ Nat.log2 m = m
    · rw [if_pos hp, Option.some_inj] at h
      have hp' : (m : ℚ) = 2 ^ (Nat.log2 m : ℤ) := by exact_mod_cast hp.symm
      rw [← h, zpow_add₀ two_ne_zero, ← hp', mul_comm]
    · rw [if_neg hp] at h
      cases h
  · intro h
    rw [← eq_div_iff (by positivity), ← zpow_sub₀ two_ne_zero] at h
    obtain ⟨u, hu, rfl⟩ := exists_two_pow h
    rw [Nat.log2_two_pow, if_pos rfl, ← hu, add_sub_cancel]

theorem log2_exact {x : DWord} {i : ℤ} (hx : realOf (fmtOf .f32) x = some (2 ^ i)) :
    realOf (fmtOf .f32) (approx32 .log2 x).1 = some (i : ℚ) ∧ (approx32 .log2 x).2 = 0 := by
  have hf := isFormat_fmtOf .f32
  have bias : (fmtBias (fmtOf .f32) : ℤ) = 127 := rfl
  obtain ⟨lo, hi⟩ := two_pow_bounds hf hx
  rw [leastPlace_f32] at lo
  have pos : (0 : ℚ) < 2 ^ i := by positivity
  obtain ⟨m, e, hv, hm, eq⟩ := num_of_real hx pos.ne'
  rw [decide_eq_false pos.not_gt] at hv eq
  rw [if_neg Bool.false_ne_true, one_mul] at eq
  have : approx32 .log2 x = roundF .rn (fmtOf .f32) (xvInt i) := by
    simp only [approx32, hv, (powerOfTwo_eq hm i).mpr eq.symm]
  rw [this]
  refine roundF_int hf ?_
  have : 2 ^ 8 ≤ 2 ^ (fmtOf .f32).m := by decide
  omega

theorem approx32_log2 {x : DWord} {m : ℕ} {e : ℤ} (hv : fval (fmtOf .f32) x = .num false m e) (hm : m ≠ 0)
    (not_power : ∀ i : ℤ, (m : ℚ) * 2 ^ e ≠ 2 ^ i) : approx32 .log2 x = approxLog2 (Config.flog2 (x.setWidth 32)) m e := by
  have : powerOfTwo (.num false m e) = none := Option.eq_none_iff_forall_ne_some.mpr fun i h => not_power i ((powerOfTwo_eq hm i).mp h)
  simp only [approx32, hv, this]

theorem abs_le_two_pow (y : ℤ) (k : ℕ) : |(y : ℚ)| ≤ 2 ^ k ↔ y.natAbs ≤ ((2 : ℤ) ^ k).natAbs := by
  rw [← Int.cast_abs, Int.abs_eq_natAbs, Int.cast_natCast, Int.natAbs_pow]
  exact_mod_cast Iff.rfl

/-- The bound of FLOG2 at its reference: two units in the last place, and 2 ^ −22 where the reference is at most 1 (R151). -/
def log2Bound (y : ℤ) : ℚ :=
  if |(y : ℚ)| ≤ 2 ^ 320 then max (2 * ((fxUlp y : ℚ) / 2 ^ 320)) (2 ^ (-22 : ℤ)) else 2 * ((fxUlp y : ℚ) / 2 ^ 320)

/-- What FLOG2 gives is within its bound of the reference. -/
theorem approxLog2_near (free : BitVec 32) {m : ℕ} {e : ℤ} (hy : (fxLog2 m e).natAbs < 2 ^ 448) :
    NearTo (approxLog2 free m e) (fxLog2 m e) (log2Bound (fxLog2 m e)) := by
  unfold approxLog2 log2Bound
  dsimp only
  generalize fxLog2 m e = y at hy
  have u0 : 0 ≤ fxUlp y := by unfold fxUlp; positivity
  have small : |(y : ℚ)| ≤ 2 ^ 320 ↔ y.natAbs ≤ fxOne.natAbs := abs_le_two_pow y 320
  by_cases h : y.natAbs ≤ fxOne.natAbs
  · rw [if_pos h, if_pos (small.mpr h)]
    have near := within_near free (bound := max (2 * fxUlp y) (2 ^ 298)) (by omega) hy
    have bound : ((max (2 * fxUlp y) (2 ^ 298) : ℤ) : ℚ) / 2 ^ 320 = max (2 * ((fxUlp y : ℚ) / 2 ^ 320)) (2 ^ (-22 : ℤ)) := by
      have fine : (2 : ℚ) ^ (-22 : ℤ) = 2 ^ 298 / 2 ^ 320 := by
        rw [← zpow_natCast 2 298, ← zpow_natCast 2 320, ← zpow_sub₀ two_ne_zero]
        norm_num
      rw [Int.cast_max, ← max_div_div_right (by positivity), Int.cast_mul, Int.cast_ofNat, mul_div_assoc, fine, Int.cast_pow, Int.cast_ofNat]
    rwa [bound] at near
  · rw [if_neg h, if_neg (small.not.mpr h)]
    exact within_two_ulp free hy

/-! ## FSIN and FCOS -/

/-- Below 2 ^ 324 a unit in the last place is at most 2 ^ 300. -/
theorem fxUlp_le {y : ℤ} (hy : y.natAbs < 2 ^ 324) : fxUlp y ≤ 2 ^ 300 := by
  have : Nat.log2 y.natAbs ≤ 323 := by
    by_cases h0 : y.natAbs = 0
    · rw [h0]
      decide
    · have := (Nat.log2_lt h0).mpr hy
      omega
  exact pow_le_pow_right₀ one_le_two (by omega)

/-- Within 2 ^ −21 of the reference. -/
theorem within_trig (free : BitVec 32) {y : ℤ} (hy : y.natAbs < 2 ^ 324) : NearTo (within free y (2 ^ 299)) y (2 ^ (-21 : ℤ)) := by
  have near := within_near free (bound := 2 ^ 299) ((fxUlp_le hy).trans_eq (pow_succ' ..))
    (hy.trans (pow_lt_pow_right₀ one_lt_two (by norm_num)))
  have fine : (2 : ℚ) ^ (-21 : ℤ) = 2 ^ 299 / 2 ^ 320 := by
    rw [← zpow_natCast 2 299, ← zpow_natCast 2 320, ← zpow_sub₀ two_ne_zero]
    norm_num
  rwa [Int.cast_pow, Int.cast_ofNat, ← fine] at near

end Sys2Proof.Stated
end

section
/-! PROOFS. FRCP to FCOS (R151): their special values, the 16-bit types, and the statement about them. -/

namespace Sys2Proof.Stated

open Sys2Proof Sys2Proof.Machine

/-! ## Special values in FP32 (R70, R71) -/

section
variable {x : DWord} (k : Approx)

theorem approx32_nan {s : Bool} (hv : fval (fmtOf .f32) x = .nan s) : approx32 k x = (defaultNaN (fmtOf .f32), if s then fIV else 0) := by
  unfold approx32
  dsimp only
  rw [hv]

/-- What an infinity gives. -/
def ofInf (n : Bool) : Approx → DWord × FFlags
  | .rcp => (zeroBits (fmtOf .f32) n, 0)
  | .rsq => if n then (defaultNaN (fmtOf .f32), fIV) else (zeroBits (fmtOf .f32) false, 0)
  | .exp2 => if n then (zeroBits (fmtOf .f32) false, 0) else (infBits (fmtOf .f32) false, 0)
  | .log2 => if n then (defaultNaN (fmtOf .f32), fIV) else (infBits (fmtOf .f32) false, 0)
  | .sin | .cos => (defaultNaN (fmtOf .f32), fIV)

theorem ofInf_bits (n : Bool) :
    ofInf n .rcp = (BitVec.ofNat 64 (0 + if n then 2 ^ 31 else 0), 0) ∧ ofInf n .rsq = (if n then (0x7FC00000, fIV) else (0, 0))
      ∧ ofInf n .exp2 = (if n then (0, 0) else (0x7F800000, 0)) ∧ ofInf n .log2 = (if n then (0x7FC00000, fIV) else (0x7F800000, 0))
      ∧ ofInf n .sin = (0x7FC00000, fIV) ∧ ofInf n .cos = (0x7FC00000, fIV) := by
  revert n
  decide +kernel

theorem approx32_inf {n : Bool} (hv : fval (fmtOf .f32) x = .inf n) : approx32 k x = ofInf n k := by
  unfold approx32
  dsimp only
  rw [hv]
  cases k <;> cases n <;> rfl

/-- What a zero gives. -/
def ofZero (n : Bool) : Approx → DWord × FFlags
  | .rcp | .rsq => (infBits (fmtOf .f32) n, fDZ)
  | .exp2 | .cos => (0x3F800000, 0)
  | .log2 => (infBits (fmtOf .f32) true, fDZ)
  | .sin => (zeroBits (fmtOf .f32) n, 0)

theorem ofZero_bits (n : Bool) :
    ofZero n .rcp = (BitVec.ofNat 64 (0x7F800000 + if n then 2 ^ 31 else 0), fDZ)
      ∧ ofZero n .rsq = (BitVec.ofNat 64 (0x7F800000 + if n then 2 ^ 31 else 0), fDZ) ∧ ofZero n .exp2 = (0x3F800000, 0)
      ∧ ofZero n .log2 = (0xFF800000, fDZ) ∧ ofZero n .sin = (BitVec.ofNat 64 (0 + if n then 2 ^ 31 else 0), 0)
      ∧ ofZero n .cos = (0x3F800000, 0) := by
  revert n
  decide +kernel

theorem approx32_zero (n : Bool) : approx32 k (zeroBits (fmtOf .f32) n) = ofZero n k := by
  have hv : fval (fmtOf .f32) (zeroBits (fmtOf .f32) n) = .zero n := by
    have := (stands_fval (realOf_zeroBits (isFormat_fmtOf .f32) n)).eq_zero
    rwa [negBit_zeroBits (isFormat_fmtOf .f32)] at this
  have one : roundNum .rn (fmtOf .f32) false 1 0 false = (0x3F800000, 0) := by decide +kernel
  unfold approx32
  dsimp only
  rw [hv, one]
  cases k <;> cases n <;> rfl

/-- Roots and logarithms of numbers below zero are invalid. -/
theorem approx32_neg {m : ℕ} {e : ℤ} (hv : fval (fmtOf .f32) x = .num true m e) :
    approx32 .rsq x = (defaultNaN (fmtOf .f32), fIV) ∧ approx32 .log2 x = (defaultNaN (fmtOf .f32), fIV) := by
  unfold approx32
  dsimp only
  rw [hv]
  exact ⟨rfl, rfl⟩

theorem approx32_trig {n : Bool} {m : ℕ} {e : ℤ} (hv : fval (fmtOf .f32) x = .num n m e) :
    approx32 .sin x = within (Config.fsin (x.setWidth 32)) (fxSin (fxOf n m e)) (2 ^ 299)
      ∧ approx32 .cos x = within (Config.fcos (x.setWidth 32)) (fxCos (fxOf n m e)) (2 ^ 299) := by
  unfold approx32
  dsimp only
  rw [hv]
  exact ⟨rfl, rfl⟩

end

/-! ## No result is a signalling NaN -/

section
variable {f : Fmt} {x : DWord}

theorem isSig_of_not_nan (h : isNan f x = false) : isSig f x = false := by
  rw [isSig, h, Bool.false_and]

theorem ValueIs.not_nan {v : ℚ} (h : ValueIs x v) : isNan (fmtOf .f32) x = false := by
  obtain h | ⟨h, -⟩ := h
  · exact isNan_of_real h
  · exact isNan_of_isInf h

theorem Delivers.not_nan {rm : Rm} {y : ℝ} {r : DWord × FFlags} (h : Delivers rm f y r) : isNan f r.1 = false := by
  obtain ⟨u, w, n, -, -, -, -, -, overflow, fits⟩ := h
  obtain h | h := lt_or_ge (greatest f) |u|
  · have bits := (overflow h).2
    split at bits
    · exact isNan_of_isInf bits
    · exact isNan_of_real bits
  · exact isNan_of_real (fits h).1

theorem within_not_nan (free : BitVec 32) (y bound : ℤ) : isNan (fmtOf .f32) (within free y bound).1 = false := by
  have hf := isFormat_fmtOf .f32
  obtain ⟨v, hv, -, eq⟩ | eq := within_cases free y bound
  · rw [eq]
    exact (valueIs_fxVal hv).not_nan
  · rw [eq]
    by_cases h0 : y = 0
    · rw [if_pos h0]
      exact isNan_of_real realOf_f32_zero
    · rw [if_neg h0]
      have deep : -320 < placeOf (fmtOf .f32) true y.natAbs (-320) := lt_of_lt_of_le (by rw [leastPlace_f32]; norm_num) (le_max_right ..)
      have ht : Truncated y.natAbs true (y.natAbs + 1 / 2) := ⟨by linarith, by linarith⟩
      obtain ⟨overflows, fits⟩ := roundNum_cases (e := -320) hf .rn (decide (y < 0)) (Int.natAbs_ne_zero.mpr h0) ht fun _ => deep
      obtain h | h := le_or_gt ((2 : ℚ) ^ (fmtBias (fmtOf .f32) + 1 : ℤ)) _
      · rw [overflows h]
        exact isNan_of_isInf (isInf_infBits hf _)
      · obtain ⟨k, lt, -, eq⟩ := fits h
        rw [eq]
        exact isNan_of_real (realOf_bits hf _ lt)

/-- FEXP2 of a number gives no NaN. -/
theorem exp2_not_nan {n : Bool} {m : ℕ} {e : ℤ} (hv : fval (fmtOf .f32) x = .num n m e) : isNan (fmtOf .f32) (approx32 .exp2 x).1 = false := by
  have hf := isFormat_fmtOf .f32
  obtain big | small := le_or_gt 128 ((if n then -1 else 1) * (m : ℚ) * 2 ^ e)
  · rw [approx32_exp2_overflow hv big]
    exact isNan_of_isInf (isInf_infBits hf _)
  · by_cases h : ∃ i : ℤ, -149 ≤ i ∧ (if n then -1 else 1) * (m : ℚ) * 2 ^ e = i
    · obtain ⟨i, lo, eq⟩ := h
      exact isNan_of_real (exp2_exact hv eq lo (by rw [eq] at small; exact_mod_cast small)).1
    · rw [approx32_exp2 hv small fun i lo eq => h ⟨i, lo, eq⟩]
      exact within_not_nan ..

theorem isSig_defaultNaN : isSig (fmtOf .f32) (defaultNaN (fmtOf .f32)) = false := by decide +kernel

theorem rsq_not_nan {p : ℚ} (hx : realOf (fmtOf .f32) x = some p) (hp : 0 < p) : isNan (fmtOf .f32) (approx32 .rsq x).1 = false := by
  by_cases h : ∃ i : ℤ, p = 2 ^ (2 * i)
  · obtain ⟨i, rfl⟩ := h
    exact isNan_of_real (rsq_exact hx).1
  · obtain ⟨y, -, v, value, -⟩ := rsq_near hx hp (not_exists.mp h)
    exact value.not_nan

theorem log2_not_nan {m : ℕ} {e : ℤ} (hv : fval (fmtOf .f32) x = .num false m e) (hm : m ≠ 0) :
    isNan (fmtOf .f32) (approx32 .log2 x).1 = false := by
  by_cases h : ∃ i : ℤ, (m : ℚ) * 2 ^ e = 2 ^ i
  · obtain ⟨i, eq⟩ := h
    have real := real_of_num hv
    rw [if_neg Bool.false_ne_true, one_mul, eq] at real
    exact isNan_of_real (log2_exact real).1
  · rw [approx32_log2 hv hm (not_exists.mp h)]
    exact within_not_nan ..

theorem ofInf_quiet (k : Approx) (n : Bool) : isSig (fmtOf .f32) (ofInf n k).1 = false := by
  cases k <;> cases n <;> rfl

theorem ofZero_quiet (k : Approx) (n : Bool) : isSig (fmtOf .f32) (ofZero n k).1 = false := by
  cases k <;> cases n <;> rfl

theorem approx32_quiet (k : Approx) (hx : x.toNat < 2 ^ 32) : isSig (fmtOf .f32) (approx32 k x).1 = false := by
  have hf := isFormat_fmtOf .f32
  obtain hn | hi | ⟨p, hp⟩ := nan_inf_or_real (fmtOf .f32) x
  · rw [approx32_nan k (fval_of_isNan hn)]
    exact isSig_defaultNaN
  · rw [approx32_inf k (fval_of_isInf hi)]
    exact ofInf_quiet k _
  · by_cases h0 : p = 0
    · have bits : x = zeroBits (fmtOf .f32) (negBit (fmtOf .f32) x) := (extend_of_lt hx).symm.trans (extend_of_zero hf (h0 ▸ hp))
      rw [bits, approx32_zero]
      exact ofZero_quiet k _
    · obtain ⟨m, e, hv, hm, -⟩ := num_of_real hp h0
      have below (neg : p < 0) := approx32_neg (decide_eq_true neg ▸ hv)
      have above (pos : ¬ p < 0) : 0 < p := lt_of_le_of_ne (not_lt.mp pos) (Ne.symm h0)
      cases k with
      | rcp =>
        obtain ⟨rm, delivers⟩ := rcp_delivers hp h0
        exact isSig_of_not_nan delivers.not_nan
      | rsq =>
        by_cases neg : p < 0
        · rw [(below neg).1]
          exact isSig_defaultNaN
        · exact isSig_of_not_nan (rsq_not_nan hp (above neg))
      | exp2 => exact isSig_of_not_nan (exp2_not_nan hv)
      | log2 =>
        by_cases neg : p < 0
        · rw [(below neg).2]
          exact isSig_defaultNaN
        · exact isSig_of_not_nan (log2_not_nan (decide_eq_false neg ▸ hv) hm)
      | sin =>
        rw [(approx32_trig hv).1]
        exact isSig_of_not_nan (within_not_nan ..)
      | cos =>
        rw [(approx32_trig hv).2]
        exact isSig_of_not_nan (within_not_nan ..)

end

/-! ## The operations at their types -/

/-- In FP32 the operand is the low word. -/
theorem opApprox_f32 (k : Approx) (rm : Rm) (a : DWord) : opApprox k .f32 rm a 0 0 = approx32 k (extend false 32 a) := by
  have lt : (extend false 32 a).toNat < 2 ^ 32 := toNat_extend_lt (isFormat_fmtOf .f32) a
  have same : ((extend false 32 a).setWidth 32).setWidth 64 = extend false 32 a := by
    refine BitVec.eq_of_toNat_eq ?_
    rw [BitVec.toNat_setWidth, BitVec.toNat_setWidth, Nat.mod_eq_of_lt lt, Nat.mod_eq_of_lt (lt.trans (by norm_num))]
  rw [opApprox, show tyBits .f32 = 32 from rfl, approx, if_neg (by decide), same]

/-- In a 16-bit type the result of the operand widened is rounded into the type. -/
theorem approx_narrow {t : Ty} (ht : t = .bf16 ∨ t = .f16) (k : Approx) {x w : DWord} (hx : isNan (fmtOf t) x = false)
    (hw : (roundF .rn (fmtOf .f32) (xvF (fval (fmtOf t) x))).1 = w) :
    approx k t x = ((roundF .rn (fmtOf t) (xvF (fval (fmtOf .f32) (approx32 k w).1))).1,
      (approx32 k w).2 ||| (roundF .rn (fmtOf t) (xvF (fval (fmtOf .f32) (approx32 k w).1))).2) := by
  subst hw
  unfold approx
  dsimp only
  rw [if_pos (by simpa using ht)]
  obtain hi | ⟨p, hp⟩ := inf_or_real hx
  · rw [fval_of_isInf hi]
  · have stands := stands_fval hp
    generalize fval (fmtOf t) x = v at stands
    cases stands <;> rfl

theorem approx_nan {t : Ty} (ht : t = .bf16 ∨ t = .f16) (k : Approx) {x : DWord} (hx : isNan (fmtOf t) x = true) :
    approx k t x = (defaultNaN (fmtOf t), if isSig (fmtOf t) x then fIV else 0) := by
  unfold approx
  dsimp only
  rw [if_pos (by simpa using ht), fval_of_isNan hx]

/-! ### Widening -/

section
variable {f g : Fmt} {x w : DWord}

theorem orderOf_of_isInf (h : isInf f x = true) :
    orderOf f x = some (if negBit f x then ⊥ else ((⊤ : WithTop ℚ) : WithBot (WithTop ℚ))) := by
  rw [orderOf, isNan_of_isInf h, h]
  rfl

theorem orderOf_of_real {p : ℚ} (h : realOf f x = some p) : orderOf f x = some ((p : WithTop ℚ) : WithBot (WithTop ℚ)) := by
  rw [orderOf, isNan_of_real h, isInf_of_real h, h]
  rfl

/-- No number stands where an infinity does. -/
theorem coe_ne_end (n : Bool) (p : ℚ) : ((p : WithTop ℚ) : WithBot (WithTop ℚ)) ≠ if n then ⊥ else ((⊤ : WithTop ℚ) : WithBot (WithTop ℚ)) := by
  cases n <;> simp

/-- Bits with one place in the order are infinities both, or one number. -/
theorem isInf_of_orderOf (h : orderOf g w = orderOf f x) (hx : isInf f x = true) : isInf g w = true := by
  obtain ⟨-, ⟨hw, -⟩ | ⟨p, -, hp⟩⟩ := orderOf_cases (h.trans (orderOf_of_isInf hx))
  · exact hw
  · exact absurd hp.symm (coe_ne_end _ p)

theorem realOf_of_orderOf {p : ℚ} (h : orderOf g w = orderOf f x) (hx : realOf f x = some p) : realOf g w = some p := by
  obtain ⟨-, ⟨-, hp⟩ | ⟨q, hq, eq⟩⟩ := orderOf_cases (h.trans (orderOf_of_real hx))
  · exact absurd hp (coe_ne_end _ p)
  · rw [hq, WithTop.coe_inj.mp (WithBot.coe_inj.mp eq)]

/-- The infinities of a format. -/
theorem extend_of_isInf (h : isInf f x = true) : extend false (1 + f.m + f.e) x = infBits f (negBit f x) := by
  obtain ⟨he, hf⟩ := isInf_iff.mp h
  rw [expField_eq] at he
  rw [fracField_eq] at hf
  rw [extend_eq_bits, infBits, ← Nat.div_add_mod (magBits f x) (2 ^ f.m), he, hf, Nat.add_zero, mul_comm]

/-- Bits of another format with the operand's value are what it is rounded to. -/
theorem widened (hg : IsFormat g) (hx : isNan f x = false) (lt : w.toNat < 2 ^ (1 + g.m + g.e)) (order : orderOf g w = orderOf f x)
    (neg : negBit g w = negBit f x) : (roundF .rn g (xvF (fval f x))).1 = w := by
  obtain hi | ⟨p, hp⟩ := inf_or_real hx
  · rw [← extend_of_lt lt, extend_of_isInf (isInf_of_orderOf order hi), fval_of_isInf hi, neg]
    rfl
  · have denotes := (stands_fval hp).denotes
    have hw := realOf_of_orderOf order hp
    by_cases h0 : p = 0
    · rw [denotes.roundF_zero g .rn (by rw [h0, Rat.cast_zero]), ← extend_of_lt lt, extend_of_zero hg (h0 ▸ hw), neg]
    · obtain ⟨grid, le⟩ := grid_of_real hg hw
      obtain ⟨real, -, lt', neg'⟩ := (denotes.delivers hg .rn (by exact_mod_cast h0)).exact grid le
      rw [← extend_of_lt lt, ← extend_of_lt lt', extend_inj_of_real real hw (neg'.trans ((stands_fval hw).sign h0).symm)]

end

/-! ## The number an operand is -/

section
variable {x : DWord} {p : ℚ} (hp : realOf (fmtOf .f32) x = some p) (h0 : p ≠ 0)
include hp h0

/-- The references are evaluated at the operand's number. -/
theorem exists_num : ∃ m e, fval (fmtOf .f32) x = .num (decide (p < 0)) m e ∧ m ≠ 0 ∧ p = (if decide (p < 0) then -1 else 1) * m * 2 ^ e
    ∧ (p * 2 ^ 320).floor = fxOf (decide (p < 0)) m e := by
  obtain ⟨m, e, hv, hm, eq⟩ := num_of_real hp h0
  have lo := (num_exp_bounds (isFormat_fmtOf .f32) hv).1
  rw [leastPlace_f32] at lo
  exact ⟨m, e, hv, hm, eq, by rw [← floor_eq_fxOf (by omega), ← eq]⟩

theorem invalid_below_zero (neg : p < 0) : approx32 .rsq x = (0x7FC00000, fIV) ∧ approx32 .log2 x = (0x7FC00000, fIV) := by
  obtain ⟨m, e, hv, -⟩ := num_of_real hp h0
  exact approx32_neg (decide_eq_true neg ▸ hv)

theorem exp2_overflow (big : 128 ≤ p) : approx32 .exp2 x = (0x7F800000, fOF ||| fNX) := by
  obtain ⟨m, e, hv, -, eq⟩ := num_of_real hp h0
  exact approx32_exp2_overflow hv (eq ▸ big)

theorem exp2_int {i : ℤ} (hi : p = i) (lo : -149 ≤ i) (lt : i < 128) :
    realOf (fmtOf .f32) (approx32 .exp2 x).1 = some (2 ^ i) ∧ (approx32 .exp2 x).2 = 0 := by
  obtain ⟨m, e, hv, -, eq⟩ := num_of_real hp h0
  exact exp2_exact hv (eq.symm.trans hi) lo lt

theorem exp2_near (small : p < 128) (hi : ∀ i : ℤ, -149 ≤ i → p ≠ i) (hy : (fxExp2 (p * 2 ^ 320).floor).natAbs < 2 ^ 448) :
    NearTo (approx32 .exp2 x) (fxExp2 (p * 2 ^ 320).floor) (2 * ((fxUlp (fxExp2 (p * 2 ^ 320).floor) : ℚ) / 2 ^ 320)) := by
  obtain ⟨m, e, hv, -, eq, floor⟩ := exists_num hp h0
  rw [approx32_exp2 hv (eq ▸ small) (eq ▸ hi), floor]
  exact within_two_ulp _ (floor ▸ hy)

theorem log2_near (hi : ∀ i : ℤ, p ≠ 2 ^ i) {m : ℕ} {e : ℤ} (hv : fval (fmtOf .f32) x = .num false m e)
    (hy : (fxLog2 m e).natAbs < 2 ^ 448) :
    NearTo (approx32 .log2 x) (fxLog2 m e) (log2Bound (fxLog2 m e)) := by
  have eq := Option.some.inj (hp.symm.trans (real_of_num hv))
  rw [if_neg Bool.false_ne_true, one_mul] at eq
  have hm : m ≠ 0 := by
    rintro rfl
    rw [Nat.cast_zero, zero_mul] at eq
    exact h0 eq
  rw [approx32_log2 hv hm (eq ▸ hi)]
  exact approxLog2_near _ hy

theorem sin_near (hy : (fxSin (p * 2 ^ 320).floor).natAbs < 2 ^ 324) :
    NearTo (approx32 .sin x) (fxSin (p * 2 ^ 320).floor) (2 ^ (-21 : ℤ)) := by
  obtain ⟨m, e, hv, -, -, floor⟩ := exists_num hp h0
  rw [(approx32_trig hv).1, floor]
  exact within_trig _ (floor ▸ hy)

theorem cos_near (hy : (fxCos (p * 2 ^ 320).floor).natAbs < 2 ^ 324) :
    NearTo (approx32 .cos x) (fxCos (p * 2 ^ 320).floor) (2 ^ (-21 : ℤ)) := by
  obtain ⟨m, e, hv, -, -, floor⟩ := exists_num hp h0
  rw [(approx32_trig hv).2, floor]
  exact within_trig _ (floor ▸ hy)

end

end Sys2Proof.Stated

namespace Sys2Proof.Proofs

open Sys2Proof Sys2Proof.Machine Sys2Proof.Stated

/-- Settles O25: the operand decodes to a NaN, an infinity, a zero or a number, and each function has its lemma for each; a 16-bit operand
widens to the bits that stand for the same value. -/
theorem approximationValues : Obligations.ApproximationValues := by
  unfold Obligations.ApproximationValues
  refine ⟨fun rm a => ?f32, fun t ht rm k a w => ?narrow⟩
  case f32 =>
    intro f n r invalid one bits value inexact ulp near
    have hf : IsFormat f := isFormat_fmtOf .f32
    set x := extend false 32 a with hx
    have hr (k : Approx) : r k = approx32 k x := opApprox_f32 k rm a
    have hv : fval f x = fval f a := fval_extend hf a
    refine ⟨fun hn k => ?nan, fun hi => ?inf, fun hz => ?zero, fun p hp h0 => ?num⟩
    case nan => exact (hr k).trans (approx32_nan k (hv.trans (fval_of_isNan hn)))
    case inf =>
      simp only [hr, approx32_inf _ (hv.trans (fval_of_isInf hi))]
      exact ofInf_bits n
    case zero =>
      simp only [hr, show x = zeroBits f n from extend_of_zero hf hz, f, approx32_zero]
      exact ofZero_bits n
    case num =>
      have hpx : realOf f x = some p := (realOf_extend hf a).trans hp
      simp only [near, value, inexact, ulp, hr]
      exact ⟨rcp_delivers hpx h0, invalid_below_zero hpx h0, fun pos => ⟨fun i hi => rsq_exact (hi ▸ hpx), rsq_near hpx pos⟩,
        exp2_overflow hpx h0, fun i => exp2_int hpx h0, exp2_near hpx h0, fun i hi => log2_exact (hi ▸ hpx),
        fun _ hi m e hm => log2_near hpx h0 hi (hv.trans hm), sin_near hpx h0, cos_near hpx h0⟩
  case narrow =>
    intro f op r
    have ht' : t = .bf16 ∨ t = .f16 := by simpa using ht
    have hf : IsFormat f := isFormat_fmtOf t
    have hb : tyBits t = 1 + f.m + f.e := tyBits_float (by simp at ht; simp; tauto)
    set x := extend false (tyBits t) a with hx
    have hv : fval f x = fval f a := by rw [hx, hb, fval_extend hf]
    have nan : isNan f x = isNan f a := by rw [hx, hb, isNan_extend hf]
    have sig : isSig f x = isSig f a := by rw [hx, hb, isSig_extend hf]
    refine ⟨fun hn => ?nan, fun hn lt order neg => ?value⟩
    case nan => exact sig ▸ approx_nan ht' k (nan.trans hn)
    case value =>
      have hr : r = approx32 k w := (opApprox_f32 k rm w).trans (by rw [extend_of_lt lt])
      have narrow : op = ((roundF .rn f (xvF (fval (fmtOf .f32) r.1))).1, r.2 ||| (roundF .rn f (xvF (fval (fmtOf .f32) r.1))).2) :=
        hr ▸ approx_narrow ht' k (nan.trans hn) (hv ▸ widened (isFormat_fmtOf .f32) hn lt order neg)
      have exact {v : DWord} (h : roundF .rn f (xvF (fval (fmtOf .f32) r.1)) = (v, 0)) : op = (v, r.2) := by
        rw [narrow, h]
        exact congrArg (Prod.mk v) BitVec.or_zero
      refine ⟨fun z hz => ⟨fun h0 => ?_, fun h0 => ?_⟩, fun hi => ?_, fun hn' => ?_⟩
      · refine ⟨_, ?_, congrArg Prod.snd narrow⟩
        rw [narrow]
        exact (stands_fval hz).denotes.delivers hf .rn (by exact_mod_cast h0)
      · exact exact ((stands_fval hz).denotes.roundF_zero f .rn (by exact_mod_cast h0))
      · exact exact (by rw [fval_of_isInf hi]; rfl)
      · exact exact (by rw [fval_of_isNan hn', hr, approx32_quiet k lt]; rfl)

end Sys2Proof.Proofs
end

section
/-! PROOFS. The fields that instructions share: words and bits, codes, operands, immediate values, and what a check that refuses nothing says
(R90, R91, R99 to R102). -/

namespace Sys2Proof.Codec

open Sys2Proof Sys2Proof.Machine

/-! ## The words and fields of an instruction -/

theorem bitsOf_wordsOf (n x : Nat) : bitsOf (wordsOf n x) = x % 2 ^ (32 * n) := by
  induction n generalizing x with
  | zero => rw [Nat.mul_zero, Nat.pow_zero, Nat.mod_one]; rfl
  | succ n ih => rw [wordsOf, bitsOf, ih, BitVec.toNat_ofNat, Nat.mul_succ, Nat.add_comm (32 * n), Nat.pow_add, Nat.mod_mul]

/-- Each field of the extended form's three words within its width (R99). -/
structure XFits (r : XRaw) : Prop where
  z : r.z < 2
  cp : r.cp < 4
  ot : r.ot < 2
  sc : r.sc < 8
  rm : r.rm < 4
  ty : r.ty < 16
  w : r.w < 2
  u : r.u < 2
  gp : r.gp < 16
  gn : r.gn < 2
  xop : r.xop < 1024
  len : r.len < 4
  imm : r.imm < 4096
  fn : r.fn < 256
  ci : r.ci < 512
  ck : r.ck < 4
  bi : r.bi < 512
  bk : r.bk < 4
  ai : r.ai < 512
  ak : r.ak < 4
  di : r.di < 512
  dk : r.dk < 4

theorem xUnpack_xPack {r : XRaw} (h : XFits r) : xUnpack (xPack r) = r := by
  obtain ⟨⟩ := h
  cases r
  simp only [xUnpack, xPack, XRaw.mk.injEq] at *
  refine ⟨?_, ?_, ?_, ?_, ?_, ?_, ?_, ?_, ?_, ?_, ?_, ?_, ?_, ?_, ?_, ?_, ?_, ?_, ?_, ?_, ?_, ?_⟩ <;> omega

theorem xPack_lt {r : XRaw} (h : XFits r) : xPack r < 2 ^ 96 := by
  obtain ⟨⟩ := h
  rw [xPack]
  omega

/-! ## Codes and operand fields -/

theorem tyOfCode_tyCode (t : Ty) : tyOfCode (tyCode t) = t := by cases t <;> rfl
theorem rmOfCode_rmCode (r : Rm) : rmOfCode (rmCode r) = r := by cases r <;> rfl
theorem scOfCode_scCode (s : Sc) : scOfCode (scCode s) = some s := by cases s <;> rfl
theorem cpOfCode_cpCode (c : Cp) : cpOfCode (cpCode c) = c := by cases c <;> rfl
theorem tyCode_lt (t : Ty) : tyCode t < 16 := by cases t <;> decide
theorem rmCode_lt (r : Rm) : rmCode r < 4 := by cases r <;> decide
theorem scCode_lt (s : Sc) : scCode s < 8 := by cases s <;> decide
theorem cpCode_lt (c : Cp) : cpCode c < 4 := by cases c <;> decide
theorem bit_lt (b : Bool) : bit b < 2 := by cases b <;> decide
theorem decide_bit (b : Bool) : decide (bit b = 1) = b := by cases b <;> rfl

theorem ofNat_toNat_self {n : Nat} (x : BitVec n) : BitVec.ofNat n x.toNat = x := (BitVec.ofNat_toNat ..).trans (BitVec.setWidth_eq _)

theorem tyCode_eq_fx (t : Ty) : tyCode t = 15 ↔ t = .fx := by cases t <;> decide

theorem opK_lt (o : Operand) : opK o < 4 := by cases o <;> exact Nat.lt_of_sub_eq_succ rfl

theorem opI_lt (o : Operand) : opI o < 512 := by
  cases o with
  | ev e => cases e <;> decide
  | _ => simp only [opI]; omega

/-- The operand that the class and index of an operand's field name: an empty field reads as `v0`, and an immediate's value
stands elsewhere (R100, R101). -/
def named : Operand → Operand
  | .unused => .v 0
  | .imm _ => .imm 0
  | o => o

/-- An operand before its immediate value has been filled in. -/
def unfilled : Operand → Operand
  | .imm _ => .imm 0
  | o => o

theorem opOf_special (i : Nat) : opOf 2 i = if i < 16 then some (.p (Fin.ofNat 16 i)) else if i < 20 then some (.b (Fin.ofNat 4 (i - 16)))
    else if i = 20 then some .xm else if 256 ≤ i then some (.sy (Fin.ofNat 256 (i - 256))) else (evOfCode i).map .ev := rfl

theorem opOf_field (o : Operand) : opOf (opK o) (opI o) = some (named o) := by
  cases o with
  | v n => exact congrArg (some ∘ Operand.v) (Fin.ofNat_val_eq_self n)
  | s n => exact (if_pos n.isLt).trans (congrArg (some ∘ Operand.s) (Fin.ofNat_val_eq_self n))
  | p n =>
    rw [opK, opOf_special, opI, if_pos n.isLt, Fin.ofNat_val_eq_self]
    rfl
  | b n =>
    rw [opK, opOf_special, opI, if_neg (by omega), if_pos (by omega), Nat.add_sub_cancel_left, Fin.ofNat_val_eq_self]
    rfl
  | sy n =>
    rw [opK, opOf_special, opI, if_neg (by omega), if_neg (by omega), if_neg (by omega), if_pos (by omega),
      Nat.add_sub_cancel_left, Fin.ofNat_val_eq_self]
    rfl
  | ev e => cases e <;> rfl
  | _ => rfl

/-- The classes of an entry's operand tell an empty field from `v0`. -/
def tellsEmpty (cs : List OpClass) : Bool := !(cs.contains .unused && cs.contains .v)

/-- No operand of an entry is a vector where it may also be absent, so an empty field stands for one of the two only. -/
def tellsAll (sp : XSpec) : Bool := tellsEmpty sp.d && tellsEmpty sp.a && tellsEmpty sp.b && tellsEmpty sp.c

theorem emptied_named {cs : List OpClass} {o : Operand} (tells : tellsEmpty cs = true) (h : cs.contains (opClass o) = true) :
    emptied cs false (named o) = unfilled o := by
  cases o with
  | unused => simp_all [emptied, named, unfilled, opClass, tellsEmpty]
  | v n => simp_all [emptied, named, unfilled, opClass, tellsEmpty]
  | _ => simp [emptied, named, unfilled]

theorem fillImm_unfilled (o : Operand) (xs : List DWord) : fillImm (unfilled o) ((immOf o).toList ++ xs) = (o, xs) := by
  cases o <;> rfl

theorem isImm_opK (o : Operand) : isImm (opK o) = (immOf o).toList.length := by cases o <;> rfl

/-! ## Checks -/

theorem firstOf_none {l : List (Option Nat)} : firstOf l = none ↔ ∀ o ∈ l, o = none := by
  induction l with
  | nil => simp [firstOf]
  | cons o l ih => cases o <;> simp [firstOf, ih]

theorem need_none {c : Bool} {n : Nat} : need c n = none ↔ c = true := by cases c <;> simp [need]

theorem refused_none {c : Prop} [Decidable c] {n : Nat} {o : Option Nat} : (if c then some n else o) = none ↔ ¬c ∧ o = none := by
  split <;> simp [*]

theorem classCheck_none {dest : Bool} {cs : List OpClass} {o : Operand} : classCheck dest cs o = none ↔ cs.contains (opClass o) = true := by
  unfold classCheck
  split_ifs <;> simp_all

/-! ## Immediate values -/

theorem sext64_toNat_mod {n : Nat} {x : DWord} (h : signFits n x = true) : sext64 n (x.toNat % 2 ^ n) = x := by
  have fits : (x.setWidth n).signExtend 64 = x := by simpa [signFits] using h
  rw [sext64, ← BitVec.toNat_setWidth, ofNat_toNat_self, fits]

/-- Immediate values that a form carries (R101). -/
def Carried : Form → List DWord → Prop
  | .x, [] => True
  | .x, [x] => signFits 12 x = true
  | .xl, [_] => True
  | .xl, [x, _] => signFits 12 x = true
  | .xl, [x, y, z] => signFits 12 x = true ∧ signFits 32 y = true ∧ signFits 32 z = true
  | _, _ => False

/-- The code of LEN for a form of layout XG or XB (R90). -/
def lenOf (f : Form) : Nat := if f = .x then 1 else 3

/-- The values read from the IMM field and the literal that carry some immediate values. -/
def reread (f : Form) (xs : List DWord) : Except Nat (List DWord) :=
  immValues (lenOf f) xs.length (immFields f xs).1 (immFields f xs).2

theorem reread_short (x : DWord) : reread .x [x] = .ok [sext64 12 (x.toNat % 2 ^ 12)] := rfl
theorem reread_one (x : DWord) : reread .xl [x] = .ok [BitVec.ofNat 64 x.toNat] := rfl
theorem reread_two (x y : DWord) : reread .xl [x, y] = .ok [sext64 12 (x.toNat % 2 ^ 12), BitVec.ofNat 64 y.toNat] := rfl

theorem reread_three (x y z : DWord) : reread .xl [x, y, z] =
    .ok [sext64 12 (x.toNat % 2 ^ 12), sext64 32 (y.toNat % 2 ^ 32), sext64 32 (z.toNat % 2 ^ 32)] := by
  have low : (y.toNat % 2 ^ 32 + 2 ^ 32 * (z.toNat % 2 ^ 32)) % 2 ^ 32 = y.toNat % 2 ^ 32 := by omega
  have high : (y.toNat % 2 ^ 32 + 2 ^ 32 * (z.toNat % 2 ^ 32)) / 2 ^ 32 = z.toNat % 2 ^ 32 := by omega
  have eq : reread .xl [x, y, z] = .ok [sext64 12 (x.toNat % 2 ^ 12), sext64 32 ((y.toNat % 2 ^ 32 + 2 ^ 32 * (z.toNat % 2 ^ 32)) % 2 ^ 32),
    sext64 32 ((y.toNat % 2 ^ 32 + 2 ^ 32 * (z.toNat % 2 ^ 32)) / 2 ^ 32)] := rfl
  rw [eq, low, high]

theorem reread_of_carried {f : Form} {xs : List DWord} (h : Carried f xs) : reread f xs = .ok xs := by
  match f, xs, h with
  | .x, [], _ => rfl
  | .x, [x], (h : signFits 12 x = true) => rw [reread_short, sext64_toNat_mod h]
  | .xl, [x], _ => rw [reread_one, ofNat_toNat_self]
  | .xl, [x, y], (h : signFits 12 x = true) => rw [reread_two, sext64_toNat_mod h, ofNat_toNat_self]
  | .xl, [x, y, z], ⟨hx, hy, hz⟩ => rw [reread_three, sext64_toNat_mod hx, sext64_toNat_mod hy, sext64_toNat_mod hz]

theorem immFields_lt (f : Form) (xs : List DWord) : (immFields f xs).1 < 4096 ∧ (immFields f xs).2 < 2 ^ 64 := by
  unfold immFields
  split <;> omega

end Sys2Proof.Codec
end

section
/-! PROOFS. The extended forms decode to what was encoded: layouts XG and XB (R99 to R105). -/

namespace Sys2Proof.Codec

open Sys2Proof Sys2Proof.Machine

/-! ## The operands of the layout XG (R99 to R101) -/

/-- The operand in the C field: the binary point of R143 stands in IMM. -/
def inC (sp : XSpec) (f : XForm) : Operand := if sp.fixed then .unused else f.c

/-- An XG instruction is fixed-point when one of its two types is (R143). -/
def pointed (f : XForm) : Bool := f.ty = .fx || f.fn = 15

/-- The fields of an extended instruction: its modifiers, D and A, an operand in B, and what the layout puts in C and IMM. -/
def rawOf (xop : Nat) (f : XForm) (b : Operand) (ci ck imm : Nat) : XRaw :=
  { cp := cpCode f.cp, ot := bit f.col, sc := scCode f.sc, rm := rmCode f.rm, ty := tyCode f.ty, w := bit f.sup, u := bit f.uni,
    gp := f.gp.val, gn := bit f.gn, xop, len := lenOf f.form, imm, fn := f.fn.toNat, ci, ck, bi := opI b, bk := opK b,
    ai := opI f.a, ak := opK f.a, di := opI f.d, dk := opK f.d }

theorem fits_rawOf {xop : Nat} (f : XForm) (b : Operand) {ci ck imm : Nat} (hx : xop < 1024) (hi : ci < 512) (hk : ck < 4)
    (hm : imm < 4096) : XFits (rawOf xop f b ci ck imm) where
  z := Nat.two_pos
  cp := cpCode_lt _
  ot := bit_lt _
  sc := scCode_lt _
  rm := rmCode_lt _
  ty := tyCode_lt _
  w := bit_lt _
  u := bit_lt _
  gp := f.gp.isLt
  gn := bit_lt _
  xop := hx
  len := by simp only [rawOf, lenOf]; split <;> decide
  imm := hm
  fn := f.fn.isLt
  ci := hi
  ck := hk
  bi := opI_lt _
  bk := opK_lt _
  ai := opI_lt _
  ak := opK_lt _
  di := opI_lt _
  dk := opK_lt _

/-- An instruction's fields without its operands. -/
def modifiers (f : XForm) : XForm := { f with d := .unused, a := .unused, b := .unused, c := .unused }

theorem formOf_rawOf {f : XForm} (hf : f.form ≠ .bl) (xop : Nat) (b : Operand) (ci ck imm : Nat) :
    formOf (rawOf xop f b ci ck imm) f.sc = modifiers f := by
  have form : (if lenOf f.form = 1 then Form.x else Form.xl) = f.form := by
    generalize f.form = g at hf
    cases g with
    | x => rfl
    | xl => rfl
    | bl => contradiction
  rw [formOf, modifiers, XForm.mk.injEq]
  exact ⟨form, decide_bit _, Fin.ofNat_val_eq_self _, decide_bit _, decide_bit _, tyOfCode_tyCode _, rmOfCode_rmCode _, rfl, decide_bit _,
    cpOfCode_cpCode _, ofNat_toNat_self _, rfl, rfl, rfl, rfl⟩

/-- A destination that an entry allows: a suppressed one is empty (R22, R107). -/
def DestAllowed (cs : List OpClass) (f : XForm) : Prop := if f.sup then f.d = .unused else cs.contains (opClass f.d) = true

/-- The operands of an XG instruction that its checks let through. -/
structure XGood (sp : XSpec) (f : XForm) : Prop where
  d : DestAllowed sp.d f
  a : sp.a.contains (opClass f.a) = true
  b : sp.b.contains (opClass f.b) = true
  c : sp.c.contains (opClass f.c) = true

theorem emptied_dest {cs : List OpClass} {f : XForm} (tells : tellsEmpty cs = true) (h : DestAllowed cs f) :
    emptied cs f.sup (named f.d) = unfilled f.d := by
  unfold DestAllowed at h
  cases hs : f.sup with
  | true =>
    rw [hs, if_pos rfl] at h
    rw [h]
    rfl
  | false =>
    rw [hs, if_neg Bool.false_ne_true] at h
    exact emptied_named tells h

theorem imms_eq (sp : XSpec) (f : XForm) :
    imms sp f = (immOf f.d).toList ++ ((immOf f.a).toList ++ ((immOf f.b).toList ++ ((immOf (inC sp f)).toList ++ []))) := by
  cases h : sp.fixed <;> simp [imms, inC, h, immOf]

theorem count_imms (sp : XSpec) (f : XForm) :
    isImm (opK f.d) + isImm (opK f.a) + isImm (opK f.b) + isImm (opK (inC sp f)) = (imms sp f).length := by
  simp only [imms_eq, isImm_opK, List.length_append, List.length_nil]
  omega

/-- The IMM field of an XG instruction: the binary point of R143, or an immediate value (R101). -/
def immOfField (sp : XSpec) (f : XForm) : Nat :=
  if sp.fixed then (if pointed f then immVal f.c % 4096 else 0) else (immFields f.form (imms sp f)).1

/-- What R143 asks of the binary point, and of an immediate beside it. -/
structure PointGood (sp : XSpec) (f : XForm) : Prop where
  point : if pointed f then ∃ x, f.c = .imm x ∧ x.toNat < 4096 else f.c = .unused
  imm : (immFields f.form (imms sp f)).1 = 0
  empty : sp.c.contains .unused = true

/-- What is left in IMM for an immediate value, beside the binary point. -/
theorem beside_point {sp : XSpec} {f : XForm} (fixed : sp.fixed = true → PointGood sp f) :
    (if sp.fixed then (if pointed f then 0 else immOfField sp f) else immOfField sp f) = (immFields f.form (imms sp f)).1 := by
  rw [immOfField]
  cases h : sp.fixed with
  | false => rfl
  | true =>
    rw [if_pos rfl, (fixed h).imm]
    cases pointed f <;> rfl

theorem point_immOfField {sp : XSpec} {f : XForm} (h : sp.fixed = true) (good : PointGood sp f) :
    (if pointed f then Operand.imm (BitVec.ofNat 64 (immOfField sp f)) else .unused) = f.c := by
  obtain ⟨point, -, -⟩ := good
  rw [immOfField, h, if_pos rfl]
  cases hp : pointed f with
  | false =>
    rw [hp, if_neg Bool.false_ne_true] at point
    exact point.symm
  | true =>
    rw [hp, if_pos rfl] at point
    obtain ⟨x, hx, lt⟩ := point
    simp [hx, immVal, Nat.mod_eq_of_lt lt]

theorem inC_allowed {sp : XSpec} {f : XForm} (c : sp.c.contains (opClass f.c) = true) (fixed : sp.fixed = true → PointGood sp f) :
    sp.c.contains (opClass (inC sp f)) = true := by
  unfold inC
  split
  case isTrue h => exact (fixed h).empty
  case isFalse => exact c

theorem pointed_rawOf (xop : Nat) (f : XForm) (b : Operand) (ci ck imm : Nat) :
    (decide ((rawOf xop f b ci ck imm).ty = 15) || decide ((rawOf xop f b ci ck imm).fn = 15)) = pointed f :=
  congrArg₂ _ (decide_eq_decide.mpr (tyCode_eq_fx f.ty)) (decide_eq_decide.mpr (BitVec.toNat_inj (y := 15#8)))

theorem xgOperands_rawOf {sp : XSpec} {f : XForm} (tells : tellsAll sp = true)
    (good : XGood sp f) (carried : Carried f.form (imms sp f)) (fixed : sp.fixed = true → PointGood sp f) (xop : Nat) {r : XRaw}
    (hr : r = rawOf xop f f.b (opI (inC sp f)) (opK (inC sp f)) (immOfField sp f)) :
    xgOperands sp r (immFields f.form (imms sp f)).2 (modifiers f) = .ok f := by
  simp only [tellsAll, Bool.and_eq_true] at tells
  obtain ⟨⟨⟨td, ta⟩, tb⟩, tc⟩ := tells
  obtain ⟨d, a, b, c⟩ := good
  have hc := inC_allowed c fixed
  have fx : (decide (r.ty = 15) || decide (r.fn = 15)) = pointed f := hr ▸ pointed_rawOf ..
  have him : r.imm = immOfField sp f := congrArg XRaw.imm hr
  have field : (if sp.fixed then (if pointed f then 0 else r.imm) else r.imm) = (immFields f.form (imms sp f)).1 := him ▸ beside_point fixed
  have values : immValues r.len (isImm r.dk + isImm r.ak + isImm r.bk + isImm r.ck) (immFields f.form (imms sp f)).1
      (immFields f.form (imms sp f)).2 = .ok (imms sp f) := by
    rw [hr]
    change immValues _ (isImm (opK f.d) + isImm (opK f.a) + isImm (opK f.b) + isImm (opK (inC sp f))) _ _ = _
    rw [count_imms]
    exact reread_of_carried carried
  have od : opOf r.dk r.di = some (named f.d) := hr ▸ opOf_field _
  have oa : opOf r.ak r.ai = some (named f.a) := hr ▸ opOf_field _
  have ob : opOf r.bk r.bi = some (named f.b) := hr ▸ opOf_field _
  have oc : opOf r.ck r.ci = some (named (inC sp f)) := hr ▸ opOf_field _
  have ed : emptied sp.d (modifiers f).sup (named f.d) = unfilled f.d := emptied_dest td d
  simp only [xgOperands, od, oa, ob, oc, fx, field, values]
  simp only [ed, emptied_named ta a, emptied_named tb b, emptied_named tc hc, imms_eq sp f, fillImm_unfilled]
  cases h : sp.fixed with
  | false => simp [inC, h, modifiers]
  | true =>
    have point : (if pointed f then Operand.imm (BitVec.ofNat 64 r.imm) else .unused) = f.c := him ▸ point_immOfField h (fixed h)
    simp [inC, h, point, modifiers]

/-! ## The operands of the layout XB (R103) -/

/-- The branch offset as the number whose digits are C, its class and IMM. -/
def target (f : XForm) : Nat := immVal f.c % 2 ^ 23

/-- An operand field that holds no immediate. -/
def plain (cs : List OpClass) : Bool := !cs.contains .imm

/-- The fields of a branch other than its offsets hold no immediate (R120). -/
def plainAll (sp : XSpec) : Bool := plain sp.d && plain sp.a && plain sp.b

theorem immOf_plain {cs : List OpClass} {o : Operand} (p : plain cs = true) (h : cs.contains (opClass o) = true) : immOf o = none := by
  cases o with
  | imm x => simp_all [plain, opClass]
  | _ => rfl

theorem unfilled_of_immOf {o : Operand} (h : immOf o = none) : unfilled o = o := by
  cases o with
  | imm x => cases h
  | _ => rfl

theorem immOf_dest {cs : List OpClass} {f : XForm} (p : plain cs = true) (h : DestAllowed cs f) : immOf f.d = none := by
  unfold DestAllowed at h
  split at h
  · rw [h]; rfl
  · exact immOf_plain p h

/-- The operands of a branch that its checks let through. -/
structure BranchGood (brd : Bool) (sp : XSpec) (f : XForm) : Prop where
  d : DestAllowed sp.d f
  a : sp.a.contains (opClass f.a) = true
  b : sp.b.contains (opClass (if brd then .unused else f.b)) = true
  c : ∃ x, f.c = .imm x ∧ signFits 23 x = true
  label : brd = true → ∃ y, f.b = .imm y ∧ signFits 32 y = true

theorem target_digits (t : Nat) : (t / 4096 % 512 + 512 * (t / 4096 / 512)) * 4096 + t % 4096 = t := by omega

/-- The literal of a branch: BRD's second label (R103). -/
def labelOf (brd : Bool) (f : XForm) : Nat := if brd then immVal f.b % 2 ^ 32 else 0

theorem xbOperands_rawOf {brd : Bool} {sp : XSpec} {f : XForm}
    (tells : tellsAll sp = true)
    (plains : plainAll sp = true) (good : BranchGood brd sp f) (xop : Nat) {r : XRaw}
    (hr : r = rawOf xop f (if brd then .unused else f.b) (target f / 4096 % 512) (target f / 4096 / 512) (target f % 4096)) :
    xbOperands brd sp r (labelOf brd f) (modifiers f) = .ok f := by
  simp only [tellsAll, plainAll, Bool.and_eq_true] at tells plains
  obtain ⟨⟨⟨td, ta⟩, tb⟩, -⟩ := tells
  obtain ⟨⟨pd, pa⟩, pb⟩ := plains
  obtain ⟨d, a, b, ⟨x, hx, fits⟩, label⟩ := good
  have od : opOf r.dk r.di = some (named f.d) := hr ▸ opOf_field _
  have oa : opOf r.ak r.ai = some (named f.a) := hr ▸ opOf_field _
  have ob : opOf r.bk r.bi = some (named (if brd then .unused else f.b)) := hr ▸ opOf_field _
  have ed : emptied sp.d (modifiers f).sup (named f.d) = f.d := (emptied_dest td d).trans (unfilled_of_immOf (immOf_dest pd d))
  have ea : emptied sp.a false (named f.a) = f.a := (emptied_named ta a).trans (unfilled_of_immOf (immOf_plain pa a))
  have eb := (emptied_named tb b).trans (unfilled_of_immOf (immOf_plain pb b))
  have t : sext64 23 ((r.ci + 512 * r.ck) * 4096 + r.imm) = x := by
    rw [hr]
    change sext64 23 ((target f / 4096 % 512 + 512 * (target f / 4096 / 512)) * 4096 + target f % 4096) = x
    rw [target_digits, target, hx]
    exact sext64_toNat_mod fits
  simp only [xbOperands, od, oa, ob, ed, ea, eb, t]
  cases brd with
  | false =>
    rw [← hx]
    rfl
  | true =>
    obtain ⟨y, hy, fits'⟩ := label rfl
    have high : y.toNat % 2 ^ 32 / 2 ^ 32 = 0 := Nat.div_eq_of_lt (Nat.mod_lt _ (by decide))
    have lab : labelOf true f = y.toNat % 2 ^ 32 := by rw [labelOf, if_pos rfl, hy, immVal]
    rw [lab, high, sext64_toNat_mod fits', ← hx, ← hy]
    rfl

/-! ## What the checks say -/

theorem carried_of_formCheck {sp : XSpec} {f : XForm} (hx : sp.xb = false) (h : formCheck sp f = none) : Carried f.form (imms sp f) := by
  unfold formCheck at h
  rw [hx, if_neg Bool.false_ne_true] at h
  generalize imms sp f = xs at h
  generalize f.form = g at h
  match g, xs, h with
  | .x, [], _ => trivial
  | .x, [x], h =>
    obtain ⟨-, h⟩ := refused_none.mp h
    by_contra hx
    simp [show signFits 12 x = false from Bool.eq_false_of_not_eq_true hx] at h
  | .x, _ :: _ :: _, h => simp at h
  | .xl, [], h => simp at h
  | .xl, [x], _ => trivial
  | .xl, [x, y], h => exact need_none.mp (refused_none.mp h).2
  | .xl, [x, y, z], h => simpa [Carried, and_assoc] using need_none.mp (refused_none.mp h).2
  | .xl, _ :: _ :: _ :: _ :: _, h => simp at h

theorem suppressed_of_modCheck {sp : XSpec} {f : XForm} (h : modCheck sp f = none) (hs : f.sup = true) : f.d = .unused := by
  have last := firstOf_none.mp h (need (!f.sup || f.d = .unused) 2) (by simp)
  simpa [hs] using need_none.mp last

theorem destAllowed_of_checks {sp : XSpec} {f : XForm} (m : modCheck sp f = none)
    (h : ¬f.sup = true → sp.d.contains (opClass f.d) = true) : DestAllowed sp.d f := by
  unfold DestAllowed
  split
  case isTrue hs => exact suppressed_of_modCheck m hs
  case isFalse hs => exact h hs

theorem xGood_of_checks {sp : XSpec} {f : XForm} (m : modCheck sp f = none) (h : operandCheck sp f = none) : XGood sp f := by
  simp only [operandCheck, firstOf_none, List.forall_mem_cons, classCheck_none (dest := false)] at h
  obtain ⟨d, a, b, c, -⟩ := h
  exact ⟨destAllowed_of_checks m fun hs => classCheck_none.mp ((if_neg hs).symm.trans d), a, b, c⟩

theorem branch_of_branchCheck {brd : Bool} {f : XForm} (h : branchCheck brd f = none) :
    (∃ x, f.c = .imm x ∧ signFits 23 x = true) ∧ f.form = (if brd then .xl else .x) ∧
      (brd = true → ∃ y, f.b = .imm y ∧ signFits 32 y = true) := by
  unfold branchCheck at h
  cases hc : f.c with
  | imm x =>
    rw [hc] at h
    obtain ⟨fits, h⟩ := refused_none.mp h
    refine ⟨⟨x, rfl, by simpa using fits⟩, ?_⟩
    cases brd with
    | false => exact ⟨of_decide_eq_true (need_none.mp h), fun hb => absurd hb Bool.false_ne_true⟩
    | true =>
      cases hb : f.b with
      | imm y =>
        rw [hb] at h
        obtain ⟨form, h⟩ := refused_none.mp h
        exact ⟨not_not.mp form, fun _ => ⟨y, rfl, need_none.mp h⟩⟩
      | _ => simp [hb] at h
  | _ => simp [hc] at h

/-! ## The number of an extended instruction -/

theorem encodeX_operands {xop : Nat} {sp : XSpec} {f : XForm} (hx : sp.xb = false) (brd : Bool) :
    encodeX xop sp brd f =
      xPack (rawOf xop f f.b (opI (inC sp f)) (opK (inC sp f)) (immOfField sp f)) + 2 ^ 96 * (immFields f.form (imms sp f)).2 := by
  unfold encodeX inC immOfField
  rw [hx]
  cases sp.fixed <;> rfl

theorem encodeX_branch {xop : Nat} {sp : XSpec} {f : XForm} (hx : sp.xb = true) (brd : Bool) :
    encodeX xop sp brd f =
      xPack (rawOf xop f (if brd then .unused else f.b) (target f / 4096 % 512) (target f / 4096 / 512) (target f % 4096))
        + 2 ^ 96 * labelOf brd f := by
  unfold encodeX labelOf
  rw [hx]
  cases brd with
  | false =>
    rw [if_neg Bool.false_ne_true, if_neg Bool.false_ne_true, Nat.mul_zero, Nat.add_zero]
    rfl
  | true => rfl

theorem decodeBits_extended {r : XRaw} (fits : XFits r) {lit : Nat} (h : r.len = 1 ∧ lit = 0 ∨ r.len = 3 ∧ lit < 2 ^ 64) :
    decodeBits (xPack r + 2 ^ 96 * lit) = decodeX (xPack r) lit := by
  have lt := xPack_lt fits
  have len : (xPack r + 2 ^ 96 * lit) / 2 ^ 30 % 4 = r.len := by
    have same : (xPack r + 2 ^ 96 * lit) / 2 ^ 30 % 4 = xPack r / 2 ^ 30 % 4 := by omega
    exact same.trans (congrArg XRaw.len (xUnpack_xPack fits))
  have low : (xPack r + 2 ^ 96 * lit) % 2 ^ 96 = xPack r := by omega
  have high : (xPack r + 2 ^ 96 * lit) / 2 ^ 96 = lit := by omega
  obtain ⟨hl, rfl⟩ | ⟨hl, hlit⟩ := h
  · simp only [decodeBits, len, low, hl, OfNat.one_ne_ofNat, one_ne_zero, if_false]
  · simp only [decodeBits, len, low, high, hl, Nat.mod_eq_of_lt hlit, OfNat.ofNat_ne_zero, Nat.reduceEqDiff, if_true, if_false]

/-- A number is the bits of an instruction of some length in bytes: it fits into that many bytes, and decodes to the instruction. -/
structure Reads (x len : Nat) (i : Instr) : Prop where
  lt : x < 2 ^ (8 * len)
  words : len % 4 = 0
  decodes : decodeBits x = .ok (i, len)

theorem Reads.bitsOf_words {x len : Nat} {i : Instr} (h : Reads x len i) : bitsOf (wordsOf (len / 4) x) = x := by
  obtain ⟨lt, words, -⟩ := h
  have bits : 32 * (len / 4) = 8 * len := by omega
  rw [bitsOf_wordsOf, bits, Nat.mod_eq_of_lt lt]

theorem extended_lt {x lit len : Nat} (lt : x < 2 ^ 96) (h : len = 1 ∧ lit = 0 ∨ len = 3 ∧ lit < 2 ^ 64) :
    x + 2 ^ 96 * lit < 2 ^ (8 * (if len = 1 then 12 else 20)) := by
  obtain ⟨rfl, rfl⟩ | ⟨rfl, hlit⟩ := h
  · rw [if_pos rfl]
    omega
  · rw [if_neg (by decide)]
    omega

theorem reads_extended {r : XRaw} (fits : XFits r) {lit : Nat} {i : Instr} (h : r.len = 1 ∧ lit = 0 ∨ r.len = 3 ∧ lit < 2 ^ 64)
    (d : decodeX (xPack r) lit = .ok (i, if r.len = 1 then 12 else 20)) :
    Reads (xPack r + 2 ^ 96 * lit) (if r.len = 1 then 12 else 20) i :=
  ⟨extended_lt (xPack_lt fits) h, by split <;> rfl, (decodeBits_extended fits h).trans d⟩

/-! ## The entries of the opcode map -/

/-- What the entry of an instruction of layout XG or XB says of its encoding. -/
structure XEntry (i : Instr) (xop : Nat) (sp : XSpec) (f : XForm) : Prop where
  decodes : ∃ mk, xInstr xop = some mk ∧ mk f = i ∧ (∃ f', xspec (mk {}) = some (xop, sp, f')) ∧ isBrd (mk {}) = isBrd i
  lt : xop < 1024
  tells : tellsAll sp = true
  plains : (!sp.xb || plainAll sp) = true
  label : (!isBrd i || sp.b.contains .unused) = true
  fixed : sp.fixed = decide (xop = 0x05D)

theorem xspec_entry {i : Instr} {xop : Nat} {sp : XSpec} {f : XForm} (h : xspec i = some (xop, sp, f)) : XEntry i xop sp f := by
  cases i <;> cases h <;>
    exact { decodes := ⟨_, rfl, rfl, ⟨_, rfl⟩, rfl⟩, lt := by decide, tells := rfl, plains := rfl, label := rfl, fixed := rfl }

/-- Only CVT keeps a binary point in IMM (R143). -/
theorem XEntry.eq_cvt {i : Instr} {xop : Nat} {sp : XSpec} {f : XForm} (e : XEntry i xop sp f) (h : sp.fixed = true) : i = .cvt f := by
  obtain ⟨mk, hm, rfl, -⟩ := e.decodes
  obtain rfl : xop = 0x05D := of_decide_eq_true (e.fixed ▸ h)
  cases hm
  rfl

theorem point_of_cvtExtra {f : XForm} (h : cvtExtra f = none) (hc : [OpClass.imm, .unused].contains (opClass f.c) = true) :
    if pointed f then ∃ x, f.c = .imm x ∧ x.toNat < 4096 else f.c = .unused := by
  obtain ⟨-, h⟩ := refused_none.mp h
  obtain ⟨-, h⟩ := refused_none.mp h
  cases ho : f.c with
  | imm x =>
    rw [ho] at h
    have allowed : (if pointed f && x.toNat < 64 then none else some 3) = none := h
    obtain ⟨hp, lt⟩ : pointed f = true ∧ x.toNat < 64 := by simpa using allowed
    rw [hp, if_pos rfl]
    exact ⟨x, rfl, by omega⟩
  | unused =>
    rw [ho] at h
    have allowed : (if pointed f then some 3 else none) = none := h
    have hp : pointed f = false := by simpa using allowed
    rw [hp, if_neg Bool.false_ne_true]
  | _ => simp [ho, opClass] at hc

theorem immFields_of_fixed {sp : XSpec} {f : XForm} (hx : sp.xb = false) (fixed : sp.fixed = true) (few : (imms sp f).length ≤ 1)
    (h : formCheck sp f = none) : (immFields f.form (imms sp f)).1 = 0 := by
  unfold formCheck at h
  rw [hx, if_neg Bool.false_ne_true] at h
  generalize imms sp f = xs at h few
  generalize f.form = g at h
  match g, xs, few, h with
  | .x, [], _, _ => rfl
  | .x, [x], _, h =>
    obtain ⟨zero, -⟩ := refused_none.mp h
    have carries : cvtZero f [x] = true := by
      by_contra hc
      simp [fixed, hc] at zero
    obtain ⟨⟨rfl, -⟩, -⟩ : (x = 0 ∧ f.c = .unused) ∧ _ := by simpa [cvtZero] using carries
    rfl
  | .xl, [], _, _ => rfl
  | .xl, [_], _, _ => rfl

theorem pointGood_of_cvt {xop : Nat} {sp : XSpec} {f : XForm} (h : xspec (.cvt f) = some (xop, sp, f)) (good : XGood sp f)
    (form : formCheck sp f = none) (extra : sp.extra f = none) : PointGood sp f := by
  cases h
  refine ⟨point_of_cvtExtra extra good.c, immFields_of_fixed rfl rfl ?_ form, rfl⟩
  have d : immOf f.d = none := immOf_dest rfl good.d
  have b : immOf f.b = none := immOf_plain rfl good.b
  rw [imms, d, b, if_pos rfl]
  cases immOf f.a <;> exact Nat.le_of_ble_eq_true rfl

/-- An extended word decodes by its raw fields: the entry of its XOP value and the operands that its layout reads. -/
theorem decodeX_eq {x lit : Nat} {r : XRaw} {mk : XForm → Instr} {xop : Nat} {sp : XSpec} {f f' : XForm} (hr : xUnpack x = r) (hz : r.z = 0)
    (hop : xInstr r.xop = some mk) (hs : xspec (mk {}) = some (xop, sp, f')) (hsc : scOfCode r.sc = some f.sc)
    (ops : (if sp.xb then xbOperands (isBrd (mk {})) sp r lit (formOf r f.sc) else xgOperands sp r lit (formOf r f.sc)) = .ok f)
    (wf : illegal (mk f) = none) : decodeX x lit = .ok (mk f, if r.len = 1 then 12 else 20) := by
  simp only [decodeX, hr, hop, hs, hz, hsc, ops, checked, wf]
  rfl

theorem illegal_of_xspec {i : Instr} {xop : Nat} {sp : XSpec} {f : XForm} (h : xspec i = some (xop, sp, f)) (hf : f.form ≠ .bl) :
    illegal i = xCheck i sp f := by
  rw [illegal, h]
  exact if_neg hf

theorem immOfField_lt (sp : XSpec) (f : XForm) : immOfField sp f < 4096 := by
  have bounds := immFields_lt f.form (imms sp f)
  unfold immOfField
  split_ifs <;> omega

theorem len_immFields {g : Form} (hg : g ≠ .bl) (xs : List DWord) :
    lenOf g = 1 ∧ (immFields g xs).2 = 0 ∨ lenOf g = 3 ∧ (immFields g xs).2 < 2 ^ 64 := by
  cases g with
  | x =>
    refine .inl ⟨rfl, ?_⟩
    match xs with
    | [] => rfl
    | [_] => rfl
    | _ :: _ :: _ => rfl
  | xl => exact .inr ⟨rfl, (immFields_lt _ _).2⟩
  | bl => contradiction

theorem bytes_lenOf (g : Form) : (if lenOf g = 1 then 12 else 20) = if g = .x then 12 else 20 := by cases g <;> rfl

/-- An instruction of layout XG decodes to itself. -/
theorem reads_encodeX_operands {i : Instr} {xop : Nat} {sp : XSpec} {f : XForm} (h : xspec i = some (xop, sp, f)) (hf : f.form ≠ .bl)
    (hx : sp.xb = false) (wf : illegal i = none) :
    Reads (encodeX xop sp (isBrd i) f) (if f.form = .x then 12 else 20) i := by
  have e := xspec_entry h
  have checks := (illegal_of_xspec h hf).symm.trans wf
  rw [xCheck, hx, if_neg Bool.false_ne_true, firstOf_none] at checks
  simp only [List.forall_mem_cons] at checks
  obtain ⟨form, mods, ops, extra, -⟩ := checks
  have good := xGood_of_checks mods ops
  have fixed : sp.fixed = true → PointGood sp f := fun hf => by
    obtain rfl := e.eq_cvt hf
    exact pointGood_of_cvt h good form extra
  have carried := carried_of_formCheck hx form
  obtain ⟨mk, hop, rfl, ⟨f', hs⟩, -⟩ := e.decodes
  have fits := fits_rawOf f f.b e.lt (opI_lt (inC sp f)) (opK_lt (inC sp f)) (immOfField_lt sp f)
  rw [encodeX_operands hx, ← bytes_lenOf]
  refine reads_extended fits (len_immFields hf _) (decodeX_eq (xUnpack_xPack fits) rfl hop hs (scOfCode_scCode _) ?_ wf)
  rw [hx, if_neg Bool.false_ne_true, formOf_rawOf hf]
  exact xgOperands_rawOf e.tells good carried fixed xop rfl

theorem branchGood_of_checks {brd : Bool} {sp : XSpec} {f : XForm} (label : (!brd || sp.b.contains .unused) = true)
    (c : branchCheck brd f = none) (m : modCheck sp f = none) (h : branchOperands sp brd f = none) : BranchGood brd sp f := by
  simp only [branchOperands, firstOf_none, List.forall_mem_cons] at h
  obtain ⟨d, a, b, -⟩ := h
  obtain ⟨target, -, second⟩ := branch_of_branchCheck c
  refine ⟨destAllowed_of_checks m fun _ => classCheck_none.mp d, classCheck_none.mp a, ?_, target, second⟩
  cases brd with
  | true => exact label
  | false => exact classCheck_none.mp b

theorem branch_form {brd : Bool} {f : XForm} (h : f.form = (if brd then .xl else .x)) :
    lenOf f.form = 1 ∧ labelOf brd f = 0 ∨ lenOf f.form = 3 ∧ labelOf brd f < 2 ^ 64 := by
  cases brd with
  | false => exact .inl ⟨by rw [h]; rfl, rfl⟩
  | true => exact .inr ⟨by rw [h]; rfl, by rw [labelOf, if_pos rfl]; omega⟩

/-- An instruction of layout XB decodes to itself. -/
theorem reads_encodeX_branch {i : Instr} {xop : Nat} {sp : XSpec} {f : XForm} (h : xspec i = some (xop, sp, f)) (hf : f.form ≠ .bl)
    (hx : sp.xb = true) (wf : illegal i = none) :
    Reads (encodeX xop sp (isBrd i) f) (if f.form = .x then 12 else 20) i := by
  have e := xspec_entry h
  have checks := (illegal_of_xspec h hf).symm.trans wf
  rw [xCheck, hx, if_pos rfl, firstOf_none] at checks
  simp only [List.forall_mem_cons] at checks
  obtain ⟨offsets, mods, ops, -, -⟩ := checks
  have good := branchGood_of_checks e.label offsets mods ops
  obtain ⟨-, form, -⟩ := branch_of_branchCheck offsets
  have plains : plainAll sp = true := by simpa [hx] using e.plains
  obtain ⟨mk, hop, rfl, ⟨f', hs⟩, brd⟩ := e.decodes
  have lt : target f < 2 ^ 23 := Nat.mod_lt _ (by decide)
  have fits := fits_rawOf f (if isBrd (mk f) then .unused else f.b) e.lt (Nat.mod_lt (target f / 4096) (by decide : 512 > 0))
    (show target f / 4096 / 512 < 4 by omega) (Nat.mod_lt (target f) (by decide : 4096 > 0))
  rw [encodeX_branch hx, ← bytes_lenOf]
  refine reads_extended fits (branch_form form) (decodeX_eq (xUnpack_xPack fits) rfl hop hs (scOfCode_scCode _) ?_ wf)
  rw [hx, if_pos rfl, formOf_rawOf hf, brd]
  exact xbOperands_rawOf e.tells plains good xop rfl

end Sys2Proof.Codec
end

section
/-! PROOFS. Base words decode to what was encoded, with and without a literal (R94 to R98). -/

namespace Sys2Proof.Codec

open Sys2Proof Sys2Proof.Machine

/-! ## The base word (R94) -/

/-- Each field of a base word within its width (R94). -/
structure BFits (r : BRaw) : Prop where
  b : r.b < 64
  a : r.a < 64
  d : r.d < 64
  cl : r.cl < 4
  w : r.w < 2
  u : r.u < 2
  g : r.g < 4
  op : r.op < 64
  len : r.len < 4

theorem bUnpack_bPack {r : BRaw} (h : BFits r) : bUnpack (bPack r) = r := by
  obtain ⟨⟩ := h
  cases r
  simp only [bUnpack, bPack, BRaw.mk.injEq] at *
  refine ⟨?_, ?_, ?_, ?_, ?_, ?_, ?_, ?_, ?_⟩ <;> omega

theorem bPack_lt {r : BRaw} (h : BFits r) : bPack r < 2 ^ 32 := by
  obtain ⟨⟩ := h
  rw [bPack]
  omega

theorem decodeBits_base {x : Nat} (lt : x < 2 ^ 30) : decodeBits x = decodeB x := by
  have len : x / 2 ^ 30 % 4 = 0 := by omega
  have low : x % 2 ^ 32 = x := by omega
  simp only [decodeBits, len, low, if_true]

theorem bPack_lt_of_len {r : BRaw} (h : BFits r) (hl : r.len = 0) : bPack r < 2 ^ 30 := by
  obtain ⟨⟩ := h
  rw [bPack, hl]
  omega

theorem decodeBits_literal {r : BRaw} (fits : BFits r) (hl : r.len = 2) {lit : Nat} (lt : lit < 2 ^ 64) :
    decodeBits (bPack r + 2 ^ 32 * lit) = decodeL (bPack r) lit := by
  have lt' := bPack_lt fits
  have len : (bPack r + 2 ^ 32 * lit) / 2 ^ 30 % 4 = 2 := by
    have same : (bPack r + 2 ^ 32 * lit) / 2 ^ 30 % 4 = bPack r / 2 ^ 30 % 4 := by omega
    exact same.trans ((congrArg BRaw.len (bUnpack_bPack fits)).trans hl)
  have low : (bPack r + 2 ^ 32 * lit) % 2 ^ 32 = bPack r := by omega
  have high : (bPack r + 2 ^ 32 * lit) / 2 ^ 32 % 2 ^ 64 = lit := by omega
  simp only [decodeBits, len, low, high, OfNat.ofNat_ne_zero, if_true, if_false]

theorem reads_literal {r : BRaw} (fits : BFits r) (hl : r.len = 2) {lit : Nat} {i : Instr} (lt : lit < 2 ^ 64)
    (d : decodeL (bPack r) lit = .ok (i, 12)) : Reads (bPack r + 2 ^ 32 * lit) 12 i := by
  have word := bPack_lt fits
  exact ⟨by omega, rfl, (decodeBits_literal fits hl lt).trans d⟩

/-! ## Base words of operand fields (R97, R98) -/

theorem bInstr_baseWord {i : Instr} {k : BKind} {op : Nat} {f : BForm} (h : baseWord i = some (k, op, f)) :
    op < 64 ∧ ∃ mk, bInstr op = some mk ∧ mk f = i := by
  unfold baseWord at h
  split at h <;> cases h <;> exact ⟨by decide, _, rfl, rfl⟩

/-- The fields of a base word of operand fields (R94). -/
def baseRaw (op : Nat) (f : BForm) : BRaw :=
  { b := f.b.val, a := f.a.val, d := f.d.val, cl := f.cl.val, w := bit f.w, u := bit f.u, g := f.g.val, op }

theorem fits_baseRaw {op : Nat} (f : BForm) (h : op < 64) : BFits (baseRaw op f) where
  b := f.b.isLt
  a := f.a.isLt
  d := f.d.isLt
  cl := f.cl.isLt
  w := bit_lt _
  u := bit_lt _
  g := f.g.isLt
  op := h
  len := Nat.succ_pos 3

theorem decodeB_eq {x : Nat} {r : BRaw} {mk : BForm → Instr} {f : BForm} (hr : bUnpack x = r) (hop : bInstr r.op = some mk)
    (hf : { g := Fin.ofNat 4 r.g, u := r.u = 1, w := r.w = 1, cl := Fin.ofNat 4 r.cl, d := Fin.ofNat 64 r.d, a := Fin.ofNat 64 r.a,
            b := Fin.ofNat 64 r.b } = f) (wf : illegal (mk f) = none) : decodeB x = .ok (mk f, 4) := by
  simp only [decodeB, hr, hop, hf, checked, wf]

/-- A base word of operand fields decodes to itself. -/
theorem reads_encodeB {i : Instr} {k : BKind} {op : Nat} {f : BForm} (h : baseWord i = some (k, op, f)) (wf : illegal i = none) :
    Reads (encodeB op f) 4 i := by
  obtain ⟨lt, mk, hop, rfl⟩ := bInstr_baseWord h
  have fits := fits_baseRaw f lt
  have lt := bPack_lt_of_len fits rfl
  refine ⟨Nat.lt_trans lt (by decide), rfl, (decodeBits_base lt).trans (decodeB_eq (bUnpack_bPack fits) hop ?_ wf)⟩
  rw [BForm.mk.injEq]
  exact ⟨Fin.ofNat_val_eq_self _, decide_bit _, decide_bit _, Fin.ofNat_val_eq_self _, Fin.ofNat_val_eq_self _, Fin.ofNat_val_eq_self _,
    Fin.ofNat_val_eq_self _⟩

/-! ## Base words with literal (R95, R98) -/

/-- What the entry of a base operation with literal says of its encoding. -/
structure LitEntry (i : Instr) (k : BKind) (op : Nat) (f : XForm) : Prop where
  decodes : ∃ mk, litInstr op = some (mk, f.fn.toNat) ∧ mk f = i
  lt : op < 64
  cmp : 0x15 ≤ op ↔ k = .cmp
  mov : op = 0x0F ↔ k = .mov

theorem litInstr_cmp {n : Nat} (h : n < 6) : litInstr (0x15 + n) = some (.cmp, n) := by
  interval_cases n <;> rfl

theorem baseLit_entry {i : Instr} {k : BKind} {op xop : Nat} {sp : XSpec} {f : XForm} (h : baseLit i = some (k, op))
    (hs : xspec i = some (xop, sp, f)) (hfn : if k = .cmp then f.fn.toNat < 6 else f.fn = 0) : LitEntry i k op f := by
  cases i
  case cmp f' =>
    cases h
    cases hs
    have lt : f.fn.toNat < 6 := hfn
    exact ⟨⟨_, litInstr_cmp lt, rfl⟩, by omega, iff_of_true (Nat.le_add_right ..) rfl, iff_of_false (by omega) (by decide)⟩
  all_goals cases h
  all_goals
    cases hs
    have zero : f.fn = 0 := hfn
    exact ⟨⟨_, by rw [zero]; rfl, rfl⟩, by decide, by decide, by decide⟩

/-- The fields of the base word that a literal follows (R95). -/
def litRaw (op : Nat) (f : XForm) : BRaw :=
  { a := field6Of f.a, d := field6Of f.d, cl := if f.col then 2 else 0, w := bit f.sup, u := bit f.uni, g := f.gp.val, op, len := 2 }

theorem field6Op_field6Of {col : Bool} {o : Operand} (h : (field6 col o || isLatch o) = true) : field6Op col (field6Of o) = o := by
  cases o with
  | v n =>
    obtain ⟨rfl, lt⟩ : col = false ∧ n.val < 60 := by simpa [field6, isLatch] using h
    rw [field6Of, field6Op, if_neg (by omega), if_neg Bool.false_ne_true, Fin.ofNat_val_eq_self]
  | s n =>
    obtain ⟨rfl, lt⟩ : col = true ∧ n.val < 60 := by simpa [field6, isLatch] using h
    rw [field6Of, field6Op, if_neg (by omega), if_pos rfl, Fin.ofNat_val_eq_self]
  | b n => rw [field6Of, field6Op, if_pos (by omega), Nat.add_sub_cancel_left, Fin.ofNat_val_eq_self]
  | _ => simp [field6, isLatch] at h

theorem field6Of_lt {col : Bool} {o : Operand} (h : (field6 col o || isLatch o) = true) : field6Of o < 64 := by
  cases o with
  | v n =>
    have lt : col = false ∧ n.val < 60 := by simpa [field6, isLatch] using h
    exact Nat.lt_trans lt.2 (by decide)
  | s n =>
    have lt : col = true ∧ n.val < 60 := by simpa [field6, isLatch] using h
    exact Nat.lt_trans lt.2 (by decide)
  | b n => simp only [field6Of]; omega
  | _ => simp [field6, isLatch] at h

/-- What the checks of a base word with literal let through (R95, R96, R98). -/
structure LitGood (k : BKind) (f : XForm) : Prop where
  plain : f.gn = false ∧ f.gp.val < 4 ∧ f.ty = .none ∧ f.rm = .rn ∧ f.sc = .none ∧ f.cp = .none ∧ f.c = .unused
  fn : if k = .cmp then f.fn.toNat < 6 else f.fn = 0
  dest : if k = .cmp then ∃ n, f.d = .p n else if f.sup then f.d = .unused else field6 f.col f.d = true
  source : if k = .mov then f.a = .unused else (field6 f.col f.a || isLatch f.a) = true
  value : ∃ x, f.b = .imm x

theorem opClass_eq_p {o : Operand} (h : opClass o = .p) : ∃ n, o = .p n := by
  cases o with
  | p n => exact ⟨n, rfl⟩
  | _ => cases h

theorem opClass_eq_imm {o : Operand} (h : opClass o = .imm) : ∃ x, o = .imm x := by
  cases o with
  | imm x => exact ⟨x, rfl⟩
  | _ => cases h

theorem litGood_of_litCheck {k : BKind} {f : XForm} (h : litCheck k f = none) : LitGood k f := by
  simp only [litCheck, firstOf_none, List.forall_mem_cons, need_none] at h
  obtain ⟨plain, fn, -, d, a, b, -⟩ := h
  have dest (hk : k ≠ .cmp) (h : (if f.sup then need (f.d = .unused) 2 else need (field6 f.col f.d) 6) = none) :
      if k = .cmp then ∃ n, f.d = .p n else if f.sup then f.d = .unused else field6 f.col f.d = true := by
    rw [if_neg hk]
    split_ifs at h ⊢
    · exact of_decide_eq_true (need_none.mp h)
    · exact need_none.mp h
  refine ⟨by simpa [and_assoc] using plain, ?_, ?_, ?_, opClass_eq_imm (of_decide_eq_true b)⟩
  · cases k <;> exact of_decide_eq_true (by simpa using fn)
  · cases k with
    | cmp => exact opClass_eq_p (of_decide_eq_true (need_none.mp d))
    | _ => exact dest (by decide) d
  · cases k with
    | mov => exact of_decide_eq_true (need_none.mp a)
    | _ => exact need_none.mp a

theorem decodeL_eq {x lit fn : Nat} {r : BRaw} {mk : XForm → Instr} {f : XForm} (hr : bUnpack x = r) (hop : litInstr r.op = some (mk, fn))
    (hcl : r.cl % 2 ≠ 1) (hb : r.b = 0)
    (hd : (if 0x15 ≤ r.op then (if r.d < 16 then some (.p (Fin.ofNat 16 r.d)) else none)
      else if r.w = 1 then (if r.d = 0 then some .unused else none) else some (field6Op (r.cl = 2) r.d)) = some f.d)
    (ha : (if r.op = 0x0F then (if r.a = 0 then some .unused else none) else some (field6Op (r.cl = 2) r.a)) = some f.a)
    (hf : { form := .bl, gp := Fin.ofNat 16 r.g, uni := r.u = 1, sup := r.w = 1, col := r.cl = 2, fn := BitVec.ofNat 8 fn, d := f.d, a := f.a,
            b := .imm (BitVec.ofNat 64 lit) } = f)
    (wf : illegal (mk f) = none) : decodeL x lit = .ok (mk f, 12) := by
  simp only [decodeL, hr, hop, hcl, hb, hd, ha, hf, checked, wf, ne_eq, not_true_eq_false, if_false]

theorem col_litRaw (op : Nat) (f : XForm) : decide ((litRaw op f).cl = 2) = f.col := by
  cases h : f.col <;> simp [litRaw, h]

theorem dest_litRaw {k : BKind} {op : Nat} {f : XForm} (good : LitGood k f) (cmp : 0x15 ≤ (litRaw op f).op ↔ k = .cmp) :
    (if 0x15 ≤ (litRaw op f).op then (if (litRaw op f).d < 16 then some (.p (Fin.ofNat 16 (litRaw op f).d)) else none)
      else if (litRaw op f).w = 1 then (if (litRaw op f).d = 0 then some .unused else none)
      else some (field6Op ((litRaw op f).cl = 2) (litRaw op f).d)) = some f.d ∧ (litRaw op f).d < 64 := by
  have dest := good.dest
  by_cases hk : k = .cmp
  · rw [if_pos hk] at dest
    obtain ⟨n, hn⟩ := dest
    have field : (litRaw op f).d = n.val := congrArg field6Of hn
    rw [if_pos (cmp.mpr hk), field, if_pos n.isLt, Fin.ofNat_val_eq_self, hn]
    exact ⟨rfl, by omega⟩
  · rw [if_neg hk] at dest
    rw [if_neg (mt cmp.mp hk)]
    cases hs : f.sup with
    | true =>
      rw [hs, if_pos rfl] at dest
      have field : (litRaw op f).d = 0 := congrArg field6Of dest
      rw [if_pos (show (litRaw op f).w = 1 from congrArg bit hs), field, if_pos rfl, dest]
      exact ⟨rfl, by decide⟩
    | false =>
      rw [hs, if_neg Bool.false_ne_true] at dest
      have named : (field6 f.col f.d || isLatch f.d) = true := by rw [dest, Bool.true_or]
      have w : (litRaw op f).w ≠ 1 := by simp [litRaw, hs, bit]
      rw [if_neg w, col_litRaw]
      exact ⟨congrArg some (field6Op_field6Of named), field6Of_lt named⟩

theorem source_litRaw {k : BKind} {op : Nat} {f : XForm} (good : LitGood k f) (mov : (litRaw op f).op = 0x0F ↔ k = .mov) :
    (if (litRaw op f).op = 0x0F then (if (litRaw op f).a = 0 then some .unused else none)
      else some (field6Op ((litRaw op f).cl = 2) (litRaw op f).a)) = some f.a ∧ (litRaw op f).a < 64 := by
  have source := good.source
  by_cases hk : k = .mov
  · rw [if_pos hk] at source
    have field : (litRaw op f).a = 0 := congrArg field6Of source
    rw [if_pos (mov.mpr hk), field, if_pos rfl, source]
    exact ⟨rfl, by decide⟩
  · rw [if_neg hk] at source
    rw [if_neg (mt mov.mp hk), col_litRaw]
    exact ⟨congrArg some (field6Op_field6Of source), field6Of_lt source⟩

theorem eq_literalForm {k : BKind} {f : XForm} (good : LitGood k f) (hf : f.form = .bl) :
    f = { form := .bl, gp := f.gp, uni := f.uni, sup := f.sup, col := f.col, fn := f.fn, d := f.d, a := f.a, b := f.b } := by
  obtain ⟨gn, -, ty, rm, sc, cp, c⟩ := good.plain
  cases f
  rw [XForm.mk.injEq]
  exact ⟨hf, gn, rfl, rfl, rfl, ty, rm, sc, rfl, cp, rfl, rfl, rfl, rfl, c⟩

/-- A base word with literal decodes to itself. -/
theorem reads_encodeL {i : Instr} {k : BKind} {op xop : Nat} {sp : XSpec} {f : XForm} (h : baseLit i = some (k, op))
    (hs : xspec i = some (xop, sp, f)) (hf : f.form = .bl) (check : litCheck k f = none) (wf : illegal i = none) :
    Reads (encodeL op f) 12 i := by
  have good := litGood_of_litCheck check
  have e := baseLit_entry h hs good.fn
  obtain ⟨mk, hop, rfl⟩ := e.decodes
  obtain ⟨dest, dlt⟩ := dest_litRaw good e.cmp
  obtain ⟨source, alt⟩ := source_litRaw good e.mov
  obtain ⟨-, gp, -⟩ := good.plain
  obtain ⟨x, hb⟩ := good.value
  have even : (litRaw op f).cl = 0 ∨ (litRaw op f).cl = 2 := by cases hc : f.col <;> simp [litRaw, hc]
  have fits : BFits (litRaw op f) :=
    { b := Nat.succ_pos 63, a := alt, d := dlt, cl := by omega, w := bit_lt _, u := bit_lt _, g := gp, op := e.lt, len := (by decide : 2 < 4) }
  have value : Operand.imm (BitVec.ofNat 64 (immVal f.b)) = f.b := by rw [hb, immVal, ofNat_toNat_self]
  have lt : immVal f.b < 2 ^ 64 := by rw [hb]; exact x.isLt
  refine reads_literal fits rfl lt (decodeL_eq (bUnpack_bPack fits) hop (by omega) rfl dest source ?_ wf)
  refine Eq.trans ?_ (eq_literalForm good hf).symm
  rw [XForm.mk.injEq]
  exact ⟨rfl, rfl, Fin.ofNat_val_eq_self _, decide_bit _, decide_bit _, rfl, rfl, rfl, col_litRaw op f, rfl,
    ofNat_toNat_self _, rfl, rfl, value, rfl⟩

end Sys2Proof.Codec
end

section
/-! PROOFS. Matrix instructions decode to what was encoded (R104). -/

namespace Sys2Proof.Codec

open Sys2Proof Sys2Proof.Machine

/-! ## The matrix layout (R104) -/

/-- The class and the index that name a matrix operand's scalar, or none. -/
def scalarK (o : Option (Fin 96)) : Nat := match o with | none => 3 | some _ => 1
def scalarI (o : Option (Fin 96)) : Nat := match o with | none => 0 | some n => n.val

/-- The fields of a matrix instruction; MXLD and MXST leave B and C empty (R104). -/
def matrixRaw (xop : Nat) (tile : Bool) (f : MForm) : XRaw :=
  { rm := rmCode f.rm, ty := tyCode f.ty, u := bit f.uni, gp := f.gp.val, gn := bit f.gn, xop, len := 3,
    imm := f.nsz.val % 2 * 2048 + f.ksz.val * 256 + bit f.acol * 128 + bit f.bcol * 64,
    fn := f.msz.val * 16 + f.nsz.val / 2,
    ci := if tile then 0 else scalarI f.c, ck := if tile then 0 else scalarK f.c,
    bi := if tile then 0 else scalarI f.b, bk := if tile then 0 else scalarK f.b, ai := scalarI f.a, ak := scalarK f.a,
    di := f.row.val, dk := 3 }

/-- The literal of a matrix instruction: its four offsets. -/
def offsets (f : MForm) : Nat := f.aoff.toNat + f.boff.toNat * 2 ^ 15 + f.coff.toNat * 2 ^ 30 + f.toff.toNat * 2 ^ 48

theorem scalarK_lt (o : Option (Fin 96)) : scalarK o < 4 := by cases o <;> simp [scalarK]

theorem scalarI_lt (o : Option (Fin 96)) : scalarI o < 512 := by
  cases o <;> simp only [scalarI] <;> omega

theorem mScalar_scalar (o : Option (Fin 96)) : mScalar (scalarK o) (scalarI o) = .ok o := by
  cases o with
  | none => rfl
  | some n => exact (if_pos n.isLt).trans (congrArg (Except.ok ∘ some) (Fin.ofNat_val_eq_self n))

theorem fits_matrixRaw {xop : Nat} (tile : Bool) (f : MForm) (h : xop < 1024) : XFits (matrixRaw xop tile f) := by
  have ac := bit_lt f.acol
  have bc := bit_lt f.bcol
  exact
    { z := Nat.two_pos, cp := Nat.succ_pos 3, ot := Nat.two_pos, sc := Nat.succ_pos 7, rm := rmCode_lt _, ty := tyCode_lt _,
      w := Nat.two_pos, u := bit_lt _, gp := f.gp.isLt, gn := bit_lt _, xop := h, len := (by decide : 3 < 4),
      imm := by simp only [matrixRaw]; omega
      fn := by simp only [matrixRaw]; omega
      ci := by cases tile <;> simp [matrixRaw, scalarI_lt]
      ck := by cases tile <;> simp [matrixRaw, scalarK_lt]
      bi := by cases tile <;> simp [matrixRaw, scalarI_lt]
      bk := by cases tile <;> simp [matrixRaw, scalarK_lt]
      ai := scalarI_lt _, ak := scalarK_lt _, di := by simp only [matrixRaw]; omega
      dk := (by decide : 3 < 4) }

theorem offsets_lt (f : MForm) : offsets f < 2 ^ 64 := by
  rw [offsets]
  omega

theorem encodeM_eq (xop : Nat) (tile : Bool) (f : MForm) : encodeM xop tile f = xPack (matrixRaw xop tile f) + 2 ^ 96 * offsets f := by
  cases f
  rfl

/-- The fields of layout XM, where none of them is reserved. -/
theorem xmForm_eq {tile : Bool} {r : XRaw} {lit : Nat} {f : MForm} (len : r.len = 3) (imm : r.imm % 64 = 0) (sc : r.sc = 0) (ot : r.ot = 0)
    (cp : r.cp = 0) (w : r.w = 0) (dk : r.dk = 3) (di : r.di < 192) (msz : r.fn / 16 < 12) (nsz : r.fn % 16 * 2 + r.imm / 2048 < 24)
    (a : mScalar r.ak r.ai = .ok f.a) (b : (if tile then mEmpty r.bk r.bi else mScalar r.bk r.bi) = .ok f.b)
    (c : (if tile then mEmpty r.ck r.ci else mScalar r.ck r.ci) = .ok f.c)
    (hf : { gn := r.gn = 1, gp := Fin.ofNat 16 r.gp, uni := r.u = 1, ty := tyOfCode r.ty, rm := rmOfCode r.rm,
            row := Fin.ofNat 192 r.di, msz := Fin.ofNat 12 (r.fn / 16),
            nsz := Fin.ofNat 24 (r.fn % 16 * 2 + r.imm / 2048), ksz := Fin.ofNat 8 (r.imm / 256 % 8),
            acol := r.imm / 128 % 2 = 1, bcol := r.imm / 64 % 2 = 1, a := f.a, b := f.b, c := f.c,
            aoff := BitVec.ofNat 15 lit, boff := BitVec.ofNat 15 (lit / 2 ^ 15), coff := BitVec.ofNat 18 (lit / 2 ^ 30),
            toff := BitVec.ofNat 16 (lit / 2 ^ 48) } = f) : xmForm tile r lit = .ok f := by
  have none_reserved : (r.dk ≠ 3 || 192 ≤ r.di || 12 ≤ r.fn / 16 || 24 ≤ r.fn % 16 * 2 + r.imm / 2048 : Bool) = false := by
    simp [dk, di, msz, nsz]
  have modifiers : (r.sc ≠ 0 || r.ot ≠ 0 || r.cp ≠ 0 || r.w ≠ 0 : Bool) = false := by simp [sc, ot, cp, w]
  rw [xmForm, if_neg (not_not.mpr len), if_neg (not_not.mpr imm), if_neg (Bool.eq_false_iff.mp modifiers),
    if_neg (Bool.eq_false_iff.mp none_reserved), a, b, c]
  exact congrArg Except.ok hf

theorem empty_of_mCheck {tile store adapter : Bool} {f : MForm} (h : mCheck tile store adapter f = none) (ht : tile = true) :
    f.b = none ∧ f.c = none := by
  simp only [mCheck, firstOf_none, List.forall_mem_cons, need_none] at h
  obtain ⟨-, -, -, -, -, empty, -⟩ := h
  obtain ⟨⟨⟨⟨-, hb⟩, hc⟩, -⟩, -⟩ : (((_ ∧ f.b = none) ∧ f.c = none) ∧ _) ∧ _ := by simpa [ht] using empty
  exact ⟨hb, hc⟩

/-- A scalar field that a tile instruction leaves empty, and the others name. -/
theorem scalar_or_empty {tile : Bool} {o : Option (Fin 96)} (empty : tile = true → o = none) :
    (if tile then mEmpty (if tile then 0 else scalarK o) (if tile then 0 else scalarI o)
      else mScalar (if tile then 0 else scalarK o) (if tile then 0 else scalarI o)) = .ok o := by
  cases tile with
  | false => exact mScalar_scalar o
  | true => rw [empty rfl]; rfl

theorem xmForm_matrixRaw {tile : Bool} {f : MForm} (xop : Nat) (empty : tile = true → f.b = none ∧ f.c = none) :
    xmForm tile (matrixRaw xop tile f) (offsets f) = .ok f := by
  have ac := bit_lt f.acol
  have bc := bit_lt f.bcol
  have imm : (matrixRaw xop tile f).imm = f.nsz.val % 2 * 2048 + f.ksz.val * 256 + bit f.acol * 128 + bit f.bcol * 64 := rfl
  have fn : (matrixRaw xop tile f).fn = f.msz.val * 16 + f.nsz.val / 2 := rfl
  have msz : (matrixRaw xop tile f).fn / 16 = f.msz.val := by omega
  have nsz : (matrixRaw xop tile f).fn % 16 * 2 + (matrixRaw xop tile f).imm / 2048 = f.nsz.val := by omega
  have ksz : (matrixRaw xop tile f).imm / 256 % 8 = f.ksz.val := by omega
  have acol : (matrixRaw xop tile f).imm / 128 % 2 = bit f.acol := by omega
  have bcol : (matrixRaw xop tile f).imm / 64 % 2 = bit f.bcol := by omega
  have aoff : BitVec.ofNat 15 (offsets f) = f.aoff := BitVec.eq_of_toNat_eq (by rw [BitVec.toNat_ofNat, offsets]; omega)
  have boff : BitVec.ofNat 15 (offsets f / 2 ^ 15) = f.boff := BitVec.eq_of_toNat_eq (by rw [BitVec.toNat_ofNat, offsets]; omega)
  have coff : BitVec.ofNat 18 (offsets f / 2 ^ 30) = f.coff := BitVec.eq_of_toNat_eq (by rw [BitVec.toNat_ofNat, offsets]; omega)
  have toff : BitVec.ofNat 16 (offsets f / 2 ^ 48) = f.toff := BitVec.eq_of_toNat_eq (by rw [BitVec.toNat_ofNat, offsets]; omega)
  refine xmForm_eq rfl (by omega) rfl rfl rfl rfl rfl f.row.isLt (by omega) (by omega) (mScalar_scalar f.a)
    (scalar_or_empty fun ht => (empty ht).1) (scalar_or_empty fun ht => (empty ht).2) ?_
  rw [msz, nsz, ksz, aoff, boff, coff, toff, MForm.mk.injEq]
  exact ⟨decide_bit _, Fin.ofNat_val_eq_self _, decide_bit _, tyOfCode_tyCode _, rmOfCode_rmCode _, Fin.ofNat_val_eq_self _,
    Fin.ofNat_val_eq_self _, Fin.ofNat_val_eq_self _, Fin.ofNat_val_eq_self _, by rw [acol, decide_bit], by rw [bcol, decide_bit],
    rfl, rfl, rfl, rfl, rfl, rfl, rfl⟩

/-- What the entry of a matrix instruction says of its encoding. -/
theorem mspec_entry {i : Instr} {xop : Nat} {tile store adapter : Bool} {f : MForm} (h : mspec i = some (xop, tile, store, adapter, f)) :
    xop < 1024 ∧ xInstr xop = none ∧ tile = (decide (xop = 0x143) || decide (xop = 0x144)) ∧ ∃ mk, mInstr xop = some mk ∧ mk f = i := by
  unfold mspec at h
  split at h <;> cases h <;> exact ⟨by decide, rfl, rfl, _, rfl, rfl⟩

theorem decodeX_matrix {x lit : Nat} {r : XRaw} {mk : MForm → Instr} {f : MForm} (hr : xUnpack x = r) (hz : r.z = 0) (hl : r.len = 3)
    (hx : xInstr r.xop = none) (hop : mInstr r.xop = some mk) (hf : xmForm (r.xop = 0x143 || r.xop = 0x144) r lit = .ok f)
    (wf : illegal (mk f) = none) : decodeX x lit = .ok (mk f, 20) := by
  simp only [decodeX, hr, hx, hop, hz, hf, checked, wf, hl]
  rfl

/-- A matrix instruction decodes to itself. -/
theorem reads_encodeM {i : Instr} {xop : Nat} {tile store adapter : Bool} {f : MForm} (h : mspec i = some (xop, tile, store, adapter, f))
    (check : mCheck tile store adapter f = none) (wf : illegal i = none) : Reads (encodeM xop tile f) 20 i := by
  obtain ⟨lt, hx, rfl, mk, hop, rfl⟩ := mspec_entry h
  have fits := fits_matrixRaw (decide (xop = 0x143) || decide (xop = 0x144)) f lt
  rw [encodeM_eq]
  exact reads_extended fits (.inr ⟨rfl, offsets_lt f⟩)
    (decodeX_matrix (xUnpack_xPack fits) rfl rfl hx hop (xmForm_matrixRaw xop (empty_of_mCheck check)) wf)

end Sys2Proof.Codec
end

section
/-! PROOFS. Decoding undoes encoding, words that are given, and bytes that decode to nothing (R90 to R107). -/

namespace Sys2Proof.Codec

open Sys2Proof Sys2Proof.Machine

/-! ## Every instruction -/

section
variable {i : Instr} {xop : Nat} {sp : XSpec} {f : XForm} (h : xspec i = some (xop, sp, f))
include h

theorem encodeBits_extended (hf : f.form ≠ .bl) : encodeBits i = (encodeX xop sp (isBrd i) f, if f.form = .x then 12 else 20) := by
  unfold encodeBits
  rw [h]
  exact if_neg hf

theorem encodeBits_literal {k : BKind} {op : Nat} (hf : f.form = .bl) (hl : baseLit i = some (k, op)) : encodeBits i = (encodeL op f, 12) := by
  unfold encodeBits
  rw [h, hl]
  exact if_pos hf

theorem baseLit_of_legal (hf : f.form = .bl) (wf : illegal i = none) : ∃ k op, baseLit i = some (k, op) ∧ litCheck k f = none := by
  rw [illegal, h] at wf
  replace wf := (if_pos hf).symm.trans wf
  cases hl : baseLit i with
  | none =>
    rw [hl] at wf
    cases wf
  | some e =>
    rw [hl] at wf
    exact ⟨e.1, e.2, rfl, wf⟩

theorem reads_of_xspec (wf : illegal i = none) : Reads (encodeBits i).1 (encodeBits i).2 i := by
  by_cases hf : f.form = .bl
  · obtain ⟨k, op, hl, check⟩ := baseLit_of_legal h hf wf
    rw [encodeBits_literal h hf hl]
    exact reads_encodeL hl h hf check wf
  · rw [encodeBits_extended h hf]
    cases hx : sp.xb with
    | false => exact reads_encodeX_operands h hf hx wf
    | true => exact reads_encodeX_branch h hf hx wf

end

theorem reads_of_mspec {i : Instr} {e : Nat × Bool × Bool × Bool × MForm} (hx : xspec i = none) (h : mspec i = some e) (wf : illegal i = none) :
    Reads (encodeBits i).1 (encodeBits i).2 i := by
  obtain ⟨xop, tile, store, adapter, f⟩ := e
  have bits : encodeBits i = (encodeM xop tile f, 20) := by
    unfold encodeBits
    rw [hx, h]
  have check : illegal i = mCheck tile store adapter f := by rw [illegal, hx, h]
  rw [bits]
  exact reads_encodeM h (check.symm.trans wf) wf

theorem reads_of_baseWord {i : Instr} {e : BKind × Nat × BForm} (hx : xspec i = none) (hm : mspec i = none) (h : baseWord i = some e)
    (wf : illegal i = none) : Reads (encodeBits i).1 (encodeBits i).2 i := by
  obtain ⟨k, op, f⟩ := e
  have bits : encodeBits i = (encodeB op f, 4) := by
    unfold encodeBits
    rw [hx, hm, h]
  rw [bits]
  exact reads_encodeB h wf

theorem reads_nopBase (g : Fin 4) : Reads (g.val * 2 ^ 22) 4 (.nopBase g) :=
  ⟨by omega, rfl, by fin_cases g <;> rfl⟩

theorem reads_exitBase (g : Fin 4) : Reads (g.val * 2 ^ 22 + 0x1D * 2 ^ 24) 4 (.exitBase g) :=
  ⟨by omega, rfl, by fin_cases g <;> rfl⟩

theorem reads_joinBase : Reads (0x1C * 2 ^ 24) 4 .joinBase := ⟨by decide, rfl, rfl⟩

theorem reads_braBase {x : Nat} {g : Fin 4} {off : BitVec 20} (hx : x = off.toNat + g.val * 2 ^ 22 + 0x1B * 2 ^ 24) :
    Reads x 4 (.braBase g off) := by
  have low := off.isLt
  refine ⟨by omega, rfl, (decodeBits_base (by omega)).trans ?_⟩
  have op : (bUnpack x).op = 0x1B := by simp only [bUnpack]; omega
  have u : (bUnpack x).u = 0 := by simp only [bUnpack]; omega
  have w : (bUnpack x).w = 0 := by simp only [bUnpack]; omega
  have hg : Fin.ofNat 4 (bUnpack x).g = g := Fin.ext (by simp only [bUnpack, Fin.ofNat]; omega)
  have ho : BitVec.ofNat 20 x = off := BitVec.eq_of_toNat_eq (by rw [BitVec.toNat_ofNat]; omega)
  have no : bInstr 0x1B = none := rfl
  simp only [decodeB, op, no, u, w, hg, ho, decide_true, Bool.and_self, if_true]

/-- An instruction of none of the layouts with fields: NOP, BRA, JOIN or EXIT of the base words (R98, R122). -/
theorem reads_of_others {i : Instr} (hx : xspec i = none) (hm : mspec i = none) (hb : baseWord i = none) (he : i.encoded = true) :
    Reads (encodeBits i).1 (encodeBits i).2 i := by
  have other : ((xspec i).isNone && (mspec i).isNone && (baseWord i).isNone && i.encoded) = true := by rw [hx, hm, hb, he]; rfl
  cases i
  case nopBase g => exact reads_nopBase g
  case braBase g off => exact reads_braBase rfl
  case joinBase => exact reads_joinBase
  case exitBase g => exact reads_exitBase g
  all_goals cases other

theorem reads_encodeBits {i : Instr} (he : i.encoded = true) (wf : illegal i = none) : Reads (encodeBits i).1 (encodeBits i).2 i := by
  cases hx : xspec i with
  | some e => exact reads_of_xspec hx wf
  | none =>
    cases hm : mspec i with
    | some e => exact reads_of_mspec hx hm wf
    | none =>
      cases hb : baseWord i with
      | some e => exact reads_of_baseWord hx hm hb wf
      | none => exact reads_of_others hx hm hb he

theorem issueFrom_of_refused {s : State} {g d : Nat} {ws : List Word}
    (fetched : fetch (issuing s g) (groupSpace (issuing s g) g).1 (groupSpace (issuing s g) g).2 (curGroup (issuing s g)).pc = .ok ws)
    (refused : decodeBits (bitsOf ws) = .error d) : issueFrom s g = trapI (issuing s g) { len := 0 } 0x01 d := by
  unfold issueFrom
  dsimp only
  rw [fetched]
  dsimp only
  rw [refused]

end Sys2Proof.Codec

namespace Sys2Proof.Proofs

open Sys2Proof Sys2Proof.Machine Sys2Proof.Codec

/-- Settles O4, by the layout: XG, XB, base word with literal, matrix, base word of operand fields, or NOP, BRA, JOIN and EXIT of the
base words. The bits fit the instruction's words, and each field is read back as it was packed. -/
theorem decodeEncode : Obligations.DecodeEncode := by
  unfold Obligations.DecodeEncode
  intro i he wf
  have reads := reads_encodeBits he (Option.isNone_iff_eq_none.mp wf)
  have bytes : 4 * ((encodeBits i).2 / 4) = (encodeBits i).2 := Nat.mul_div_cancel' (Nat.dvd_of_mod_eq_zero reads.words)
  rw [encode, reads.bitsOf_words, Laws.wordsOf_length, bytes]
  exact reads.decodes

/-- Settles O5: the decoder reads each of the words. -/
theorem decodedWords : Obligations.DecodedWords :=
  ⟨⟨rfl, rfl, rfl, rfl, rfl, rfl⟩, rfl, rfl, _, rfl⟩

/-- Settles O7: a group that has fetched its words hands them to the decoder, and the decoder's DETAIL to the trap. -/
theorem reservedEncodingTraps : Obligations.ReservedEncodingTraps :=
  fun _ _ _ _ fetched refused => issueFrom_of_refused fetched refused

end Sys2Proof.Proofs
end

section
/-! PROOFS. The values of the integer instructions (R137, R139): residues modulo two to the width for sums and products, and the bits
of an unbounded integer for shifts, bit fields and bit counts. -/

namespace Sys2Proof.Stated

open Sys2Proof Sys2Proof.Machine

/-! ## Residues of a width (R66, R137) -/

theorem toN_cast (w : Nat) (x : DWord) : (toN w x : ℤ) = (x.toNat : ℤ) % 2 ^ w := by simp [toN]

theorem toN_lt (w : Nat) (x : DWord) : toN w x < 2 ^ w := Nat.mod_lt _ (Nat.two_pow_pos w)

/-- Read with or without a sign, a value is the same residue. -/
theorem toNat_modEq_toSN (sg : Bool) (w : Nat) (x : DWord) : (x.toNat : ℤ) ≡ toSN sg w x [ZMOD 2 ^ w] := by
  have unsigned : (x.toNat : ℤ) ≡ (x.toNat : ℤ) % 2 ^ w [ZMOD 2 ^ w] := (Int.mod_modEq _ _).symm
  cases sg with
  | false => rwa [toSN_false]
  | true =>
    rw [toSN_true]
    split
    · exact unsigned
    · exact unsigned.trans (Int.modEq_sub_modulus_iff.mpr rfl)

theorem toN_of_modEq {w : Nat} {x : DWord} {k : ℤ} (h : (x.toNat : ℤ) ≡ k [ZMOD 2 ^ w]) : (toN w x : ℤ) = k % 2 ^ w :=
  (toN_cast w x).trans h

/-- A signed reading lies between the two powers of two (R65). -/
theorem toS_bounds {w : Nat} (h1 : 1 ≤ w) (x : DWord) : -2 ^ (w - 1) ≤ toS w x ∧ toS w x < 2 ^ (w - 1) := by
  have hp : (2 : ℤ) ^ w = 2 * 2 ^ (w - 1) := by rw [← pow_succ', Nat.sub_add_cancel h1]
  have lo : 0 ≤ (x.toNat : ℤ) % 2 ^ w := Int.emod_nonneg _ (by positivity)
  have hi : (x.toNat : ℤ) % 2 ^ w < 2 ^ w := Int.emod_lt_of_pos _ (by positivity)
  rw [show toS w x = toSN true w x from rfl, toSN_true]
  split <;> omega

section
variable {w : Nat} (hw : w ≤ 64)
include hw

/-- Residues of the register are residues of a narrower width. -/
theorem modEq_of_register {j k : ℤ} (h : j ≡ k [ZMOD 2 ^ 64]) : j ≡ k [ZMOD 2 ^ w] := h.of_dvd (pow_dvd_pow 2 hw)

theorem toNat_add_modEq (a b : DWord) : ((a + b).toNat : ℤ) ≡ a.toNat + b.toNat [ZMOD 2 ^ w] := by
  refine modEq_of_register hw ?_
  rw [BitVec.toNat_add]
  exact_mod_cast Nat.mod_modEq _ _

theorem toNat_mul_modEq (a b : DWord) : ((a * b).toNat : ℤ) ≡ a.toNat * b.toNat [ZMOD 2 ^ w] := by
  refine modEq_of_register hw ?_
  rw [BitVec.toNat_mul]
  exact_mod_cast Nat.mod_modEq _ _

theorem toNat_sub_modEq (a b : DWord) : ((a - b).toNat : ℤ) ≡ a.toNat - b.toNat [ZMOD 2 ^ w] := by
  have h := toNat_add_modEq hw (a - b) b
  rw [BitVec.sub_add_cancel] at h
  simpa using (h.sub_right (b.toNat : ℤ)).symm

theorem toNat_neg_modEq (a : DWord) : ((-a).toNat : ℤ) ≡ -a.toNat [ZMOD 2 ^ w] := by
  simpa using toNat_sub_modEq hw 0 a

theorem toN_wrap (k : ℤ) : (toN w (wrap w k) : ℤ) = k % 2 ^ w := by
  rw [toN_cast, wrap, toNat_ofInt_emod hw, Int.emod_emod_of_dvd _ dvd_rfl]

end

/-! ## Values as numbers (R137) -/

section
variable {w : Nat} (hw : w ≤ 64) (sg : Bool) (a b c : DWord)
include hw

theorem toN_iAdd : (toN w (iAdd sg w a b c) : ℤ) = (toSN sg w a + toSN sg w b) % 2 ^ w :=
  toN_of_modEq ((toNat_add_modEq hw a b).trans ((toNat_modEq_toSN sg w a).add (toNat_modEq_toSN sg w b)))

theorem toN_iSub : (toN w (iSub sg w a b c) : ℤ) = (toSN sg w a - toSN sg w b) % 2 ^ w :=
  toN_of_modEq ((toNat_sub_modEq hw a b).trans ((toNat_modEq_toSN sg w a).sub (toNat_modEq_toSN sg w b)))

theorem toN_iMul : (toN w (iMul sg w a b c) : ℤ) = (toSN sg w a * toSN sg w b) % 2 ^ w :=
  toN_of_modEq ((toNat_mul_modEq hw a b).trans ((toNat_modEq_toSN sg w a).mul (toNat_modEq_toSN sg w b)))

theorem toN_iMad : (toN w (iMad sg w a b c) : ℤ) = (toSN sg w a * toSN sg w b + toSN sg w c) % 2 ^ w :=
  toN_of_modEq ((toNat_add_modEq hw (a * b) c).trans
    (((toNat_mul_modEq hw a b).trans ((toNat_modEq_toSN sg w a).mul (toNat_modEq_toSN sg w b))).add (toNat_modEq_toSN sg w c)))

theorem toN_iNeg : (toN w (iNeg sg w a b c) : ℤ) = (- toSN sg w a) % 2 ^ w :=
  toN_of_modEq ((toNat_neg_modEq hw a).trans (toNat_modEq_toSN sg w a).neg)

/-- The magnitude of the least value is two to the width less one, which the width holds without a sign. -/
theorem toN_iAbs (h1 : 1 ≤ w) : (toN w (iAbs sg w a b c) : ℤ) = if toS w a < 0 then - toS w a else toS w a := by
  obtain ⟨lo, hi⟩ := toS_bounds h1 a
  have hp : (2 : ℤ) ^ w = 2 * 2 ^ (w - 1) := by rw [← pow_succ', Nat.sub_add_cancel h1]
  rw [iAbs, toN_wrap hw, Int.emod_eq_of_lt (by omega) (by omega)]
  split <;> omega

end

theorem toSN_iMin (sg : Bool) (w : Nat) (a b c : DWord) : toSN sg w (iMin sg w a b c) = min (toSN sg w a) (toSN sg w b) := by
  unfold iMin
  split
  case isTrue h => exact (min_eq_right h.le).symm
  case isFalse h => exact (min_eq_left (not_lt.mp h)).symm

theorem toSN_iMax (sg : Bool) (w : Nat) (a b c : DWord) : toSN sg w (iMax sg w a b c) = max (toSN sg w a) (toSN sg w b) := by
  unfold iMax
  split
  case isTrue h => exact (max_eq_right h.le).symm
  case isFalse h => exact (max_eq_left (not_lt.mp h)).symm

/-! ## The bits of an unbounded integer -/

/-- Bit `j` of an integer in two's complement without bound. -/
def intBit (x : ℤ) (j : Nat) : Bool := decide (x / 2 ^ j % 2 = 1)

theorem intBit_natCast (n j : Nat) : intBit n j = n.testBit j := by
  rw [Nat.testBit_eq_decide_div_mod_eq, intBit]
  exact decide_eq_decide.mpr (by norm_cast)

theorem intBit_ediv_two_pow (x : ℤ) (n j : Nat) : intBit (x / 2 ^ n) j = intBit x (n + j) := by
  rw [intBit, intBit, Int.ediv_ediv_of_nonneg (by positivity), ← pow_add]

/-- Bits below `n` depend on the residue modulo two to the `n` only. -/
theorem intBit_of_modEq {x y : ℤ} {n j : Nat} (h : x ≡ y [ZMOD 2 ^ n]) (hj : j < n) : intBit x j = intBit y j := by
  obtain ⟨d, hd⟩ := h.dvd
  have hy : y = x + 2 ^ j * (2 * (2 ^ (n - j - 1) * d)) := by
    rw [eq_add_of_sub_eq' hd, show (2 : ℤ) ^ n = 2 ^ j * (2 * 2 ^ (n - j - 1)) by
      rw [← pow_succ', ← pow_add]; congr 1; omega]
    ring
  rw [intBit, intBit, hy, Int.add_mul_ediv_left _ _ (by positivity), Int.add_mul_emod_self_left]

/-- A number of `n` bits read with a sign: from bit `n - 1` on every bit is the sign. -/
theorem intBit_signed {v : ℤ} {n : Nat} (h1 : 1 ≤ n) (h0 : 0 ≤ v) (hv : v < 2 ^ n) (j : Nat) :
    intBit (if v < 2 ^ (n - 1) then v else v - 2 ^ n) j = intBit v (min j (n - 1)) := by
  have same : (if v < 2 ^ (n - 1) then v else v - 2 ^ n) ≡ v [ZMOD 2 ^ n] := by
    split
    · rfl
    · exact Int.sub_modulus_modEq_iff.mpr rfl
  obtain hj | hj := lt_or_ge j n
  · rw [min_eq_left (by omega)]
    exact intBit_of_modEq same hj
  · have hp : (2 : ℤ) ^ n = 2 ^ (n - 1) * 2 := by rw [← pow_succ, Nat.sub_add_cancel h1]
    have hn : (2 : ℤ) ^ n ≤ 2 ^ j := by exact_mod_cast Nat.pow_le_pow_right two_pos hj
    rw [min_eq_right (by omega), intBit, intBit]
    split
    case isTrue h => rw [Int.ediv_eq_zero_of_lt h0 (by omega), Int.ediv_eq_zero_of_lt h0 h]
    case isFalse h =>
      have neg : (v - 2 ^ n) / 2 ^ j = -1 := by
        rw [Int.ediv_eq_iff_of_pos (by positivity)]
        constructor <;> omega
      have one : v / 2 ^ (n - 1) = 1 := by
        rw [Int.ediv_eq_iff_of_pos (by positivity)]
        constructor <;> omega
      rw [neg, one]
      rfl

theorem testBit_toN (w : Nat) (x : DWord) (j : Nat) : (toN w x).testBit j = (decide (j < w) && x.getLsbD j) := by
  rw [toN, Nat.testBit_mod_two_pow, BitVec.testBit_toNat]

/-- The bits of a source extended without bound, by its sign or with zeros (R139). -/
theorem intBit_toSN {w : Nat} (h1 : 1 ≤ w) (sg : Bool) (x : DWord) (j : Nat) :
    intBit (toSN sg w x) j = if j < w then x.getLsbD j else sg && x.getLsbD (w - 1) := by
  have bit (i : Nat) : intBit ((x.toNat : ℤ) % 2 ^ w) i = (decide (i < w) && x.getLsbD i) := by
    rw [← toN_cast, intBit_natCast, testBit_toN]
  cases sg with
  | false =>
    rw [toSN_false, bit]
    by_cases h : j < w <;> simp [h]
  | true =>
    rw [toSN_true, intBit_signed h1 (Int.emod_nonneg _ (by positivity)) (Int.emod_lt_of_pos _ (by positivity)), bit]
    by_cases h : j < w
    · simp [h, show j ≤ w - 1 by omega]
    · simp [h, show min j (w - 1) = w - 1 by omega, show 0 < w by omega]

section
variable {w : Nat} (hw : w ≤ 64) {j : Nat} (hj : j < w)
include hw hj

theorem getLsbD_wrap (k : ℤ) : (wrap w k).getLsbD j = intBit k j := by
  have h : ((wrap w k).toNat : ℤ) ≡ k [ZMOD 2 ^ w] := by
    rw [Int.ModEq, wrap, toNat_ofInt_emod hw, Int.emod_emod_of_dvd _ dvd_rfl]
  rw [← BitVec.testBit_toNat, ← intBit_natCast]
  exact intBit_of_modEq h hj

theorem getLsbD_ofNat_of_lt (n : Nat) : (BitVec.ofNat 64 n).getLsbD j = n.testBit j := by
  rw [BitVec.getLsbD_ofNat, decide_eq_true (by omega), Bool.true_and]

/-! ## Shifts of any amount (R139) -/

variable (sg : Bool) (a b c : DWord)

theorem getLsbD_iShl : (iShl sg w a b c).getLsbD j = (decide (toN w b ≤ j) && a.getLsbD (j - toN w b)) := by
  unfold iShl
  split
  case isTrue h => rw [decide_eq_false (by omega)]; simp
  case isFalse h =>
    rw [getLsbD_ofNat_of_lt hw hj, Nat.testBit_mul_two_pow, testBit_toN, decide_eq_true (show j - toN w b < w by omega), Bool.true_and]

theorem getLsbD_iShr : (iShr sg w a b c).getLsbD j = (decide (j + toN w b < w) && a.getLsbD (j + toN w b)) := by
  unfold iShr
  split
  case isTrue h => rw [decide_eq_false (by omega)]; simp
  case isFalse h => rw [getLsbD_ofNat_of_lt hw hj, Nat.testBit_div_two_pow, testBit_toN]

theorem getLsbD_iSar : (iSar sg w a b c).getLsbD j = a.getLsbD (min (j + toN w b) (w - 1)) := by
  rw [iSar, getLsbD_wrap hw hj, intBit_ediv_two_pow, show toS w a = toSN true w a from rfl, intBit_toSN (by omega), Bool.true_and]
  split
  · congr 1; omega
  · congr 1; omega

theorem getLsbD_iRotl : (iRotl sg w a b c).getLsbD j = a.getLsbD ((j + w - toN w b % w) % w) := by
  have hr : toN w b % w < w := Nat.mod_lt _ (by omega)
  rw [iRotl]
  generalize toN w b % w = r at hr ⊢
  have low : toN w a / 2 ^ (w - r) < 2 ^ r := by
    rw [Nat.div_lt_iff_lt_mul (Nat.two_pow_pos _), ← pow_add, show r + (w - r) = w by omega]
    exact toN_lt w a
  rw [getLsbD_ofNat_of_lt hw hj, mul_comm, Nat.testBit_two_pow_mul_add _ low, Nat.testBit_div_two_pow, testBit_toN, testBit_toN]
  split
  case isTrue h =>
    rw [Nat.mod_eq_of_lt (by omega), decide_eq_true (by omega), Bool.true_and]
    congr 1; omega
  case isFalse h =>
    rw [show j + w - r = j - r + w by omega, Nat.add_mod_right, Nat.mod_eq_of_lt (by omega), decide_eq_true (by omega), Bool.true_and]

end

/-! ## Bit fields (R139) -/

/-- Above its bits a number has none. -/
theorem intBit_of_lt {v : ℤ} {n j : Nat} (h0 : 0 ≤ v) (hv : v < 2 ^ n) (hj : n ≤ j) : intBit v j = false := by
  have : v < 2 ^ j := hv.trans_le (by exact_mod_cast Nat.pow_le_pow_right two_pos hj)
  rw [intBit, Int.ediv_eq_zero_of_lt h0 this]
  rfl

/-- A field of `n` bits extended as BFX extends it: by its highest bit for a signed type, with zeros otherwise. -/
theorem intBit_field (sg : Bool) {v : ℤ} {n : Nat} (h0 : 0 ≤ v) (hv : v < 2 ^ n) (j : Nat) :
    intBit (if sg && n ≠ 0 && 2 ^ (n - 1) ≤ v then v - 2 ^ n else v) j =
      if n = 0 then false else if j < n then intBit v j else sg && intBit v (n - 1) := by
  by_cases hn : n = 0
  · simp [hn, intBit_of_lt h0 hv (show n ≤ j by omega)]
  · rw [if_neg hn]
    cases sg with
    | false =>
      by_cases hj : j < n
      · simp [hj]
      · simp [hj, intBit_of_lt h0 hv (not_lt.mp hj)]
    | true =>
      have e : (if true && n ≠ 0 && 2 ^ (n - 1) ≤ v then v - 2 ^ n else v) = if v < 2 ^ (n - 1) then v else v - 2 ^ n := by
        by_cases h : v < 2 ^ (n - 1) <;> simp [hn, h]
      rw [e, intBit_signed (by omega) h0 hv]
      by_cases hj : j < n
      · rw [if_pos hj, min_eq_left (by omega)]
      · rw [if_neg hj, min_eq_right (by omega), Bool.true_and]

section
variable {w : Nat} (hw : w ≤ 64) {j : Nat} (hj : j < w) (sg : Bool) (a b c : DWord)
include hw hj

theorem getLsbD_iBfx :
    let pos := b.toNat % 128
    let len := min (b.toNat / 256 % 128) w
    let ext (i : Nat) : Bool := if i < w then a.getLsbD i else sg && a.getLsbD (w - 1)
    (iBfx sg w a b c).getLsbD j = if len = 0 then false else if j < len then ext (pos + j) else sg && ext (pos + len - 1) := by
  intro pos len ext
  have bit (i : Nat) (hi : i < len) : intBit (toSN sg w a / 2 ^ pos % 2 ^ len) i = ext (pos + i) := by
    rw [intBit_of_modEq (Int.mod_modEq _ _) hi, intBit_ediv_two_pow, intBit_toSN (by omega)]
  change (wrap w (if sg && len ≠ 0 && 2 ^ (len - 1) ≤ toSN sg w a / 2 ^ pos % 2 ^ len then
    toSN sg w a / 2 ^ pos % 2 ^ len - 2 ^ len else toSN sg w a / 2 ^ pos % 2 ^ len)).getLsbD j = _
  rw [getLsbD_wrap hw hj, intBit_field sg (Int.emod_nonneg _ (by positivity)) (Int.emod_lt_of_pos _ (by positivity))]
  by_cases h0 : len = 0
  · rw [if_pos h0, if_pos h0]
  · rw [if_neg h0, if_neg h0, bit (len - 1) (by omega), show pos + (len - 1) = pos + len - 1 by omega]
    exact ite_congr rfl (bit j) fun _ => rfl

theorem getLsbD_iBfi :
    let pos := c.toNat % 128
    let len := min (c.toNat / 256 % 128) w
    (iBfi sg w a b c).getLsbD j = if pos ≤ j ∧ j < pos + len then b.getLsbD (j - pos) else a.getLsbD j := by
  intro pos len
  have mask : (BitVec.ofNat 64 ((2 ^ len - 1) * 2 ^ pos % 2 ^ w)).getLsbD j = decide (pos ≤ j ∧ j < pos + len) := by
    rw [getLsbD_ofNat_of_lt hw hj, Nat.testBit_mod_two_pow, Nat.testBit_mul_two_pow, Nat.testBit_two_pow_sub_one, decide_eq_true hj,
      Bool.true_and, ← Bool.decide_and]
    exact decide_eq_decide.mpr (by omega)
  have field : (BitVec.ofNat 64 (toN w b * 2 ^ pos)).getLsbD j = (decide (pos ≤ j) && b.getLsbD (j - pos)) := by
    rw [getLsbD_ofNat_of_lt hw hj, Nat.testBit_mul_two_pow, testBit_toN, decide_eq_true (show j - pos < w by omega), Bool.true_and]
  change ((a &&& ~~~(BitVec.ofNat 64 ((2 ^ len - 1) * 2 ^ pos % 2 ^ w)))
    ||| (BitVec.ofNat 64 (toN w b * 2 ^ pos) &&& BitVec.ofNat 64 ((2 ^ len - 1) * 2 ^ pos % 2 ^ w))).getLsbD j = _
  rw [BitVec.getLsbD_or, BitVec.getLsbD_and, BitVec.getLsbD_and, BitVec.getLsbD_not, mask, field, decide_eq_true (by omega : j < 64)]
  by_cases h : pos ≤ j ∧ j < pos + len
  · simp [h]
  · simp [h]

end

/-! ## Bit counts and reversal (R139) -/

/-- The number built from bits, lowest first, has just these bits. -/
theorem testBit_foldl_two_pow (p : Nat → Bool) (n j : Nat) :
    ((List.range n).foldl (fun x i => x + if p i then 2 ^ i else 0) 0).testBit j = (decide (j < n) && p j)
      ∧ (List.range n).foldl (fun x i => x + if p i then 2 ^ i else 0) 0 < 2 ^ n := by
  induction n generalizing j with
  | zero => simp
  | succ n ih =>
    have lt := (ih 0).2
    have bit := (ih j).1
    rw [List.range_succ, List.foldl_append, List.foldl_cons, List.foldl_nil]
    generalize (List.range n).foldl (fun x i => x + if p i then 2 ^ i else 0) 0 = x at lt bit
    refine ⟨?_, ?_⟩
    · have top : x + (if p n then 2 ^ n else 0) = 2 ^ n * (p n).toNat + x := by cases p n <;> simp [add_comm]
      rw [top, Nat.testBit_two_pow_mul_add _ lt, bit]
      obtain h | rfl | h := lt_trichotomy j n
      · simp [h, h.le]
      · cases p j <;> simp
      · rw [if_neg (by omega), decide_eq_false (by omega), Bool.false_and, Nat.testBit_bool_toNat, decide_eq_false (by omega)]
        rfl
    · split <;> omega

theorem getLsbD_iBrev {w : Nat} (hw : w ≤ 64) {j : Nat} (hj : j < w) (sg : Bool) (a b c : DWord) :
    (iBrev sg w a b c).getLsbD j = a.getLsbD (w - 1 - j) := by
  rw [iBrev, getLsbD_ofNat_of_lt hw hj, (testBit_foldl_two_pow (fun i => a.getLsbD (w - 1 - i)) w j).1, decide_eq_true hj, Bool.true_and]

theorem length_filter_eq_sum (p : Nat → Bool) (l : List Nat) : (l.filter p).length = (l.map fun j => (p j).toNat).sum := by
  induction l with
  | nil => rfl
  | cons x r ih => cases h : p x <;> simp [h, ih, add_comm]

theorem toNat_iPopc {w : Nat} (hw : w ≤ 64) (sg : Bool) (a b c : DWord) :
    (iPopc sg w a b c).toNat = ((List.range w).map fun j => (a.getLsbD j).toNat).sum := by
  have le : ((List.range w).filter fun i => a.getLsbD i).length ≤ w := (List.length_filter_le ..).trans (List.length_range ..).le
  rw [iPopc, BitVec.toNat_ofNat, Nat.mod_eq_of_lt (by omega), length_filter_eq_sum]

/-- CLZ counts the zeros above the highest bit that is set, which is bit `log2` of the value. -/
theorem iClz_spec {w : Nat} (hw : w ≤ 64) (sg : Bool) (a b c : DWord) :
    let n := (iClz sg w a b c).toNat
    n ≤ w ∧ (∀ j, j < w → w - n ≤ j → a.getLsbD j = false) ∧ (n < w → a.getLsbD (w - 1 - n) = true) := by
  have bit (j : Nat) (hj : j < w) : a.getLsbD j = (toN w a).testBit j := by rw [testBit_toN, decide_eq_true hj, Bool.true_and]
  have lt := toN_lt w a
  intro n
  by_cases h0 : toN w a = 0
  · have hn : n = w := by
      simp only [n, iClz, h0, if_true]
      exact Nat.mod_eq_of_lt (by omega)
    rw [hn]
    exact ⟨le_rfl, fun j hj _ => by rw [bit j hj, h0, Nat.zero_testBit], fun h => absurd h (lt_irrefl w)⟩
  · have hl : Nat.log2 (toN w a) < w := (Nat.log2_lt h0).mpr lt
    have hn : n = w - 1 - Nat.log2 (toN w a) := by
      simp only [n, iClz, h0, if_false]
      exact Nat.mod_eq_of_lt (by omega)
    rw [hn]
    refine ⟨by omega, fun j hj h => ?_, fun _ => ?_⟩
    · rw [bit j hj]
      exact Nat.testBit_lt_two_pow ((Nat.lt_log2_self).trans_le (Nat.pow_le_pow_right two_pos (by omega)))
    · rw [bit _ (by omega), show w - 1 - (w - 1 - Nat.log2 (toN w a)) = Nat.log2 (toN w a) by omega]
      exact Nat.testBit_log2 h0

end Sys2Proof.Stated

namespace Sys2Proof.Proofs

open Sys2Proof Sys2Proof.Machine Sys2Proof.Stated

/-- Settles O17: sums and products are residues of the register's, and every other value is read bit by bit. -/
theorem integerValues : Obligations.IntegerValues := by
  unfold Obligations.IntegerValues
  intro w hm sg a b c
  obtain ⟨h1, hw⟩ : 1 ≤ w ∧ w ≤ 64 := by
    simp only [List.mem_cons, List.not_mem_nil, or_false] at hm
    omega
  refine ⟨⟨toN_iAdd hw .., toN_iSub hw .., toN_iMul hw .., toN_wrap hw _, toN_iMad hw .., toSN_iMin .., toSN_iMax ..,
    toN_iAbs hw sg a b c h1, toN_iNeg hw ..⟩, fun j hj => ⟨BitVec.getLsbD_and, BitVec.getLsbD_or, BitVec.getLsbD_xor, ?andn, ?not,
    getLsbD_iShl hw hj .., getLsbD_iShr hw hj .., getLsbD_iSar hw hj .., getLsbD_iRotl hw hj .., getLsbD_iBrev hw hj ..,
    getLsbD_iBfx hw hj .., getLsbD_iBfi hw hj ..⟩, toNat_iPopc hw .., iClz_spec hw ..⟩
  case andn => simp [iAndn, show j < 64 by omega]
  case not => simp [iNot, show j < 64 by omega]

end Sys2Proof.Proofs
end

section
/-! PROOFS. The integer and predicate instructions complete with their results (R115 to R118, R137 to R139, R153, R154). -/

namespace Sys2Proof.Stated

open Sys2Proof Sys2Proof.Machine

/-! ## The shared shapes that the instructions have -/

theorem exec_of_integerOf {i : Instr} {f : XForm} {len : Nat} {op : IntFn} (h : integerOf i = some (f, len, op)) (s : State) :
    exec i s = integer s f len op := by
  unfold integerOf at h
  split at h <;> cases h <;> rfl

theorem exec_carry (f : XForm) (sub : Bool) (s : State) : exec (if sub then .subb f else .addc f) s = carrying s f sub := by
  cases sub <;> rfl

/-- PMOV takes a predicate's bit, or whether a vector lane is not zero (R153). -/
theorem exec_pmov (f : XForm) (s : State) :
    exec (.pmov f) s = performAt s f (xIssue f (xLen f) (topReg [(f.d, 1), (f.a, 1)])) .auto false fun j =>
      (match f.a with
        | .v n => if vRead (curGroup s) n.val j = 0 then 0 else 1
        | o => if predBit (curGroup s) o j then 1 else 0, 0) := by
  change execPmov f s = _
  unfold execPmov
  cases f.a <;> rfl

/-! ## A predicate written after another destination (R138, R154) -/

/-- A predicate write, bit by bit. -/
theorem getLsbD_pRead_pWrite (g : Group) (n : Nat) (m x : LaneMask) (k : Nat) {i : Nat} (hi : i < 128) :
    (pRead (pWrite g n m x) k).getLsbD i = if k = n ∧ n ≠ 0 ∧ m.getLsbD i = true then x.getLsbD i else (pRead g k).getLsbD i := by
  rw [pRead_pWrite]
  by_cases h : k = n ∧ n ≠ 0
  · obtain ⟨rfl, h0⟩ := h
    rw [if_pos ⟨rfl, h0⟩, BitVec.getLsbD_or, BitVec.getLsbD_and, BitVec.getLsbD_and, BitVec.getLsbD_not]
    cases m.getLsbD i <;> simp [h0, hi]
  · rw [if_neg h, if_neg fun c => h ⟨c.1, c.2.1⟩]

@[simp] theorem vRead_pWrite (g : Group) (n : Nat) (m x : LaneMask) : vRead (pWrite g n m x) = vRead g := by
  unfold vRead vReg
  rw [pWrite_v]

@[simp] theorem sRead_pWrite (h : Bool) (g : Group) (n : Nat) (m x : LaneMask) : sRead h (pWrite g n m x) = sRead h g := by
  unfold sRead
  rw [pWrite_s, pWrite_hs]

/-- The lanes of a predicate destination receive their bit, or all of them the bit of lane L (R116). -/
theorem getLsbD_pRead_putPred (g y : Group) (f : XForm) (u : Bool) (n : Fin 16) (x : Nat → Bool) (k : Nat) {i : Nat} (hi : i < 128) :
    (pRead (putPred g f u (.p n) x y) k).getLsbD i =
      if k = n.val ∧ n.val ≠ 0 ∧ (writes g f u).getLsbD i = true then (if u then x (lu g) else x i) else (pRead y k).getLsbD i := by
  have bit : (if u then (if x (lu g) then LaneMask.full else 0) else maskWhere x : LaneMask).getLsbD i = if u then x (lu g) else x i := by
    cases u with
    | false => exact (getLsbD_maskWhere x i).trans (by rw [decide_eq_true hi, Bool.true_and]; rfl)
    | true => cases x (lu g) <;> simp [hi]
  exact (getLsbD_pRead_pWrite y n.val _ _ k hi).trans (by rw [bit])

/-- A destination that is no predicate leaves the predicates alone. -/
theorem pRead_putD_of_no_pred (s : State) (g : Group) {f : XForm} (hd : ∀ d, f.d ≠ .p d) (u pair : Bool) (x : Nat → DWord) (k : Nat)
    {i : Nat} (hi : i < 128) : (pRead (putD s g f u pair x) k).getLsbD i = (pRead g k).getLsbD i := by
  rw [pRead_putD _ _ _ _ _ _ _ _ hi]
  cases h : f.d with
  | p d => exact absurd h (hd d)
  | _ => rfl

end Sys2Proof.Stated

namespace Sys2Proof.Proofs

open Sys2Proof Sys2Proof.Machine Sys2Proof.Stated

/-! ## Integer results and carries -/

/-- Settles O16: each is `performAt` of its operation, and raises no flag. -/
theorem integerResult : Obligations.IntegerResult := by
  unfold Obligations.IntegerResult
  intro s i f len op hi hp g w sg p
  rw [exec_of_integerOf hi]
  exact computed_performAt_of_no_flag .auto p _ hp

/-- Settles O18: the destination is written as any result is, and the carries go to C after it. -/
theorem carryResult : Obligations.CarryResult := by
  unfold Obligations.CarryResult
  intro s f n sub hc hd hp g w p u t y out
  let k := xIssue f (xLen f) (typedTop f)
  let push : Option Latch := if pushes f then pushOf s g f u (if u then y else laneValue p y) else none
  have run : exec (if sub then .subb f else .addc f) s
      = issue s k (finish s (putPred g f u (.p n) out (putD s g f u p y)) k (pushes f) push 0) := by
    rw [exec_carry, carrying, hc]
    rfl
  rw [run, issue_pass _ hp, finish_next (enabledFlags_zero _), raiseFlags_zero]
  refine ⟨_, rfl, fun m j hj => ?vector, fun m => ?scalar, fun m j hj => ?pred, ?pc, ?flags, ?frame⟩
  case vector =>
    change vRead (pWrite ..) m j = _
    rw [vRead_pWrite]
    exact vRead_putD s g f u p y m j hj
  case scalar =>
    change sRead _ (pWrite ..) m = _
    rw [sRead_pWrite]
    exact sRead_putD s g f u p y m
  case pred =>
    rw [← pRead_putD_of_no_pred s g hd u p y m hj]
    exact getLsbD_pRead_putPred g _ f u n out m hj
  case pc => exact congrArg (· + _) ((pWrite_pc ..).trans (putD_pc ..))
  case flags => exact (pWrite_fpflags ..).trans (putD_fpflags ..)
  case frame => exact (onlyResults_putD ..).trans ((onlyResults_pWrite ..).trans (onlyResults_advance ..))

/-! ## Predicate results -/

/-- Settles O20: each is `performAt` of one bit for each lane; with `.uni` the lanes of `xm` receive the one of lane L (log entry 42). -/
theorem predicateResult : Obligations.PredicateResult := by
  unfold Obligations.PredicateResult
  refine ⟨fun s i f len op hi hp => computed_of_predicateOf hi hp, fun s f hp => ?pmov⟩
  case pmov =>
    rw [exec_pmov]
    exact computed_performAt_of_no_flag .auto false _ hp

end Sys2Proof.Proofs
end

section
/-! PROOFS. Instructions that execute once for the group: what a false guard at lane L leaves of them, branches, ELECT and VOTE, waiting,
the scheduler's instructions and the traps that an instruction takes itself (R116, R122, R130 to R135, R239, R249). -/

namespace Sys2Proof.Stated

open Sys2Proof Sys2Proof.Machine

/-! ## A false guard at lane L (R116) -/

/-- MARK closes no phase under a false guard. -/
theorem execMark_off {s : State} {f : XForm} (hp : Passes s (ctlIssue f (xLen f))) (hr : runs (curGroup s) f = false) :
    execMark f s = complete s (ctlIssue f (xLen f)) := by
  simp only [execMark, hr, Bool.false_and, Bool.false_eq_true, if_false]
  exact guarded_off _ hp hr

/-- Both meanings of SYSC, in a prologue and outside one, stand under its guard. -/
theorem execSysc_off {s : State} {f : XForm} (hp : Passes s (ctlIssue f (xLen f))) (hr : runs (curGroup s) f = false) :
    execSysc f s = complete s (ctlIssue f (xLen f)) := by
  unfold execSysc
  dsimp only
  split <;> exact guarded_off _ hp hr

/-- ICINV of no lane only goes on, whether it executes once or per lane (R14, R116). -/
theorem execIcinv_none {s : State} {f : XForm} (hp : Passes s (xIssue f (xLen f) (addrTop f 0 0)))
    (hl : (if uniform .auto f then (if runs (curGroup s) f then [lu (curGroup s)] else []) else lanes (live (curGroup s) f)) = []) :
    execIcinv f s = complete s (xIssue f (xLen f) (addrTop f 0 0)) := by
  unfold execIcinv
  dsimp only
  rw [issue_pass _ hp, hl]
  rfl

/-- Every instruction of the table stands under its guard; MARK, SYSC and ICINV, its 16th, 18th and 33rd, test more than that. -/
theorem exec_of_guardedOf_off {s : State} {i : Instr} {f : XForm} {k : Issue} (h : guardedOf i = some (f, k)) (hp : Passes s k)
    (hr : runs (curGroup s) f = false) : exec i s = complete s k := by
  unfold guardedOf at h
  split at h
  case h_40 => cases h
  case h_16 => cases h; exact execMark_off hp hr
  case h_18 => cases h; exact execSysc_off hp hr
  case h_33 =>
    split at h
    · next hu => cases h; exact execIcinv_none hp (by rw [hu, hr]; rfl)
    · cases h
  all_goals cases h; exact guarded_off _ hp hr

theorem lanes_zero : lanes 0 = [] := List.filter_eq_nil_iff.mpr fun i _ => by simp

/-- The guard of a base word names a predicate and no negation (R94). -/
theorem runs_of_basePred {x : Group} {g : Fin 4} (h : (pRead x g.val).getLsbD (lu x) = true) :
    runs x { gp := Fin.ofNat 16 g.val } = true := by
  have lt : g.val % 16 = g.val := by omega
  simpa [runs, guardMask, lt] using h

/-! ## Conditions and targets (R122, R155) -/

/-- The condition of BRC, by its FN code and whether its type reads the sources with a sign (R122). -/
theorem brcCond_eq (n : Nat) {unsigned sg : Bool} (hs : (!unsigned) = sg) (a b : DWord) :
    brcCond n unsigned a b = (match n with
      | 0 => decide (a = b) | 1 => decide (a ≠ b)
      | 2 => decide (toSN sg 64 a < toSN sg 64 b) | 3 => decide (toSN sg 64 a ≤ toSN sg 64 b)
      | 4 => decide (toSN sg 64 a > toSN sg 64 b) | 5 => decide (toSN sg 64 a ≥ toSN sg 64 b)
      | 8 => decide (a = 0) | _ => decide (a ≠ 0)) := by
  subst hs
  split
  case h_8 h0 h1 h2 h3 h4 h5 h8 =>
    rw [brcCond, if_neg h0, if_neg h1, if_neg h2, if_neg h3, if_neg h4, if_neg h5, if_neg h8]
  all_goals rfl

/-! ## The lowest lane of a mask (R130) -/

/-- The lane is in the mask and no lower one is. -/
def lowestIn (m : LaneMask) (j : Nat) : Bool := m.getLsbD j && (List.range j).all fun i => !m.getLsbD i

/-- The first of the lanes of a mask is its lowest. -/
theorem head?_lanes (m : LaneMask) (j : Nat) : (lanes m).head? = some j ↔ lowestIn m j = true := by
  rw [lanes, List.head?_filter, List.find?_range_eq_some, lowestIn, Bool.and_eq_true, List.all_eq_true]
  constructor
  · rintro ⟨hj, -, low⟩
    exact ⟨hj, fun i hi => low i (List.mem_range.mp hi)⟩
  · rintro ⟨hj, low⟩
    exact ⟨hj, List.mem_range.mpr (BitVec.lt_of_getLsbD hj), fun i hi => low i (List.mem_range.mpr hi)⟩

/-- The mask of the first lane has this lane only. -/
theorem getLsbD_maskOf_take_one (m : LaneMask) {j : Nat} (hj : j < 128) : (maskOf ((lanes m).take 1)).getLsbD j = lowestIn m j := by
  rw [getLsbD_maskOf, List.take_one, Bool.eq_iff_iff, decide_eq_true_iff, ← head?_lanes, Option.mem_toList]
  exact and_iff_right hj

/-- The number of the lowest lane, or 128. -/
theorem headD_lanes (m : LaneMask) :
    if m = 0 then (lanes m).headD 128 = 128 else (lanes m).headD 128 < 128 ∧ lowestIn m ((lanes m).headD 128) = true := by
  cases h : lanes m with
  | nil =>
    rw [if_pos]
    · rfl
    · rw [← maskOf_lanes m, h]; rfl
  | cons a r =>
    have low : lowestIn m a = true := (head?_lanes m a).mp (by rw [h]; rfl)
    have bit : m.getLsbD a = true := (mem_lanes m a).mp (by rw [h]; exact List.mem_cons_self)
    rw [if_neg (ne_zero_of_lanes_ne_nil (by rw [h]; nofun))]
    exact ⟨BitVec.lt_of_getLsbD bit, low⟩

theorem pWrite_eq (g : Group) (n : Nat) (m x : LaneMask) : pWrite g n m x = { g with p := (pWrite g n m x).p } := by
  unfold pWrite
  split <;> rfl

theorem curGroup_past (s : State) (k : Issue) : curGroup (Past s k) = advance (curGroup s) k.len (readsLatch k) false none :=
  curGroup_setCur ..

/-! ## Waiting (R132, R133, R239) -/

/-- A wait goes on at once where the phase is reached, and sleeps elsewhere; either way the group is all that changes. -/
theorem waitOn_eq (s : State) (x : Group) (ev : Ev) (obj : Nat) (ph resume : DWord) (await : Bool) :
    waitOn s x ev obj ph resume await = .next (setCur s (if eventReached s x ev obj ph then { unchained x with pc := resume }
      else { unchained x with status := .asleep ev obj ph resume await })) := by
  unfold waitOn
  split <;> rfl

/-- Where a WAIT or AWAIT goes on: its label, or past itself (R132). -/
def resumeOf (x : Group) (f : XForm) : DWord := match f.c with | .imm t => x.pc + 4 * t | _ => x.pc + BitVec.ofNat 64 (xLen f)

/-- The event that a WAIT names. -/
def eventOf (f : XForm) : Ev := match f.d with | .ev e => e | _ => .grant

theorem execAwait_eq {s : State} {f : XForm} (hp : Passes s (ctlIssue f (xLen f))) (hr : runs (curGroup s) f = true) :
    execAwait f s = waitOn s (curGroup s) .join 0 (BitVec.ofNat 64 (curGroup s).spawned) (resumeOf (curGroup s) f) true := by
  unfold execAwait resumeOf
  dsimp only
  rw [guarded_on _ hp hr]
  cases f.c <;> rfl

theorem execWait_eq {s : State} {f : XForm} (hp : Passes s (ctlIssue f (xLen f))) (hr : runs (curGroup s) f = true) :
    let x := curGroup s
    let obj := (opnd s x false f.b 0).toNat % 2 ^ 22
    execWait f s =
      if eventOf f = .bar && !barOk (getBlock s x.block) obj then
        trapAt s (ctlIssue f (xLen f)) 0x1C 32 (latDetail (getBlock s x.block) obj 16 16) (BitVec.ofNat 64 obj) 0
      else waitOn s x (eventOf f) obj (opnd s x false f.a 0) (resumeOf x f) false := by
  unfold execWait resumeOf
  dsimp only
  rw [guarded_on _ hp hr]
  cases f.c <;> rfl

/-! ## MARK leaves a phase (R293) -/

theorem curGroup_owePhase (s : State) : curGroup (owePhase s s.cur) = { curGroup s with phaseIssues := 0 } :=
  getGroup_modGroup_same ..

/-- The checks of a control instruction look at its latches only. -/
theorem passes_owePhase {s : State} {f : XForm} {len : Nat} (hp : Passes s (ctlIssue f len)) :
    Passes (owePhase s s.cur) (ctlIssue f len) := by
  refine Eq.trans ?_ hp
  unfold issueFault
  rw [curGroup_owePhase]
  rfl

theorem runs_owePhase (s : State) (f : XForm) : runs (curGroup (owePhase s s.cur)) f = runs (curGroup s) f := by
  rw [curGroup_owePhase]
  rfl

/-- MARK with the phase that the group is in changes nothing but the program counter and the latch chain. -/
theorem execMark_same {s : State} {f : XForm} (hp : Passes s (ctlIssue f (xLen f))) (hr : runs (curGroup s) f = true)
    (same : (curGroup s).mark = (opnd s (curGroup s) false f.a 0).setWidth 16) : execMark f s = .next (Past s (ctlIssue f (xLen f))) := by
  unfold execMark tune
  simp only [← same, ne_eq, not_true_eq_false, decide_false, Bool.and_false, Bool.false_eq_true, if_false]
  exact guarded_on _ hp hr

/-- MARK with another phase leaves the counts of the old one owed. -/
theorem execMark_changed {s : State} {f : XForm} (hp : Passes s (ctlIssue f (xLen f))) (hr : runs (curGroup s) f = true)
    (changed : (curGroup s).mark ≠ (opnd s (curGroup s) false f.a 0).setWidth 16) :
    execMark f s = .next (retire (owePhase s s.cur)
      { curGroup s with phaseIssues := 0, mark := (opnd s (curGroup s) false f.a 0).setWidth 16 } (ctlIssue f (xLen f)) false none) := by
  unfold execMark tune
  simp only [hr, changed, ne_eq, not_false_eq_true, decide_true, Bool.and_true, if_true]
  rw [guarded_on _ (passes_owePhase hp) ((runs_owePhase s f).trans hr), curGroup_owePhase]

end Sys2Proof.Stated

namespace Sys2Proof.Proofs

open Sys2Proof Sys2Proof.Machine Sys2Proof.Stated

/-- Settles O27: each stands under its guard, and the lanes of a per-lane ICINV are its live ones. -/
theorem falseGuardOnlyAdvances : Obligations.FalseGuardOnlyAdvances := by
  unfold Obligations.FalseGuardOnlyAdvances
  refine ⟨fun s i f k hi hp hr => exec_of_guardedOf_off hi hp hr, fun s f hu hp hl => execIcinv_none hp ?_⟩
  rw [hu, hl]
  exact lanes_zero

/-- Settles O28: under a guard that holds, each goes to its target or past itself, or BRX traps. -/
theorem branchesGo : Obligations.BranchesGo := by
  unfold Obligations.BranchesGo
  intro s f g off x k a b sgn holds
  refine ⟨fun hp hg => ?base, fun hp hr => ⟨?bra, ?brc, fun ha hc => ?brx, fun ht => ?trap⟩⟩
  case base => exact guarded_on _ hp (runs_of_basePred hg)
  case bra => exact guarded_on _ hp hr
  case brc =>
    have cond : brcCond f.fn.toNat (f.ty = .n64) a b = holds := brcCond_eq _ (decide_not ..).symm a b
    refine (guarded_on _ hp hr).trans ?_
    rw [cond]
    cases holds <;> rfl
  case brx =>
    refine (guarded_on _ hp hr).trans (if_pos ?_)
    simpa using And.intro ha hc
  case trap =>
    refine (guarded_on _ hp hr).trans (if_neg ?_)
    simpa using ht

/-- Settles O33: ELECT takes the head of the live lanes. -/
theorem electChooses : Obligations.ElectChooses := by
  unfold Obligations.ElectChooses
  intro s f x k m lowest hp
  refine ⟨fun n hd => ?pred, fun hd => ?scalar⟩
  case pred =>
    refine ⟨advance (pWrite x n.val LaneMask.full (maskOf ((lanes m).take 1))) k.len (readsLatch k) false none, ?run,
      fun q j hj => ?bits, ?frame⟩
    case run =>
      change execElect f s = _
      unfold execElect
      dsimp only
      rw [issue_pass _ hp, hd]
      rfl
    case bits =>
      refine (getLsbD_pRead_pWrite x n.val _ _ q hj).trans ?_
      simp only [getLsbD_maskOf_take_one m hj, BitVec.getLsbD_allOnes, hj, decide_true, and_true]
      rfl
    case frame =>
      rw [pWrite_eq]
      rfl
  case scalar =>
    refine ⟨(lanes m).headD 128, ?run, headD_lanes m⟩
    change execElect f s = _
    unfold execElect
    dsimp only
    rw [issue_pass _ hp]
    split
    · next n h => exact absurd h (hd n)
    · rfl

/-- Settles O34: VOTE reads its predicate once, in the lanes of `xm` (log entry 39). -/
theorem voteCounts : Obligations.VoteCounts := by
  unfold Obligations.VoteCounts
  intro s f n ha x k a hp hr
  refine ⟨fun hf => ?any, fun hf => ?all, fun h0 h1 d hd => ?mask⟩
  all_goals
    change execVote f s = _
    unfold execVote
    dsimp only
    rw [guarded_on _ hp hr, ha]
  case any =>
    rw [if_pos hf, ite_not]
    rfl
  case all =>
    rw [if_neg (by rw [hf]; decide), if_pos hf]
    rfl
  case mask =>
    rw [if_neg h0, if_neg h1, hd]
    rfl

/-! ## Waiting -/

/-- Settles O35: WAIT and AWAIT are `waitOn` with the event, its phase and the address at which the group goes on; the record of a bad
object concerns no lane (log entry 113). -/
theorem waitSleepsOrGoes : Obligations.WaitSleepsOrGoes := by
  unfold Obligations.WaitSleepsOrGoes
  intro s f aw x k ev obj ph resume i hp hr
  cases aw with
  | true => exact ⟨fun _ => (execAwait_eq hp hr).trans (waitOn_eq ..), nofun⟩
  | false =>
    have objectBad : (decide (ev = .bar) && !barOk (getBlock s x.block) obj) = true
        ↔ ¬ (ev ≠ .bar ∨ barOk (getBlock s x.block) obj = true) := by simp
    refine ⟨fun ok => (execWait_eq hp hr).trans ((if_neg fun h => objectBad.mp h ok).trans (waitOn_eq ..)), fun _ hb bad =>
      (execWait_eq hp hr).trans (if_pos (objectBad.mpr ?_))⟩
    simp [hb, bad]

/-! ## The scheduler and the contact sheet (R135, R291, R293) -/

/-- Settles O36: NOP, YIELD and PRIO retire the group with their field written; MARK first leaves the phase that it ends, if it ends one; the
clocks since a YIELD decide whether its end is due. -/
theorem schedulerInstructions : Obligations.SchedulerInstructions := by
  unfold Obligations.SchedulerInstructions
  refine ⟨?instructions, fun s g hp hg => ?nop, ?yieldEnd⟩
  case instructions =>
    intro s f x a hr
    refine ⟨fun hp => guarded_on _ hp hr, fun hp => ?_⟩
    rw [curGroup_past]
    exact ⟨guarded_on _ hp hr, guarded_on _ hp hr, execMark_same hp hr, fun changed =>
      ⟨_, execMark_changed hp hr changed, rfl, curGroup_setCur .., rfl⟩⟩
  case nop => exact guarded_on _ hp (runs_of_basePred hg)
  case yieldEnd =>
    intro s g hy since
    have due : ((getGroup s g).yielding && !yields s g) = decide (64 < since) := by
      rw [yields, hy, Bool.true_and, Bool.true_and, ← decide_not]
      exact decide_eq_decide.mpr not_le
    refine ⟨fun late => (if_pos ?_).trans ?_, fun early => if_neg ?_⟩
    · rw [due, decide_eq_true late]
    · rfl
    · rw [due, decide_eq_false (by omega)]
      nofun

/-! ## Traps that an instruction takes itself (R135, R249) -/

/-- Settles O13: TRAP and SYSC complete and then raise their trap; BKPT raises its own at issue. -/
theorem softwareTraps : Obligations.SoftwareTraps := by
  unfold Obligations.SoftwareTraps
  refine ⟨?software, fun s f hp hr => guarded_on _ hp hr⟩
  case software =>
    intro s f k sw trap hp hr
    refine ⟨guarded_on _ hp hr, fun hn => ?sysc⟩
    case sysc =>
      change execSysc f s = _
      unfold execSysc
      dsimp only
      rw [hn]
      exact guarded_on _ hp hr

end Sys2Proof.Proofs
end

section
/-! PROOFS. The events of groups, when they are due (R35, R161, R187 to R189, R243, R251, R282, R291, R333, R339, R348, R353). -/

namespace Sys2Proof.Stated

open Sys2Proof Sys2Proof.Machine

/-! ## Traps that wait (R339, R348) -/

/-- A group stands where its traps are taken only while it holds none that waits for its results. -/
theorem held_of_atTrap {s : State} {g : Nat} (h : atTrap s g = true) : (getGroup s g).held = none := by
  simp only [atTrap, Bool.and_eq_true, Option.isNone_iff_eq_none] at h
  obtain ⟨⟨⟨⟨-, hh⟩, -⟩, -⟩, -⟩ := h
  exact hh

/-- A trap that has waited for the group's results is taken once they are back. -/
theorem execTrapEntry_held {s : State} {g : Nat} {p : PendTrap} (hh : (getGroup s g).held = some p) (hl : pendingOf s g = [])
    (hr : requestsStopped s (groupSpace s g).1 = false)
    (ht : (getGroup (takeTrap (setGroup s g { getGroup s g with held := none }) g p) g).held = none) :
    execTrapEntry g s = .next (takeTrap (setGroup s g { getGroup s g with held := none }) g p) := by
  unfold execTrapEntry
  dsimp only
  rw [hh]
  exact if_pos (by simp [hl, hr, ht])

/-- A fault of an absent page parks the group before any other trap is taken. -/
theorem execTrapEntry_park {s : State} {g : Nat} {p : PendTrap} (h : atTrap s g = true)
    (hp : ((getGroup s g).pend.find? fun q => q.cls = .P) = some p) :
    execTrapEntry g s = .next (modGroup (parkFault s g (getGroup s g).pc (p.recs.headD (plainRec s g p.code 0))) g
      fun y => { y with tlbiSeen := (getGroup s g).tlbiSeen }) := by
  unfold execTrapEntry
  dsimp only
  rw [held_of_atTrap h]
  simp only [h, hp, Bool.not_true, Bool.false_eq_true, if_false]

/-- The traps that wait are taken as one. -/
theorem execTrapEntry_merged {s : State} {g : Nat} {p : PendTrap} (h : atTrap s g = true)
    (hn : ((getGroup s g).pend.find? fun q => q.cls = .P) = none) (hm : mergeTraps (getGroup s g).pc (getGroup s g).pend = some p) :
    execTrapEntry g s = .next (takeTrap (setGroup s g { getGroup s g with status := .ready, pend := [] }) g p) := by
  unfold execTrapEntry
  dsimp only
  rw [held_of_atTrap h]
  simp only [h, hn, hm, Bool.not_true, Bool.false_eq_true, if_false]

end Sys2Proof.Stated

namespace Sys2Proof.Proofs

open Sys2Proof Sys2Proof.Machine Sys2Proof.Stated

/-- Settles O56: each event's condition is the one that its step tests. -/
theorem groupEvents : Obligations.GroupEvents := by
  unfold Obligations.GroupEvents
  refine ⟨fun s g ha hb => ?park, fun s g l hl hs => ?evict, fun s g why hw ht hh ho => ?stall,
    fun s g => ⟨fun p => execTrapEntry_held, fun h => ⟨fun p => execTrapEntry_park h, fun hn p => execTrapEntry_merged h hn⟩⟩,
    fun s g hs hc => ?starved, fun s g q e p hq hp hs hf => ?prologue, fun s p i c w r hf => ?item, fun s q hp hn => ?tick⟩
  case park => exact if_pos (by simp [ha, hb])
  case evict => exact if_neg (by simp [hl, hs])
  case stall =>
    change execStallEnd g s = _
    rw [execStallEnd, hw]
    cases why with
    | tile => exact absurd rfl ht
    | halted => exact absurd rfl hh
    | _ => exact if_pos ho
  case starved => exact if_pos (by simp [hs, starvationLimit, hc])
  case prologue =>
    change execPrologueFault g s = _
    rw [execPrologueFault, hq, hp]
    exact if_pos (by simp [hs, hf])
  case item =>
    change execItemInList p s = _
    rw [execItemInList, hf]
  case tick =>
    change (if _ then _ else _) = _
    rw [if_neg (by rw [Bool.or_eq_true, decide_eq_true_eq, decide_eq_true_eq]; exact not_or.mpr ⟨hp, hn⟩)]
    exact congrArg _ (if_neg hn)

end Sys2Proof.Proofs
end

section
/-! PROOFS. What the memory does by itself (R162, R168, R179, R180, R182, R197, R253 to R255, R308, R367). -/

namespace Sys2Proof.Stated

open Sys2Proof Sys2Proof.Machine

/-! ## Loads and atomics that wait (R162, R168, R253) -/

section Pending

variable {s : State} {l : PLoad} (hl : (s.loads.find? fun m => m.id = l.id) = some l) (hg : l.got = none) (hp : l.peer = false)
  (hf : (s.loads.find? fun m => m.uid = l.uid && m.got = none && lineOf m.addr = lineOf l.addr) = some l)
include hl hg hp hf

/-- The oldest load of its group to its line is performed with the other lanes of its instruction that touch the line. -/
theorem execLoadAtHome_eq (ho : l.op = none) (hb : homeBusy s l.addr = false) (hw : (sameAccess s l).any (loadWaits s) = false)
    (hn : ((sameAccess (reroute s l.part l.vers) l).all fun m =>
      m.dead || !loadPoisoned (reroute s l.part l.vers) m.g m.addr m.size []) = true) :
    execLoadAtHome l.id s = .next ((sameAccess (reroute s l.part l.vers) l).foldl performPending (reroute s l.part l.vers)) := by
  have clean : ((sameAccess (reroute s l.part l.vers) l).find? fun m =>
      !m.dead && loadPoisoned (reroute s l.part l.vers) m.g m.addr m.size []) = none :=
    List.find?_eq_none.mpr fun m hm => by simpa [imp_iff_not_or] using List.all_eq_true.mp hn m hm
  simp [execLoadAtHome, hl, hg, hp, hf, ho, hb, hw, clean]

/-- The oldest atomic of its group to its line is performed at its home. -/
theorem execAtomicAtHome_load (ho : l.op.isSome = true) (hs : (s.stores.find? fun t => t.id = l.id) = none)
    (hh : lineHeld s (lineOf l.addr) = false)
    (hn : (if l.dead then poisonedNext (reroute s l.part l.vers) l.addr l.size
      else atomPoisoned (reroute s l.part l.vers) l.g l.addr l.size []) = false) :
    execAtomicAtHome l.id s = .next (performPending (reroute s l.part l.vers) l) := by
  obtain ⟨op, ho⟩ := Option.isSome_iff_exists.mp ho
  cases hd : l.dead <;> simp only [hd, Bool.false_eq_true, if_true, if_false] at hn <;>
    simp [execAtomicAtHome, hl, hg, hp, hf, ho, hs, hh, hd, hn]

end Pending

/-- An atomic without a result is performed as a store in flight is. -/
theorem execAtomicAtHome_store {s : State} {t : PStore} (ht : (s.stores.find? fun u => u.id = t.id) = some t)
    (ho : ∀ m, t.op ≠ .bytes m) (hr : storeReady s t = true) :
    execAtomicAtHome t.id s = .next (performStore s (storeHolder s t) t) := by
  simp only [execAtomicAtHome, ht]
  cases h : t.op with
  | bytes m => exact absurd h (ho m)
  | _ => exact if_pos hr

/-! ## Values that come back (R162) -/

section Result

variable (s : State) (l : PLoad) (x : DWord)

theorem giveResult_loads : (giveResult s l x).loads = s.loads.filter fun m => m.id ≠ l.id := by
  unfold giveResult countLate
  dsimp only
  split
  · split <;> rfl
  · rfl

theorem giveResult_mem : (giveResult s l x).mem = s.mem := by
  unfold giveResult countLate
  dsimp only
  split
  · split <;> rfl
  · rfl

/-- An access whose group is gone gives its value to none. -/
theorem giveResult_dead (h : l.dead = true) : (giveResult s l x).groups = s.groups := by
  unfold giveResult countLate
  dsimp only
  rw [if_pos h]
  split <;> rfl

variable {l}

/-- A value that comes back stands in the lanes of its vector destination. -/
theorem vRead_giveResult (h : l.dead = false) {n : Fin 512} (hd : l.d = .v n) {j : Nat} (hj : j < 128) (hm : l.mask.getLsbD j = true) :
    vRead (getGroup (giveResult s l x) l.g) n.val j = x.setWidth 32 := by
  simp only [giveResult, h, hd, Bool.false_eq_true, if_false, modGroup, getGroup_setGroup_same]
  split
  all_goals exact (vRead_vPut _ _ _ _ _ _ _ hj).trans (if_pos ⟨hm, rfl⟩)

/-- A value that comes back stands in its scalar destination. -/
theorem sRead_giveResult (h : l.dead = false) {n : Fin 96} (hd : l.d = .s n) (hn : n.val ≠ 0) :
    sRead (hidden s l.g) (getGroup (giveResult s l x) l.g) n.val = x := by
  simp only [giveResult, h, hd, Bool.false_eq_true, if_false, modGroup, getGroup_setGroup_same]
  split
  all_goals exact (sRead_sWrite _ _ _ _ _).trans (if_pos ⟨rfl, hn⟩)

end Result

/-! ## Images and write-backs (R180, R308) -/

theorem showBytes_mem (s : State) (l : Nat) (b : AMap Byte) : (showBytes s l b).mem = putOffsets s.mem l b := by
  unfold showBytes bumpWatchers
  dsimp only
  split
  · exact (foldl_kept _ (fun t u => modUid_kept t u _) _ _).1
  · rfl

/-- The first image that waits becomes the bytes of memory. -/
theorem makeVisible_mem {s : State} {l t : Nat} {m : AMap Byte} {r : List (Nat × AMap Byte)} (h : (getHome s l).next = (t, m) :: r) :
    (makeVisible s l).mem = putOffsets s.mem l m := by
  simp only [makeVisible, h]
  exact showBytes_mem _ l m

/-- Whether a home answers does not depend on what a partition counts. -/
theorem homeGone_modPart (s : State) (p : Nat) {f : Partition → Partition} (h : ∀ x, (f x).spread = x.spread) (key : Nat) :
    homeGone (modPart s p f) key = homeGone s key := by
  have spread : (getPart (modPart s p f) (keyPart key)).spread = (getPart s (keyPart key)).spread := by
    unfold getPart modPart
    rw [mapGet_mapMod]
    split
    · next e => rw [h, e]
    · rfl
  have stack : homeStack (modPart s p f) key = homeStack s key := by simp only [homeStack, spread]
  have die : getDie (modPart s p f) (homeDie (modPart s p f) key) = getDie s (homeDie s key) := by
    simp only [homeDie, stack]
    rfl
  unfold homeGone
  rw [stack, die]
  rfl

theorem homeGone_reroute (s : State) (p : Nat) (v : BitVec 4 × BitVec 4) (key : Nat) : homeGone (reroute s p v) key = homeGone s key := by
  unfold reroute
  split
  · rfl
  · exact homeGone_modPart s p (f := fun x => { x with misr := x.misr + 1 }) (fun _ => rfl) key

theorem fillWord_mem (s : State) (id w : Nat) (b : AMap Byte) : (fillWord s id w b).mem = s.mem := by
  unfold fillWord cleanWord
  dsimp only
  split
  · rfl
  · split <;> rfl

theorem fill_mem (s : State) (id l : Nat) (b : AMap Byte) : (fill s id l b).mem = s.mem := by
  unfold fill
  generalize s.poison.filter _ = ws
  induction ws generalizing s with
  | nil => rfl
  | cons w r ih => exact (ih _).trans (fillWord_mem s id w b)

theorem darkPut_mem (s : State) (l : Nat) (b : AMap Byte) :
    (darkPut s l b).mem = if homeGone s (128 * l) then s.mem else putOffsets s.mem l b := by
  unfold darkPut
  split
  · rfl
  · exact showBytes_mem s l b

/-- A write-back's bytes are memory's once it is merged, unless its home is gone. -/
theorem mergeBack_mem (s : State) (w : WriteBack) :
    (mergeBack s w).mem = if homeGone s (128 * lineOf w.key) then s.mem else putOffsets s.mem (lineOf w.key) w.bytes := by
  have counted (t : State) : (if w.life = (getDie t w.die).life then t else countLate t w.die).mem = t.mem ∧
      ∀ key, homeGone (if w.life = (getDie t w.die).life then t else countLate t w.die) key = homeGone t key := by
    split
    · exact ⟨rfl, fun _ => rfl⟩
    · exact ⟨rfl, homeGone_modPart t _ fun _ => rfl⟩
  obtain ⟨hm, hg⟩ := counted (reroute s (keyPart w.key) w.vers)
  unfold mergeBack
  dsimp only
  rw [apply_ite State.mem, fill_mem, ite_self, darkPut_mem, hm, hg, homeGone_reroute, (reroute_kept s _ _).1]

end Sys2Proof.Stated

namespace Sys2Proof.Proofs

open Sys2Proof Sys2Proof.Machine Sys2Proof.Stated

/-- Settles O55: each event's condition is the one that its step tests. -/
theorem memoryEvents : Obligations.MemoryEvents := by
  unfold Obligations.MemoryEvents
  refine ⟨fun s l hl hg hp hf => ⟨execLoadAtHome_eq hl hg hp hf, execAtomicAtHome_load hl hg hp hf⟩, fun s l x hl hg => ?result,
    fun s t ht ho hr => execAtomicAtHome_store ht ho hr, fun s h l e c hc he hd => ?expiry, fun s g j ha hn hp hr hb hc => ?commit,
    fun s l t m r hn ht => ?visible, fun s p t h r hr hq ht hl => ?token, fun s w hw hk hb => ?merge,
    fun s i k e he hd hs hk hl => ?copy, fun s i e c he hf => ?stop⟩
  case result =>
    refine ⟨giveResult s l x, ?_, giveResult_loads s l x, giveResult_mem s l x, giveResult_dead s l x,
      fun h n hd j hj hm => vRead_giveResult s x h hd hj hm, fun h n hd hn => sRead_giveResult s x h hd hn⟩
    change execLoadResult l.id s = _
    simp only [execLoadResult, hl, hg]
  case expiry =>
    change (_ → execLeaseExpiry h l s = _) ∧ (_ → _ → execLeaseExpiry h l s = _)
    simp only [execLeaseExpiry, hc, he, if_neg (Nat.not_lt.mpr hd)]
    exact ⟨fun h => by simp [h], fun h hb => by simp [h, hb]⟩
  case commit =>
    change execCommit g j s = _
    simp [execCommit, ha, hn, hp, hr, hb, hc]
  case visible =>
    refine ⟨?_, makeVisible_mem hn⟩
    change execCommitVisibility l s = _
    simp only [execCommitVisibility, hn, if_pos ht]
  case token =>
    change execTokenReservationLapse p s = _
    simp [execTokenReservationLapse, hr, hq, ht, hl]
  case merge =>
    refine ⟨?_, fun h => by rw [mergeBack_mem, h]; rfl, fun h => by rw [mergeBack_mem, h]; rfl⟩
    change execDarkroomMerge w.id s = _
    simp [execDarkroomMerge, hw, hk, hb]
  case copy =>
    have piece : (pieces e).contains k = true := by simpa [pieces] using hk
    change ((_ = true → _ = true → execCopyLanding i k s = _) ∧
      (_ = false → _ = none → _ = true → (_ = false → execCopyLanding i k s = _) ∧ (_ = true → ∀ b t, _ → execCopyLanding i k s = _)))
    simp only [execCopyLanding, he, hd, hs, piece, hl, Bool.not_true, Bool.or_false, Bool.false_eq_true, if_false]
    refine ⟨fun sent stored => ?landed, fun sent hf hm => ⟨fun out => ?sends, fun into b t hr => ?reads⟩⟩
    case landed => rw [if_pos sent, if_pos stored]
    case sends => simp [sent, hf, hm, out]
    case reads => simp [sent, hf, hm, into, hr]
  case stop =>
    change (∃ t, execCopyElementFault i s = _) ∧ (_ → execCopyElementFault i s = _)
    have same (d : Elem) : elemGroup (setElem s i d) e = elemGroup s e := rfl
    simp only [execCopyElementFault, he, hf, same]
    refine ⟨?_, fun hn => by simp only [hn, Option.isNone_none]⟩
    cases elemGroup s e <;> exact ⟨_, rfl⟩

end Sys2Proof.Proofs
end

section
/-! PROOFS. Releases, fences and flags, monitors and darkroom ranges (R187 to R193, R204, R258, R272, R307 to R311). -/

namespace Sys2Proof.Stated

open Sys2Proof Sys2Proof.Machine

/-! ## Sums sent before a release (R169, R272) -/

/-- Update-only lines have been sent: cores and stores in flight differ, and nothing else. -/
def SumsSent (s t : State) : Prop := t = { s with cores := t.cores, stores := t.stores, nextId := t.nextId }

theorem SumsSent.refl (s : State) : SumsSent s s := rfl

theorem SumsSent.trans {s t u : State} (h : SumsSent s t) (k : SumsSent t u) : SumsSent s u := by
  unfold SumsSent at *
  rw [h] at k
  exact k

theorem sumsSent_sendGather (s : State) (c l : Nat) : SumsSent s (sendGather s c l) := by
  unfold sendGather
  split
  · exact .refl s
  · next h _ =>
    exact SumsSent.trans (t := modCore s c fun k => { k with gather := mapDel k.gather l }) rfl
      (List.foldlRecOn h.sums _ (.refl _) fun t ht e _ => ht.trans (rfl : SumsSent t (addStore t (gatherStore c l h e))))

theorem sumsSent_sendAllGathers (s : State) (c : Nat) : SumsSent s (sendAllGathers s c) :=
  List.foldlRecOn _ _ (.refl s) fun t ht _ _ => ht.trans (sumsSent_sendGather t _ _)

theorem sumsSent_sendGathersOf (s : State) (hit : Gather → Bool) : SumsSent s (sendGathersOf s hit) :=
  List.foldlRecOn _ _ (.refl s) fun t ht _ _ => ht.trans (sumsSent_sendGather t _ _)

theorem sumsSent_beforeRelease (s : State) (sc : Sc) : SumsSent s (beforeRelease s sc) := by
  have own : SumsSent s (if scRank .blk ≤ scRank sc then sendGathersOf s fun h => h.ofUid (getGroup s s.cur).uid else s) := by
    split
    · exact sumsSent_sendGathersOf s _
    · exact .refl s
  unfold beforeRelease
  dsimp only
  split
  · exact own.trans (sumsSent_sendAllGathers _ _)
  · exact own

/-- A release goes on or stalls as the group's stores are complete or not; at `.sys` a lost store ends it before (R187, R385). -/
theorem release_eq {s : State} {k : Issue} {sc : Sc} {why : Stall} (go : State → Out)
    (h : sc = .sys → lostStore (beforeRelease s sc) (beforeRelease s sc).cur = none) :
    release s k sc why go = if storesComplete (beforeRelease s sc) (beforeRelease s sc).cur sc then go (beforeRelease s sc)
      else stall (beforeRelease s sc) why := by
  have kept : (if sc = .sys then lostStore (beforeRelease s sc) (beforeRelease s sc).cur else none) = none := by
    split
    · next e => exact h e
    · rfl
  unfold release
  dsimp only
  rw [kept]

/-! ## Instruction words fetched anew (R93, R250) -/

theorem dropStaleWords_eq (s : State) (p c : Nat) (va : DWord) (n : Nat) :
    dropStaleWords s p c va n = { s with stale := (dropStaleWords s p c va n).stale } := by
  refine List.foldlRecOn _ _ (motive := fun t : State => t = { s with stale := t.stale }) rfl fun t ht i _ => ?_
  dsimp only
  split
  · split
    · rw [ht]
    · exact ht
  · exact ht

/-- An address depends on the state through the latches' unknown values and the scalar bank that the group sees. -/
theorem globalAt_congr {s t : State} (ht : t.tick = s.tick) (hh : hidden t t.cur = hidden s s.cur) (x : Group) (a b : Operand) (j : Nat) :
    globalAt t x a b j = globalAt s x a b j := by
  simp only [globalAt, offsetAt, opnd, ht, hh]

/-- The ranges of an ICINV are those that its addresses name when it issues. -/
theorem foldl_dropStaleWords {s t : State} (ht : t.tick = s.tick) (hh : hidden t t.cur = hidden s s.cur) (x : Group) (a b : Operand)
    (p c n : Nat) (ls : List Nat) :
    ls.foldl (fun t j => dropStaleWords t p c (globalAt t x a b j) n) t
      = ls.foldl (fun t j => dropStaleWords t p c (globalAt s x a b j) n) t := by
  induction ls generalizing t with
  | nil => rw [List.foldl_nil, List.foldl_nil]
  | cons j r ih =>
    rw [List.foldl_cons, List.foldl_cons, globalAt_congr ht hh]
    have e := dropStaleWords_eq t p c (globalAt s x a b j) n
    exact ih ((congrArg State.tick e).trans ht) ((congrArg (fun u => hidden u u.cur) e).trans hh)

/-! ## Uniform accesses (R344) -/

/-- A uniform access goes on at the place that it reaches while its home answers. -/
theorem uniformPlace_ok {s : State} {k : Issue} {need : Need} {n : Nat} {va : DWord} {x : Place} (go : Place → Out)
    (hr : reach s (groupSpace s s.cur).1 (groupSpace s s.cur).2 need n false va = .ok x) (hb : placeBusy s s.cur x = false) :
    uniformPlace s k need n va go = go x := by
  unfold uniformPlace
  dsimp only
  rw [hr]
  exact if_neg (by simp [hb])

/-- A darkroom range of less than 2 ^ 32 bytes is acted on line by line (R190). -/
theorem darkRange_acts {s : State} {f : XForm} (act : State → Nat → State) (hp : Passes s (xIssue f (xLen f) none))
    (hr : runs (curGroup s) f = true) (hn : (opnd s (curGroup s) false f.c (lu (curGroup s))).toNat < 2 ^ 32)
    (hs : requestsStopped s (groupSpace s s.cur).1 = false) :
    darkRange s f act = .next (Past ((darkLines (doomOnce s) (groupSpace (doomOnce s) (doomOnce s).cur).1
      (groupSpace (doomOnce s) (doomOnce s).cur).2 (globalAt s (curGroup s) f.a f.b (lu (curGroup s)))
      (opnd s (curGroup s) false f.c (lu (curGroup s))).toNat).foldl act (doomOnce s)) (xIssue f (xLen f) none)) := by
  unfold darkRange
  dsimp only
  rw [if_neg (Nat.not_le.mpr hn), guarded_on _ hp hr, if_neg (by simp [hs])]
  rfl

/-- A longer range traps, whatever the guard (R190). -/
theorem darkRange_long {s : State} {f : XForm} (act : State → Nat → State)
    (hn : 2 ^ 32 ≤ (opnd s (curGroup s) false f.c (lu (curGroup s))).toNat) :
    darkRange s f act = trapI s (xIssue f (xLen f) none) 0x01 3 := if_pos hn

end Sys2Proof.Stated

namespace Sys2Proof.Proofs

open Sys2Proof Sys2Proof.Machine Sys2Proof.Stated

/-- Settles O45: each is a release, which goes on or stalls by what it finds; FLAG's store follows it. -/
theorem releasesWait : Obligations.ReleasesWait := by
  unfold Obligations.ReleasesWait
  intro s f
  refine ⟨fun hr hp hl => ?fence, fun hp hn => ?icinv, fun hr hp p j hx hj hd hb hl hc hh => ?flag⟩
  case fence => exact (guarded_on _ hp hr).trans (release_eq _ hl)
  case icinv =>
    change execIcinv f s = _
    unfold execIcinv
    dsimp only
    rw [issue_pass _ hp, if_neg (by simpa using hn), release_eq (sc := .prt) _ nofun]
    have sent := sumsSent_beforeRelease s .prt
    split
    · rw [foldl_dropStaleWords (s := s) (by rw [sent]) (by rw [sent]; rfl)]
      rfl
    · rfl
  case flag =>
    change execFlag f s = _
    unfold execFlag
    dsimp only
    rw [guarded_on _ hp hr, uniformPlace_ok _ hx hb, release_eq _ hl, if_pos hc]
    simp only [hj, hd, hh, Bool.not_false, Bool.and_false, Bool.false_eq_true, if_false]
    rfl

/-- Settles O46: MON is one uniform access that arms the monitor; RWB and RINV act on each darkroom line of their range. -/
theorem monitorsAndDarkrooms : Obligations.MonitorsAndDarkrooms := by
  unfold Obligations.MonitorsAndDarkrooms
  intro s f x va n sp d k kr hr
  refine ⟨fun hp p j hx hd hj hv hb => ?mon, fun hp hn hs => ⟨darkRange_acts _ hp hr hn hs, darkRange_acts _ hp hr hn hs⟩,
    fun hn => ⟨darkRange_long _ hn, darkRange_long _ hn⟩⟩
  case mon =>
    change execMon f s = _
    unfold execMon
    dsimp only
    rw [guarded_on _ hp hr, uniformPlace_ok _ hx hb]
    simp only [hd, hj, hv, Bool.false_eq_true, if_false]
    rfl

end Sys2Proof.Proofs
end

section
/-! PROOFS. Barrier objects (R200 to R203). -/

namespace Sys2Proof.Stated

open Sys2Proof Sys2Proof.Machine

/-! ## Bytes of a window that lie side by side on one core (R47) -/

/-- The bytes of a window from an address on stand in order from a lattice byte of one core on. -/
def Laid (b : Block) (a n c k : Nat) : Prop := ∀ i, i < n → latPlace b (a + i) = some (c, k + i)

theorem Laid.tail {b : Block} {a n c k : Nat} (h : Laid b a (n + 1) c k) : Laid b (a + 1) n c (k + 1) := fun i hi => by
  rw [Nat.add_right_comm a, Nat.add_right_comm k]
  exact h (i + 1) (by omega)

/-- Sixteen bytes at a multiple of 16 lie in one square. -/
theorem laid_of_barOk {b : Block} {a : Nat} (h : barOk b a = true) : ∃ c k, Laid b a 16 c k := by
  obtain ⟨ha, hw⟩ := Bool.and_eq_true_iff.mp h
  obtain ⟨⟨-, hp⟩, -⟩ := by simpa only [inWindow, Bool.and_eq_true] using hw
  obtain ⟨⟨c, k⟩, hk⟩ := Option.isSome_iff_exists.mp hp
  have ha : a % 16 = 0 := of_decide_eq_true ha
  refine ⟨c, k, fun i hi => ?_⟩
  have member : (a + i) / 2 ^ 20 % 4 = a / 2 ^ 20 % 4 := by omega
  have slot : (a + i) / 2 ^ 13 % 128 = a / 2 ^ 13 % 128 := by omega
  have byte : (a + i) % 8192 = a % 8192 + i := by omega
  unfold latPlace at hk ⊢
  rw [member, slot, byte]
  split at hk
  · next d q _ _ =>
    obtain ⟨rfl, rfl⟩ : d = c ∧ 8192 * q + a % 8192 = k := by simpa using hk
    rw [Nat.add_assoc]
  · exact nomatch hk

/-- Bytes put into a window change no other byte of a core's lattice. -/
theorem lat_latPut_below {s : State} {b : Block} {a c k j : Nat} {l : List Byte} (h : Laid b a l.length c k) (hj : j < k) :
    mapGet 0 (getCore (latPut s b a l) c).lat j = mapGet 0 (getCore s c).lat j := by
  induction l generalizing s a k with
  | nil => rfl
  | cons x r ih =>
    have hp : latPlace b a = some (c, k) := h 0 (by simp)
    simp only [latPut, hp]
    rw [ih h.tail (by omega)]
    simp only [modCore, getCore, setCore, mapGet_mapSet_same]
    exact mapGet_mapSet_ne _ _ _ (by omega)

/-- Bytes put into a window are read back. -/
theorem latBytes_latPut {s : State} {b : Block} {a c k : Nat} {l : List Byte} (h : Laid b a l.length c k) :
    latBytes (latPut s b a l) b a l.length = l := by
  induction l generalizing s a k with
  | nil => rfl
  | cons x r ih =>
    have hp : latPlace b a = some (c, k) := h 0 (by simp)
    simp only [List.length_cons, latBytes, latPut, hp]
    rw [ih h.tail]
    congr 1
    simp only [latByte, hp]
    rw [lat_latPut_below h.tail (by omega)]
    simp [modCore, getCore, setCore]

theorem latBytes_add (s : State) (b : Block) (a m n : Nat) : latBytes s b a (m + n) = latBytes s b a m ++ latBytes s b (a + m) n := by
  induction m generalizing a with
  | zero => simp [latBytes]
  | succ m ih => rw [Nat.succ_add]; simp [latBytes, ih, Nat.add_assoc, Nat.add_comm 1 m]

@[simp] theorem latBytes_length (s : State) (b : Block) (a n : Nat) : (latBytes s b a n).length = n := by
  induction n generalizing a with
  | zero => rfl
  | succ n ih => simp [latBytes, ih]

/-! ## An object read and written (R200) -/

/-- Sixteen bytes of a window that hold an object read as that object. -/
theorem barRead_of_bytes {s : State} {b : Block} {a : Nat} {x : BarObj} (h : latBytes s b a 16 = barBytes x) : barRead s b a = x := by
  have cut : latBytes s b a 16 = latBytes s b a 4 ++ (latBytes s b (a + 4) 4 ++ (latBytes s b (a + 8) 4 ++ latBytes s b (a + 12) 4)) := by
    rw [show 16 = 4 + (4 + (4 + 4)) from rfl, latBytes_add, latBytes_add, latBytes_add]
  rw [cut, barBytes, List.append_assoc, List.append_assoc] at h
  obtain ⟨harv, h⟩ := List.append_inj h (by simp)
  obtain ⟨hexp, h⟩ := List.append_inj h (by simp)
  obtain ⟨hbyt, hph⟩ := List.append_inj h (by simp)
  have word (w : Word) : BitVec.ofNat 32 (leNat (leBytes 4 w.toNat)) = w := by
    rw [leNat_leBytes, Nat.mod_eq_of_lt (by simpa using w.isLt)]
    simp
  simp only [barRead, latNat, harv, hexp, hbyt, hph, word]

theorem barRead_barWrite {s : State} {b : Block} {a : Nat} (x : BarObj) (h : barOk b a = true) : barRead (barWrite s b a x) b a = x := by
  obtain ⟨c, k, hl⟩ := laid_of_barOk h
  exact barRead_of_bytes (latBytes_latPut (l := barBytes x) (by simpa [barBytes] using hl))

/-- An object's place and its bytes depend on the lattices and on the block's cores and squares. -/
theorem barRead_congr {s t : State} {b d : Block} (ht : t.cores = s.cores) (hc : d.cores = b.cores) (hq : d.sqrs = b.sqrs)
    (hs : d.savedSqrs = b.savedSqrs) (a : Nat) : barRead t d a = barRead s b a := by
  have bytes (a n : Nat) : latBytes t d a n = latBytes s b a n := by
    induction n generalizing a with
    | zero => rfl
    | succ n ih => simp only [latBytes, ih, latByte, latPlace, hc, hq, hs, getCore, ht]
  simp only [barRead, latNat, bytes]

/-- Waking the sleepers of a block leaves its objects as they are. -/
theorem barRead_wakeBar (s : State) (b a c : Nat) :
    barRead (wakeBar s b a) (getBlock (wakeBar s b a) b) c = barRead s (getBlock s b) c := by
  have woken (f : Group → Group) (l : List Nat) : l.foldl (fun s g => modGroup s g f) s
      = { s with groups := (l.foldl (fun s g => modGroup s g f) s).groups } := foldl_modGroup_eq f l s
  unfold wakeBar
  dsimp only
  rw [woken]
  refine barRead_congr rfl ?_ ?_ ?_ c <;> simp [modBlock, getBlock, setBlock]

theorem barPut_of_barOk {s : State} {b a : Nat} (x : BarObj) (h : barOk (getBlock s b) a = true) :
    barPut s b a x = barWrite s (getBlock s b) a x := by
  obtain ⟨c, k, hl⟩ := laid_of_barOk h
  exact if_pos (by simp [show latPlace (getBlock s b) a = some (c, k) from hl 0 (by decide)])

/-- The test for advance leaves the object with its phase raised, or as it was written (R202). -/
theorem barRead_barTest {s : State} {b a : Nat} (x : BarObj) (h : barOk (getBlock s b) a = true) :
    barRead (barTest s b a x) (getBlock (barTest s b a x) b) a
      = if x.arv = 0 ∧ x.byt = 0 then { x with ph := x.ph + 1, arv := x.exp } else x := by
  have written (y : BarObj) : barRead (barPut s b a y) (getBlock (barPut s b a y) b) a = y := by
    rw [barPut_of_barOk y h, barWrite, (onlyCores_latPut s _ a _).getBlock]
    exact barRead_barWrite y h
  unfold barTest
  split
  · next hx => rw [barRead_wakeBar, written, if_pos (by simpa using hx)]
  · next hx => rw [written, if_neg (by simpa using hx)]

/-! ## The instructions (R201 to R203) -/

theorem exec_barrier {i : Instr} {f : XForm} (h : i ∈ [Instr.bari f, .barx f, .barq f, .bara f]) (s : State) :
    ∃ go, exec i s = barrier s f go := by
  simp only [List.mem_cons, List.not_mem_nil, or_false] at h
  obtain rfl | rfl | rfl | rfl := h
  · exact ⟨_, show execBari f s = _ from rfl⟩
  · exact ⟨_, show execBarx f s = _ from rfl⟩
  · exact ⟨_, show execBarq f s = _ from rfl⟩
  · exact ⟨_, show execBara f s = _ from rfl⟩

section Barrier

variable {s : State} {f : XForm} (hp : Passes s (xIssue f (xLen f) none)) (hr : runs (curGroup s) f = true)
include hp hr

/-- A barrier instruction acts on an object of the window. -/
theorem barrier_ok (go : State → Issue → Nat → Out) (h : barOk (getBlock s (curGroup s).block) (barObj s (curGroup s) f.a) = true) :
    barrier s f go = go s (xIssue f (xLen f) none) (barObj s (curGroup s) f.a) :=
  (guarded_on _ hp hr).trans (if_pos h)

/-- Any other address traps (R205, R401). -/
theorem barrier_bad (go : State → Issue → Nat → Out) (h : barOk (getBlock s (curGroup s).block) (barObj s (curGroup s) f.a) = false) :
    barrier s f go = trapRec s (xIssue f (xLen f) none)
      (mkRec s s.cur 0x1C (lu (curGroup s)) (34 + irrFlag (curGroup s) (lu (curGroup s)))
        (latDetail (getBlock s (curGroup s).block) (barObj s (curGroup s) f.a) 16 16) (BitVec.ofNat 64 (barObj s (curGroup s) f.a)) 0
        (maskOf [lu (curGroup s)])) true :=
  (guarded_on _ hp hr).trans (if_neg (by simp [h]))

end Barrier

end Sys2Proof.Stated

namespace Sys2Proof.Proofs

open Sys2Proof Sys2Proof.Machine Sys2Proof.Stated

/-- Settles O48: each instruction is `barrier` of what it does with the object; BARA is a release before (log entries 44 and 79). -/
theorem barrierObjects : Obligations.BarrierObjects := by
  unfold Obligations.BarrierObjects
  refine ⟨fun s f => ?instructions, fun s b a x h => barRead_barTest x h⟩
  intro x a k t y o n m old u hp hr
  refine ⟨fun i hi hb => ?bad, fun hb => ⟨fun h1 h2 => ?bari, fun hn => ?count, ?barx, ?barq, fun hm => ?bara,
    fun hm => ?few⟩⟩
  case bad =>
    obtain ⟨go, hgo⟩ := exec_barrier hi s
    exact hgo.trans (barrier_bad hp hr go hb)
  case bari =>
    change execBari f s = _
    exact (barrier_ok hp hr _ hb).trans (if_neg (by
      rw [Bool.or_eq_true, decide_eq_true_eq, decide_eq_true_eq, not_or, Nat.not_lt]
      exact ⟨Nat.one_le_iff_ne_zero.mp h1, h2⟩))
  case count =>
    change execBari f s = _
    exact (barrier_ok hp hr _ hb).trans (if_pos (by simpa using hn))
  case barx =>
    change execBarx f s = _
    exact barrier_ok hp hr _ hb
  case barq =>
    change execBarq f s = _
    exact barrier_ok hp hr _ hb
  case bara =>
    change execBara f s = _
    exact (barrier_ok hp hr _ hb).trans ((if_neg (Nat.not_lt.mpr hm)).trans (release_eq (sc := .blk) _ nofun))
  case few =>
    change execBara f s = _
    exact (barrier_ok hp hr _ hb).trans (if_pos hm)

end Sys2Proof.Proofs
end

section
/-! PROOFS. Loads, stores and atomics whose lanes meet no fault, and the misaligned access (R76, R78, R156 to R175, R335, R344). -/

namespace Sys2Proof.Stated

open Sys2Proof Sys2Proof.Machine

/-! ## The instructions as accesses (R164, R167) -/

/-- The access of a load or store. -/
def memAccess (s : State) (f : XForm) (need : Need) (once : Bool) : Access :=
  { uni := uniform (if once then .once else .laneUni) f, inside := !once, need, n := tyBytes f.ty,
    va := globalAt s (curGroup s) f.a f.b }

/-- What the checks at issue look at in a load, and in a store. -/
def loadIssue (f : XForm) : Issue := xIssue f (xLen f) (addrTop f (span (wide f.ty)) 0)
def storeIssue (f : XForm) : Issue := xIssue f (xLen f) (addrTop f 0 (span (wide f.ty)))

/-- The bytes that a lane stores. -/
def storeData (s : State) (f : XForm) (i : Nat) : List Byte := leBytes (tyBytes f.ty) (opnd s (curGroup s) (wide f.ty) f.c i).toNat

/-- Outside a prologue LDS is a load, and STS a store, that executes once and outside transactions (R164, R283). -/
theorem exec_load {s : State} (f : XForm) (lds : Bool) (h : (curGroup s).prologue = none) :
    exec (if lds then .lds f else .ld f) s = load s f (if lds then .once else .laneUni) !lds := by
  cases lds with
  | false => rfl
  | true =>
    change execLds f s = _
    unfold execLds copyAt
    dsimp only
    rw [h]
    rfl

theorem exec_store {s : State} (f : XForm) (sts : Bool) (h : (curGroup s).prologue = none) :
    exec (if sts then .sts f else .st f) s = store s f (if sts then .once else .laneUni) !sts := by
  cases sts with
  | false => rfl
  | true =>
    change execSts f s = _
    unfold execSts copyAt
    dsimp only
    rw [h]
    rfl

/-- A load that need not wait for an access of its own group performs its lanes (R159). -/
theorem load_eq {s : State} {f : XForm} {lds : Bool}
    (h : readsWait s (tryLanes s f (memAccess s f .read lds)) (tyBytes f.ty) true = false) :
    load s f (if lds then .once else .laneUni) (!lds) = accesses s f (loadIssue f) (memAccess s f .read lds) (wide f.ty) fun ts =>
      (ts.foldl (laneStep (memAccess s f .read lds) true (fun _ _ => none) (loadValue f.ty)
        (plainLoad (nextLate s).1 f (memAccess s f .read lds))) { s := (nextLate s).2 }, 0) :=
  if_neg (by rw [Bool.not_eq_true]; exact h)

/-- A store whose bytes find room in the L1s performs its lanes (R6, R160). -/
theorem store_eq {s : State} {f : XForm} {sts : Bool}
    (h : noRoom s (storeLanes s (memAccess s f .write sts) (tryLanes s f (memAccess s f .write sts)) (storeData s f)).s = false) :
    store s f (if sts then .once else .laneUni) (!sts) = accesses s f (storeIssue f) (memAccess s f .write sts) false fun ts =>
      ({ storeLanes s (memAccess s f .write sts) ts (storeData s f) with vals := [] }, 0) :=
  if_neg (by
    rw [Bool.and_eq_true, not_and_or]
    exact .inr (by rw [Bool.not_eq_true]; exact h))

/-- An atomic that need not wait for an access of its own group performs its lanes (R168). -/
theorem atomic_eq {s : State} {f : XForm} {k : Issue} {pair : Bool} {n : Nat} {op : Nat → LaneAtom} {fl : Nat → FFlags} {a : Access}
    (ha : a = { uni := uniform .laneUni f, inside := true, need := .atom f.sc, n, va := globalAt s (curGroup s) f.a f.b })
    (hw : readsWait s (tryLanes s f a) n false = false) (hm : mixedWait s (tryLanes s f a) = false) :
    atomic s f k pair n op fl = accesses s { f with sup := false } k a pair fun ts =>
      (ts.foldl (laneStep a true (fun i o => (atomFn (op i).op (BitVec.ofNat 64 o)).map fun y => y.toNat % 2 ^ (8 * n))
          (loadValue (atomTy (op 0).op)) fun r e =>
            plainAtomic ((if f.sup then (false, s) else nextLate s).1 && !txnNear ts e) f a (atomScope f.sc) op r e)
          { s := (if f.sup then (false, s) else nextLate s).2 },
        if (curGroup s).xm = 0 then 0 else (reached_ ts).foldl (fun m e => m ||| fl e.1.lane) 0) := by
  subst ha
  exact if_neg (by
    rw [Bool.or_eq_true, not_or, Bool.not_eq_true, Bool.not_eq_true]
    exact ⟨hw, hm⟩)

end Sys2Proof.Stated

namespace Sys2Proof.Proofs

open Sys2Proof Sys2Proof.Machine Sys2Proof.Stated

/-- Settles O41: past the tests for waits and absent pages each instruction is `accesses` of its lanes, none of which stops it. -/
theorem accessesComplete : Obligations.AccessesComplete := by
  unfold Obligations.AccessesComplete
  refine ⟨fun s f => ⟨fun lds hp hw hi ho hl hf => ?load, fun sts hp hn hi ho hl hf => ?store⟩, ?atomics⟩
  case load =>
    obtain ⟨ha, hb⟩ := ho
    cases lds <;> exact (exec_load f _ hp).trans ((load_eq hw).trans (accesses_next _ _ _ _ _ _ _ _ _ hi rfl ha hb rfl hl hf))
  case store =>
    obtain ⟨ha, hb⟩ := ho
    cases sts <;> exact (exec_store f _ hp).trans ((store_eq hn).trans (accesses_next _ _ _ _ _ _ _ _ _ hi rfl ha hb rfl hl hf))
  case atomics =>
    intro s f i k pair n op fl g p c hi a ts l new r flags t f' hp ha hb hw hm hl hf
    have run : exec i s = atomic s f k pair n op fl := by
      obtain ⟨rfl, rfl, rfl, rfl, rfl, rfl⟩ | ⟨rfl, rfl, rfl, rfl, rfl, rfl⟩ | ⟨rfl, rfl, rfl, rfl, rfl, rfl⟩ |
        ⟨rfl, rfl, rfl, rfl, rfl, rfl⟩ := hi
      · rfl
      · rfl
      · rfl
      · rfl
    exact run.trans ((atomic_eq rfl hw hm).trans (accesses_next _ _ _ _ _ _ _ _ _ hp rfl ha hb rfl hl hf))

end Sys2Proof.Proofs
end

section
/-! PROOFS. Copies opened and sealed (R195 to R199). -/

namespace Sys2Proof.Stated

open Sys2Proof Sys2Proof.Machine

/-! ## Dooming lanes changes transactions alone (R176) -/

/-- A group with other transactions. -/
def withTxn (x : Group) (m : AMap Txn) : Group := { x with txn := m }

/-- Only transactions of the current group differ. -/
def TxnsOnly (s t : State) : Prop :=
  t = { s with groups := t.groups } ∧ curGroup t = withTxn (curGroup s) (curGroup t).txn

theorem TxnsOnly.refl (s : State) : TxnsOnly s s := ⟨rfl, rfl⟩

theorem TxnsOnly.trans {s t u : State} (h : TxnsOnly s t) (k : TxnsOnly t u) : TxnsOnly s u := by
  obtain ⟨h1, h2⟩ := h
  obtain ⟨k1, k2⟩ := k
  refine ⟨?_, ?_⟩
  · rw [h1] at k1
    exact k1
  · rw [h2] at k2
    exact k2

theorem TxnsOnly.cur {s t : State} (h : TxnsOnly s t) : t.cur = s.cur := by
  obtain ⟨h, -⟩ := h
  rw [h]

theorem TxnsOnly.priv {s t : State} (h : TxnsOnly s t) : (curGroup t).priv = (curGroup s).priv := by
  obtain ⟨-, h⟩ := h
  rw [h]
  rfl

theorem txnsOnly_modTxn (s : State) (i : Nat) (f : Txn → Txn) : TxnsOnly s (modTxn s s.cur i f) := by
  refine ⟨rfl, ?_⟩
  have h : curGroup (modTxn s s.cur i f) = withTxn (curGroup s) (mapMod {} (curGroup s).txn i f) := getGroup_modGroup_same s s.cur _
  rw [h]
  rfl

theorem txnsOnly_doomLanes (s : State) (m : LaneMask) : TxnsOnly s (doomLanes s m) := by
  unfold doomLanes
  split
  · exact .refl s
  · exact List.foldlRecOn _ _ (motive := fun t : State => TxnsOnly s t) (.refl s) fun t ht i _ => ht.trans (txnsOnly_modTxn t i _)

/-! ## Elements deposited (R196) -/

/-- A group with more open copies. -/
def openMore (x : Group) (l : List Nat) : Group := { x with openCopies := x.openCopies ++ l }

theorem openMore_openMore (x : Group) (l m : List Nat) : openMore (openMore x l) m = openMore x (l ++ m) := by
  simp [openMore, List.append_assoc]

theorem openMore_nil (x : Group) : openMore x [] = x := by simp [openMore]

theorem curGroup_deposit (s : State) (ch : Nat) {e : Elem} (h : e.g = s.cur) :
    curGroup (deposit s ch e) = openMore (curGroup s) [s.nextId] := by
  unfold deposit
  rw [h]
  change getGroup (modGroup _ s.cur _) s.cur = _
  rw [getGroup_modGroup_same]
  rfl

/-- What a deposit of elements leaves: the group's open copies have grown by the numbers from the next one on. -/
theorem foldl_deposit {s : State} (ch : Nat) (elem : Nat → Elem) (hg : ∀ j, (elem j).g = s.cur) (ls : List Nat) :
    let t := ls.foldl (fun u j => deposit u ch (elem j)) s
    t.cur = s.cur ∧ t.mem = s.mem ∧ curGroup t = openMore (curGroup s) (List.range' s.nextId ls.length)
      ∧ (∀ i, i < s.nextId → getElem t i = getElem s i)
      ∧ ∀ j, j ∈ ls → ∃ i, i ∈ List.range' s.nextId ls.length ∧ getElem t i = some (elem j) := by
  induction ls generalizing s with
  | nil =>
    refine ⟨rfl, rfl, ?_, fun _ _ => rfl, fun _ h => absurd h List.not_mem_nil⟩
    rw [List.length_nil, List.range'_zero, openMore_nil, List.foldl_nil]
  | cons a r ih =>
    have grown := curGroup_deposit s ch (hg a)
    have same : getElem (deposit s ch (elem a)) s.nextId = some (elem a) := mapFind_mapSet_same s.elems s.nextId (elem a)
    have below : ∀ i, i < s.nextId → getElem (deposit s ch (elem a)) i = getElem s i := fun i hi =>
      mapFind_mapSet_ne s.elems (elem a) (Nat.ne_of_lt hi)
    have cur : (deposit s ch (elem a)).cur = s.cur := rfl
    have mem : (deposit s ch (elem a)).mem = s.mem := rfl
    have next : (deposit s ch (elem a)).nextId = s.nextId + 1 := rfl
    simp only [List.foldl_cons]
    generalize deposit s ch (elem a) = u at *
    obtain ⟨hc, hm, hgr, hlt, hin⟩ := ih (s := u) fun j => (hg j).trans cur.symm
    rw [next] at hgr hlt hin
    refine ⟨hc.trans cur, hm.trans mem, ?_, fun i hi => (hlt i (Nat.lt_succ_of_lt hi)).trans (below i hi), fun j hj => ?_⟩
    · refine hgr.trans ?_
      rw [grown, openMore_openMore, List.length_cons, List.range'_succ]
      rfl
    · rcases List.mem_cons.mp hj with rfl | hj
      · exact ⟨s.nextId, by simp [List.range'_succ], (hlt _ (Nat.lt_succ_self _)).trans same⟩
      · obtain ⟨i, hi, he⟩ := hin j hj
        exact ⟨i, List.mem_cons_of_mem _ hi, he⟩

/-! ## Batches counted (R199) -/

/-- What counting batches leaves of a group. -/
def SealKept (x y : Group) : Prop := y.s = x.s ∧ y.hs = x.hs ∧ y.openCopies = x.openCopies ∧ y.batchSeq = x.batchSeq

theorem sealKept_wakeGroup (x : Group) : SealKept x (wakeGroup x) := by
  unfold wakeGroup
  split
  · split <;> exact ⟨rfl, rfl, rfl, rfl⟩
  · exact ⟨rfl, rfl, rfl, rfl⟩

theorem sealKept_modUid (s : State) (uid : Nat) (f : Group → Group) (h : ∀ x, SealKept x (f x)) :
    (modUid s uid f).cur = s.cur ∧ (modUid s uid f).mem = s.mem ∧ SealKept (curGroup s) (curGroup (modUid s uid f)) := by
  unfold modUid
  split
  · next g _ =>
    refine ⟨rfl, rfl, ?_⟩
    by_cases e : s.cur = g
    · have : curGroup (modGroup s g f) = f (curGroup s) := by
        unfold curGroup
        rw [← e]
        exact getGroup_modGroup_same s s.cur f
      rw [this]
      exact h _
    · have : curGroup (modGroup s g f) = curGroup s := getGroup_modGroup_ne s f e
      rw [this]
      exact ⟨rfl, rfl, rfl, rfl⟩
  · exact ⟨rfl, rfl, rfl, rfl, rfl, rfl⟩

theorem sealKept_bumpUid (s : State) (uid : Nat) :
    (bumpUid s uid .batch).cur = s.cur ∧ (bumpUid s uid .batch).mem = s.mem ∧ SealKept (curGroup s) (curGroup (bumpUid s uid .batch)) :=
  sealKept_modUid s uid _ fun x => sealKept_wakeGroup { x with cBatch := counter x .batch + 1 }

theorem sealKept_countBatches (s : State) (uid : Nat) (l : List Batch) :
    (countBatches s uid l).cur = s.cur ∧ (countBatches s uid l).mem = s.mem ∧ SealKept (curGroup s) (curGroup (countBatches s uid l)) := by
  induction l generalizing s with
  | nil => exact ⟨rfl, rfl, rfl, rfl, rfl, rfl⟩
  | cons b r ih =>
    unfold countBatches
    split
    · obtain ⟨c1, m1, s1, h1, o1, q1⟩ := sealKept_modUid s uid (fun x => { x with batches := x.batches.drop 1 }) fun x => ⟨rfl, rfl, rfl, rfl⟩
      obtain ⟨c2, m2, s2, h2, o2, q2⟩ := sealKept_bumpUid (modUid s uid fun x => { x with batches := x.batches.drop 1 }) uid
      obtain ⟨c3, m3, s3, h3, o3, q3⟩ := ih (bumpUid (modUid s uid fun x => { x with batches := x.batches.drop 1 }) uid .batch)
      exact ⟨c3.trans (c2.trans c1), m3.trans (m2.trans m1), s3.trans (s2.trans s1), h3.trans (h2.trans h1), o3.trans (o2.trans o1),
        q3.trans (q2.trans q1)⟩
    · exact ⟨rfl, rfl, rfl, rfl, rfl, rfl⟩

theorem sRead_congr {x y : Group} (h : Bool) (n : Nat) (hs : y.s = x.s) (hh : y.hs = x.hs) : sRead h y n = sRead h x n := by
  unfold sRead
  rw [hs, hh]

/-- A group whose scalar destination, if it has one, has been written. -/
def scalarWritten (h : Bool) (f : XForm) (x : Group) (v : DWord) : Group :=
  match f.d with | .s n => sWrite h x n.val v | _ => x

theorem scalarWritten_batchSeq (h : Bool) (f : XForm) (x : Group) (v : DWord) : (scalarWritten h f x v).batchSeq = x.batchSeq := by
  unfold scalarWritten
  split
  · exact sWrite_batchSeq h x _ v
  · rfl

theorem scalarWritten_openCopies (h : Bool) (f : XForm) (x : Group) (v : DWord) : (scalarWritten h f x v).openCopies = x.openCopies := by
  unfold scalarWritten
  split
  · exact sWrite_openCopies h x _ v
  · rfl

theorem sRead_scalarWritten {f : XForm} {d : Fin 96} (hd : f.d = .s d) (h0 : d.val ≠ 0) (h : Bool) (x : Group) (v : DWord) :
    sRead h (scalarWritten h f x v) d.val = v := by
  unfold scalarWritten
  rw [hd]
  exact (sRead_sWrite h x d.val d.val v).trans (if_pos ⟨rfl, h0⟩)

/-- A group whose open copies have become its next batch. -/
def sealed (x : Group) : Group :=
  { x with batchSeq := x.batchSeq + 1, batches := x.batches ++ [{ no := x.batchSeq + 1, elems := x.openCopies }], openCopies := [] }

/-- The state after a SEAL, before batches are counted. -/
def sealState (s : State) (f : XForm) : State :=
  let y := sealed (curGroup s)
  retire s (scalarWritten (Machine.hidden s s.cur) f y (BitVec.ofNat 64 y.batchSeq)) (xIssue f (xLen f) none) (pushes f)
    (some (.scalar (BitVec.ofNat 64 y.batchSeq)))

theorem curGroup_sealState (s : State) (f : XForm) :
    let y := sealed (curGroup s)
    curGroup (sealState s f) = advance (scalarWritten (Machine.hidden s s.cur) f y (BitVec.ofNat 64 y.batchSeq)) (xLen f)
      (readsLatch (xIssue f (xLen f) none)) (pushes f) (some (.scalar (BitVec.ofNat 64 y.batchSeq))) :=
  curGroup_setCur s _

/-! ## The state in which a CPY deposits -/

/-- Before the elements of a CPY are deposited the sums of its group are sent, transactions doomed and earlier sources read. -/
def copyReady (s : State) (f : XForm) : State :=
  let t := sendGathersOf (doomLive s f) fun h => h.ofUid (curGroup s).uid
  readSources t (curGroup s).uid t.nextId

theorem copyReady_kept (s : State) (f : XForm) :
    (copyReady s f).cur = s.cur ∧ (copyReady s f).mem = s.mem ∧ (copyReady s f).tick = s.tick
      ∧ hidden (copyReady s f) (copyReady s f).cur = hidden s s.cur ∧ ∃ m, curGroup (copyReady s f) = withTxn (curGroup s) m := by
  have h : TxnsOnly s (doomLive s f) := txnsOnly_doomLanes s (live (curGroup s) f)
  have hc := h.cur
  have hp := h.priv
  obtain ⟨hd, hg⟩ := h
  have hs := sumsSent_sendGathersOf (doomLive s f) fun h => h.ofUid (curGroup s).uid
  unfold SumsSent at hs
  have hr : OnlyCores _ (copyReady s f) := onlyCores_readSources (sendGathersOf (doomLive s f) fun h => h.ofUid (curGroup s).uid)
    (curGroup s).uid (sendGathersOf (doomLive s f) fun h => h.ofUid (curGroup s).uid).nextId
  unfold OnlyCores at hr
  rw [hs, hd] at hr
  rw [hr]
  refine ⟨rfl, rfl, rfl, ?_, (curGroup (doomLive s f)).txn, ?_⟩
  · unfold Machine.hidden isFirmwareCore
    unfold curGroup at hp
    rw [hc] at hp
    exact congrArg (· && !decide ((getDie s (coreDie (slotCore s.cur))).fwCore = slotCore s.cur)) hp
  · refine Eq.trans ?_ hg
    unfold curGroup
    rw [hc]
    rfl

/-- The element that a lane of a CPY opens (R196). -/
def copyElem (s : State) (f : XForm) (w : DWord) (ch j : Nat) : Elem :=
  let x := curGroup s
  let t := copyReady s f
  { g := t.cur, gid := x.gid, uid := x.uid, grid := (getBlock s x.block).grid, block := x.block
    cpy := (sendGathersOf (doomLive s f) fun h => h.ofUid x.uid).nextId, lane := j, toLat := !cpyOut w
    glob := globalAt t x f.a f.b j, lat := cpyLat t x f j, len := cpyLen w, bar := cpyBar w, core := slotCore t.cur, chan := ch, pc := x.pc
    word := (plainRec t t.cur 0 0).word, part := (groupSpace s s.cur).1, ctx := (groupSpace s s.cur).2 }

def copyIssue (f : XForm) : Issue := { xIssue f (xLen f) (topReg [(f.d, 1), (f.a, 2), (f.b, 1)]) with full := true }

def copyLanes (s : State) (f : XForm) : List Nat :=
  if uniform .auto f then (if runs (curGroup s) f then [lu (curGroup s)] else []) else lanes (live (curGroup s) f)

/-- A CPY that meets no fault and finds room in its ring deposits the element of each of its lanes. -/
theorem execCpy_eq {s : State} {f : XForm} {w : DWord} {ch : Nat} (hc : f.c = .imm w) (hp : Passes s (copyIssue f))
    (hch : groupChan s s.cur = some ch) (hbar : ∀ a, cpyBar w = some a → barOk (getBlock s (curGroup s).block) a = true)
    (htx : ∀ j, j ∈ copyLanes s f → (mapGet ({} : Txn) (curGroup s).txn j).isOpen = false)
    (hlat : ∀ j, j ∈ copyLanes s f → inWindow (getBlock s (curGroup s).block) (cpyLat s (curGroup s) f j) (cpyLen w) = true
      ∧ cpyLat s (curGroup s) f j % 8 = 0)
    (hroom : (ringOf s ch).length + (copyLanes s f).length ≤ 128) :
    execCpy f s = complete ((copyLanes s f).foldl (fun u j => deposit u ch (copyElem s f w ch j)) (copyReady s f)) (copyIssue f) := by
  have open_ : (copyLanes s f).filter (fun i => !(mapGet ({} : Txn) (curGroup s).txn i).isOpen || hidden s s.cur) = copyLanes s f :=
    List.filter_eq_self.mpr fun j hj => by rw [htx j hj]; rfl
  have detail : ∀ j, j ∈ copyLanes s f → (if inWindow (getBlock s (curGroup s).block) (cpyLat s (curGroup s) f j) (cpyLen w) then 0 else 1)
      + (if cpyLat s (curGroup s) f j % 8 = 0 then 0 else 2) = 0 := fun j hj => by
    obtain ⟨h1, h2⟩ := hlat j hj
    rw [if_pos h1, if_pos h2]
  have good : (copyLanes s f).filter (fun i => decide ((if inWindow (getBlock s (curGroup s).block) (cpyLat s (curGroup s) f i) (cpyLen w)
      then 0 else 1) + (if cpyLat s (curGroup s) f i % 8 = 0 then 0 else 2) = 0)) = copyLanes s f :=
    List.filter_eq_self.mpr fun j hj => decide_eq_true (detail j hj)
  have bad : (copyLanes s f).filter (fun i => decide ((if inWindow (getBlock s (curGroup s).block) (cpyLat s (curGroup s) f i) (cpyLen w)
      then 0 else 1) + (if cpyLat s (curGroup s) f i % 8 = 0 then 0 else 2) ≠ 0)) = [] :=
    List.filter_eq_nil_iff.mpr fun j hj => by rw [detail j hj]; decide
  unfold execCpy
  refine (issue_pass _ hp).trans ?_
  dsimp only
  rw [hch]
  dsimp only
  rw [hc]
  dsimp only
  split
  · next a ha =>
    split at ha
    · next b hb => rw [if_pos (hbar b hb)] at ha; exact absurd ha nofun
    · exact absurd ha nofun
  rw [show (if uniform .auto f then (if runs (curGroup s) f then [lu (curGroup s)] else []) else lanes (live (curGroup s) f))
    = copyLanes s f from rfl, open_, bad, good]
  rw [if_neg (Nat.not_lt.mpr hroom)]
  cases uniform .auto f <;> rfl

theorem copyLanes_lt {s : State} {f : XForm} {j : Nat} (h : j ∈ copyLanes s f) : j < 128 := by
  unfold copyLanes at h
  split at h
  · split at h
    · rw [List.mem_singleton.mp h]
      exact lu_lt _
    · exact absurd h List.not_mem_nil
  · exact BitVec.lt_of_getLsbD ((mem_lanes _ _).mp h)

theorem cpyLat_congr {s t : State} (ht : t.tick = s.tick) (hh : Machine.hidden t t.cur = Machine.hidden s s.cur) (x : Group) (f : XForm)
    (j : Nat) : cpyLat t x f j = cpyLat s x f j := by
  simp only [cpyLat, opnd, ht, hh]

end Sys2Proof.Stated

namespace Sys2Proof.Proofs

open Sys2Proof Sys2Proof.Machine Sys2Proof.Stated

/-- Settles O47: a CPY deposits one element for each of its lanes (`execCpy_eq`), and SEAL numbers the batch before batches are counted. -/
theorem copiesOpen : Obligations.CopiesOpen := by
  unfold Obligations.CopiesOpen
  intro s f w ch x b u k ls ks
  refine ⟨fun hc hp hch hbar htx hlat hroom => ?cpy, fun hp hr hleft => ?batch⟩
  case cpy =>
    obtain ⟨kc, km, kt, kh, m, kg⟩ := copyReady_kept s f
    obtain ⟨hcur, hmem, hgr, -, hin⟩ := foldl_deposit (s := copyReady s f) ch (copyElem s f w ch) (fun _ => rfl) (copyLanes s f)
    rw [kg] at hgr
    refine ⟨_, execCpy_eq hc hp hch hbar (fun j hj => htx j (copyLanes_lt hj)) hlat hroom, hmem.trans km, ?_⟩
    unfold retire
    rw [curGroup_setCur]
    simp only [getElem_setCur, advance_pc, advance_v, advance_s, advance_p, advance_openCopies]
    simp only [hgr]
    refine ⟨rfl, rfl, rfl, rfl, ?_, fun j hj => ?_⟩
    · exact (List.length_append).trans (congrArg _ List.length_range')
    · obtain ⟨i, hi, he⟩ := hin j hj
      exact ⟨i, _, List.mem_append_right _ hi, he, rfl, rfl, globalAt_congr kt kh x f.a f.b j, cpyLat_congr kt kh x f j, rfl, rfl, rfl, rfl⟩
  case batch =>
    obtain ⟨-, hm, hs, hh, ho, hb⟩ := sealKept_countBatches (sealState s f) x.uid (batchesOf (sealState s f) x.uid)
    refine ⟨countBatches (sealState s f) x.uid (batchesOf (sealState s f) x.uid),
      (guarded_on _ hp hr).trans (if_neg (Nat.not_le.mpr hleft)), hm, hb.trans ?_, ho.trans ?_,
      fun d hd h0 => ?_⟩
    · rw [curGroup_sealState, advance_batchSeq, scalarWritten_batchSeq]
      rfl
    · rw [curGroup_sealState, advance_openCopies, scalarWritten_openCopies]
      rfl
    · rw [sRead_congr _ _ hs hh, curGroup_sealState, sRead_congr _ _ (advance_s ..) (advance_hs ..)]
      exact sRead_scalarWritten hd h0 _ _ _

end Sys2Proof.Proofs
end

section
/-! PROOFS. Prefetches and hints (R165, R166). -/

namespace Sys2Proof.Stated

open Sys2Proof Sys2Proof.Machine

/-! ## Work of caches (R6, R160, R254) -/

/-- Caches have been filled and made room: copies, darkroom lines with their write-backs, cached translations and the homes' horizons
differ. -/
def CacheWork (s t : State) : Prop :=
  t = { s with copies := t.copies, dark := t.dark, wbs := t.wbs, homes := t.homes, nextId := t.nextId, tlb := t.tlb }
    ∧ ∀ l, (getHome t l).next = (getHome s l).next

theorem CacheWork.refl (s : State) : CacheWork s s := ⟨rfl, fun _ => rfl⟩

theorem CacheWork.trans {s t u : State} (h : CacheWork s t) (k : CacheWork t u) : CacheWork s u := by
  obtain ⟨h1, h2⟩ := h
  obtain ⟨k1, k2⟩ := k
  refine ⟨?_, fun l => (k2 l).trans (h2 l)⟩
  rw [h1] at k1
  exact k1

theorem cacheWork_tlbFill (s : State) (p c : Nat) (va : DWord) : CacheWork s (tlbFill s p c va) := by
  unfold tlbFill
  split
  · dsimp only
    split
    · exact .refl s
    · exact ⟨rfl, fun _ => rfl⟩
  · exact .refl s

theorem cacheWork_setCopy (s : State) (h l : Nat) (c : Copy) : CacheWork s (setCopy s h l c) := ⟨rfl, fun _ => rfl⟩

theorem cacheWork_dropCopy (s : State) (h l : Nat) : CacheWork s (dropCopy s h l) := ⟨rfl, fun _ => rfl⟩

theorem cacheWork_dropDark (s : State) (d l : Nat) : CacheWork s (dropDark s d l) := ⟨rfl, fun _ => rfl⟩

theorem cacheWork_horizon (s : State) (l t : Nat) : CacheWork s (setHome s l { getHome s l with horizon := t }) := by
  refine ⟨rfl, fun k => ?_⟩
  by_cases e : k = l
  · rw [e, getHome_setHome_same]
  · exact congrArg HomeLine.next (mapGet_mapSet_ne ({} : HomeLine) s.homes _ e)

theorem cacheWork_writeBack (s : State) (d l : Nat) : CacheWork s (writeBack s d l none) := by
  unfold writeBack
  dsimp only
  split
  · exact .refl s
  · split
    · exact .refl s
    · exact ⟨rfl, fun _ => rfl⟩

theorem cacheWork_l2Room (s : State) (d : Nat) : CacheWork s (l2Room s d) := by
  obtain h | ⟨l, h⟩ | ⟨l, h⟩ := l2Room_cases s d <;> rw [h]
  · exact .refl s
  · exact cacheWork_dropCopy _ _ _
  · exact (cacheWork_writeBack s d l).trans (cacheWork_dropDark _ _ _)

/-- An L1 without gathered sums makes room with a copy. -/
theorem cacheWork_l1Room {s : State} {c : Nat} (h : (getCore s c).gather = []) : CacheWork s (l1Room s c) := by
  unfold l1Room
  split
  · split
    · exact cacheWork_dropCopy _ _ _
    · next l hv =>
      have := List.mem_of_getElem? hv
      rw [h] at this
      simp at this
    · exact .refl s
  · exact .refl s

theorem cacheWork_putCopy {s : State} {h : Nat} (l : Nat) (c : Copy) (hg : (getCore s h).gather = []) : CacheWork s (putCopy s h l c) := by
  unfold putCopy
  split
  · exact cacheWork_setCopy _ _ _ _
  · split
    · split
      · exact cacheWork_l1Room hg
      · exact (cacheWork_l1Room hg).trans (cacheWork_setCopy _ _ _ _)
    · exact (cacheWork_l2Room s _).trans (cacheWork_setCopy _ _ _ _)

/-! ## A memory without images or sums -/

/-- No line has an image that waits to be visible, and no core holds gathered sums. -/
def Idle (s : State) : Prop := (∀ l, (getHome s l).next = []) ∧ ∀ l, gatherers s l = []

theorem Idle.of_cacheWork {s t : State} (i : Idle s) (h : CacheWork s t) : Idle t := by
  obtain ⟨images, sums⟩ := i
  obtain ⟨h1, h2⟩ := h
  refine ⟨fun l => (h2 l).trans (images l), fun l => ?_⟩
  rw [h1]
  exact sums l

theorem eq_nil_of_mapFind_none {α : Type} {m : AMap α} (h : ∀ k, mapFind m k = none) : m = [] := by
  cases m with
  | nil => rfl
  | cons e r => exact absurd (h e.1) (by simp [mapFind])

theorem Idle.gather {s : State} (i : Idle s) (c : Nat) : (getCore s c).gather = [] := by
  obtain ⟨-, sums⟩ := i
  unfold getCore mapGet
  cases h : mapFind s.cores c with
  | none => rfl
  | some x =>
    exact eq_nil_of_mapFind_none fun l => (gatherers_eq_nil (sums l)).1 (c, x) (mem_of_mapFind h)

theorem cacheWork_homeServe {s : State} (i : Idle s) (h l cls : Nat) : CacheWork s (homeServe s h l cls) := by
  obtain ⟨images, sums⟩ := id i
  unfold homeServe
  rw [combine_of_no_gatherers (sums l), settle_of_no_image (images l)]
  dsimp only
  split
  · exact .refl s
  · have put := cacheWork_putCopy (s := s) l (renewed s h l (servedBytes s l) ‹_›) (i.gather h)
    split
    · exact put.trans (cacheWork_horizon _ _ _)
    · exact put

theorem cacheWork_serveLoad {s : State} (i : Idle s) (g key cls : Nat) : CacheWork s (serveLoad s g key cls) := by
  unfold serveLoad
  dsimp only
  split
  · exact cacheWork_homeServe i _ _ _
  · have first := cacheWork_homeServe i (l2Holder (groupDie g)) (lineOf key) cls
    exact first.trans (cacheWork_homeServe (i.of_cacheWork first) _ _ _)

theorem cacheWork_prefetch {s : State} (i : Idle s) (sp : Nat × Nat) (d : Nat) (l1 : Option Nat) (va : DWord) :
    CacheWork s (prefetch s sp d l1 va) := by
  have filled := cacheWork_tlbFill s sp.1 sp.2 va
  unfold prefetch
  split
  · exact .refl s
  · split
    · split
      · exact .refl s
      · dsimp only
        split
        · exact filled.trans (cacheWork_serveLoad (i.of_cacheWork filled) _ _ _)
        · split
          · exact filled
          · exact filled.trans (cacheWork_homeServe (i.of_cacheWork filled) _ _ _)
    · exact .refl s

end Sys2Proof.Stated

namespace Sys2Proof.Proofs

open Sys2Proof Sys2Proof.Machine Sys2Proof.Stated

/-- Settles O43: PFA queues hints, and a PREF is work of caches alone while no image and no sum waits. -/
theorem hintsComplete : Obligations.HintsComplete := by
  unfold Obligations.HintsComplete
  intro s f pfa hp images sums
  cases pfa with
  | true => exact ⟨_, issue_pass _ hp, rfl, rfl, rfl⟩
  | false =>
    have work : CacheWork s ((hintLanes (curGroup s) f).foldl (fun t j => prefetch t (groupSpace t t.cur) (groupDie t.cur)
        (if f.cp = .l2 then none else some t.cur) (globalAt t (curGroup s) f.a f.b j)) s) :=
      List.foldlRecOn _ _ (.refl s) fun t ht j _ => ht.trans (cacheWork_prefetch (Idle.of_cacheWork ⟨images, sums⟩ ht) _ _ _ _)
    obtain ⟨h, -⟩ := work
    refine ⟨_, issue_pass _ hp, ?_, (congrArg State.mem h :), (congrArg State.stores h :)⟩
    unfold retire
    rw [h]
    rfl

end Sys2Proof.Proofs
end

section
/-! PROOFS. Accesses whose lanes are in no transaction and reach a place each; that a load may make room for its line (R6, R156 to R160, R169). -/

namespace Sys2Proof.Stated

open Sys2Proof Sys2Proof.Machine

/-! ## Lanes outside transactions (R158, R335) -/

/-- What a lane outside transactions tries. -/
def plainTry (a : Access) (x : Nat → Place) (j : Nat) : Tried := { lane := j, va := a.va j, mode := .plain, at_ := .ok (x j) }

theorem tryLanes_plain {s : State} {f : XForm} {a : Access} (x : Nat → Place)
    (hm : ∀ j, j ∈ accessLanes (curGroup s) f a.uni → laneMode s s.cur j a.inside = .plain)
    (hx : ∀ j, j ∈ accessLanes (curGroup s) f a.uni →
      reach s (groupSpace s s.cur).1 (groupSpace s s.cur).2 a.need a.n false (a.va j) = .ok (x j)) :
    tryLanes s f a = (accessLanes (curGroup s) f a.uni).map (plainTry a x) := by
  refine List.map_congr_left fun j hj => ?_
  dsimp only
  rw [hm j hj]
  exact congrArg (fun r => ({ lane := j, va := a.va j, mode := .plain, at_ := r } : Tried)) (hx j hj)

theorem reached_plainTry (a : Access) (x : Nat → Place) (ls : List Nat) :
    reached_ (ls.map (plainTry a x)) = ls.map fun j => (plainTry a x j, x j) := by
  unfold reached_
  rw [List.filterMap_map]
  exact congrFun List.filterMap_eq_map ls

theorem absentLanes_plainTry (a : Access) (x : Nat → Place) (ls : List Nat) : absentLanes (ls.map (plainTry a x)) = [] := by
  unfold absentLanes
  rw [List.filterMap_map]
  exact List.filterMap_eq_nil_iff.mpr fun _ _ => rfl

/-- Lanes outside transactions perform what the instruction does, one after another. -/
theorem foldl_laneStep_plainTry {a : Access} {x : Nat → Place} {reads : Bool} {f : Nat → Nat → Option Nat} {put : Nat → DWord}
    {plain : Got → Tried × Place → Got} (hl : ∀ r e, r.lost.isSome = true → plain r e = r) (ls : List Nat) (r : Got) :
    (ls.map (plainTry a x)).foldl (laneStep a reads f put plain) r = ls.foldl (fun r j => plain r (plainTry a x j, x j)) r := by
  rw [List.foldl_map]
  refine congrArg (fun step => ls.foldl step r) (funext fun r => funext fun j => ?_)
  cases h : r.lost with
  | none => exact laneStep_plain _ _ _ _ _ _ _ _ _ h
  | some e =>
    have lost : r.lost.isSome = true := by rw [h]; rfl
    rw [hl r _ lost]
    exact if_pos lost

/-! ## A load of a quiet line (R159, R160) -/

theorem plainLoad_of_lost {late : Bool} {f : XForm} {a : Access} (r : Got) (e : Tried × Place) (h : r.lost.isSome = true) :
    plainLoad late f a r e = r := if_pos h

theorem QuietLine.cohLoad_eq {s : State} {g key n : Nat} (q : QuietLine s g key n) (cls m : Nat) :
    Machine.cohLoad s g cls key m = (memBytes s.mem key m, serveLoad s g key cls) := by
  obtain ⟨-, -, -, hl1, hl2, -⟩ := id q
  unfold Machine.cohLoad copyBytes
  simp only [q.readyLoad, q.ownBytes, q.forwarded, hl1, hl2, overlay_nil]

theorem QuietLine.lineWaits {s : State} {key n : Nat} (q : QuietLine s s.cur key n) : Machine.lineWaits s s.cur key = false := by
  obtain ⟨-, -, -, -, -, -, -, -, -, hloads⟩ := q
  have away : ∀ l ∈ s.loads, lineOf l.addr ≠ lineOf key := by simpa using hloads
  unfold Machine.lineWaits
  rw [List.any_eq_false]
  intro l hl
  simp [away l hl]

/-- A lane reads the bytes of a quiet line at their home, which grants its caches copies. -/
theorem plainLoad_quiet {f : XForm} {a : Access} {r : Got} {t : Tried} {x : Place} {key : Nat} (hr : r.lost = none)
    (q : QuietLine r.s r.s.cur key a.n) (hk : key % 128 + a.n ≤ 128) (hx : x.space = .hbm key) (hd : x.dark = false) :
    plainLoad false f a r (t, x) = { r with
      s := serveLoad r.s r.s.cur key x.cls
      vals := r.vals ++ [(t.lane, loadValue f.ty (leNat (memBytes r.s.mem key a.n)))] } := by
  have clean : placePoisoned r.s r.s.cur x a.n = false := by
    unfold placePoisoned
    rw [hx]
    dsimp only
    rw [if_neg (by simp [hd]), q.loadPoisoned hk]
  unfold plainLoad
  simp only [hr, Option.isSome_none, Bool.false_eq_true, if_false, hx, hd, Bool.not_false, Bool.true_and, Bool.false_or, q.lineWaits, clean,
    q.cohLoad_eq]

end Sys2Proof.Stated
end

section
/-! PROOFS. A load that makes room for its line sends the gathered sums of another (R6, R169): a state in which they reach the line of a
later lane. -/

namespace Sys2Proof.Stated

open Sys2Proof Sys2Proof.Machine

/-! ## A full L1 with one update-only line -/

/-- The line before that of lane 2, with a sum at an offset beyond its end, where no instruction puts one. -/
def spillLine : Nat := 0x800003
def spillGather : Gather := { part := 0, ctx := 1, ty := .i32, fx := false, rm := .rn, sums := [(128, 5)] }

/-- Lanes 0 and 2 of one group read the bytes 0x100 and 0x200 of a page of lease class 1; their L1 is full of the core's own bytes but for
the update-only line. -/
def spillState : State :=
  let s := State.reset.withFetchWord 32 0
  { modGroup s 0 fun x => { x with s := [(1, 0x100)], v := [(2, Vector.ofFn fun i => if i.val = 2 then 0x100 else 0)], xm := 0b101 } with
    mem := memPut s.mem 0x100000 (leBytes 8 (0x40000003 + 2 ^ 57))
    copies := [(0, (List.range Config.l1Lines).map fun i => (i, { own := [(0, 1)] }))]
    cores := [(0, { getCore s 0 with gather := [(spillLine, spillGather)] })] }

def spillLoad : XForm := { d := .v 4, a := .s 1, b := .v 2 }

def spillKey (j : Nat) : Nat := if j = 0 then 0x40000100 else 0x40000200

def spillPlace (j : Nat) : Place := { space := .hbm (spillKey j), entry := 0x40000003 + 2 ^ 57, level := 1 }

theorem spillState_quiet (j : Nat) (hj : j ∈ [0, 2]) : QuietLine spillState spillState.cur (spillKey j) 4 := by
  have all : ∀ j ∈ [0, 2], QuietLine spillState spillState.cur (spillKey j) 4 := by
    unfold QuietLine; decide +kernel
  exact all j hj

/-- Lane 0's line has come into the die's L2. -/
def spillFetched : State := homeServe spillState (l2Holder 0) (lineOf (spillKey 0)) 1

/-- The one line that the L1 can let go of is the update-only one, whatever the choice. -/
theorem l1Room_spillFetched : l1Room spillFetched 0 = sendGather spillFetched 0 spillLine := by
  have full : l1Full spillFetched 0 = true := by decide +kernel
  have one : (((mapGet [] spillFetched.copies 0).filter fun e => e.2.own.isEmpty).map fun e => (false, e.1))
      ++ ((getCore spillFetched 0).gather.map fun e => (true, e.1)) = [(true, spillLine)] := by decide +kernel
  unfold l1Room victim
  rw [if_pos full, one, List.length_singleton, Nat.mod_one]
  rfl

/-- The state after lane 0's load: the sum is on its way, and the L1 is as full as before. -/
def spillSent : State :=
  let s := sendGather spillFetched 0 spillLine
  setHome s (lineOf (spillKey 0)) { getHome s (lineOf (spillKey 0)) with horizon := 256 }

theorem homeServe_spillFetched : homeServe spillFetched 0 (lineOf (spillKey 0)) 1 = spillSent := by
  have images : (getHome spillFetched (lineOf (spillKey 0))).next = [] := by decide +kernel
  have sums : gatherers spillFetched (lineOf (spillKey 0)) = [] := by decide +kernel
  have lease : grant spillFetched (lineOf (spillKey 0)) 1 = some (some 256) := by decide +kernel
  have put : ∀ c, putCopy spillFetched 0 (lineOf (spillKey 0)) c = sendGather spillFetched 0 spillLine := fun c => by
    have new : (getCopy spillFetched 0 (lineOf (spillKey 0))).isSome = false := by decide +kernel
    have full : l1Full (sendGather spillFetched 0 spillLine) 0 = true := by decide +kernel
    unfold putCopy
    rw [l1Room_spillFetched, if_neg (by simp [new]), if_pos (by decide), if_pos full]
  have horizon : max (getHome (sendGather spillFetched 0 spillLine) (lineOf (spillKey 0))).horizon 256 = 256 := by decide +kernel
  unfold homeServe
  rw [combine_of_no_gatherers sums, settle_of_no_image images]
  dsimp only
  rw [lease]
  dsimp only
  rw [put, horizon]
  rfl

theorem serveLoad_spillState : serveLoad spillState spillState.cur (spillKey 0) (spillPlace 0).cls = spillSent := by
  have away : ¬ homeDie spillState (spillKey 0) = groupDie spillState.cur := by decide +kernel
  have holder : l1Holder spillFetched spillState.cur (spillKey 0) = 0 := by decide +kernel
  unfold serveLoad
  dsimp only
  rw [if_neg away, show (spillPlace 0).cls = 1 by decide +kernel]
  change homeServe spillFetched (l1Holder spillFetched spillState.cur (spillKey 0)) _ _ = _
  rw [holder, homeServe_spillFetched]

/-! ## The loads of the two lanes -/

def spillAccess : Access := memAccess spillState spillLoad .read false

theorem reach_spillState (j : Nat) (hj : j ∈ [0, 2]) : reach spillState 0 1 .read 4 false (spillAccess.va j) = .ok (spillPlace j) := by
  have all : ∀ j ∈ [0, 2], reach spillState 0 1 .read 4 false (spillAccess.va j) = .ok (spillPlace j) := by decide +kernel
  exact all j hj

theorem tryLanes_spillState : tryLanes spillState spillLoad spillAccess = [0, 2].map (plainTry spillAccess spillPlace) := by
  have ls : accessLanes (curGroup spillState) spillLoad spillAccess.uni = [0, 2] := by decide +kernel
  have plain : ∀ j ∈ [0, 2], laneMode spillState spillState.cur j spillAccess.inside = .plain := by decide +kernel
  rw [← ls] at plain ⊢
  exact tryLanes_plain spillPlace plain fun j hj => reach_spillState j (ls ▸ hj)

/-- What the lanes' loads come to: lane 2's makes the sum stand in its line before it reads. -/
def spillGot : Got := [0, 2].foldl (fun r j => plainLoad false spillLoad spillAccess r (plainTry spillAccess spillPlace j, spillPlace j))
  { s := spillState }

theorem spillGot_eq : spillGot.lost = none ∧ spillGot.faults.length = 0 ∧ memRead spillGot.s.mem (spillKey 2) = 5 := by
  have first : plainLoad false spillLoad spillAccess { s := spillState } (plainTry spillAccess spillPlace 0, spillPlace 0)
      = { s := spillSent, vals := [(0, loadValue spillLoad.ty (leNat (memBytes spillState.mem (spillKey 0) 4)))] } := by
    rw [plainLoad_quiet (key := spillKey 0) rfl (spillState_quiet 0 (by decide)) (by decide) rfl (by decide +kernel), serveLoad_spillState]
    rfl
  unfold spillGot
  rw [List.foldl_cons, first]
  decide +kernel

/-- The load completes, and memory has gained the sum. -/
theorem exec_spillState : ∃ t, exec (.ld spillLoad) spillState = .next t ∧ memRead t.mem (spillKey 2) = 5 := by
  obtain ⟨lost, faults, sum⟩ := spillGot_eq
  have run : (tryLanes spillState spillLoad spillAccess).foldl (laneStep spillAccess true (fun _ _ => none) (loadValue spillLoad.ty)
      (plainLoad (nextLate spillState).1 spillLoad spillAccess)) { s := (nextLate spillState).2 } = spillGot := by
    rw [tryLanes_spillState, foldl_laneStep_plainTry plainLoad_of_lost]
    rfl
  have waits : readsWait spillState (tryLanes spillState spillLoad spillAccess) (tyBytes spillLoad.ty) true = false := by
    rw [tryLanes_spillState]
    decide +kernel
  have busy : (reached_ (tryLanes spillState spillLoad spillAccess)).any (laneBusy spillState) = false := by
    rw [tryLanes_spillState]
    decide +kernel
  have absent : absentLanes (tryLanes spillState spillLoad spillAccess) = [] := tryLanes_spillState ▸ absentLanes_plainTry _ _ _
  have pass : issueFault spillState (loadIssue spillLoad) = none := by decide +kernel
  have none_ : spillGot.faults = [] := List.length_eq_zero_iff.mp faults
  have performed := congrArg (fun r : Got => (r, (0 : FFlags))) run
  have loads := load_eq (s := spillState) (f := spillLoad) (lds := false) waits
  have done := accesses_next spillState spillLoad (loadIssue spillLoad) spillAccess (wide spillLoad.ty) (fun ts =>
      (ts.foldl (laneStep spillAccess true (fun _ _ => none) (loadValue spillLoad.ty) (plainLoad (nextLate spillState).1 spillLoad spillAccess))
        { s := (nextLate spillState).2 }, 0))
    _ spillGot 0 pass rfl absent busy performed lost none_
  have start : exec (.ld spillLoad) spillState = load spillState spillLoad .laneUni true := rfl
  refine ⟨_, start.trans (loads.trans done), ?_⟩
  rw [setCur_mem, (fillTlb_kept spillGot.s _).mem]
  exact sum

end Sys2Proof.Stated

namespace Sys2Proof.Proofs

open Sys2Proof Sys2Proof.Machine Sys2Proof.Stated

/-- Refutes O37: lane 0's line takes the place of an update-only line one of whose sums lies beyond the line's end (`spillGather`), on the
line that lane 2 reads; the home combines it there before it serves lane 2, so memory changes. -/
theorem not_loadResult : ¬ Obligations.LoadResult := by
  unfold Obligations.LoadResult
  intro h
  obtain ⟨t, run, sum⟩ := exec_spillState
  have quiet : ∀ j, j ∈ lanes (live (curGroup spillState) spillLoad) → (mapGet ({} : Txn) (curGroup spillState).txn j).isOpen = false
      ∧ QuietLine spillState spillState.cur (spillKey j) 4 ∧ spillKey j % 128 + 4 ≤ 128
      ∧ ∃ x : Place, reach spillState 0 1 .read 4 false (globalAt spillState (curGroup spillState) spillLoad.a spillLoad.b j) = .ok x
        ∧ x.space = .hbm (spillKey j) ∧ x.dark = false := fun j hj => by
    rw [show lanes (live (curGroup spillState) spillLoad) = [0, 2] by decide +kernel] at hj
    have open_ : ∀ j ∈ [0, 2], (mapGet ({} : Txn) (curGroup spillState).txn j).isOpen = false := by decide +kernel
    have inside : ∀ j ∈ [0, 2], spillKey j % 128 + 4 ≤ 128 := by decide +kernel
    have plain : ∀ j ∈ [0, 2], (spillPlace j).dark = false := by decide +kernel
    exact ⟨open_ j hj, spillState_quiet j hj, inside j hj, spillPlace j, reach_spillState j hj, rfl, plain j hj⟩
  obtain ⟨u, x, next, -, same, -⟩ := h spillState spillLoad false spillKey (by decide +kernel) (by decide +kernel) (by decide +kernel)
    (by decide +kernel) (fun _ => .inr ⟨4, rfl⟩) fun j hj => by
      obtain ⟨h1, h2, h3, h4⟩ := quiet j hj
      exact ⟨fun _ => h1, h2, h3, h4⟩
  have e : t = u := Host.Outcome.next.inj (run.symm.trans next)
  rw [e, same] at sum
  exact absurd sum (by decide +kernel)

end Sys2Proof.Proofs
end

section
/-! PROOFS. The misaligned trap of LDS and STS while loads of the group are pending (R164, R333, R344). -/

namespace Sys2Proof.Stated

open Sys2Proof Sys2Proof.Machine

/-! ## What raising a trap of a uniform access leaves (R333, R339) -/

/-- The group stands before a trap: parked, in its handler, or with the trap waiting or held. -/
def Trapped (x : Group) (p : PendTrap) : Prop :=
  (∃ why, x.status = .parked why) ∨ x.priv = true ∨ x.pend ≠ [] ∨ ∃ q, x.held = some q ∧ q.issued = p.issued

theorem trapped_park (s : State) (g : Nat) (why : Park) (p : PendTrap) : Trapped (getGroup (park s g why) g) p := by
  unfold park
  rw [getGroup_modGroup_same]
  exact .inl ⟨why, rfl⟩

theorem trapped_deliver (s : State) (g : Nat) (p q : PendTrap) : Trapped (getGroup (deliver s g q) g) p := by
  unfold deliver
  dsimp only
  rw [getGroup_modGroup_same]
  exact .inr (.inl rfl)

/-- A trap that has no faulting lanes of its own to remove is held, parks the group or is delivered. -/
theorem trapped_takeTrap (s : State) (g : Nat) {p : PendTrap} (h : p.uniform = true) : Trapped (getGroup (takeTrap s g p) g) p := by
  have whole : ((decide (p.cls = .L) || decide (p.cls = .A)) && !p.uniform) = false := by rw [h]; exact Bool.and_false _
  unfold takeTrap
  dsimp only
  rw [whole]
  simp only [Bool.false_and, Bool.false_eq_true, if_false]
  split
  · exact trapped_park _ _ _ _
  · split
    · rw [getGroup_modGroup_same]
      exact .inr (.inr (.inr ⟨p, rfl, rfl⟩))
    · split
      · exact trapped_park _ _ _ _
      · split
        · exact trapped_park _ _ _ _
        · split
          · exact trapped_park _ _ _ _
          · split
            · exact trapped_park _ _ _ _
            · exact trapped_deliver _ _ _ _

theorem trapped_raiseTrap {s : State} {p : PendTrap} (h : p.uniform = true) (hp : (curGroup s).pend = []) :
    Trapped (getGroup (raiseTrap s p) s.cur) p := by
  unfold raiseTrap
  dsimp only
  rw [hp]
  split
  · refine .inr (.inr (.inl ?_))
    change (curGroup (setCur s _)).pend ≠ []
    rw [curGroup_setCur]
    exact List.cons_ne_nil _ _
  · have one : mergeTraps (curGroup s).pc ([] ++ [p]) = some { p with
        recs := [p].flatMap (joinedRecs [p]), epc := (curGroup s).pc, uniform := [p].any (·.uniform), elems := [p].flatMap (·.elems) } := rfl
    rw [one]
    exact trapped_takeTrap _ _ (by simp [h])

/-! ## A group with an issue count and a pending load -/

/-- A group that has issued five instructions waits for a load of its own while its LDS reads a word at the address 0x102. -/
def pendingState : State :=
  { modGroup (State.reset.withFetchWord 32 0) 0 fun x => { x with s := [(1, 0x102)], xm := 0b101, issued := 5 } with
    loads := [{ id := 1, g := 0, uid := 1, lane := 0, addr := 0x40001000, va := 0x1000, size := 4, ty := .i32, d := .v 4, mask := 1 }] }

def pendingLoad : XForm := { d := .s 2, a := .s 1, b := .imm 0, uni := true }

/-- What stands of a group after the LDS: the group itself holds a trap with the count 5, and no other group is in the state. -/
def HoldsFive (x : Group) : Bool :=
  decide (x.status = .ready ∨ x.status = .free) && !x.priv && decide (x.pend = []) && (match x.held with | some q => decide (q.issued = 5) | none => true)

theorem not_trapped_of_holdsFive {x : Group} {p : PendTrap} (h : HoldsFive x = true) (hp : p.issued = 0) : ¬ Trapped x p := by
  unfold HoldsFive at h
  simp only [Bool.and_eq_true, decide_eq_true_eq, Bool.not_eq_true'] at h
  obtain ⟨⟨⟨status, priv⟩, pend⟩, held⟩ := h
  rintro (⟨why, parked⟩ | handler | waits | ⟨q, hq, same⟩)
  · rw [parked] at status
    exact status.elim nofun nofun
  · rw [priv] at handler
    exact absurd handler nofun
  · exact waits pend
  · rw [hq, decide_eq_true_eq, same, hp] at held
    exact absurd held nofun

/-- The outcome is a state whose only group holds that trap. -/
def EndsHolding : Out → Bool
  | .next t => decide (t.groups.map (·.1) = [0]) && HoldsFive (getGroup t 0)
  | _ => false

theorem endsHolding_pendingState : EndsHolding (exec (.lds pendingLoad) pendingState) = true := by decide +kernel

/-- A state with the one group 0 has an empty slot at any other index. -/
theorem getGroup_of_only_zero {s : State} (h : s.groups.map (·.1) = [0]) {c : Nat} (hc : c ≠ 0) : getGroup s c = {} := by
  have none : mapFind s.groups c = none := by
    cases found : mapFind s.groups c with
    | none => rfl
    | some x =>
      have : c ∈ s.groups.map (·.1) := List.mem_map.mpr ⟨(c, x), mem_of_mapFind found, rfl⟩
      rw [h] at this
      exact absurd (List.mem_singleton.mp this) hc
  unfold getGroup mapGet
  rw [none]
  rfl

theorem holdsFive_of_endsHolding {t : State} (h : EndsHolding (.next t) = true) (c : Nat) : HoldsFive (getGroup t c) = true := by
  unfold EndsHolding at h
  simp only [Bool.and_eq_true, decide_eq_true_eq] at h
  obtain ⟨keys, zero⟩ := h
  by_cases e : c = 0
  · rw [e]
    exact zero
  · rw [getGroup_of_only_zero keys e]
    decide

theorem pend_pendingState (c : Nat) : (getGroup pendingState c).pend = [] := by
  by_cases e : c = 0
  · rw [e]
    decide +kernel
  · rw [getGroup_of_only_zero (by decide +kernel) e]

end Sys2Proof.Stated

namespace Sys2Proof.Proofs

open Sys2Proof Sys2Proof.Machine Sys2Proof.Stated

/-- Refutes O38: LDS is a load by the shared path of accesses, whose trap carries the group's issue count, 5 in `pendingState`, and the
statement has 0 there; while a load of the group is pending the trap is held, and its count is seen. -/
theorem not_misalignedAccessTraps : ¬ Obligations.MisalignedAccessTraps := by
  unfold Obligations.MisalignedAccessTraps
  intro h
  obtain ⟨t, x, next, groups, -, -, -, -, -, -, -, kept⟩ := h pendingState pendingLoad (.lds pendingLoad)
    (xIssue pendingLoad (xLen pendingLoad) (addrTop pendingLoad (span (wide pendingLoad.ty)) 0)) false true 0x40000102 1 0x40000003
    (by simp) (by decide +kernel) (by decide +kernel) (by decide +kernel) (by decide +kernel) (by decide +kernel) (by decide +kernel)
    (by decide +kernel)
  have noPend : (curGroup t).pend = [] := by
    unfold curGroup getGroup
    rw [groups]
    change (getGroup (setCur pendingState x) t.cur).pend = []
    by_cases e : t.cur = pendingState.cur
    · rw [e]
      change (curGroup (setCur pendingState x)).pend = []
      rw [curGroup_setCur, kept]
      exact pend_pendingState 0
    · rw [getGroup_setCur_ne _ _ e]
      exact pend_pendingState t.cur
  have held := endsHolding_pendingState
  rw [next] at held
  exact not_trapped_of_holdsFive (holdsFive_of_endsHolding held t.cur) rfl (trapped_raiseTrap rfl noPend)

end Sys2Proof.Proofs
end

section
/-! PROOFS. Atomics of lanes outside transactions on free lines (R159, R168 to R171, R253). -/

namespace Sys2Proof.Stated

open Sys2Proof Sys2Proof.Machine

/-! ## An atomic performed at a free line (R168) -/

/-- What atomics leave alone: all that stores to free lines do, and no word is poisoned that was clean. -/
structure AtomWork (s t : State) : Prop where
  area : AreaWork s t
  poison : ∀ w, w ∈ t.poison → w ∈ s.poison

theorem AtomWork.refl (s : State) : AtomWork s s := ⟨.refl s, fun _ h => h⟩

theorem AtomWork.trans {s t u : State} (h : AtomWork s t) (k : AtomWork t u) : AtomWork s u :=
  ⟨h.area.trans k.area, fun w e => h.poison w (k.poison w e)⟩

theorem AreaWork.l1Holder_eq {s t : State} (h : AreaWork s t) (g key : Nat) : l1Holder t g key = l1Holder s g key := by
  rw [h.rest]
  rfl

/-- A quiet line that no group watches is free for a group with an identity of its own. -/
theorem QuietLine.freeLine {s : State} {g key n : Nat} (q : QuietLine s g key n) (hw : (getHome s (lineOf key)).watchers = [])
    (hs : slotOfUid s (getGroup s g).uid = some g) : FreeLine s g (lineOf key) := by
  obtain ⟨hnext, hlock, hsums, hl1, -, hfwd, hbusy, hclean, hstores, -⟩ := q
  have same := lineOf_line (lineOf key)
  refine ⟨hnext, hlock, hw, (gatherers_eq_nil hsums).1, fun t ht => ?_, fun k hk => ?_, hfwd, ?_, ?_, hs⟩
  · have away := List.all_eq_true.mp hstores t ht
    unfold PStore.going
    rw [decide_eq_false (of_decide_eq_true away)]
    rfl
  · rw [l1Holder_of_lineOf s g hk]
    exact hl1
  · rw [homeBusy_of_lineOf s same]
    exact hbusy
  · rw [homeGone_of_lineOf s same]
    exact (Bool.or_eq_false_iff.mp hclean).1

theorem nextBytes_of_no_image {s : State} {key n : Nat} (h : (getHome s (lineOf key)).next = []) (hk : key % 128 + n ≤ 128) :
    nextBytes s key n = memBytes s.mem key n := by
  induction n generalizing key with
  | zero => rfl
  | succ n ih =>
    have byte : nextByte s key = memRead s.mem key := by
      unfold nextByte
      rw [h]
      rfl
    rw [nextBytes, memBytes, byte]
    cases n with
    | zero => rfl
    | succ n =>
      have line : lineOf (key + 1) = lineOf key := lineOf_add (by omega)
      rw [ih (by rw [line]; exact h) (by omega)]

/-- The old value of an atomic. -/
def oldValue (m : List Host.Cell) (key n : Nat) : DWord := BitVec.ofNat 64 (leNat (memBytes m key n))

/-- Memory after an atomic that writes `y`, if it writes. -/
def atomMem (m : List Host.Cell) (key n : Nat) : Option DWord → List Host.Cell
  | some y => memPut m key (leBytes n y.toNat)
  | none => m

theorem dropCopies_poison (s : State) (g l : Nat) : (dropCopies s g l).poison = s.poison := by
  unfold dropCopies
  dsimp only
  split <;> rfl

section Free
variable {s : State} {g key : Nat} (q : FreeLine s g (lineOf key))
include q

theorem FreeLine.gatherers : Machine.gatherers s (lineOf key) = [] := by
  unfold Machine.gatherers
  rw [List.filter_eq_nil_iff.mpr fun e he => by rw [q.sums e he]; exact Bool.false_ne_true,
    List.filter_eq_nil_iff.mpr fun t ht => by simp [q.stores t ht]]
  rfl

theorem FreeLine.flushed : settle (combine (flushLine (Machine.flushOwn s g key) g key) (lineOf key)) (lineOf key) = s := by
  rw [q.flushOwn rfl, flushLine, q.flushCore, combine_of_no_gatherers q.gatherers, settle_of_no_image q.image]

/-- An atomic at a free line finds what memory holds, and does nothing that lasts but write. -/
theorem FreeLine.atomicAt (va : DWord) (sc : Sc) {n : Nat} (f : AtomFn) (hk : key % 128 + n ≤ 128) :
    ∃ t, Machine.atomicAt s g key va sc n f = (oldValue s.mem key n, t) ∧ AtomWork s t
      ∧ t.mem = atomMem s.mem key n (f (oldValue s.mem key n)) := by
  have old : nextVal s key n = oldValue s.mem key n := by
    unfold nextVal oldValue
    rw [nextBytes_of_no_image q.image hk]
  unfold Machine.atomicAt
  dsimp only
  rw [q.flushed, old]
  cases f (oldValue s.mem key n) with
  | none => exact ⟨s, rfl, .refl s, rfl⟩
  | some y =>
    dsimp only
    have wrote : AtomWork s (Machine.homeWrite s (lineOf key) (offsets key (leBytes n y.toNat))) := by
      rw [q.homeWrite]
      exact ⟨⟨rfl, fun _ e => e, fun _ _ e => e⟩, fun w e => List.mem_of_mem_filter e⟩
    have mem : (Machine.homeWrite s (lineOf key) (offsets key (leBytes n y.toNat))).mem = memPut s.mem key (leBytes n y.toNat) := by
      rw [q.homeWrite]
      exact putOffsets_offsets rfl (by rw [leBytes_length]; exact hk)
    have q' := wrote.area.freeLine q
    have own := q'.ownWritten (q'.copy key rfl) (offsets key (leBytes n y.toNat))
    rw [wrote.area.getGroup_eq, wrote.area.l1Holder_eq] at own
    rw [own]
    refine ⟨_, rfl, wrote.trans ⟨(areaWork_dropCopies ..).trans (areaWork_doneStore ..), fun w e => ?_⟩, ?_⟩
    · rw [← dropCopies_poison]
      exact e
    · exact (dropCopies_mem ..).trans mem

end Free

/-- Clean bytes of a range stay clean under atomics. -/
theorem AtomWork.atomPoisoned {s t : State} (h : AtomWork s t) {g key n : Nat} (q : FreeLine t g (lineOf key)) (hp : poisoned s key n = false)
    (hk : key % 128 + n ≤ 128) : Machine.atomPoisoned t g key n [] = false := by
  unfold Machine.atomPoisoned
  dsimp only
  rw [q.flushed, List.any_eq_false]
  intro i hi
  have clean := poisoned_byte hp (List.mem_range.mp hi) hk
  unfold poisoned at clean
  rw [Bool.or_eq_false_iff, List.any_eq_false] at clean
  obtain ⟨gone, words⟩ := clean
  have next : poisonedNext t (key + i) 1 = false := by
    unfold poisonedNext
    rw [Bool.or_eq_false_iff, List.any_eq_false]
    refine ⟨?_, fun w hw => ?_⟩
    · rw [h.area.rest]
      exact gone
    · have := words w (h.poison w hw)
      rw [Bool.not_eq_true] at this
      rw [this]
      exact Bool.false_ne_true
  rw [next]
  exact Bool.false_ne_true

/-- A lane's atomic at a free line has no result other than its old value. -/
theorem plainAtomic_free {f : XForm} {a : Access} {sc : Sc} {op : Nat → LaneAtom} {r : Got} {t : Tried} {x : Place} {key : Nat}
    (hs : f.sup = false) (hr : r.lost = none) (q : FreeLine r.s r.s.cur (lineOf key)) (hl : lineWaits r.s r.s.cur key = false)
    (hp : Machine.atomPoisoned r.s r.s.cur key a.n [] = false) (hk : key % 128 + a.n ≤ 128) (hx : x.space = .hbm key) (hd : x.dark = false) :
    ∃ u, AtomWork r.s u ∧ u.mem = atomMem r.s.mem key a.n (atomFn (op t.lane).op (oldValue r.s.mem key a.n))
      ∧ plainAtomic false f a sc op r (t, x) = { r with
        s := u
        vals := r.vals ++ [(t.lane, loadValue (atomTy (op t.lane).op) (extend false (8 * a.n) (oldValue r.s.mem key a.n)).toNat)] } := by
  obtain ⟨u, hu, work, mem⟩ := q.atomicAt t.va sc (atomFn (op t.lane).op) hk
  refine ⟨u, work, mem, ?_⟩
  unfold plainAtomic
  simp only [hr, Option.isSome_none, Bool.false_eq_true, if_false, hx, hd, hs, Bool.false_or, hl, q.lineHeld, hp, hu]

/-! ## The lanes one after another (R168) -/

theorem atomRun_cons (op : Nat → FabOp) (key : Nat → Nat) (n j : Nat) (r : List Nat) (m : List Host.Cell) :
    atomRun op key n (j :: r) m =
      ((atomRun op key n r (atomMem m (key j) n (atomFn (op j) (oldValue m (key j) n)))).1,
        (j, leNat (memBytes m (key j) n)) :: (atomRun op key n r (atomMem m (key j) n (atomFn (op j) (oldValue m (key j) n)))).2) := rfl

theorem leNat_lt (l : List Byte) : leNat l < 2 ^ (8 * l.length) := by
  induction l with
  | nil => simp [leNat]
  | cons b r ih =>
    have := b.isLt
    rw [leNat, List.length_cons, Nat.mul_add, Nat.pow_add]
    omega

theorem extend_oldValue (m : List Host.Cell) (key : Nat) {n : Nat} (hn : n ≤ 8) :
    (extend false (8 * n) (oldValue m key n)).toNat = leNat (memBytes m key n) := by
  have lt := leNat_lt (memBytes m key n)
  rw [memBytes_length] at lt
  have le : 2 ^ (8 * n) ≤ 2 ^ 64 := Nat.pow_le_pow_right (by decide) (by omega)
  have wide : leNat (memBytes m key n) < 2 ^ 64 := Nat.lt_of_lt_of_le lt le
  unfold extend oldValue toN
  rw [if_neg Bool.false_ne_true, BitVec.toNat_ofNat, BitVec.toNat_ofNat, Nat.mod_eq_of_lt wide, Nat.mod_eq_of_lt lt, Nat.mod_eq_of_lt wide]

/-- What the atomics of some lanes find at the start: each lane's line is quiet and free. -/
def AtomLanes (s : State) (a : Access) (x : Nat → Place) (key : Nat → Nat) (ls : List Nat) : Prop :=
  ∀ j, j ∈ ls → QuietLine s s.cur (key j) a.n ∧ FreeLine s s.cur (lineOf (key j)) ∧ key j % 128 + a.n ≤ 128
    ∧ (x j).space = .hbm (key j) ∧ (x j).dark = false

/-- The lanes' atomics are those of `atomRun`. -/
theorem foldl_plainAtomic {s : State} {f : XForm} {a : Access} {sc : Sc} {op : Nat → LaneAtom} {x : Nat → Place} {key : Nat → Nat}
    (hs : f.sup = false) (hn : a.n ≤ 8) {ls : List Nat} (h : AtomLanes s a x key ls) {r : Got} (hr : r.lost = none) (hw : AtomWork s r.s) :
    let run := atomRun (fun j => (op j).op) key a.n ls r.s.mem
    let t := ls.foldl (fun r j => plainAtomic false f a sc op r (plainTry a x j, x j)) r
    t.lost = none ∧ t.faults = r.faults ∧ AtomWork s t.s ∧ t.s.mem = run.1
      ∧ t.vals = r.vals ++ run.2.map fun e => (e.1, loadValue (atomTy (op e.1).op) e.2) := by
  induction ls generalizing r with
  | nil => exact ⟨hr, rfl, hw, rfl, (List.append_nil _).symm⟩
  | cons j ls ih =>
    obtain ⟨quiet, free, hk, hx, hd⟩ := h j (List.mem_cons_self ..)
    have cur : r.s.cur = s.cur := hw.area.cur
    have q : FreeLine r.s r.s.cur (lineOf (key j)) := cur ▸ hw.area.freeLine free
    have waits : lineWaits r.s r.s.cur (key j) = false := by
      rw [cur, hw.area.rest]
      exact quiet.lineWaits
    have clean : poisoned s (key j) a.n = false := quiet.2.2.2.2.2.2.2.1
    obtain ⟨u, work, mem, step⟩ := plainAtomic_free (t := plainTry a x j) (sc := sc) (op := op) hs hr q waits
      (hw.atomPoisoned q clean hk) hk hx hd
    rw [List.foldl_cons, step, atomRun_cons]
    obtain ⟨lost, faults, done, after, vals⟩ := ih (fun i hi => h i (List.mem_cons_of_mem _ hi)) (r := { r with
      s := u
      vals := r.vals ++ [(j, loadValue (atomTy (op j).op) (extend false (8 * a.n) (oldValue r.s.mem (key j) a.n)).toNat)] }) hr (hw.trans work)
    rw [mem] at after vals
    refine ⟨lost, faults, done, after, vals.trans ?_⟩
    rw [List.append_assoc, extend_oldValue _ _ hn]
    rfl

theorem find?_of_nodup {l : List (Nat × Nat)} (h : (l.map (·.1)).Nodup) {e : Nat × Nat} (he : e ∈ l) :
    l.find? (fun d => d.1 = e.1) = some e := by
  induction l with
  | nil => cases he
  | cons d r ih =>
    obtain ⟨new, rest⟩ := List.nodup_cons.mp h
    rcases List.mem_cons.mp he with rfl | he
    · exact List.find?_cons_of_pos (by simp)
    · have other : d.1 ≠ e.1 := fun same => new (List.mem_map.mpr ⟨e, he, same.symm⟩)
      rw [List.find?_cons_of_neg (by simp [other])]
      exact ih rest he

/-- A list of pairs with different first parts is a table of what its lookups give. -/
theorem map_find?_of_nodup {l : List (Nat × Nat)} (h : (l.map (·.1)).Nodup) (y : Nat → Nat → DWord) :
    (l.map fun e => (e.1, y e.1 e.2))
      = (l.map (·.1)).map fun j => (j, y j (((l.find? fun e => e.1 = j).map (·.2)).getD 0)) := by
  rw [List.map_map]
  refine List.map_congr_left fun e he => ?_
  simp [find?_of_nodup h he]

theorem atomRun_lanes (op : Nat → FabOp) (key : Nat → Nat) (n : Nat) (ls : List Nat) (m : List Host.Cell) :
    (atomRun op key n ls m).2.map (·.1) = ls := by
  induction ls generalizing m with
  | nil => rfl
  | cons j r ih => rw [atomRun_cons, List.map_cons, ih]

/-- Bytes that no lane updates stay as they were. -/
theorem memRead_atomRun {op : Nat → FabOp} {key : Nat → Nat} {n a : Nat} {ls : List Nat} {m : List Host.Cell} (hm : Memory.wf m = true)
    (ha : ∀ j, j ∈ ls → a < key j ∨ key j + n ≤ a) : memRead (atomRun op key n ls m).1 a = memRead m a := by
  induction ls generalizing m with
  | nil => rfl
  | cons j r ih =>
    have one : Memory.wf (atomMem m (key j) n (atomFn (op j) (oldValue m (key j) n))) = true
        ∧ memRead (atomMem m (key j) n (atomFn (op j) (oldValue m (key j) n))) a = memRead m a := by
      cases atomFn (op j) (oldValue m (key j) n) with
      | none => exact ⟨hm, rfl⟩
      | some y =>
        refine ⟨memPut_wf _ _ hm, ?_⟩
        have := ha j (List.mem_cons_self ..)
        rw [atomMem, memRead_memPut _ _ _ hm, if_neg (by rw [leBytes_length]; omega)]
    obtain ⟨wf, kept⟩ := one
    rw [atomRun_cons]
    exact (ih wf fun i hi => ha i (List.mem_cons_of_mem _ hi)).trans kept

theorem nodup_lanes (m : LaneMask) : (lanes m).Nodup := List.nodup_range.filter _

theorem nodup_accessLanes (g : Group) (f : XForm) (u : Bool) : (accessLanes g f u).Nodup := by
  unfold accessLanes
  split
  · split
    · exact List.nodup_singleton _
    · exact List.nodup_nil
  · exact nodup_lanes _

/-! ## The whole instruction -/

/-- An access that meets nothing in its way completes as an instruction that computes its values, whatever its one destination. -/
theorem computed_access {s : State} {f : XForm} {k : Issue} {u : Bool} (pair : Bool) (y : Nat → DWord)
    (hd : u = false → f.d = .unused ∨ ∃ d, f.d = .v d) :
    Computed s f k u pair y 0 (finish s (putVals s (curGroup s) f u pair (accessVals (curGroup s) f u y)) k (pushes f)
      (pushVals s (curGroup s) f u pair (accessVals (curGroup s) f u y)) 0) := by
  cases u with
  | false =>
    obtain h | ⟨v, h⟩ := hd rfl
    · exact computed_accessVals pair y (fun d e => by rw [h] at e; cases e) fun d e => by rw [h] at e; cases e
    · exact computed_accessVals pair y (fun d e => by rw [h] at e; cases e) fun d e => by rw [h] at e; cases e
  | true =>
    rw [finish_next (enabledFlags_zero _), putVals_fpflags, pushVals_accessVals]
    by_cases hr : runs (curGroup s) f = true
    · have put : putVals s (curGroup s) f true pair (accessVals (curGroup s) f true y) = putD s (curGroup s) f true pair y := by
        simpa [putVals, accessVals, accessLanes, hr] using putD_uniform s (curGroup s) f pair y
      rw [put]
      exact computed_performed s f k true pair y 0
    · have off : accessVals (curGroup s) f true y = [] := by simp [accessVals, accessLanes, hr]
      have quiet : (if pushes f = true then pushOf s (curGroup s) f true (if true = true then y else laneValue pair y) else none) = none := by
        simp [pushOf, hr]
      rw [off, quiet]
      exact computed_of_not_runs pair y (by simpa using hr)

theorem putVals_congr {s t : State} (h : Machine.hidden t t.cur = Machine.hidden s s.cur) (g : Group) (f : XForm) (u pair : Bool)
    (v : List (Nat × DWord)) : putVals t g f u pair v = putVals s g f u pair v := by
  unfold putVals putD
  rw [h]

theorem pushVals_congr {s t : State} (h : t.tick = s.tick) (g : Group) (f : XForm) (u pair : Bool) (v : List (Nat × DWord)) :
    pushVals t g f u pair v = pushVals s g f u pair v := by
  unfold pushVals
  rw [h]

/-- What an access that touches memory and translations alone leaves of the state that its results depend on. -/
theorem AreaWork.fillTlb {s t : State} (h : AreaWork s t) (ts : List Tried) :
    let u := Machine.fillTlb t ts
    u.mem = t.mem ∧ u.groups = s.groups ∧ u.cur = s.cur ∧ u.tick = s.tick ∧ u.dies = s.dies := by
  have filled : CacheWork t (Machine.fillTlb t ts) :=
    List.foldlRecOn _ _ (motive := fun u : State => CacheWork t u) (.refl t) fun u hu e _ => hu.trans (cacheWork_tlbFill ..)
  obtain ⟨e, -⟩ := filled
  dsimp only
  rw [e, h.rest]
  exact ⟨rfl, rfl, rfl, rfl, rfl⟩

/-- The parts of a lane's atomic that the statement about atomics names. -/
structure AtomLane (s : State) (need : Need) (n : Nat) (va : Nat → DWord) (x : Nat → Place) (key : Nat → Nat) (j : Nat) : Prop where
  closed : (mapGet ({} : Txn) (curGroup s).txn j).isOpen = false
  quiet : QuietLine s s.cur (key j) n
  inside : key j % 128 + n ≤ 128
  watchers : (getHome s (lineOf (key j))).watchers = []
  reaches : reach s (groupSpace s s.cur).1 (groupSpace s s.cur).2 need n false (va j) = .ok (x j)
  space : (x j).space = .hbm (key j)
  plain : (x j).dark = false

theorem plainAtomic_of_lost {late : Bool} {f : XForm} {a : Access} {sc : Sc} {op : Nat → LaneAtom} (r : Got) (e : Tried × Place)
    (h : r.lost.isSome = true) : plainAtomic late f a sc op r e = r := if_pos h

theorem atomic_free {s : State} {f : XForm} {k : Issue} {pair : Bool} {n : Nat} {op : Nat → LaneAtom} {fl : Nat → FFlags} {x : Nat → Place}
    {key : Nat → Nat} (hs : f.sup = false) (hd : uniform .laneUni f = false → f.d = .unused ∨ ∃ d, f.d = .v d) (hp : Passes s k)
    (hlate : s.late = []) (hstop : requestsStopped s (groupSpace s s.cur).1 = false) (hn : n ≤ 8) (hfl : ∀ j, fl j = 0)
    (hslot : slotOfUid s (curGroup s).uid = some s.cur)
    (hl : ∀ j, j ∈ accessLanes (curGroup s) f (uniform .laneUni f) →
      AtomLane s (.atom f.sc) n (globalAt s (curGroup s) f.a f.b) x key j) :
    let run := atomRun (fun j => (op j).op) key n (accessLanes (curGroup s) f (uniform .laneUni f)) s.mem
    ∃ (t : State) (h : Group), atomic s f k pair n op fl = .next t ∧ t.groups = (setCur s h).groups ∧ t.mem = run.1
      ∧ Computed s f k (uniform .laneUni f) pair
        (fun j => loadValue (atomTy (op j).op) (((run.2.find? fun e => e.1 = j).map (·.2)).getD 0)) 0 (.next (setCur s h)) := by
  intro run
  let a : Access := { uni := uniform .laneUni f, inside := true, need := .atom f.sc, n, va := globalAt s (curGroup s) f.a f.b }
  have tries : tryLanes s f a = (accessLanes (curGroup s) f a.uni).map (plainTry a x) :=
    tryLanes_plain x (fun j hj => laneMode_plain s j true (hl j hj).closed) fun j hj => (hl j hj).reaches
  have absent : absentLanes (tryLanes s f a) = [] := tries ▸ absentLanes_plainTry a x _
  have reached : reached_ (tryLanes s f a) = (accessLanes (curGroup s) f a.uni).map fun j => (plainTry a x j, x j) :=
    tries ▸ reached_plainTry a x _
  have reads : readsWait s (tryLanes s f a) n false = false := by
    unfold readsWait
    rw [reached, List.any_map, List.any_eq_false]
    intro j hj
    simp only [Function.comp_apply, (hl j hj).space]
    simp [plainTry]
  have near : ∀ e, txnNear (tryLanes s f a) e = false := fun e => by
    unfold txnNear
    rw [reached, List.any_map, List.any_eq_false]
    intro j hj
    simp [plainTry]
  have mixed : mixedWait s (tryLanes s f a) = false := by
    unfold mixedWait
    rw [List.any_eq_false]
    intro e he
    rw [near e]
    simp
  have busy : (reached_ (tryLanes s f a)).any (laneBusy s) = false := by
    rw [reached, List.any_map, List.any_eq_false]
    intro j hj
    obtain ⟨-, -, -, -, -, -, home, -⟩ := (hl j hj).quiet
    simp only [Function.comp_apply, laneBusy, placeBusy, (hl j hj).space, hstop, home]
    simp [plainTry]
  have lanes : AtomLanes s a x key (accessLanes (curGroup s) f a.uni) := fun j hj =>
    ⟨(hl j hj).quiet, (hl j hj).quiet.freeLine (hl j hj).watchers hslot, (hl j hj).inside, (hl j hj).space, (hl j hj).plain⟩
  obtain ⟨lost, faults, work, mem, vals⟩ := foldl_plainAtomic (sc := atomScope f.sc) (op := op) hs hn lanes (r := { s }) rfl (.refl s)
  generalize hr : (accessLanes (curGroup s) f a.uni).foldl (fun r j => plainAtomic false f a (atomScope f.sc) op r (plainTry a x j, x j)) { s } = r
    at lost faults work mem vals
  have next : nextLate s = (false, s) := by
    unfold nextLate
    rw [hlate]
  have flags : (if (curGroup s).xm = 0 then 0 else (reached_ (tryLanes s f a)).foldl (fun m e => m ||| fl e.1.lane) 0) = (0 : FFlags) := by
    split
    · rfl
    · exact List.foldlRecOn _ _ (motive := fun m : FFlags => m = 0) rfl fun m hm e _ => by rw [hm, hfl]; rfl
  have start := atomic_eq (s := s) (f := f) (k := k) (pair := pair) (n := n) (op := op) (fl := fl) (a := a) rfl reads mixed
  have f' : ({ f with sup := false } : XForm) = f := by rw [← hs]
  have step : (fun r e => plainAtomic ((if f.sup then (false, s) else nextLate s).1 && !txnNear (tryLanes s f a) e) f a (atomScope f.sc) op r e)
      = plainAtomic false f a (atomScope f.sc) op := by
    rw [hs, next]
    rfl
  have begins : (if f.sup then (false, s) else nextLate s).2 = s := by
    rw [hs, next]
    rfl
  rw [f'] at start
  obtain ⟨umem, ugroups, ucur, utick, udies⟩ := work.area.fillTlb (tryLanes s f a)
  generalize hu : Machine.fillTlb r.s (tryLanes s f a) = u at umem ugroups ucur utick udies
  have group : curGroup u = curGroup s := by
    unfold curGroup getGroup
    rw [ugroups, ucur]
  have bank : Machine.hidden u u.cur = Machine.hidden s s.cur := by
    unfold Machine.hidden isFirmwareCore getGroup getDie
    rw [ugroups, ucur, udies]
  let y (j : Nat) : DWord := loadValue (atomTy (op j).op) (((run.2.find? fun e => e.1 = j).map (·.2)).getD 0)
  have values : r.vals = accessVals (curGroup s) f (uniform .laneUni f) y := by
    have keys := atomRun_lanes (fun j => (op j).op) key n (accessLanes (curGroup s) f (uniform .laneUni f)) s.mem
    refine vals.trans ((List.nil_append _).trans ((map_find?_of_nodup (keys.symm ▸ nodup_accessLanes ..) fun j o =>
      loadValue (atomTy (op j).op) o).trans ?_))
    rw [keys]
    rfl
  have done := computed_access (s := s) (k := k) pair y hd
  rw [finish_next (enabledFlags_zero _)] at done
  refine ⟨_, _, start.trans (accesses_next s f k a pair _ _ r 0 hp rfl absent busy (Prod.ext (Eq.trans ?perform hr) flags) lost faults), ?_, ?_, done⟩
  case perform =>
    dsimp only
    rw [step, begins, tries, foldl_laneStep_plainTry plainAtomic_of_lost]
  · rw [hu, group, values, putVals_congr bank, pushVals_congr utick, putVals_fpflags]
    unfold setCur setGroup
    rw [ugroups, ucur]
  · rw [setCur_mem, hu, umem]
    exact mem

theorem nonempty_place : Nonempty Place := ⟨{ space := .hbm 0, entry := 0, level := 0 }⟩

/-- The lanes of the statement about atomics have places. -/
theorem exists_atomLanes {s : State} {need : Need} {n : Nat} {va : Nat → DWord} {key : Nat → Nat} {ls : List Nat}
    (h : ∀ j, j ∈ ls → (mapGet ({} : Txn) (curGroup s).txn j).isOpen = false ∧ QuietLine s s.cur (key j) n ∧ key j % 128 + n ≤ 128
      ∧ (getHome s (lineOf (key j))).watchers = []
      ∧ ∃ x : Place, reach s (groupSpace s s.cur).1 (groupSpace s s.cur).2 need n false (va j) = .ok x ∧ x.space = .hbm (key j) ∧ x.dark = false) :
    ∃ x : Nat → Place, ∀ j, j ∈ ls → AtomLane s need n va x key j := by
  have places : ∀ j, ∃ x : Place, j ∈ ls → reach s (groupSpace s s.cur).1 (groupSpace s s.cur).2 need n false (va j) = .ok x
      ∧ x.space = .hbm (key j) ∧ x.dark = false := fun j => by
    by_cases hj : j ∈ ls
    · obtain ⟨-, -, -, -, x, hx⟩ := h j hj
      exact ⟨x, fun _ => hx⟩
    · obtain ⟨x⟩ := nonempty_place
      exact ⟨x, fun e => absurd e hj⟩
  obtain ⟨x, hx⟩ := Classical.axiom_of_choice places
  refine ⟨x, fun j hj => ?_⟩
  obtain ⟨closed, quiet, inside, watchers, -⟩ := h j hj
  obtain ⟨reaches, space, plain⟩ := hx j hj
  exact ⟨closed, quiet, inside, watchers, reaches, space, plain⟩

end Sys2Proof.Stated

namespace Sys2Proof.Proofs

open Sys2Proof Sys2Proof.Machine Sys2Proof.Stated

/-- Settles O40: each instruction is `atomic` of one operation for each lane, and on free lines the lanes' atomics are those of `atomRun`. -/
theorem atomicResult : Obligations.AtomicResult := by
  unfold Obligations.AtomicResult
  intro s f i op n key g sp p c pair k u ls r hi hx hs hd hm hlate hp hstop hn hslot hl
  obtain ⟨x, lanes⟩ := exists_atomLanes hl
  have same : ∀ (lane : Nat → LaneAtom) (fl : Nat → FFlags), exec i s = atomic s f k pair n lane fl → (∀ j, (lane j).op = op j) →
      (∀ j, fl j = 0) → ∃ (t : State) (h : Group), exec i s = .next t ∧ t.groups = (setCur s h).groups
        ∧ (∀ a, memRead t.mem a = memRead r.1 a) ∧ (∀ a, (∀ j, j ∈ ls → a < key j ∨ key j + n ≤ a) → memRead t.mem a = memRead s.mem a)
        ∧ Computed s f k u pair (fun j => loadValue (atomTy (op j)) (((r.2.find? fun e => e.1 = j).map (·.2)).getD 0)) 0
            (.next (setCur s h)) := fun lane fl run ops flags => by
    obtain rfl : (fun j => (lane j).op) = op := funext ops
    obtain ⟨t, h, ht, groups, mem, done⟩ := atomic_free (op := lane) hs hd hp hlate hstop hn flags hslot lanes
    refine ⟨t, h, run.trans ht, groups, fun a => congrArg (memRead · a) mem, fun a ha => ?_, done⟩
    rw [mem]
    exact memRead_atomRun hm ha
  simp only [List.mem_cons, List.not_mem_nil, or_false, Prod.mk.injEq] at hi
  obtain ⟨rfl, rfl, rfl⟩ | ⟨rfl, rfl, rfl⟩ | ⟨rfl, rfl, rfl⟩ | ⟨rfl, rfl, rfl⟩ := hi
  · exact same (fun j => { op := .atom f.fn f.ty f.rm (c j), adds := decide (f.fn = 0) }) (fun _ => 0) rfl (fun _ => rfl) fun _ => rfl
  · exact same (fun j => { op := .atomf f.fn f.ty f.rm (c j), adds := false }) (fun _ => 0) rfl (fun _ => rfl) fun _ => rfl
  · have fixed : ∀ j, atomxValue f (c j) = (c j, 0) := fun j => if_pos (hx rfl)
    refine same (fun j => { op := .atomx (atomxValue f (c j)).1, adds := true }) (fun j => (atomxValue f (c j)).2) ?_
      (fun j => by rw [fixed j]) fun j => by rw [fixed j]
    have two : pair = true := by simp [pair]
    change execAtomx f s = atomic s f (atomIssue f (span pair) (span p)) pair 8 _ _
    rw [two]
    rfl
  · exact same (fun j => { op := .cas f.ty (opnd s g p f.d j) (c j), adds := false }) (fun _ => 0) rfl (fun _ => rfl) fun _ => rfl

end Sys2Proof.Proofs
end

section
/-! PROOFS. TXB and the irrevocable token (R174, R182). -/

namespace Sys2Proof.Stated

open Sys2Proof Sys2Proof.Machine

/-! ## Transactions of lanes changed one after another (R174, R177) -/

/-- A lane's transaction of the current group. -/
def txnOf (s : State) (j : Nat) : Txn := mapGet {} (curGroup s).txn j

theorem txnOf_modTxn (s : State) (i j : Nat) (f : Txn → Txn) : txnOf (modTxn s s.cur i f) j = if j = i then f (txnOf s i) else txnOf s j := by
  have h : curGroup (modTxn s s.cur i f) = withTxn (curGroup s) (mapMod {} (curGroup s).txn i f) := getGroup_modGroup_same s s.cur _
  unfold txnOf
  rw [h]
  exact mapGet_mapMod ..

/-- Steps that each change the transaction of their own lane. -/
theorem foldl_modTxn {step : State → Nat → State} {f : Nat → Txn → Txn} {ls : List Nat} (hn : ls.Nodup) {s : State}
    (h : ∀ t i, i ∈ ls → txnOf t i = txnOf s i → step t i = modTxn t t.cur i (f i)) :
    TxnsOnly s (ls.foldl step s) ∧ ∀ j, txnOf (ls.foldl step s) j = if j ∈ ls then f j (txnOf s j) else txnOf s j := by
  induction ls generalizing s with
  | nil => exact ⟨.refl s, fun j => (if_neg List.not_mem_nil).symm⟩
  | cons i r ih =>
    obtain ⟨new, rest⟩ := List.nodup_cons.mp hn
    have first := h s i (List.mem_cons_self ..) rfl
    have kept : ∀ j, j ∈ r → txnOf (step s i) j = txnOf s j := fun j hj => by
      rw [first, txnOf_modTxn, if_neg (ne_of_mem_of_not_mem hj new)]
    obtain ⟨only, txns⟩ := ih rest fun t j hj e => h t j (List.mem_cons_of_mem _ hj) (e.trans (kept j hj))
    refine ⟨TxnsOnly.trans (first ▸ txnsOnly_modTxn s i _) only, fun j => ?_⟩
    rw [List.foldl_cons, txns j]
    by_cases hj : j ∈ r
    · rw [if_pos hj, if_pos (List.mem_cons_of_mem _ hj), kept j hj]
    · rw [if_neg hj, first, txnOf_modTxn]
      by_cases e : j = i
      · rw [if_pos e, if_pos (e ▸ List.mem_cons_self ..), e]
      · rw [if_neg e, if_neg (by simp [e, hj])]

/-- The transaction of a lane after a TXB without its search for the token. -/
def beginTxn (t : Txn) : Txn :=
  if t.isOpen then (if t.depth < 15 then { t with depth := t.depth + 1 } else doomTxn t 10 0) else { isOpen := true, depth := 1 }

theorem modTxn_congr {s : State} {i : Nat} {f h : Txn → Txn} (e : f (txnOf s i) = h (txnOf s i)) : modTxn s s.cur i f = modTxn s s.cur i h := by
  change setGroup s s.cur (withTxn (curGroup s) (mapSet (curGroup s).txn i (f (txnOf s i))))
    = setGroup s s.cur (withTxn (curGroup s) (mapSet (curGroup s).txn i (h (txnOf s i))))
  rw [e]

theorem begin_eq {s t : State} {i : Nat} (e : txnOf t i = txnOf s i)
    (h : (txnOf s i).isOpen = true → (txnOf s i).depth < 15 ∨ (txnOf s i).irr = false ∨ (txnOf s i).doomed ≠ none) :
    (if !(txnOf s i).isOpen then modTxn t t.cur i fun _ => { isOpen := true, depth := 1 } else deepen t t.cur i)
      = modTxn t t.cur i fun _ => beginTxn (txnOf s i) := by
  unfold beginTxn
  by_cases open_ : (txnOf s i).isOpen = true
  · rw [if_neg (by rw [open_]; decide), if_pos open_, ← e]
    rw [← e] at h open_
    unfold deepen
    change (if (txnOf t i).depth < 15 then _ else if (txnOf t i).irr && (txnOf t i).doomed.isNone then _ else _) = _
    split
    · exact modTxn_congr rfl
    · next deep =>
      have kept : ((txnOf t i).irr && (txnOf t i).doomed.isNone) = false := by
        obtain h | h | h := h open_
        · exact absurd h deep
        · rw [h]
          rfl
        · rw [Option.isNone_eq_false_iff.mpr (Option.isSome_iff_ne_none.mpr h), Bool.and_false]
      rw [kept, if_neg Bool.false_ne_true]
      exact modTxn_congr rfl
  · rw [if_pos (by simpa using open_), if_neg open_]

/-! ## The search for the token (R174) -/

/-- Only transactions of the current group and partitions differ. -/
def TokenWork (s t : State) : Prop :=
  t = { s with groups := t.groups, parts := t.parts } ∧ curGroup t = withTxn (curGroup s) (curGroup t).txn

theorem TokenWork.refl (s : State) : TokenWork s s := ⟨rfl, rfl⟩

theorem TokenWork.trans {s t u : State} (h : TokenWork s t) (k : TokenWork t u) : TokenWork s u := by
  obtain ⟨h1, h2⟩ := h
  obtain ⟨k1, k2⟩ := k
  refine ⟨?_, ?_⟩
  · rw [h1] at k1
    exact k1
  · rw [h2] at k2
    exact k2

theorem TxnsOnly.tokenWork {s t : State} (h : TxnsOnly s t) : TokenWork s t := by
  obtain ⟨h1, h2⟩ := h
  refine ⟨?_, h2⟩
  rw [h1]

theorem tokenWork_modPart (s : State) (p : Nat) (f : Partition → Partition) : TokenWork s (modPart s p f) := ⟨rfl, rfl⟩

theorem TokenWork.uid {s t : State} (h : TokenWork s t) : (curGroup t).uid = (curGroup s).uid := by
  obtain ⟨-, h⟩ := h
  rw [h]
  rfl

theorem TokenWork.gtc {s t : State} (h : TokenWork s t) : t.gtc = s.gtc := by
  obtain ⟨h, -⟩ := h
  rw [h]

theorem TokenWork.groupSpace_eq {s t : State} (h : TokenWork s t) : groupSpace t t.cur = groupSpace s s.cur := by
  have p : (curGroup t).prologue = (curGroup s).prologue := by rw [h.2]; rfl
  have b : (curGroup t).block = (curGroup s).block := by rw [h.2]; rfl
  unfold curGroup at p b
  unfold groupSpace groupGrid groupBlock
  rw [p, b]
  rw [h.1]
  rfl

/-- A lane may have the token of a partition. -/
def mayHold (uid : Nat) (pt : Partition) (i : Nat) : Bool := pt.tok.isNone && (pt.tokQ.isEmpty || decide (pt.tokQ.head? = some (uid, i)))

/-- A partition after a lane has taken the token or queued for it. -/
def seekPart (uid now : Nat) (pt : Partition) (i : Nat) : Partition :=
  if mayHold uid pt i then { pt with tok := some (uid, i), tokQ := pt.tokQ.filter (· ≠ (uid, i)), resv := none }
  else if pt.tokQ.contains (uid, i) then pt
  else { pt with tokQ := pt.tokQ ++ [(uid, i)], resv := if pt.tok.isNone && pt.tokQ.isEmpty then some now else pt.resv }

/-- A lane's transaction after its search. -/
def seekTxn (held : Bool) (t : Txn) : Txn := if held then { t with irr := true } else doomTxn t 5 1

theorem getPart_modTxn (s : State) (g i : Nat) (f : Txn → Txn) (p : Nat) : getPart (modTxn s g i f) p = getPart s p := rfl

theorem seekToken_eq (s : State) (i : Nat) :
    let uid := (curGroup s).uid
    let p := (groupSpace s s.cur).1
    let u := seekToken s s.cur i
    TokenWork s u ∧ getPart u p = seekPart uid s.gtc.toNat (getPart s p) i
      ∧ ∀ j, txnOf u j = if j = i then seekTxn (mayHold uid (getPart s p) i) (txnOf s i) else txnOf s j := by
  intro uid p u
  by_cases hold : mayHold uid (getPart s p) i = true
  · have e : u = modTxn (modPart s p fun pt => { pt with tok := some (uid, i), tokQ := pt.tokQ.filter (· ≠ (uid, i)), resv := none }) s.cur i
        fun t => { t with irr := true } := if_pos hold
    rw [e]
    refine ⟨(tokenWork_modPart s p _).trans (txnsOnly_modTxn _ i _).tokenWork, ?_, fun j => ?_⟩
    · unfold seekPart
      rw [if_pos hold, getPart_modTxn, getPart_modPart_same]
    · rw [hold]
      exact txnOf_modTxn (modPart s p _) i j _
  · have e : u = doomLane (if (getPart s p).tokQ.contains (uid, i) then s else modPart s p fun pt => { pt with
        tokQ := pt.tokQ ++ [(uid, i)]
        resv := if (getPart s p).tok.isNone && (getPart s p).tokQ.isEmpty then some s.gtc.toNat else pt.resv }) s.cur i 5 1 := if_neg hold
    rw [Bool.not_eq_true] at hold
    unfold seekPart
    rw [e, hold, if_neg Bool.false_ne_true]
    split
    · exact ⟨(txnsOnly_modTxn s i _).tokenWork, rfl, fun j => txnOf_modTxn s i j _⟩
    · exact ⟨(tokenWork_modPart s p _).trans (txnsOnly_modTxn _ i _).tokenWork,
        by rw [doomLane, getPart_modTxn, getPart_modPart_same], fun j => txnOf_modTxn (modPart s p _) i j _⟩

/-- After one lane's search another lane may have the token if it might before and the first did not take it. -/
theorem mayHold_seekPart {uid now : Nat} {pt : Partition} {i : Nat} (k : Nat) :
    mayHold uid (seekPart uid now pt i) k = (!mayHold uid pt i && mayHold uid pt k) := by
  unfold seekPart
  cases h : mayHold uid pt i with
  | true => rfl
  | false =>
    rw [if_neg Bool.false_ne_true]
    split
    · rfl
    · unfold mayHold at *
      cases tok : pt.tok with
      | some e => simp
      | none =>
        cases q : pt.tokQ with
        | nil => simp [tok, q] at h
        | cons e r => simp

/-- The lanes search one after another: the first that may have the token takes it. -/
theorem foldl_seekToken {ls : List Nat} (hn : ls.Nodup) (s : State) :
    let uid := (curGroup s).uid
    let p := (groupSpace s s.cur).1
    let u := ls.foldl (fun s i => seekToken s s.cur i) s
    TokenWork s u ∧ getPart u p = ls.foldl (seekPart uid s.gtc.toNat) (getPart s p)
      ∧ ∀ j, txnOf u j = if j ∈ ls then seekTxn (decide (ls.find? (mayHold uid (getPart s p)) = some j)) (txnOf s j) else txnOf s j := by
  induction ls generalizing s with
  | nil => exact ⟨.refl s, rfl, fun j => (if_neg List.not_mem_nil).symm⟩
  | cons i r ih =>
    intro uid p u
    obtain ⟨new, rest⟩ := List.nodup_cons.mp hn
    obtain ⟨work, part, txns⟩ := seekToken_eq s i
    obtain ⟨work', part', txns'⟩ := ih rest (seekToken s s.cur i)
    rw [work.uid, work.groupSpace_eq, work.gtc, part] at part'
    rw [work.uid, work.groupSpace_eq, part] at txns'
    refine ⟨work.trans work', part', fun j => (txns' j).trans ?_⟩
    have later : ∀ k, mayHold uid (seekPart uid s.gtc.toNat (getPart s p) i) k = (!mayHold uid (getPart s p) i && mayHold uid (getPart s p) k) :=
      mayHold_seekPart
    by_cases hj : j ∈ r
    · have other : j ≠ i := ne_of_mem_of_not_mem hj new
      rw [if_pos hj, if_pos (List.mem_cons_of_mem _ hj), txns j, if_neg other, List.find?_cons, funext later]
      cases mayHold uid (getPart s p) i with
      | true =>
        have none : r.find? (fun k => !true && mayHold uid (getPart s p) k) = none := by simp
        rw [none]
        simp [Ne.symm other]
      | false => simp
    · rw [if_neg hj, txns j]
      by_cases e : j = i
      · subst e
        rw [if_pos rfl, if_pos (List.mem_cons_self ..), List.find?_cons]
        cases mayHold uid (getPart s p) j with
        | true => simp
        | false =>
          have none : r.find? (mayHold uid (getPart s p)) ≠ some j := fun h => hj (List.mem_of_find?_eq_some h)
          simp [none]
      · rw [if_neg e, if_neg (by simp [e, hj])]

section Queue
variable {uid i : Nat} {r : List Nat} (new : i ∉ r)
include new

theorem mem_map_ne {e : Nat × Nat} (he : e ∈ r.map fun j => (uid, j)) : e ≠ (uid, i) := by
  obtain ⟨j, hj, rfl⟩ := List.mem_map.mp he
  intro h
  exact new ((Prod.mk.inj h).2 ▸ hj)

/-- The lanes behind one that has taken the token queue as they would have before it. -/
theorem queue_of_taken (q : List (Nat × Nat)) :
    q.filter (· ≠ (uid, i)) ++ (r.map fun j => (uid, j)).filter (fun e => !(q.filter (· ≠ (uid, i))).contains e)
      = (q ++ ((i :: r).map fun j => (uid, j)).filter fun e => !q.contains e).filter (· ≠ (uid, i)) := by
  rw [List.filter_append, List.map_cons, List.filter_filter, List.filter_cons_of_neg (by simp)]
  refine congrArg (q.filter (· ≠ (uid, i)) ++ ·) (List.filter_congr fun e he => ?_)
  have other := mem_map_ne new he
  simp [other]

/-- The lanes behind one that has queued queue behind it. -/
theorem queue_of_queued {q : List (Nat × Nat)} (h : q.contains (uid, i) = false) :
    (q ++ [(uid, i)]) ++ (r.map fun j => (uid, j)).filter (fun e => !(q ++ [(uid, i)]).contains e)
      = q ++ ((i :: r).map fun j => (uid, j)).filter fun e => !q.contains e := by
  rw [List.append_assoc, List.map_cons, List.filter_cons_of_pos (by rw [h]; rfl), List.singleton_append]
  refine congrArg (fun l => q ++ (uid, i) :: l) (List.filter_congr fun e he => ?_)
  have other := mem_map_ne new he
  simp [other]

end Queue

/-- The partition after the searches, by the lane that takes the token. -/
theorem foldl_seekPart (uid now : Nat) {ls : List Nat} (hn : ls.Nodup) (pt : Partition) :
    let won := ls.find? (mayHold uid pt)
    let q := ls.foldl (seekPart uid now) pt
    q.tok = (match won with | some j => some (uid, j) | none => pt.tok)
      ∧ q.tokQ = ((pt.tokQ ++ (ls.map fun j => (uid, j)).filter fun e => !pt.tokQ.contains e).filter
          fun e => decide (won.map (fun j => (uid, j)) ≠ some e))
      ∧ q.resv = if won.isSome then none else pt.resv := by
  induction ls generalizing pt with
  | nil => exact ⟨rfl, by simp, rfl⟩
  | cons i r ih =>
    obtain ⟨new, rest⟩ := List.nodup_cons.mp hn
    have later := funext (mayHold_seekPart (uid := uid) (now := now) (pt := pt) (i := i))
    have step := ih rest (seekPart uid now pt i)
    rw [later] at step
    cases hold : mayHold uid pt i with
    | true =>
      rw [hold] at step
      obtain ⟨tok, queue, resv⟩ := step
      have held : seekPart uid now pt i = { pt with tok := some (uid, i), tokQ := pt.tokQ.filter (· ≠ (uid, i)), resv := none } := if_pos hold
      have none : r.find? (fun k => !true && mayHold uid pt k) = none := by simp
      rw [none] at tok queue resv
      rw [List.find?_cons_of_pos hold, List.foldl_cons]
      refine ⟨tok.trans ?_, queue.trans ?_, resv.trans ?_⟩
      · rw [held]
      · rw [held]
        refine Eq.trans ?_ ((queue_of_taken new pt.tokQ).trans (List.filter_congr fun e _ => by simp [eq_comm]))
        exact List.filter_eq_self.mpr fun e _ => rfl
      · rw [held]
        rfl
    | false =>
      rw [hold] at step
      have same : (fun k => !false && mayHold uid pt k) = mayHold uid pt := by simp
      rw [same] at step
      obtain ⟨tok, queue, resv⟩ := step
      have busy : (pt.tok.isNone && pt.tokQ.isEmpty) = false := by
        unfold mayHold at hold
        cases h : pt.tok.isNone with
        | false => rfl
        | true =>
          rw [h] at hold
          exact (Bool.or_eq_false_iff.mp hold).1
      rw [List.find?_cons_of_neg (by simp [hold]), List.foldl_cons]
      cases known : pt.tokQ.contains (uid, i) with
      | true =>
        have left : seekPart uid now pt i = pt := (if_neg (by simp [hold])).trans (if_pos known)
        rw [left] at tok queue resv ⊢
        refine ⟨tok, queue.trans ?_, resv⟩
        rw [List.map_cons, List.filter_cons_of_neg (by rw [known]; exact Bool.false_ne_true)]
      | false =>
        have queued : seekPart uid now pt i = { pt with tokQ := pt.tokQ ++ [(uid, i)] } := by
          refine (if_neg (by simp [hold])).trans ((if_neg (by rw [known]; exact Bool.false_ne_true)).trans ?_)
          rw [busy, if_neg Bool.false_ne_true]
        rw [queued] at tok queue resv ⊢
        refine ⟨tok, queue.trans ?_, resv⟩
        rw [queue_of_queued new known]

theorem find?_mayHold (uid : Nat) (pt : Partition) (ls : List Nat) :
    ls.find? (mayHold uid pt) = if pt.tok.isSome then none
      else match pt.tokQ with | [] => ls.head? | e :: _ => ls.find? fun j => decide (e = (uid, j)) := by
  unfold mayHold
  cases pt.tok with
  | some e => simp
  | none =>
    cases pt.tokQ with
    | nil => cases ls <;> simp
    | cons e r => simp

/-! ## TXB (R174) -/

/-- The limit of attempts that a TXB names. -/
def txbLimit (s : State) (f : XForm) : Nat := match f.b with | .unused => 8 | o => (opnd s (curGroup s) false o 0).toNat

/-- The lanes of a TXB, and those of them that search for the token. -/
def txbLanes (s : State) (f : XForm) : List Nat := lanes (live (curGroup s) f)
def txbSeek (s : State) (f : XForm) : List Nat :=
  (txbLanes s f).filter fun j => !(txnOf s j).isOpen && decide (txbLimit s f ≤ (opnd s (curGroup s) false f.a j).toNat % 2 ^ 32)

/-- The state after the lanes' transactions have been opened or deepened, and the state in which a TXB completes. -/
def txbBegun (s : State) (f : XForm) : State :=
  (txbLanes s f).foldl (fun t i =>
    if !(txnOf s i).isOpen then modTxn t t.cur i fun _ => { isOpen := true, depth := 1 } else deepen t t.cur i) s
def txbState (s : State) (f : XForm) : State := (txbSeek s f).foldl (fun s i => seekToken s s.cur i) (txbBegun s f)

theorem execTxb_eq {s : State} {f : XForm} (hp : Passes s (xIssue f (xLen f) (topReg [(f.a, 1)]))) :
    execTxb f s = complete (txbState s f) (xIssue f (xLen f) (topReg [(f.a, 1)])) := issue_pass _ hp

theorem txbState_spec {s : State} {f : XForm} (h : ∀ j, j ∈ txbLanes s f → (txnOf s j).isOpen = true →
      (txnOf s j).depth < 15 ∨ (txnOf s j).irr = false ∨ (txnOf s j).doomed ≠ none) :
    let uid := (curGroup s).uid
    let p := (groupSpace s s.cur).1
    let t := txbState s f
    TokenWork s t ∧ getPart t p = (txbSeek s f).foldl (seekPart uid s.gtc.toNat) (getPart s p)
      ∧ ∀ j, txnOf t j = if j ∈ txbSeek s f then
          seekTxn (decide ((txbSeek s f).find? (mayHold uid (getPart s p)) = some j)) { isOpen := true, depth := 1 }
        else if j ∈ txbLanes s f then beginTxn (txnOf s j) else txnOf s j := by
  intro uid p t
  have nodup : (txbLanes s f).Nodup := nodup_lanes _
  have seeks : (txbSeek s f).Nodup := nodup.filter _
  obtain ⟨only, txns⟩ : TxnsOnly s (txbBegun s f)
      ∧ ∀ j, txnOf (txbBegun s f) j = if j ∈ txbLanes s f then beginTxn (txnOf s j) else txnOf s j :=
    foldl_modTxn nodup (f := fun i _ => beginTxn (txnOf s i)) fun t i hi e => begin_eq e (h i hi)
  obtain ⟨work, part, found⟩ := foldl_seekToken seeks (txbBegun s f)
  have parts : ∀ q, getPart (txbBegun s f) q = getPart s q := fun q => by
    rw [only.1]
    rfl
  rw [only.tokenWork.uid, only.tokenWork.groupSpace_eq, only.tokenWork.gtc, parts] at part
  rw [only.tokenWork.uid, only.tokenWork.groupSpace_eq, parts] at found
  refine ⟨only.tokenWork.trans work, part, fun j => (found j).trans ?_⟩
  by_cases hj : j ∈ txbSeek s f
  · obtain ⟨lane, new⟩ := List.mem_filter.mp hj
    have closed : (txnOf s j).isOpen = false := by simpa using (Bool.and_eq_true_iff.mp new).1
    have fresh : beginTxn (txnOf s j) = { isOpen := true, depth := 1 } := if_neg (by rw [closed]; exact Bool.false_ne_true)
    rw [if_pos hj, if_pos hj, txns j, if_pos lane, fresh]
  · rw [if_neg hj, if_neg hj, txns j]

end Sys2Proof.Stated
end

section
/-! PROOFS. The transactions of a group after TXB and TXA (R174, R185), and the lanes of a TXE (R184). -/

namespace Sys2Proof.Stated

open Sys2Proof Sys2Proof.Machine

/-- A group that completes an instruction with its transactions as they are. -/
theorem txnOf_retire (s : State) (k : Issue) (j : Nat) : txnOf (retire s (curGroup s) k false none) j = txnOf s j := by
  unfold txnOf retire
  rw [curGroup_setCur]
  rfl

theorem curGroup_retire_pc (s : State) (x : Group) (k : Issue) (b : Bool) (l : Option Latch) :
    (curGroup (retire s x k b l)).pc = x.pc + BitVec.ofNat 64 k.len := by
  unfold retire
  rw [curGroup_setCur]
  rfl

theorem TokenWork.pc {s t : State} (h : TokenWork s t) : (curGroup t).pc = (curGroup s).pc := by
  obtain ⟨-, h⟩ := h
  rw [h]
  rfl

/-- The lanes whose transactions a TXB opens or deepens. -/
def Deepens (s : State) (f : XForm) : Prop :=
  ∀ j, j ∈ lanes (live (curGroup s) f) → (txnOf s j).isOpen = true →
    (txnOf s j).depth < 15 ∨ (txnOf s j).irr = false ∨ (txnOf s j).doomed ≠ none

/-- The transaction of each lane after a TXB, by the lane that takes the token. -/
def txbTxn (s : State) (f : XForm) (won : Option Nat) (j : Nat) : Txn :=
  if j ∉ txbLanes s f then txnOf s j
  else if (txnOf s j).isOpen then (if (txnOf s j).depth < 15 then { txnOf s j with depth := (txnOf s j).depth + 1 } else doomTxn (txnOf s j) 10 0)
  else if won = some j then { isOpen := true, depth := 1, irr := true }
  else if j ∈ txbSeek s f then { isOpen := true, depth := 1, doomed := some (5, 1) }
  else { isOpen := true, depth := 1 }

theorem txnOf_txbState {s : State} {f : XForm} (h : Deepens s f) (j : Nat) :
    txnOf (txbState s f) j
      = txbTxn s f ((txbSeek s f).find? (mayHold (curGroup s).uid (getPart s (groupSpace s s.cur).1))) j := by
  obtain ⟨-, -, txns⟩ := txbState_spec h
  rw [txns j]
  unfold txbTxn
  by_cases hj : j ∈ txbLanes s f
  · rw [if_neg (not_not.mpr hj), if_pos hj]
    unfold beginTxn
    by_cases o : (txnOf s j).isOpen = true
    · have idle : j ∉ txbSeek s f := fun c => by
        have new := (List.mem_filter.mp c).2
        rw [o] at new
        exact absurd new (by simp)
      rw [if_neg idle, if_pos o, if_pos o]
    · rw [if_neg o, if_neg o]
      by_cases c : j ∈ txbSeek s f
      · rw [if_pos c, if_pos c]
        by_cases w : (txbSeek s f).find? (mayHold (curGroup s).uid (getPart s (groupSpace s s.cur).1)) = some j
        · rw [if_pos w, decide_eq_true w]
          rfl
        · rw [if_neg w, decide_eq_false w]
          rfl
      · have w : (txbSeek s f).find? (mayHold (curGroup s).uid (getPart s (groupSpace s s.cur).1)) ≠ some j :=
          fun w => c (List.mem_of_find?_eq_some w)
        rw [if_neg c, if_neg w, if_neg c]
  · have c : j ∉ txbSeek s f := fun c => hj (List.mem_filter.mp c).1
    rw [if_neg c, if_neg hj, if_pos hj]

/-! ## The causes of a TXE's lanes (R184) -/

/-- The cause word of a lane. -/
def causeOf (es : List (Nat × DWord)) (j : Nat) : DWord := ((es.find? fun e => e.1 = j).map (·.2)).getD 0

/-- A TXE has a cause word for each of its lanes, in their order. -/
theorem endLanes_lanes (s : State) (g : Nat) (ls : List Nat) : (endLanes s g ls).2.map (·.1) = ls := by
  induction ls generalizing s with
  | nil => rfl
  | cons i r ih => exact congrArg (i :: ·) (ih _)

/-- The lanes with cause word 0. -/
def endedLanes (es : List (Nat × DWord)) : List Nat := (es.filter fun e => e.2 = 0).map (·.1)

theorem mem_endedLanes {es : List (Nat × DWord)} (hn : (es.map (·.1)).Nodup) {j : Nat} (hj : j ∈ es.map (·.1)) :
    j ∈ endedLanes es ↔ causeOf es j = 0 := by
  induction es with
  | nil => exact absurd hj List.not_mem_nil
  | cons e r ih =>
    obtain ⟨new, rest⟩ := List.nodup_cons.mp hn
    unfold endedLanes causeOf at *
    by_cases same : e.1 = j
    · have later : j ∉ (r.filter fun e => e.2 = 0).map (·.1) := fun c => by
        obtain ⟨e', he', lane⟩ := List.mem_map.mp c
        exact new (List.mem_map.mpr ⟨e', (List.mem_filter.mp he').1, lane.trans same.symm⟩)
      by_cases zero : e.2 = 0
      · simp [same, zero]
      · rw [List.filter_cons_of_neg (by simpa using zero), List.find?_cons_of_pos (by simpa using same)]
        exact iff_of_false later zero
    · have hr : j ∈ r.map (·.1) := (List.mem_cons.mp hj).resolve_left (Ne.symm same)
      rw [List.find?_cons_of_neg (by simpa using same), ← ih rest hr]
      by_cases zero : e.2 = 0
      · simp [zero, Ne.symm same]
      · rw [List.filter_cons_of_neg (by simpa using zero)]

/-- The group with the destinations of a TXE written. -/
def txePut (f : XForm) (ls : List Nat) (es : List (Nat × DWord)) (y : Group) : Group :=
  match f.a with
  | .p n => pWrite (match f.d with | .v n => vPut y n.val false (maskOf ls) (causeOf es) | _ => y) n.val (maskOf ls) (maskOf (endedLanes es))
  | _ => match f.d with | .v n => vPut y n.val false (maskOf ls) (causeOf es) | _ => y

section Put
variable (f : XForm) (ls : List Nat) (es : List (Nat × DWord)) (y : Group)

theorem txePut_pc : (txePut f ls es y).pc = y.pc := by
  unfold txePut
  split <;> split <;> simp

theorem txePut_txn : (txePut f ls es y).txn = y.txn := by
  unfold txePut
  split <;> split <;> simp

theorem vRead_txePut {d : Fin 512} (hd : f.d = .v d) {j : Nat} (hj : j ∈ ls) (lt : j < 128) :
    vRead (txePut f ls es y) d.val j = (causeOf es j).setWidth 32 := by
  have put : vRead (vPut y d.val false (maskOf ls) (causeOf es)) d.val j = (causeOf es j).setWidth 32 := by
    rw [vRead_vPut _ _ _ _ _ _ _ lt, if_pos ⟨by rw [getLsbD_maskOf]; exact decide_eq_true ⟨lt, hj⟩, rfl⟩]
  unfold txePut
  rw [hd]
  split
  · rw [vRead_pWrite]
    exact put
  · exact put

theorem pRead_txePut {n : Fin 16} (hn : f.a = .p n) (h0 : n.val ≠ 0) {j : Nat} (hj : j ∈ ls) (lt : j < 128) :
    (pRead (txePut f ls es y) n.val).getLsbD j = decide (j ∈ endedLanes es) := by
  unfold txePut
  rw [hn]
  have lane : (maskOf ls).getLsbD j = true := by rw [getLsbD_maskOf]; exact decide_eq_true ⟨lt, hj⟩
  dsimp only
  rw [getLsbD_pRead_pWrite _ _ _ _ _ lt, if_pos ⟨rfl, h0, lane⟩, getLsbD_maskOf]
  simp [lt]

end Put

end Sys2Proof.Stated

namespace Sys2Proof.Proofs

open Sys2Proof Sys2Proof.Machine Sys2Proof.Stated

theorem txb_opens {s : State} {f : XForm} (hp : Passes s (xIssue f (xLen f) (topReg [(f.a, 1)]))) (h : Deepens s f) :
    let x := curGroup s
    let p := (groupSpace s s.cur).1
    let pt := getPart s p
    let seek := txbSeek s f
    let won := seek.find? (mayHold x.uid pt)
    ∃ t, exec (.txb f) s = .next t ∧ t.mem = s.mem ∧ t.stores = s.stores ∧ (curGroup t).pc = x.pc + BitVec.ofNat 64 (xLen f)
      ∧ (∀ j, txnOf t j = txbTxn s f won j)
      ∧ (getPart t p).tok = (match won with | some j => some (x.uid, j) | none => pt.tok)
      ∧ (getPart t p).tokQ = ((pt.tokQ ++ (seek.map fun j => (x.uid, j)).filter fun e => !pt.tokQ.contains e).filter
          fun e => decide (won.map (fun j => (x.uid, j)) ≠ some e))
      ∧ (getPart t p).resv = if won.isSome then none else pt.resv := by
  intro x p pt seek won
  obtain ⟨work, part, -⟩ := txbState_spec h
  have nodup : seek.Nodup := (nodup_lanes _).filter _
  obtain ⟨tok, queue, resv⟩ := foldl_seekPart x.uid s.gtc.toNat nodup pt
  refine ⟨retire (txbState s f) (curGroup (txbState s f)) (xIssue f (xLen f) (topReg [(f.a, 1)])) false none, execTxb_eq hp,
    ?_, ?_, ?_, fun j => (txnOf_retire ..).trans (txnOf_txbState h j), ?_, ?_, ?_⟩
  · unfold retire
    rw [setCur_mem, work.1]
  · unfold retire
    rw [setCur_stores, work.1]
  · rw [curGroup_retire_pc, work.pc]
    rfl
  · exact (congrArg Partition.tok part).trans tok
  · exact (congrArg Partition.tokQ part).trans queue
  · exact (congrArg Partition.resv part).trans resv

theorem txa_dooms {s : State} {f : XForm} (hp : Passes s (xIssue f (xLen f) none)) :
    let x := curGroup s
    ∃ t, exec (.txa f) s = .next t ∧ t.mem = s.mem ∧ (curGroup t).pc = x.pc + BitVec.ofNat 64 (xLen f)
      ∧ ∀ j, txnOf t j = if j ∈ lanes (live x f) then doomTxn (txnOf s j) 4 (opnd s x false f.a 0).toNat else txnOf s j := by
  intro x
  obtain ⟨only, txns⟩ := foldl_modTxn (nodup_lanes (live x f)) (s := s) (f := fun _ t => doomTxn t 4 (opnd s x false f.a 0).toNat)
    (step := fun t i => doomLane t t.cur i 4 (opnd s x false f.a 0).toNat) fun t i _ _ => rfl
  refine ⟨retire _ _ (xIssue f (xLen f) none) false none, issue_pass _ hp, ?_, ?_, fun j => (txnOf_retire ..).trans (txns j)⟩
  · unfold retire
    rw [setCur_mem, only.1]
  · rw [curGroup_retire_pc, only.tokenWork.pc]
    rfl

theorem txe_completes {s : State} {f : XForm} (hp : Passes s (xIssue f (xLen f) (topReg [(f.d, 1)]))) :
    let x := curGroup s
    let ls := lanes (live x f)
    let r := endLanes s s.cur ls
    let commits := ls.filter fun j => (txnOf s j).isOpen && (txnOf s j).depth = 1
    txePoison s s.cur ls = none → (commits.any fun j => commitBusy s (txnOf s j)) = false →
    ∃ t, exec (.txe f) s = .next t ∧ t.mem = r.1.mem ∧ t.homes = r.1.homes
      ∧ (curGroup t).pc = (curGroup r.1).pc + BitVec.ofNat 64 (xLen f) ∧ (curGroup t).txn = (curGroup r.1).txn
      ∧ (∀ d j, f.d = .v d → j ∈ ls → vRead (curGroup t) d.val j = (causeOf r.2 j).setWidth 32)
      ∧ (∀ n j, f.a = .p n → n.val ≠ 0 → j ∈ ls → (pRead (curGroup t) n.val).getLsbD j = decide (causeOf r.2 j = 0)) := by
  intro x ls r commits clean free
  have lt : ∀ {j}, j ∈ ls → j < 128 := fun hj => BitVec.lt_of_getLsbD ((mem_lanes _ _).mp hj)
  have each : r.2.map (·.1) = ls := endLanes_lanes s s.cur ls
  have e : exec (.txe f) s = .next (retire { r.1 with fills := r.1.fills.filter fun e => e.2.1 ≠ fillTxe x.uid }
      (txePut f ls r.2 (curGroup r.1)) (xIssue f (xLen f) (topReg [(f.d, 1)])) true
      (pushVals { r.1 with fills := r.1.fills.filter fun e => e.2.1 ≠ fillTxe x.uid } x { f with sup := true, d := .unused } false false r.2)) := by
    change execTxe f s = _
    unfold execTxe
    dsimp only
    rw [issue_pass _ hp, if_neg (by rw [Bool.not_eq_true]; exact free)]
    have clean' : txePoison s s.cur (lanes (live (curGroup s) f)) = none := clean
    rw [clean']
    rfl
  refine ⟨_, e, ?_, ?_, ?_, ?_, fun d j hd hj => ?_, fun n j hn h0 hj => ?_⟩
  · unfold retire
    rw [setCur_mem]
  · unfold retire
    rw [setCur_homes]
  · rw [curGroup_retire_pc, txePut_pc]
    rfl
  · unfold retire
    rw [curGroup_setCur, advance_txn, txePut_txn]
  · unfold retire
    rw [curGroup_setCur]
    exact vRead_txePut f ls r.2 _ hd hj (lt hj)
  · unfold retire
    rw [curGroup_setCur]
    refine (pRead_txePut f ls r.2 (curGroup r.1) hn h0 hj (lt hj)).trans (decide_eq_decide.mpr ?_)
    exact mem_endedLanes (each ▸ nodup_lanes _) (each ▸ hj)

end Sys2Proof.Proofs
end

section
/-! PROOFS. The end of one lane's transaction (R179, R182, R184). -/

namespace Sys2Proof.Stated

open Sys2Proof Sys2Proof.Machine

/-! ## Transactions closed -/

theorem mapFind_mapDel {α : Type} (m : AMap α) (k : Nat) : mapFind (mapDel m k) k = none := by
  induction m with
  | nil => rfl
  | cons e r ih =>
    unfold mapDel at *
    by_cases h : e.1 = k
    · rw [List.filter_cons_of_neg (by simp [h])]
      exact ih
    · rw [List.filter_cons_of_pos (by simp [h])]
      exact (if_neg h).trans ih

/-- A lane's transaction closed. -/
def closeTxn (s : State) (g j : Nat) : State := modGroup s g fun y => { y with txn := mapDel y.txn j }

theorem closeTxn_closed (s : State) (g j : Nat) : (mapGet ({} : Txn) (getGroup (closeTxn s g j) g).txn j).isOpen = false := by
  unfold closeTxn
  rw [getGroup_modGroup_same]
  unfold mapGet
  rw [mapFind_mapDel]
  rfl

/-! ## The token and the locks released (R182) -/

/-- The lock of a lane on one line released. -/
def unlockLine (who : Nat × Nat) (s : State) (l : Nat) : State :=
  if (getHome s l).lock = some who then setHome s l { getHome s l with lock := none } else s

theorem unlock_eq (s : State) (who : Nat × Nat) (ls : List Nat) : unlock s who ls = ls.foldl (unlockLine who) s := rfl

theorem lock_unlockLine (s : State) (who : Nat × Nat) (i l : Nat) :
    (getHome (unlockLine who s i) l).lock = if l = i ∧ (getHome s l).lock = some who then none else (getHome s l).lock := by
  unfold unlockLine
  by_cases same : l = i
  · subst same
    by_cases held : (getHome s l).lock = some who
    · rw [if_pos held, getHome_setHome_same]
      exact (if_pos ⟨rfl, held⟩).symm
    · rw [if_neg held]
      exact (if_neg fun c => held c.2).symm
  · refine Eq.trans ?_ (if_neg fun c => same c.1).symm
    by_cases held : (getHome s i).lock = some who
    · rw [if_pos held]
      exact congrArg HomeLine.lock (mapGet_mapSet_ne _ _ _ same)
    · rw [if_neg held]

theorem lock_unlock (s : State) (who : Nat × Nat) (ls : List Nat) (l : Nat) :
    (getHome (unlock s who ls) l).lock = if l ∈ ls ∧ (getHome s l).lock = some who then none else (getHome s l).lock := by
  rw [unlock_eq]
  induction ls generalizing s with
  | nil => simp
  | cons i r ih =>
    rw [List.foldl_cons, ih, lock_unlockLine]
    by_cases same : l = i <;> by_cases held : (getHome s l).lock = some who <;> simp [same, held]

theorem getHome_dropIrr (s : State) (p uid lane : Nat) (ls : List Nat) (l : Nat) :
    getHome (dropIrr s p uid lane ls) l = getHome (unlock s (uid, lane) ls) l := by
  unfold dropIrr
  dsimp only
  split <;> rfl

theorem lock_dropIrr (s : State) (p uid lane : Nat) {ls : List Nat} {l : Nat} (h : l ∈ ls) :
    (getHome (dropIrr s p uid lane ls) l).lock ≠ some (uid, lane) := by
  rw [getHome_dropIrr, lock_unlock]
  split
  · exact fun c => nomatch c
  · next c => exact fun held => c ⟨h, held⟩

theorem tok_dropIrr (s : State) (p uid lane : Nat) (ls : List Nat) : (getPart (dropIrr s p uid lane ls) p).tok ≠ some (uid, lane) := by
  unfold dropIrr
  dsimp only
  split
  · rw [passIrr, getPart_modPart_same]
    exact fun c => nomatch c
  · next c => exact c

/-! ## An irrevocable lane whose group has no store held (R159, R182) -/

theorem modWhere_none {α : Type} (l : List α) (f : α → α) : modWhere l (fun _ => false) f = l := by
  unfold modWhere
  exact (List.map_congr_left fun _ _ => if_neg Bool.false_ne_true).trans (List.map_id l)

theorem commitIrr_of_free {s : State} {g : Nat} {t : Txn} (h : ∀ l, l ∈ logLines t → heldOwn s (getGroup s g).uid l = []) :
    commitIrr s g t = applyCommit s g t.writes := by
  have free : ∀ e, e ∈ t.writes → heldOwn s (getGroup s g).uid e.1 = [] := fun e he =>
    h e.1 (List.mem_eraseDups.mpr (List.mem_map_of_mem (List.mem_append_right _ he)))
  have early : ∀ e, e ∈ t.writes → ((heldOwn s (getGroup s g).uid e.1).filter fun u =>
      (heldOwn s (getGroup s g).uid e.1).any fun v => u.id ≤ v.id && t.later.any fun d => d.1 = v.id) = [] := fun e he => by
    rw [free e he]
    rfl
  have written : (t.writes.map fun e => (e.1, heldView s ((heldOwn s (getGroup s g).uid e.1).filter fun u =>
      (heldOwn s (getGroup s g).uid e.1).any fun v => u.id ≤ v.id && t.later.any fun d => d.1 = v.id) t.later e.2)) = t.writes := by
    refine (List.map_congr_left fun e he => ?_).trans (List.map_id _)
    rw [early e he]
    rfl
  have stores : (t.writes.flatMap fun e => (heldOwn s (getGroup s g).uid e.1).filter fun u =>
      (heldOwn s (getGroup s g).uid e.1).any fun v => u.id ≤ v.id && t.later.any fun d => d.1 = v.id) = [] :=
    List.flatMap_eq_nil_iff.mpr early
  unfold commitIrr
  dsimp only
  rw [written, stores]
  dsimp only [List.any_nil, List.foldl_nil]
  rw [modWhere_none]

/-! ## One lane's TXE (R184) -/

section Ends
variable {s : State} {g j : Nat}

theorem endLane_closed (h : (mapGet ({} : Txn) (getGroup s g).txn j).isOpen = false) : endLane s g j = (s, 9) := by
  unfold endLane
  dsimp only
  rw [h]
  rfl

variable (o : (mapGet ({} : Txn) (getGroup s g).txn j).isOpen = true)
include o

theorem endLane_nested (d : 1 < (mapGet ({} : Txn) (getGroup s g).txn j).depth) :
    endLane s g j = (modTxn s g j fun u => { u with depth := u.depth - 1 }, 0) := by
  unfold endLane
  dsimp only
  rw [if_neg (by rw [o]; decide), if_pos d]

variable (d : (mapGet ({} : Txn) (getGroup s g).txn j).depth = 1)
include d

theorem endLane_outer {u : State} {c e : Nat} (r : commitLane s g j = (u, c, e)) :
    endLane s g j = (closeTxn u g j, BitVec.ofNat 64 (c + 256 * e)) := by
  unfold endLane
  dsimp only
  rw [if_neg (by rw [o]; decide), if_neg (by rw [d]; decide), r]
  rfl

theorem endLane_doomed {c e : Nat} (h : (mapGet ({} : Txn) (getGroup s g).txn j).doomed = some (c, e)) :
    endLane s g j = (closeTxn s g j, BitVec.ofNat 64 (c + 256 * e)) := by
  have r : commitLane s g j = (s, c, e) := by
    unfold commitLane
    dsimp only
    rw [h]
  exact endLane_outer o d r

variable (h : (mapGet ({} : Txn) (getGroup s g).txn j).doomed = none)
include h

theorem endLane_commit (i : (mapGet ({} : Txn) (getGroup s g).txn j).irr = false)
    (free : ∀ l, l ∈ logLines (mapGet ({} : Txn) (getGroup s g).txn j) → (getHome s l).lock = none)
    (valid : validate ((logLines (mapGet ({} : Txn) (getGroup s g).txn j)).foldl (readyLine g) s)
      (mapGet ({} : Txn) (getGroup s g).txn j).reads = none) :
    endLane s g j = (closeTxn (applyCommit ((logLines (mapGet ({} : Txn) (getGroup s g).txn j)).foldl (readyLine g) s) g
      (mapGet ({} : Txn) (getGroup s g).txn j).writes) g j, 0) := by
  have unlocked : ((logLines (mapGet ({} : Txn) (getGroup s g).txn j)).any fun l => (getHome s l).lock.isSome) = false :=
    List.any_eq_false.mpr fun l hl => by rw [free l hl]; decide
  have r : commitLane s g j = (applyCommit ((logLines (mapGet ({} : Txn) (getGroup s g).txn j)).foldl (readyLine g) s) g
      (mapGet ({} : Txn) (getGroup s g).txn j).writes, 0, 0) := by
    unfold commitLane
    dsimp only
    rw [h]
    dsimp only
    rw [i, if_neg Bool.false_ne_true, unlocked, if_neg Bool.false_ne_true, valid]
  exact endLane_outer o d r

theorem endLane_irr (i : (mapGet ({} : Txn) (getGroup s g).txn j).irr = true) :
    endLane s g j = (closeTxn (dropIrr (commitIrr s g (mapGet {} (getGroup s g).txn j)) (groupSpace s g).1 (getGroup s g).uid j
      (mapGet ({} : Txn) (getGroup s g).txn j).lines) g j, 0) := by
  have r : commitLane s g j = (dropIrr (commitIrr s g (mapGet {} (getGroup s g).txn j)) (groupSpace s g).1 (getGroup s g).uid j
      (mapGet ({} : Txn) (getGroup s g).txn j).lines, 0, 0) := by
    unfold commitLane
    dsimp only
    rw [h]
    dsimp only
    rw [i, if_pos rfl]
  exact endLane_outer o d r

end Ends

theorem lane_ends (s : State) (g j : Nat) :
    let t := mapGet ({} : Txn) (getGroup s g).txn j
    (t.isOpen = false → endLane s g j = (s, 9))
    ∧ (t.isOpen = true → 1 < t.depth → endLane s g j = (modTxn s g j fun u => { u with depth := u.depth - 1 }, 0))
    ∧ (t.isOpen = true → t.depth = 1 → ∀ c d, t.doomed = some (c, d) →
        endLane s g j = (modGroup s g fun y => { y with txn := mapDel y.txn j }, BitVec.ofNat 64 (c + 256 * d)))
    ∧ (t.isOpen = true → t.depth = 1 → t.doomed = none → t.irr = false →
        (∀ l, l ∈ logLines t → (getHome s l).lock = none) →
        let u := (logLines t).foldl (readyLine g) s
        validate u t.reads = none →
        endLane s g j = (modGroup (applyCommit u g t.writes) g fun y => { y with txn := mapDel y.txn j }, 0))
    ∧ (t.isOpen = true → t.depth = 1 → t.doomed = none → t.irr = true →
        let uid := (getGroup s g).uid
        let u := (endLane s g j).1
        (endLane s g j).2 = 0 ∧ (mapGet ({} : Txn) (getGroup u g).txn j).isOpen = false
          ∧ (∀ l, l ∈ t.lines → (getHome u l).lock ≠ some (uid, j)) ∧ (getPart u (groupSpace s g).1).tok ≠ some (uid, j)
          ∧ ((∀ l, l ∈ logLines t → heldOwn s uid l = []) →
            u = modGroup (dropIrr (applyCommit s g t.writes) (groupSpace s g).1 uid j t.lines) g fun y => { y with txn := mapDel y.txn j })) := by
  intro t
  refine ⟨endLane_closed, endLane_nested, fun o d c e => endLane_doomed o d, fun o d h i free => endLane_commit o d h i free,
    fun o d h i => ?_⟩
  dsimp only
  rw [endLane_irr o d h i]
  refine ⟨rfl, closeTxn_closed .., fun l hl => lock_dropIrr _ _ _ _ hl, fun c => tok_dropIrr _ _ _ _ _ c, fun free => ?_⟩
  rw [commitIrr_of_free free]
  rfl

end Sys2Proof.Stated
end

section
/-! PROOFS. The bytes of a commit stand in the next images of its lines (R179, R180). -/

namespace Sys2Proof.Stated

open Sys2Proof Sys2Proof.Machine

/-! ## Homes that are gone (R387, R395) stay the same in all work at homes -/

/-- The same homes are gone. -/
structure SameGone (s t : State) : Prop where
  gone : ∀ key, homeGone t key = homeGone s key

theorem SameGone.of_eq {s t : State} (hs : t.hub.stacksFailed = s.hub.stacksFailed) (hd : t.dies = s.dies) (hp : t.parts = s.parts) :
    SameGone s t := by
  refine ⟨fun key => ?_⟩
  have part : getPart t (keyPart key) = getPart s (keyPart key) := by rw [getPart, getPart, hp]
  have stack : homeStack t key = homeStack s key := by simp only [homeStack, part]
  have die : getDie t (homeDie t key) = getDie s (homeDie s key) := by simp only [homeDie, stack, getDie, hd]
  unfold homeGone
  rw [stack, die, hs]

theorem SameGone.refl (s : State) : SameGone s s := ⟨fun _ => rfl⟩

theorem SameGone.trans {s t u : State} (h : SameGone s t) (k : SameGone t u) : SameGone s u := ⟨fun key => (k.gone key).trans (h.gone key)⟩

/-- Work after a change of nothing that tells which homes are gone. -/
theorem SameGone.after {s s' t : State} (h : SameGone s' t) (hs : s'.hub.stacksFailed = s.hub.stacksFailed) (hd : s'.dies = s.dies)
    (hp : s'.parts = s.parts) : SameGone s t := (SameGone.of_eq hs hd hp).trans h

/-- Work before a change of nothing that tells which homes are gone. -/
theorem SameGone.before {s t t' : State} (h : SameGone s t) (hs : t'.hub.stacksFailed = t.hub.stacksFailed) (hd : t'.dies = t.dies)
    (hp : t'.parts = t.parts) : SameGone s t' := h.trans (.of_eq hs hd hp)

theorem SameGone.foldl {α : Type} {f : State → α → State} (h : ∀ s a, SameGone s (f s a)) (l : List α) (s : State) :
    SameGone s (l.foldl f s) :=
  List.foldlRecOn l f (motive := fun t : State => SameGone s t) (.refl s) fun t ht a _ => ht.trans (h t a)

theorem SameGone.modUid (s : State) (uid : Nat) (f : Group → Group) : SameGone s (modUid s uid f) := by
  unfold Machine.modUid
  split <;> exact .of_eq rfl rfl rfl

theorem SameGone.showBytes (s : State) (l : Nat) (b : AMap Byte) : SameGone s (showBytes s l b) := by
  unfold Machine.showBytes
  dsimp only
  split
  · exact .after (.foldl (fun s u => .modUid s u _) _ _) rfl rfl rfl
  · exact .of_eq rfl rfl rfl

theorem SameGone.makeVisible (s : State) (l : Nat) : SameGone s (makeVisible s l) := by
  unfold Machine.makeVisible
  dsimp only
  split
  · exact .refl s
  · exact .after (.before (.showBytes _ l _) rfl rfl rfl) rfl rfl rfl

theorem SameGone.settleN (s : State) (l n : Nat) : SameGone s (settleN s l n) := by
  induction n generalizing s with
  | zero => exact .refl s
  | succ n ih =>
    unfold Machine.settleN
    split
    · split
      · exact (SameGone.makeVisible s l).trans (ih _)
      · exact .refl s
    · exact .refl s

theorem SameGone.settle (s : State) (l : Nat) : SameGone s (settle s l) := .settleN s l _

theorem SameGone.countUe (s : State) (p : Nat) : SameGone s (countUe s p) :=
  SameGone.after (s' := { s with hub := { s.hub with ue := s.hub.ue + 1 } }) ⟨homeGone_modPart _ p fun _ => rfl⟩ rfl rfl rfl

theorem SameGone.homeWrite (s : State) (l : Nat) (b : AMap Byte) : SameGone s (homeWrite s l b) := by
  unfold Machine.homeWrite
  split
  · exact .countUe s _
  · dsimp only
    split
    · exact (SameGone.settle s l).trans (.before (.showBytes _ l b) rfl rfl rfl)
    · exact .before (.settle s l) rfl rfl rfl

theorem SameGone.setCopy (s : State) (h l : Nat) (c : Copy) : SameGone s (setCopy s h l c) := .of_eq rfl rfl rfl

theorem SameGone.unforward (s : State) (u l : Nat) (b : AMap Byte) : SameGone s (unforward s u l b) := by
  unfold Machine.unforward
  split
  · exact .refl s
  · split
    · exact .modUid s u _
    · exact .refl s

theorem SameGone.forward (s : State) (us : List Nat) (l : Nat) (b : AMap Byte) : SameGone s (forward s us l b) := by
  unfold Machine.forward
  split
  · exact .refl s
  · split
    · exact .refl s
    · exact .foldl (fun s u => .modUid s u _) us s

theorem SameGone.ownDone (s : State) (h l : Nat) (b : AMap Byte) : SameGone s (ownDone s h l b) := by
  unfold Machine.ownDone
  split
  · exact .refl s
  · split <;> exact .setCopy ..

theorem SameGone.ownWritten (s : State) (us : List Nat) (h l : Nat) (b : AMap Byte) : SameGone s (ownWritten s us h l b) := by
  unfold Machine.ownWritten Machine.ownAtomic
  refine (SameGone.foldl (fun s u => .unforward s u l b) us s).trans ?_
  dsimp only
  split
  · split
    · exact .refl _
    · exact .setCopy ..
  · exact .forward ..

theorem SameGone.storeWritten (s : State) (u h l : Nat) (b : AMap Byte) : SameGone s (storeWritten s u h l b) :=
  (SameGone.unforward s u l b).trans ((SameGone.ownDone _ h l b).trans (.forward ..))

theorem SameGone.performStore (s : State) (h : Nat) (t : PStore) : SameGone s (performStore s h t) := by
  unfold Machine.performStore
  dsimp only
  refine SameGone.trans (t := Machine.settle (Machine.reroute s (keyPart t.addr) t.vers) (lineOf t.addr))
    (SameGone.trans ⟨homeGone_reroute _ _ _⟩ (.settle ..)) ?_
  generalize Machine.settle (Machine.reroute s (keyPart t.addr) t.vers) (lineOf t.addr) = s
  have late : SameGone s (if t.life = (getDie s (storeDie t)).life then s else countLate s (storeDie t)) := by
    split
    · exact .refl s
    · exact ⟨homeGone_modPart s _ fun _ => rfl⟩
  refine late.trans ?_
  generalize (if t.life = (getDie s (storeDie t)).life then s else countLate s (storeDie t)) = s
  split
  · exact .of_eq rfl rfl rfl
  · refine (SameGone.homeWrite s (lineOf t.addr) (storeBytes s t)).trans ?_
    generalize Machine.homeWrite s (lineOf t.addr) (storeBytes s t) = u
    split
    · exact .after (.storeWritten ..) rfl rfl rfl
    · exact .after (.ownWritten ..) rfl rfl rfl

theorem SameGone.flushCore (s : State) (c l : Nat) : SameGone s (flushCore s c l) := by
  unfold Machine.flushCore
  split
  · exact .refl s
  · exact .foldl (fun s t => .performStore s _ t) _ s

theorem SameGone.addStore (s : State) (t : PStore) : SameGone s (addStore s t) := .of_eq rfl rfl rfl

theorem SameGone.sendGather (s : State) (c l : Nat) : SameGone s (sendGather s c l) := by
  unfold Machine.sendGather
  split
  · exact .refl s
  · exact .after (.foldl (fun s e => .addStore s _) _ _) rfl rfl rfl

theorem SameGone.combine (s : State) (l : Nat) : SameGone s (combine s l) := by
  unfold Machine.combine
  split
  · exact .refl s
  · exact .foldl (fun s c => (SameGone.sendGather s c l).trans (.flushCore _ c l)) _ s

theorem SameGone.flushOwn (s : State) (g key : Nat) : SameGone s (flushOwn s g key) := by
  unfold Machine.flushOwn
  exact (SameGone.foldl (fun s c => .sendGather s _ _) _ s).trans (.foldl (fun s c => .flushCore s c _) _ _)

theorem SameGone.readyLine (g : Nat) (s : State) (l : Nat) : SameGone s (readyLine g s l) :=
  (SameGone.sendGather s (slotCore g) l).trans <| (SameGone.flushOwn _ g _).trans <| (SameGone.flushCore _ _ _).trans <|
    (SameGone.combine _ l).trans (.settle _ l)

/-! ## The bytes of images -/

/-- Memory and the images that wait are the same. -/
structure SameImages (s t : State) : Prop where
  mem : t.mem = s.mem
  next : ∀ l, (getHome t l).next = (getHome s l).next

theorem SameImages.refl (s : State) : SameImages s s := ⟨rfl, fun _ => rfl⟩

theorem SameImages.trans {s t u : State} (h : SameImages s t) (k : SameImages t u) : SameImages s u :=
  ⟨k.mem.trans h.mem, fun l => (k.next l).trans (h.next l)⟩

theorem SameImages.foldl {α : Type} {f : State → α → State} (h : ∀ s a, SameImages s (f s a)) (l : List α) (s : State) :
    SameImages s (l.foldl f s) :=
  List.foldlRecOn l f (motive := fun t : State => SameImages s t) (.refl s) fun t ht a _ => ht.trans (h t a)

theorem SameImages.nextByte {s t : State} (h : SameImages s t) (key : Nat) : nextByte t key = nextByte s key := by
  unfold Machine.nextByte
  rw [h.next, h.mem]

theorem sameImages_fillWord (s : State) (id w : Nat) (b : AMap Byte) : SameImages s (fillWord s id w b) := by
  refine ⟨fillWord_mem s id w b, fun l => ?_⟩
  unfold fillWord cleanWord
  dsimp only
  split
  · rfl
  · split
    · rfl
    · by_cases e : l = lineOf w
      · subst e
        rw [getHome_setHome_same]
        rfl
      · exact congrArg HomeLine.next (mapGet_mapSet_ne _ _ _ e)

theorem sameImages_fill (s : State) (id l : Nat) (b : AMap Byte) : SameImages s (fill s id l b) :=
  .foldl (fun t w => sameImages_fillWord t id w b) _ s

theorem SameGone.fill (s : State) (id l : Nat) (b : AMap Byte) : SameGone s (fill s id l b) := by
  refine .foldl (fun t w => ?_) _ s
  unfold fillWord cleanWord
  dsimp only
  split
  · exact .of_eq rfl rfl rfl
  · split <;> exact .of_eq rfl rfl rfl

theorem sameImages_dropCopies (s : State) (g l : Nat) : SameImages s (dropCopies s g l) := by
  unfold dropCopies
  dsimp only
  split <;> exact ⟨rfl, fun _ => rfl⟩

theorem sameImages_doneStore (s : State) (g key : Nat) (va : DWord) (c : Nat) (sc : Sc) (b : Bool) :
    SameImages s (doneStore s g key va c sc b) := ⟨rfl, fun _ => rfl⟩

theorem sameImages_modGroup (s : State) (g : Nat) (f : Group → Group) : SameImages s (modGroup s g f) := ⟨rfl, fun _ => rfl⟩

theorem mapFind_of_mem {α : Type} {m : AMap α} (hn : (m.map (·.1)).Nodup) {e : Nat × α} (he : e ∈ m) : mapFind m e.1 = some e.2 := by
  induction m with
  | nil => cases he
  | cons d r ih =>
    obtain ⟨new, rest⟩ := List.nodup_cons.mp hn
    rcases List.mem_cons.mp he with rfl | he
    · exact if_pos rfl
    · have other : d.1 ≠ e.1 := fun c => new (List.mem_map.mpr ⟨e, he, c.symm⟩)
      exact (if_neg other).trans (ih rest he)

theorem mapFind_mapSet_same {α : Type} (m : AMap α) (k : Nat) (v : α) : mapFind (mapSet m k v) k = some v := by
  induction m with
  | nil => exact if_pos rfl
  | cons d r ih =>
    unfold mapSet
    split
    · exact if_pos rfl
    · split
      · exact if_pos rfl
      · next other => exact (if_neg (Ne.symm other)).trans ih

theorem mapFind_mapSet_ne {α : Type} (m : AMap α) {k j : Nat} (h : j ≠ k) (v : α) : mapFind (mapSet m k v) j = mapFind m j := by
  induction m with
  | nil => exact if_neg (Ne.symm h)
  | cons d r ih =>
    unfold mapSet
    split
    · exact if_neg (Ne.symm h)
    · split
      · next same =>
        subst same
        exact (if_neg (Ne.symm h)).trans (if_neg (Ne.symm h)).symm
      · unfold mapFind
        rw [ih]

/-- Bytes put over others are found where they were put. -/
theorem mapFind_putOver {new : AMap Byte} (hn : (new.map (·.1)).Nodup) (m : AMap Byte) {b : Nat × Byte} (hb : b ∈ new) :
    mapFind (putOver m new) b.1 = some b.2 := by
  induction new generalizing m with
  | nil => cases hb
  | cons d r ih =>
    obtain ⟨first, rest⟩ := List.nodup_cons.mp hn
    rcases List.mem_cons.mp hb with rfl | hb
    · exact List.foldlRecOn r _ (motive := fun t : AMap Byte => mapFind t b.1 = some b.2) (mapFind_mapSet_same m b.1 b.2)
        fun t ht e he => (mapFind_mapSet_ne t (fun c => first (List.mem_map.mpr ⟨e, he, c.symm⟩)) e.2).trans ht
    · exact ih rest _ hb

theorem putLast_eq (b : AMap Byte) (r : List (Nat × AMap Byte)) (e : Nat × AMap Byte) :
    putLast b (r ++ [e]) = r ++ [(e.1, putOver e.2 b)] := by
  induction r with
  | nil => rfl
  | cons d r ih =>
    cases r with
    | nil => rfl
    | cons d' r => exact congrArg (d :: ·) ih

/-! ## A commit's bytes (R179, R180) -/

/-- The bytes of one line stand in its next image. -/
def InImage (s : State) (e : Nat × AMap Byte) : Prop := ∀ b, b ∈ e.2 → nextByte s (128 * e.1 + b.1) = b.2

theorem SameImages.stands {s t : State} (h : SameImages s t) {e : Nat × AMap Byte} (k : InImage s e) : InImage t e :=
  fun b hb => (h.nextByte _).trans (k b hb)

theorem lineOf_offset {l o : Nat} (h : o < 128) : lineOf (128 * l + o) = l := by
  unfold lineOf
  omega

theorem nextByte_of_last {s : State} {l o t : Nat} {r : List (Nat × AMap Byte)} {m : AMap Byte} {v : Byte} (lt : o < 128)
    (h : (getHome s l).next = r ++ [(t, m)]) (hv : mapFind m o = some v) : nextByte s (128 * l + o) = v := by
  have off : (128 * l + o) % 128 = o := by omega
  unfold nextByte
  rw [lineOf_offset lt, off, h, List.reverse_append, List.reverse_singleton, List.singleton_append,
    List.findSome?_cons_of_isSome (by rw [hv]; rfl), hv]
  rfl

section Line
variable (s : State) (t : Nat) (e : Nat × AMap Byte)

theorem commitLine_stands (here : homeGone s (128 * e.1) = false) (hn : (e.2.map (·.1)).Nodup) (lt : ∀ b, b ∈ e.2 → b.1 < 128) :
    InImage (commitLine s t e) e := by
  intro b hb
  unfold commitLine
  dsimp only
  rw [here, if_neg Bool.false_ne_true]
  by_cases wait : lastVisible (getHome s e.1) = some t
  · obtain ⟨last, hl, -⟩ := Option.map_eq_some_iff.mp wait
    obtain ⟨r, hr⟩ := List.getLast?_eq_some_iff.mp hl
    refine nextByte_of_last (r := r) (t := last.1) (m := putOver last.2 e.2) (lt b hb) ?_ (mapFind_putOver hn _ hb)
    rw [getHome_setHome_same, if_pos wait, hr]
    exact putLast_eq e.2 r last
  · refine nextByte_of_last (r := (getHome s e.1).next) (t := t) (m := e.2) (lt b hb) ?_ (mapFind_of_mem hn hb)
    rw [getHome_setHome_same, if_neg wait]

theorem commitLine_other {d : Nat × AMap Byte} (other : d.1 ≠ e.1) (lt : ∀ b, b ∈ d.2 → b.1 < 128) (h : InImage s d) :
    InImage (commitLine s t e) d := by
  intro b hb
  rw [← h b hb]
  unfold commitLine
  dsimp only
  split
  · rfl
  · unfold nextByte
    rw [lineOf_offset (lt b hb)]
    rw [show getHome (setHome s e.1 _) d.1 = getHome s d.1 from mapGet_mapSet_ne _ _ _ other]
    rfl

theorem SameGone.commitLine : SameGone s (commitLine s t e) := by
  unfold Machine.commitLine
  dsimp only
  split
  · exact .countUe s _
  · exact .of_eq rfl rfl rfl

end Line

/-- A write log that a commit can apply: each line once, its home there, and each of its bytes once. -/
def Applies (s : State) (ws : List (Nat × AMap Byte)) : Prop :=
  (ws.map (·.1)).Nodup ∧ ∀ e, e ∈ ws → homeGone s (128 * e.1) = false ∧ (e.2.map (·.1)).Nodup ∧ ∀ b, b ∈ e.2 → b.1 < 128

theorem Applies.of_sameGone {s t : State} {ws : List (Nat × AMap Byte)} (h : Applies s ws) (k : SameGone s t) : Applies t ws :=
  ⟨h.1, fun e he => by rw [k.gone]; exact h.2 e he⟩

/-- The lines of a write log put into their next images. -/
def commitLines (t : Nat) (id : State → Nat) (ws : List (Nat × AMap Byte)) (s : State) : State :=
  ws.foldl (fun s e => fill (commitLine s t e) (id s) e.1 e.2) s

theorem commitLines_kept {t : Nat} {id : State → Nat} {ws : List (Nat × AMap Byte)} {s : State} {d : Nat × AMap Byte}
    (other : d.1 ∉ ws.map (·.1))
    (lt : ∀ b, b ∈ d.2 → b.1 < 128) (h : InImage s d) : InImage (commitLines t id ws s) d :=
  List.foldlRecOn ws _ (motive := fun u : State => InImage u d) h fun u hu e he =>
    (sameImages_fill _ (id u) e.1 e.2).stands (commitLine_other u t e (fun c => other (List.mem_map.mpr ⟨e, he, c.symm⟩)) lt hu)

theorem commitLines_stands {t : Nat} {id : State → Nat} {ws : List (Nat × AMap Byte)} {s : State} (h : Applies s ws)
    {e : Nat × AMap Byte} (he : e ∈ ws) : InImage (commitLines t id ws s) e := by
  induction ws generalizing s with
  | nil => cases he
  | cons d r ih =>
    obtain ⟨lines, each⟩ := h
    obtain ⟨new, rest⟩ := List.nodup_cons.mp lines
    rcases List.mem_cons.mp he with rfl | he
    · obtain ⟨here, bytes, lt⟩ := each e (List.mem_cons_self ..)
      have first := (sameImages_fill _ (id s) e.1 e.2).stands (commitLine_stands s t e here bytes lt)
      exact commitLines_kept (ws := r) new lt first
    · refine ih (s := fill (commitLine s t d) (id s) d.1 d.2) ?_ he
      exact Applies.of_sameGone ⟨rest, fun e he => each e (List.mem_cons_of_mem _ he)⟩ ((SameGone.commitLine s t d).trans (.fill ..))

/-- The commit of one line, and of each, counted as a store that completes at a time; the caches' copies of the line are dropped. -/
def commitDone (g t : Nat) (s : State) (e : Nat × AMap Byte) : State := doneStore (dropCopies s g e.1) g (128 * e.1) 0 t .sys true
def commitsDone (g t : Nat) (ws : List (Nat × AMap Byte)) (s : State) : State := ws.foldl (commitDone g t) s

theorem sameImages_commitDone (g t : Nat) (s : State) (e : Nat × AMap Byte) : SameImages s (commitDone g t s e) :=
  (sameImages_dropCopies s g e.1).trans (sameImages_doneStore ..)

theorem sameImages_commitsDone (g t : Nat) (ws : List (Nat × AMap Byte)) (s : State) : SameImages s (commitsDone g t ws s) :=
  .foldl (sameImages_commitDone g t) ws s

/-- A commit at lines whose stores are performed, but for what it forwards to the group. -/
theorem applyCommit_eq (s : State) (g : Nat) (ws : List (Nat × AMap Byte)) :
    let u := (ws.map (·.1)).foldl (readyLine g) s
    let t := commitTime u (groupDie g) (ws.map (·.1))
    ∃ f, applyCommit s g ws = modGroup (commitsDone g t ws (commitLines t (fun s => fillTxe (getGroup s g).uid) ws u)) g f := by
  unfold applyCommit
  exact ⟨_, rfl⟩

theorem applyCommit_stands {s : State} (g : Nat) {ws : List (Nat × AMap Byte)} (h : Applies s ws) {e : Nat × AMap Byte} (he : e ∈ ws) :
    InImage (applyCommit s g ws) e := by
  have ready := h.of_sameGone (SameGone.foldl (fun t l => .readyLine g t l) (ws.map (·.1)) s)
  obtain ⟨f, eq⟩ := applyCommit_eq s g ws
  rw [eq]
  exact ((sameImages_commitsDone g _ ws _).trans (sameImages_modGroup _ g f)).stands (commitLines_stands ready he)

end Sys2Proof.Stated

namespace Sys2Proof.Proofs

open Sys2Proof Sys2Proof.Machine Sys2Proof.Stated

/-- Settles O44: TXB by the search of its lanes for the token, TXE lane by lane, and the bytes of a commit by the work of its lines. -/
theorem transactionInstructions : Obligations.TransactionInstructions := by
  unfold Obligations.TransactionInstructions
  intro s f
  refine ⟨fun hp h => ?_, txa_dooms, txe_completes, lane_ends s, fun g ws lines each e b he hb => applyCommit_stands g ⟨lines, each⟩ he b hb⟩
  have opened := txb_opens hp h
  dsimp only at opened
  rw [find?_mayHold] at opened
  exact opened

end Sys2Proof.Proofs
end
